-- ==== Sys2Proof/Word.lean ====
section
/-! DEFINITION. The word types of the HK9 (spec/00_scope.md R1, spec/03_lane_train_state.md R50, R57). -/

namespace Sys2Proof

/-- A 32-bit register value (R50, R56). -/
abbrev Word := BitVec 32

/-- A 64-bit pair value (R26), an effective address (R78) or an instruction word (R71). -/
abbrev DWord := BitVec 64

/-- One byte of memory (R1). -/
abbrev Byte := BitVec 8

/-- One bit per lane of a train, bit `l` for lane `l` (R60). -/
abbrev LaneMask := BitVec 96

/-- Lanes of a train (R48). -/
abbrev numLanes : Nat := 96

end Sys2Proof
end

