-- ==== Sys2Proof/Machine/Cells.lean ====
section
/-! DEFINITION. Keyed data: tables (one entry a key, rising keys), and canonical byte memories in which no entry holds
what an unlisted address reads as. Both are plain lists. -/

namespace Sys2Proof.Machine

/-- A table: (key, value) pairs with strictly rising keys. -/
abbrev Tab (α : Type) := List (Nat × α)

/-- The entry at a key, if any. -/
def Tab.find {α : Type} : Tab α → Nat → Option α
  | [], _ => none
  | (k, v) :: t, n => if k == n then some v else if n < k then none else Tab.find t n

/-- The entry at a key, or the default. -/
def Tab.get {α : Type} (d : α) (t : Tab α) (n : Nat) : α := (Tab.find t n).getD d

/-- Sets the entry at a key. -/
def Tab.put {α : Type} : Tab α → Nat → α → Tab α
  | [], n, v => [(n, v)]
  | (k, w) :: t, n, v =>
    if k == n then (n, v) :: t else if n < k then (n, v) :: (k, w) :: t else (k, w) :: Tab.put t n v

/-- Removes the entry at a key. -/
def Tab.del {α : Type} : Tab α → Nat → Tab α
  | [], _ => []
  | (k, w) :: t, n => if k == n then t else if n < k then (k, w) :: t else (k, w) :: Tab.del t n

/-- Changes the entry at a key, if there is one. -/
def Tab.upd {α : Type} (t : Tab α) (n : Nat) (f : α → α) : Tab α :=
  match Tab.find t n with
  | some v => Tab.put t n (f v)
  | none => t

/-- A byte memory: (address, byte) pairs. -/
abbrev Bytes := List Host.Cell

/-- What an address that the memory does not list reads as (DESIGN CHOICE, log 1). -/
def unlistedByte : Byte := 0#8

/-- One byte of a memory. -/
def Bytes.read : Bytes → Nat → Byte
  | [], _ => unlistedByte
  | (k, v) :: t, n => if k == n then v else if n < k then unlistedByte else Bytes.read t n

/-- Puts one byte in front of a memory whose addresses are all larger, keeping the canonical form. -/
def Bytes.cons (n : Nat) (v : Byte) (t : Bytes) : Bytes := if v == unlistedByte then t else (n, v) :: t

/-- Writes one byte; the canonical form is kept. -/
def Bytes.write : Bytes → Nat → Byte → Bytes
  | [], n, v => Bytes.cons n v []
  | (k, w) :: t, n, v =>
    if k == n then Bytes.cons n v t else if n < k then Bytes.cons n v ((k, w) :: t) else (k, w) :: Bytes.write t n v

/-- Every address lies at or above a bound, addresses rise strictly, and no entry reads as an unlisted one. -/
def Bytes.wfFrom : Nat → Bytes → Bool
  | _, [] => true
  | lo, (k, v) :: t => decide (lo ≤ k) && (v != unlistedByte) && Bytes.wfFrom (k + 1) t

/-- The canonical form of a memory. -/
def Bytes.wf (m : Bytes) : Bool := Bytes.wfFrom 0 m

/-- The bytes of a range, lowest address first. -/
def Bytes.readList (m : Bytes) (a : Nat) : Nat → List Byte
  | 0 => []
  | n + 1 => Bytes.read m a :: Bytes.readList m (a + 1) n

/-- Writes bytes from an address upward. -/
def Bytes.writeList (m : Bytes) (a : Nat) : List Byte → Bytes
  | [] => m
  | b :: bs => Bytes.writeList (Bytes.write m a b) (a + 1) bs

/-- The number that bytes hold, the first the least significant (R1). -/
def leNat : List Byte → Nat
  | [] => 0
  | b :: bs => b.toNat + 256 * leNat bs

/-- A number as `n` bytes, the least significant first (R1). -/
def leBytes : Nat → Nat → List Byte
  | 0, _ => []
  | n + 1, x => BitVec.ofNat 8 x :: leBytes n (x / 256)

/-- The number in `n` bytes of a memory (R1). -/
def Bytes.readLE (m : Bytes) (a n : Nat) : Nat := leNat (Bytes.readList m a n)

/-- Writes a number as `n` bytes (R1). -/
def Bytes.writeLE (m : Bytes) (a n x : Nat) : Bytes := Bytes.writeList m a (leBytes n x)

/-- Replaces entry `i` of a list; a position beyond the end changes nothing. -/
def listSet {α : Type} : List α → Nat → α → List α
  | [], _, _ => []
  | _ :: t, 0, v => v :: t
  | x :: t, i + 1, v => x :: listSet t i v

/-- Inserts into a list kept in rising order of a key; equal keys keep the order of insertion. -/
def insertBy {α : Type} (key : α → Nat) (x : α) : List α → List α
  | [] => [x]
  | y :: t => if key x < key y then x :: y :: t else y :: insertBy key x t

/-- A stable sort by a key. -/
def sortBy {α : Type} (key : α → Nat) (l : List α) : List α := l.foldl (fun acc x => insertBy key x acc) []

/-- Bits `[lo + n - 1 : lo]` of a number. -/
def bits (x lo n : Nat) : Nat := x / 2 ^ lo % 2 ^ n

/-- The signed value of the low `n` bits of a number. -/
def signed (x n : Nat) : Int :=
  let y := x % 2 ^ n
  if 2 * y < 2 ^ n then (y : Int) else (y : Int) - (2 ^ n : Nat)

/-- The low `n` bits of an integer, two's complement. -/
def wrapInt (x : Int) (n : Nat) : Nat := (x % ((2 ^ n : Nat) : Int)).toNat

end Sys2Proof.Machine
end

