-- ==== Sys2Proof/Syntax.lean ====
section
/-! DEFINITION. The abstract syntax: the nine body formats of Table 4.2 (spec/04_formats_opcode_map.md R71, R75), and one
constructor for each row of the opcode table. An instruction row carries the fields of its body; an event row carries
what names the train, unit or operation the event concerns, and what comes from outside the module. -/

namespace Sys2Proof

/-- The common head of a word (Table 4.1), less MAJOR, which the constructor names. -/
structure Head where
  /-- B, bit 63: the word ends its run. -/
  last : Bool
  /-- RATE, bits [62:60]. -/
  rate : BitVec 3
  deriving DecidableEq, Repr, Inhabited

/-- Format V3, the vector three-operand body, bit 51 down to bit 0 (Table 4.2). -/
structure FmtV3 where
  d : BitVec 9
  a : BitVec 9
  b : BitVec 9
  c : BitVec 9
  rnd : BitVec 3
  sat : BitVec 1
  neg : BitVec 3
  abs : BitVec 3
  minor : BitVec 3
  ty : BitVec 3
  deriving DecidableEq, Repr, Inhabited

/-- Format VI, the vector immediate body, bit 51 down to bit 0 (Table 4.2). -/
structure FmtVI where
  d : BitVec 9
  a : BitVec 9
  minor : BitVec 2
  imm : BitVec 32
  deriving DecidableEq, Repr, Inhabited

/-- Format S3, the scalar three-operand body, bit 51 down to bit 0 (Table 4.2). -/
structure FmtS3 where
  d : BitVec 7
  a : BitVec 7
  b : BitVec 7
  c : BitVec 7
  rnd : BitVec 3
  sat : BitVec 1
  minor : BitVec 6
  ty : BitVec 3
  res : BitVec 11
  deriving DecidableEq, Repr, Inhabited

/-- Format SI, the scalar immediate body, bit 51 down to bit 0 (Table 4.2). -/
structure FmtSI where
  d : BitVec 7
  a : BitVec 7
  minor : BitVec 6
  imm : BitVec 32
  deriving DecidableEq, Repr, Inhabited

/-- Format M, the memory body, bit 51 down to bit 0 (Table 4.2). -/
structure FmtM where
  d : BitVec 9
  base : BitVec 7
  ofs : BitVec 9
  size : BitVec 3
  space : BitVec 2
  minor : BitVec 2
  disp : BitVec 20
  deriving DecidableEq, Repr, Inhabited

/-- Format MA, the atomic memory body, bit 51 down to bit 0 (Table 4.2). -/
structure FmtMA where
  d : BitVec 9
  base : BitVec 7
  ofs : BitVec 9
  src : BitVec 9
  op : BitVec 5
  width : BitVec 2
  disp : BitVec 11
  deriving DecidableEq, Repr, Inhabited

/-- Format C, the control body, bit 51 down to bit 0 (Table 4.2). -/
structure FmtC where
  cond : BitVec 4
  sa : BitVec 7
  minor : BitVec 9
  offset : BitVec 32
  deriving DecidableEq, Repr, Inhabited

/-- Format A, the engine body, bit 51 down to bit 0 (Table 4.2). -/
structure FmtA where
  tok : BitVec 7
  desc : BitVec 7
  desc2 : BitVec 7
  nb : BitVec 4
  arr : BitVec 1
  minor : BitVec 6
  imm : BitVec 20
  deriving DecidableEq, Repr, Inhabited

/-- Format X, the system body, bit 51 down to bit 0 (Table 4.2). -/
structure FmtX where
  minor : BitVec 8
  sa : BitVec 7
  sb : BitVec 7
  imm : BitVec 30
  deriving DecidableEq, Repr, Inhabited

/-- A unit that can be retired (R422). -/
inductive UnitId where
  /-- A module core, 0 to 223. -/
  | core (n : Nat)
  /-- A module slice, 0 to 223. -/
  | slice (n : Nat)
  /-- An HBM4 channel. -/
  | hbm (n : Nat)
  /-- LPDDR-6 memory (R404). -/
  | lpddr
  /-- The CXL devices of a port (R446). -/
  | cxl (port : Nat)
  deriving DecidableEq, Repr, Inhabited

/-- A link that checks its flits by CRC (R309, R447). -/
inductive LinkId where
  /-- A mesh or lateral link, by number. -/
  | mesh (n : Nat)
  /-- The vertical link under module core `n`. -/
  | vertical (n : Nat)
  /-- A fabric link, 0 to 17. -/
  | fabric (n : Nat)
  deriving DecidableEq, Repr, Inhabited

/-- What another module's fabric unit asks of this one (R448). -/
inductive FabricOp where
  /-- A read of some bytes in ascending order, for an FGET. -/
  | read (count : Nat)
  /-- A copy write of these bytes in ascending order. -/
  | write (bytes : List (BitVec 8))
  /-- A 32-bit atomic, by ATOM OP. -/
  | atom (op : Nat) (operand : BitVec 32)
  deriving DecidableEq, Repr, Inhabited

/-- A message of another module's fabric unit: what it asks, and the issuer's Lamport clock (R448). -/
structure FabricReq where
  op : FabricOp
  lam : Nat
  deriving DecidableEq, Repr, Inhabited

/-- What the module flash, the image devices and the resident kernel bring to a boot (R449, Table 26.6). -/
structure BootInput where
  /-- Step 2: the configuration record verifies. -/
  configOk : Bool
  /-- Digest of the configuration record. -/
  configDigest : BitVec 256
  /-- Serial number of the configuration record. -/
  serial : BitVec 128
  /-- The identity key of the configuration record: modulus and private exponent (R451). -/
  keyN : BitVec 3072
  keyD : BitVec 3072
  /-- Step 3: the image of root port 0 verifies. -/
  image0Ok : Bool
  /-- Step 3: the image of root port 1 verifies. -/
  image1Ok : Bool
  /-- Digest of the image that verified. -/
  imageDigest : BitVec 256
  /-- Step 4: the image loads. -/
  loadOk : Bool
  /-- Measurements of the resident kernel and of the queue-processor firmware. -/
  kernelDigest : BitVec 256
  firmwareDigest : BitVec 256
  /-- Step 5: what the resident kernel writes (Table 26.2). -/
  qtable : BitVec 64
  ctxtable : BitVec 64
  ctxcount : BitVec 32
  homewin : List Nat
  /-- The modules that the routing tables of the resident kernel reach (R447). -/
  routes : List Nat
  deriving DecidableEq, Repr, Inhabited

/-- One constructor for each row of the opcode table, in the table's order. -/
inductive Instr where
  /-- VADD (major 0x10, R95). -/
  | vadd (f : FmtV3)
  /-- VSUB (major 0x11, R95). -/
  | vsub (f : FmtV3)
  /-- VMUL (major 0x12, R95). -/
  | vmul (f : FmtV3)
  /-- VMULHI (major 0x13, R95). -/
  | vmulhi (f : FmtV3)
  /-- VMAD (major 0x14, R95). -/
  | vmad (f : FmtV3)
  /-- VMIN (major 0x15, R95). -/
  | vmin (f : FmtV3)
  /-- VMAX (major 0x16, R95). -/
  | vmax (f : FmtV3)
  /-- VABSD (major 0x17, R95). -/
  | vabsd (f : FmtV3)
  /-- VAND (major 0x18, R97). -/
  | vand (f : FmtV3)
  /-- VOR (major 0x19, R97). -/
  | vor (f : FmtV3)
  /-- VXOR (major 0x1A, R97). -/
  | vxor (f : FmtV3)
  /-- VSHL (major 0x1B, R98). -/
  | vshl (f : FmtV3)
  /-- VSHR (major 0x1C, R98). -/
  | vshr (f : FmtV3)
  /-- VROT (major 0x1D, R98). -/
  | vrot (f : FmtV3)
  /-- VFUN (major 0x1E, R99). -/
  | vfun (f : FmtV3)
  /-- VBFX (major 0x1F, R100). -/
  | vbfx (f : FmtV3)
  /-- VBFI (major 0x20, R101). -/
  | vbfi (f : FmtV3)
  /-- VCLZ (major 0x21, R102). -/
  | vclz (f : FmtV3)
  /-- VCTZ (major 0x22, R102). -/
  | vctz (f : FmtV3)
  /-- VFFS (major 0x23, R102). -/
  | vffs (f : FmtV3)
  /-- VPOPC (major 0x24, R102). -/
  | vpopc (f : FmtV3)
  /-- VBREV (major 0x25, R102). -/
  | vbrev (f : FmtV3)
  /-- VCMP (major 0x26, R103). -/
  | vcmp (f : FmtV3)
  /-- VSEL (major 0x27, R104). -/
  | vsel (f : FmtV3)
  /-- VMOV (major 0x28, R105). -/
  | vmov (f : FmtV3)
  /-- VMOVI (major 0x29, R106). -/
  | vmovi (f : FmtVI)
  /-- VADDI (major 0x2A, R96). -/
  | vaddi (f : FmtVI)
  /-- VCVTI (major 0x2B, R107). -/
  | vcvti (f : FmtV3)
  /-- VBSINIT (major 0x2D, R110). -/
  | vbsinit (f : FmtV3)
  /-- VBSRD (major 0x2C, R111). -/
  | vbsrd (f : FmtV3)
  /-- SADD (major 0x30, R113). -/
  | sadd (f : FmtS3)
  /-- SSUB (major 0x31, R113). -/
  | ssub (f : FmtS3)
  /-- SMUL (major 0x32, R113). -/
  | smul (f : FmtS3)
  /-- SMULHI (major 0x33, R113). -/
  | smulhi (f : FmtS3)
  /-- SAND (major 0x34, R113). -/
  | sand (f : FmtS3)
  /-- SOR (major 0x35, R113). -/
  | sor (f : FmtS3)
  /-- SXOR (major 0x36, R113). -/
  | sxor (f : FmtS3)
  /-- SSHL (major 0x37, R113). -/
  | sshl (f : FmtS3)
  /-- SSHR (major 0x38, R113). -/
  | sshr (f : FmtS3)
  /-- SBFX (major 0x39, R113). -/
  | sbfx (f : FmtS3)
  /-- SBFI (major 0x3A, R113). -/
  | sbfi (f : FmtS3)
  /-- SCLZ (major 0x3B, R113). -/
  | sclz (f : FmtS3)
  /-- SPOPC (major 0x3C, R113). -/
  | spopc (f : FmtS3)
  /-- SFFS (major 0x3D, R113). -/
  | sffs (f : FmtS3)
  /-- SMIN (major 0x3E, R113). -/
  | smin (f : FmtS3)
  /-- SMAX (major 0x3F, R113). -/
  | smax (f : FmtS3)
  /-- SCMP (major 0x40, R114). -/
  | scmp (f : FmtS3)
  /-- SMOV (major 0x41, R113). -/
  | smov (f : FmtS3)
  /-- SMOVI (major 0x42, R115). -/
  | smovi (f : FmtSI)
  /-- SADDI (major 0x43, R115). -/
  | saddi (f : FmtSI)
  /-- SSEL (major 0x44, R114). -/
  | ssel (f : FmtS3)
  /-- SMCNT (major 0x45, R116). -/
  | smcnt (f : FmtS3)
  /-- SMFIRST (major 0x46, R116). -/
  | smfirst (f : FmtS3)
  /-- VFADD (major 0x50, R123). -/
  | vfadd (f : FmtV3)
  /-- VFSUB (major 0x51, R123). -/
  | vfsub (f : FmtV3)
  /-- VFMUL (major 0x52, R123). -/
  | vfmul (f : FmtV3)
  /-- VFMA (major 0x53, R123). -/
  | vfma (f : FmtV3)
  /-- VFMIN (major 0x54, R124). -/
  | vfmin (f : FmtV3)
  /-- VFMAX (major 0x55, R124). -/
  | vfmax (f : FmtV3)
  /-- VFCMP (major 0x56, R125). -/
  | vfcmp (f : FmtV3)
  /-- VFCLASS (major 0x57, R126). -/
  | vfclass (f : FmtV3)
  /-- VFDIV (major 0x58, R127). -/
  | vfdiv (f : FmtV3)
  /-- VFSQRT (major 0x59, R127). -/
  | vfsqrt (f : FmtV3)
  /-- VFRCP (major 0x5A, R128). -/
  | vfrcp (f : FmtV3)
  /-- VFRSQ (major 0x5B, R128). -/
  | vfrsq (f : FmtV3)
  /-- VFEXP2 (major 0x5C, R128). -/
  | vfexp2 (f : FmtV3)
  /-- VFLOG2 (major 0x5D, R128). -/
  | vflog2 (f : FmtV3)
  /-- VFSIN (major 0x5E, R128). -/
  | vfsin (f : FmtV3)
  /-- VFCOS (major 0x5F, R128). -/
  | vfcos (f : FmtV3)
  /-- VFRND (major 0x60, R129). -/
  | vfrnd (f : FmtV3)
  /-- VFFRACT (major 0x61, R130). -/
  | vffract (f : FmtV3)
  /-- VFLDEXP (major 0x62, R131). -/
  | vfldexp (f : FmtV3)
  /-- VFCVT (major 0x63, R132). -/
  | vfcvt (f : FmtV3)
  /-- VCVTFI (major 0x64, R133). -/
  | vcvtfi (f : FmtV3)
  /-- VCVTIF (major 0x65, R134). -/
  | vcvtif (f : FmtV3)
  /-- VPACK (major 0x66, R136). -/
  | vpack (f : FmtV3)
  /-- VUNPK (major 0x67, R137). -/
  | vunpk (f : FmtV3)
  /-- VFDOT2 (major 0x68, R138). -/
  | vfdot2 (f : FmtV3)
  /-- VSHUF (major 0x70, R140). -/
  | vshuf (f : FmtV3)
  /-- VBCAST (major 0x71, R141). -/
  | vbcast (f : FmtV3)
  /-- VREDU (major 0x72, R142). -/
  | vredu (f : FmtV3)
  /-- VSCAN (major 0x73, R143). -/
  | vscan (f : FmtV3)
  /-- VXSHUF (major 0x74, R300). -/
  | vxshuf (f : FmtV3)
  /-- VDERIV (major 0x75, R175). -/
  | vderiv (f : FmtV3)
  /-- VINTERP (major 0x76, R176). -/
  | vinterp (f : FmtV3)
  /-- NOP (major 0x01, R148). -/
  | nop (f : FmtX)
  /-- BR (major 0x78, R149). -/
  | br (f : FmtC)
  /-- BRS (major 0x79, R149). -/
  | brs (f : FmtC)
  /-- BRV (major 0x7A, R151). -/
  | brv (f : FmtC)
  /-- BRM (major 0x7B, R149). -/
  | brm (f : FmtC)
  /-- CALL (major 0x7C, R150). -/
  | call (f : FmtC)
  /-- RET (major 0x7D, R150). -/
  | ret (f : FmtC)
  /-- JMPI (major 0x7E, R150). -/
  | jmpi (f : FmtC)
  /-- SJOIN (major 0x7F, R154). -/
  | sjoin (f : FmtC)
  /-- WAIT (major 0x80, R158). -/
  | wait (f : FmtC)
  /-- EXIT (major 0x81, R157). -/
  | exit (f : FmtC)
  /-- YIELD (major 0x82, R160). -/
  | yield (f : FmtC)
  /-- REGGROW (major 0x83, R161). -/
  | reggrow (f : FmtC)
  /-- REGTRIM (major 0x84, R163). -/
  | regtrim (f : FmtC)
  /-- KILLS (major 0x85, R164). -/
  | kills (f : FmtC)
  /-- EMITV (major 0x86, R165). -/
  | emitv (f : FmtC)
  /-- EMITP (major 0x87, R166). -/
  | emitp (f : FmtC)
  /-- FXREL (major 0x88, R173). -/
  | fxrel (f : FmtC)
  /-- TDEC (major 0x89, R178). -/
  | tdec (f : FmtC)
  /-- TINC (major 0x8A, R178). -/
  | tinc (f : FmtC)
  /-- LD (major 0x90, R202). -/
  | ld (f : FmtM)
  /-- ST (major 0x91, R203). -/
  | st (f : FmtM)
  /-- SLD (major 0x92, R204). -/
  | sld (f : FmtM)
  /-- SST (major 0x93, R204). -/
  | sst (f : FmtM)
  /-- ATOM (major 0x94, R207). -/
  | atom (f : FmtMA)
  /-- SATOM (major 0x96, R210). -/
  | satom (f : FmtMA)
  /-- ACALL (major 0x97, R291). -/
  | acall (f : FmtMA)
  /-- PREF (major 0x98, R211). -/
  | pref (f : FmtM)
  /-- LPIN (major 0x99, R212). -/
  | lpin (f : FmtM)
  /-- LUNPIN (major 0x9A, R213). -/
  | lunpin (f : FmtM)
  /-- BLST (major 0x9B, R277). -/
  | blst (f : FmtM)
  /-- STKPSH (major 0xBA, R275). -/
  | stkpsh (f : FmtM)
  /-- STKPOP (major 0xBB, R275). -/
  | stkpop (f : FmtM)
  /-- CPY (major 0xA0, R215). -/
  | cpy (f : FmtA)
  /-- CPYG (major 0xA1, R218). -/
  | cpyg (f : FmtA)
  /-- CPYS (major 0xA2, R218). -/
  | cpys (f : FmtA)
  /-- CPYR (major 0xA3, R219). -/
  | cpyr (f : FmtA)
  /-- CPYX (major 0xA4, R220). -/
  | cpyx (f : FmtA)
  /-- MDEC (major 0xA5, R259). -/
  | mdec (f : FmtA)
  /-- NBINIT (major 0xA6, R224). -/
  | nbinit (f : FmtA)
  /-- NBARR (major 0xA7, R225). -/
  | nbarr (f : FmtA)
  /-- NBWAIT (major 0xA8, R226). -/
  | nbwait (f : FmtA)
  /-- NBINV (major 0xA9, R228). -/
  | nbinv (f : FmtA)
  /-- TRACE (major 0xAA, R266). -/
  | trace (f : FmtA)
  /-- MMA (major 0xB0, R243). -/
  | mma (f : FmtA)
  /-- MZERO (major 0xB1, R249). -/
  | mzero (f : FmtA)
  /-- MLDA (major 0xB2, R250). -/
  | mlda (f : FmtA)
  /-- MSTA (major 0xB3, R250). -/
  | msta (f : FmtA)
  /-- MCVT (major 0xB4, R251). -/
  | mcvt (f : FmtA)
  /-- MQNT (major 0xB5, R252). -/
  | mqnt (f : FmtA)
  /-- BOXT (major 0xB8, R272). -/
  | boxt (f : FmtV3)
  /-- TRIT (major 0xB9, R274). -/
  | trit (f : FmtV3)
  /-- REGRP (major 0xBC, R276). -/
  | regrp (f : FmtA)
  /-- RINGOFF (major 0xBD, R303). -/
  | ringoff (f : FmtA)
  /-- RINGTAKE (major 0xBE, R304). -/
  | ringtake (f : FmtA)
  /-- RHIT (major 0xBF, R268). -/
  | rhit (f : FmtV3)
  /-- ARECV (major 0xC0, R294). -/
  | arecv (f : FmtA)
  /-- AREPLY (major 0xC1, R296). -/
  | areply (f : FmtA)
  /-- AFAIL (major 0xC2, R295). -/
  | afail (f : FmtA)
  /-- ESARR (major 0xC4, R324). -/
  | esarr (f : FmtSI)
  /-- ESWAIT (major 0xC5, R324). -/
  | eswait (f : FmtSI)
  /-- ESBAR (major 0xC6, R324). -/
  | esbar (f : FmtSI)
  /-- ESBCST (major 0xC7, R327). -/
  | esbcst (f : FmtSI)
  /-- ESRECV (major 0xC8, R328). -/
  | esrecv (f : FmtSI)
  /-- ESRED (major 0xC9, R324). -/
  | esred (f : FmtSI)
  /-- ESTICK (major 0xCA, R329). -/
  | estick (f : FmtSI)
  /-- TREC (major 0xCC, R439). -/
  | trec (f : FmtSI)
  /-- CLKRD (major 0xCD, R439). -/
  | clkrd (f : FmtSI)
  /-- BRK (major 0xCE, R410). -/
  | brk (f : FmtSI)
  /-- TRAP (major 0xE0, R410). -/
  | trap (f : FmtX)
  /-- SYSCALL (major 0xE1, R411). -/
  | syscall (f : FmtX)
  /-- MFSR (major 0xE2, R412). -/
  | mfsr (f : FmtX)
  /-- MTSR (major 0xE3, R412). -/
  | mtsr (f : FmtX)
  /-- ERET (major 0xE4, R413). -/
  | eret (f : FmtX)
  /-- FLTRD (major 0xE5, R414). -/
  | fltrd (f : FmtX)
  /-- TRESUME (major 0xE6, R415). -/
  | tresume (f : FmtX)
  /-- TKILL (major 0xE7, R415). -/
  | tkill (f : FmtX)
  /-- TSNAP (major 0xE8, R419). -/
  | tsnap (f : FmtX)
  /-- CTXSAVE (major 0xE9, R416). -/
  | ctxsave (f : FmtX)
  /-- CTXREST (major 0xEA, R418). -/
  | ctxrest (f : FmtX)
  /-- ESPRE (major 0xEB, R419). -/
  | espre (f : FmtX)
  /-- TLBINV (major 0xEC, R419). -/
  | tlbinv (f : FmtX)
  /-- HALTALL (major 0xED, R420). -/
  | haltall (f : FmtX)
  /-- SCHEDULER_PICK (event, R188). -/
  | schedulerPick (core sched : Nat)
  /-- SPLIT_MERGE (event, R61). -/
  | splitMerge (core slot : Nat)
  /-- JOIN_RELEASE (event, R155). -/
  | joinRelease (core slot : Nat)
  /-- YIELD_LIMIT (event, R160). -/
  | yieldLimit (core slot sid : Nat)
  /-- REGGROW_GRANT (event, R161). -/
  | reggrowGrant (core : Nat)
  /-- REGGROW_STARVATION (event, R162). -/
  | reggrowStarvation (core : Nat)
  /-- REGTRIM_COMPLETE (event, R163). -/
  | regtrimComplete (core slot sid : Nat)
  /-- TRAIN_END (event, R65). -/
  | trainEnd (core slot : Nat)
  /-- COMPUTE_PASS_START (event, R53). -/
  | computePassStart (core slot : Nat)
  /-- RUNG_SEQUENCER_SPAWN (event, R170). -/
  | rungSequencerSpawn (launch rung core : Nat)
  /-- FIXATIVE_REFILL_COMPLETE (event, R171). -/
  | fixativeRefillComplete (core rec : Nat)
  /-- RASTER_PRIMITIVE (event, R262). -/
  | rasterPrimitive (launch : Nat)
  /-- LOAD_VALUE_ARRIVAL (event, R198). -/
  | loadValueArrival (id : Nat)
  /-- SLICE_BATCH_APPLY (event, R314). -/
  | sliceBatchApply (line : Nat)
  /-- ATOMIC_REPLY (event, R348). -/
  | atomicReply (id : Nat)
  /-- PAGE_WALK_COMPLETE (event, R368). -/
  | pageWalkComplete (id : Nat)
  /-- TLB_INVALIDATION_COMPLETE (event, R372). -/
  | tlbInvalidationComplete (id : Nat)
  /-- COPY_COMPLETION (event, R221). -/
  | copyCompletion (id upTo : Nat)
  /-- MDEC_COMPLETION (event, R260). -/
  | mdecCompletion (id : Nat)
  /-- MATRIX_OP_COMPLETION (event, R234). -/
  | matrixOpCompletion (id : Nat)
  /-- NB_TOKEN_RELEASE (event, R223). -/
  | nbTokenRelease (wg bar : Nat)
  /-- NBARR_HELD_COUNT (event, R350). -/
  | nbarrHeldCount (core slot : Nat)
  /-- RAY_TRAIN_START (event, R265). -/
  | rayTrainStart (core launch : Nat)
  /-- RAY_RECORD_DELIVERY (event, R268). -/
  | rayRecordDelivery (id : Nat)
  /-- REGRP_SORT (event, R276). -/
  | regrpSort (core : Nat)
  /-- REGRP_WAIT_LIMIT (event, R276). -/
  | regrpWaitLimit (core : Nat)
  /-- RING_OFFER_WITHDRAWAL (event, R303). -/
  | ringOfferWithdrawal (core : Nat)
  /-- BLEND_APPLY (event, R279). -/
  | blendApply (id : Nat)
  /-- REGISTRATION_CLOSE (event, R279). -/
  | registrationClose (launch prim tx ty : Nat)
  /-- ACCORD_REQUEST_ARRIVAL (event, R289). -/
  | accordRequestArrival (id : Nat)
  /-- ACCORD_BATCH_DELIVERY (event, R294). -/
  | accordBatchDelivery (cluster : Nat)
  /-- ACCORD_REPLY_ARRIVAL (event, R298). -/
  | accordReplyArrival (id : Nat)
  /-- COMBINER_START (event, R390). -/
  | combinerStart (cluster : Nat)
  /-- COMBINER_SLOT_PASS (event, R390). -/
  | combinerSlotPass (cluster : Nat)
  /-- VXSHUF_PAIRING (event, R300). -/
  | vxshufPairing (first second : Nat)
  /-- VXSHUF_DELIVERY (event, R300). -/
  | vxshufDelivery (id : Nat)
  /-- SHUFFLE_TIMEOUT (event, R301). -/
  | shuffleTimeout (id : Nat)
  /-- ESCAPEMENT_TICK (event, R316). -/
  | escapementTick
  /-- ESCAPEMENT_ENTRY (event, R326). -/
  | escapementEntry (id : Nat)
  /-- ESCAPEMENT_RELEASE_DELIVERY (event, R320). -/
  | escapementReleaseDelivery (id : Nat)
  /-- ESCAPEMENT_BROADCAST_DELIVERY (event, R327). -/
  | escapementBroadcastDelivery (id : Nat)
  /-- ESCAPEMENT_UNCORRECTABLE_ERROR (event, R330). -/
  | escapementUncorrectableError (id : Nat)
  /-- ESCAPEMENT_SIGNAL_REPEAT (event, R330). -/
  | escapementSignalRepeat (id : Nat)
  /-- LINK_RETIREMENT (event, R309). -/
  | linkRetirement (link : LinkId)
  /-- CORRECTABLE_ERROR (event, R422). -/
  | correctableError (unit : UnitId)
  /-- UNIT_RETIREMENT (event, R422). -/
  | unitRetirement (unit : UnitId)
  /-- WATCHDOG (event, R403). -/
  | watchdog (core slot sid : Nat)
  /-- EVENT_DELIVERY (event, R413). -/
  | eventDelivery (ctx : Nat)
  /-- TRUNCATED_DUMP_CLOSE (event, R427). -/
  | truncatedDumpClose (ctx : Nat)
  /-- HALT_BROADCAST_ARRIVAL (event, R420). -/
  | haltBroadcastArrival
  /-- HALT_COMPLETE (event, R420). -/
  | haltComplete
  /-- CONTEXT_SAVE_EFFECT (event, R416). -/
  | contextSaveEffect (core slot : Nat)
  /-- SYSCALL_REPLY (event, R411). -/
  | syscallReply (id : Nat) (reply : BitVec 64)
  /-- FPUT (event, R448). -/
  | fput (id : Nat)
  /-- FGET (event, R448). -/
  | fget (id : Nat) (bytes : List (BitVec 8))
  /-- FATOM (event, R448). -/
  | fatom (id : Nat)
  /-- FABRIC_REPLY (event, R448). -/
  | fabricReply (id : Nat) (value status : BitVec 32)
  /-- TRACE_RECORD_APPEND (event, R436). -/
  | traceRecordAppend (ctx : Nat)
  /-- DOORBELL (event, R444). -/
  | doorbell (q : Nat)
  /-- QUEUE_PROCESSOR_STEP (event, R382). -/
  | queueProcessorStep
  /-- LAUNCH (event, R388). -/
  | launchPacket (q : Nat)
  /-- LAUNCH_INDIRECT (event, R391). -/
  | launchIndirect (q : Nat)
  /-- PROLOGUE_RERUN (event, R392). -/
  | prologueRerun (id : Nat)
  /-- PROLOGUE_WATCHDOG (event, R391). -/
  | prologueWatchdog (id : Nat)
  /-- TASK (event, R383). -/
  | taskPacket (q : Nat)
  /-- TDEC_PACKET (event, R178). -/
  | tdecPacket (q : Nat)
  /-- SIGNAL (event, R383). -/
  | signalPacket (q : Nat)
  /-- WAIT_MEMORY (event, R383). -/
  | waitMemory (id : Nat)
  /-- WAIT_MEMORY_TIMEOUT (event, R383). -/
  | waitMemoryTimeout (id : Nat)
  /-- COPY (event, R383). -/
  | copyPacket (q : Nat)
  /-- HANDOVER (event, R395). -/
  | handoverPacket (q : Nat)
  /-- PREEMPT_POINT (event, R397). -/
  | preemptPoint (q : Nat)
  /-- PACKET_COMPLETION (event, R380). -/
  | packetCompletion (id : Nat)
  /-- PACKET_BINDINGS_FIT (event, R388). -/
  | packetBindingsFit (id : Nat)
  /-- WORKGROUP_PLACEMENT (event, R389). -/
  | workgroupPlacement
  /-- AUTOMATIC_PREEMPTION (event, R397). -/
  | automaticPreemption (q : Nat)
  /-- PREEMPT_QUEUE (event, R397). -/
  | preemptQueue (q : Nat)
  /-- RESUME_QUEUE (event, R397). -/
  | resumeQueue (q : Nat)
  /-- PREEMPTION_SIGNAL_ARRIVAL (event, R398). -/
  | preemptionSignalArrival (wg : Nat)
  /-- DRAIN_BUDGET_EXPIRY (event, R398). -/
  | drainBudgetExpiry (wg : Nat)
  /-- WORKGROUP_SAVED (event, R398). -/
  | workgroupSaved (wg : Nat)
  /-- DISCARD_DONE (event, R398). -/
  | discardDone (wg : Nat)
  /-- KILL_CONTEXT (event, R399). -/
  | killContext (ctx : Nat)
  /-- KILL_DONE (event, R399). -/
  | killDone
  /-- HALT_RELEASE (event, R420). -/
  | haltRelease (ctx : Nat)
  /-- PROFCTL_CLR (event, R195). -/
  | profctlClr (core : Nat)
  /-- PROFCTL_EN (event, R195). -/
  | profctlEn (core : Nat) (on : Bool)
  /-- PROFILING_CAPTURE (event, R195). -/
  | profilingCapture (core slot number : Nat)
  /-- LEASE_WRITE (event, R341). -/
  | leaseWrite (ctx : Nat) (value : BitVec 32)
  /-- CQUOTA_WRITE (event, R375). -/
  | cquotaWrite (ctx : Nat) (value : BitVec 32)
  /-- BARERR_CLEAR (event, R228). -/
  | barerrClear (wg : Nat)
  /-- PINMISS_CLEAR (event, R374). -/
  | pinmissClear (ctx : Nat)
  /-- EVLOST_CLEAR (event, R406). -/
  | evlostClear (ctx : Nat)
  /-- TRACE_ENABLE (event, R435). -/
  | traceEnable (ctx : Nat) (value : BitVec 32)
  /-- TRPOS_CLEAR (event, R435). -/
  | trposClear (ctx : Nat)
  /-- TRLOST_CLEAR (event, R435). -/
  | trlostClear (ctx : Nat)
  /-- APERTURE_WRITE (event, R443). -/
  | apertureWrite (byHost : Bool) (offset : Nat) (value : BitVec 32)
  /-- HOST_CXL_MEM_ACCESS (event, R442). -/
  | hostCxlMemAccess (addr : Nat) (write : Option (List (BitVec 8))) (count : Nat)
  /-- QUOTE_REQUEST (event, R451). -/
  | quoteRequest
  /-- POWER_ON (event, R449). -/
  | powerOn (boot : BootInput)
  /-- HBM_TRAINING_COMPLETE (event, R450). -/
  | hbmTrainingComplete (retire : List Nat)
  /-- SELF_TEST_COMPLETE (event, R450). -/
  | selfTestComplete (test : Nat)
  /-- CXL_LINK_LOSS (event, R446). -/
  | cxlLinkLoss (port : Nat)
  /-- THERMAL_THROTTLE (event, R452). -/
  | thermalThrottle
  /-- THERMAL_SHUTDOWN (event, R452). -/
  | thermalShutdown
  /-- INSTRUCTION_FETCH_FILL (event, R187). -/
  | instructionFetchFill (core slot sid : Nat)
  /-- CTXREST_LOAD_COMPLETE (event, R418). -/
  | ctxrestLoadComplete (id : Nat)
  /-- UNCORRECTABLE_ERROR_FOUND (event, R422). -/
  | uncorrectableErrorFound (unit : UnitId)
  /-- LINK_FLIT_RETRY (event, R309). -/
  | linkFlitRetry (link : LinkId)
  /-- THERMAL_THROTTLE_END (event, R452). -/
  | thermalThrottleEnd
  /-- QUEUE_ENABLE (event, R444). -/
  | queueEnable (q : Nat) (ridx : Option (BitVec 32))
  /-- FABRIC_INBOUND_REQUEST (event, R448). -/
  | fabricInboundRequest (ctx : Nat) (addr : BitVec 64) (req : FabricReq)
  /-- CONTEXT_END (event, R213). -/
  | contextEnd (ctx : Nat)
  deriving DecidableEq, Repr, Inhabited

end Sys2Proof
end

