-- ==== Sys2Proof/Machine/Fields.lean ====
section
/-! DEFINITION. The field use of every instruction (spec/04_formats_opcode_map.md R75 to R84 and the field-use tables of
the instruction chapters): what may stand in each operand position, which registers the operands read and write, and the
legal TYPE, RND, SAT, NEG, ABS and immediate fields. These are the parts of check 4 of R85 that need nothing but the
word; the others stand in Machine/RunCheck.lean. -/

namespace Sys2Proof.Machine

/-- A register of a lane or of a train. -/
inductive Reg where
  /-- A vector register. -/
  | v (n : Nat)
  /-- A scalar register. -/
  | s (n : Nat)
  /-- A fixative register. -/
  | f (n : Nat)
  deriving DecidableEq, Repr, Inhabited

/-- What an operand position admits. A scalar field is given as the specifier 0x100 + n of Table 1.3. `n` counts the
registers of the operand: 1, 2 for an even pair, 4 for an aligned quad. -/
inductive Pos where
  /-- A field that must be zero (R75). -/
  | unused
  /-- Any source of R76. -/
  | src (n : Nat)
  /-- A v or f register destination (R76, R91). -/
  | dst (n : Nat)
  /-- A v register destination. -/
  | vdst (n : Nat)
  /-- A v register destination of replies, v0 dropping the whole reply (R208, R290); its old value is read too when the flag
  says so (`.cmpxchg`, Table 9.4). -/
  | vdstKeep (n : Nat) (keep : Bool)
  /-- The odd register of an even v pair is written (VMOVI.hi, R106). -/
  | vHigh
  /-- A v or f register that supplies store data (Table 9.3). -/
  | data (n : Nat)
  /-- A v register that supplies store data. -/
  | vdata (n : Nat)
  /-- A mask triple read (R55). -/
  | tripleS
  /-- A mask triple written (R55, R103). -/
  | tripleD
  /-- Scalar registers read. -/
  | scalarS (n : Nat)
  /-- Scalar registers written by R91. -/
  | scalarD (n : Nat)
  /-- A scalar destination of SATOM; the flag as for `vdstKeep`. -/
  | scalarDKeep (n : Nat) (keep : Bool)
  /-- A scalar register read and written (EMITV). -/
  | scalarSD
  /-- The odd register of an even scalar pair is written (SMOVI.hi, R115). -/
  | scalarHigh
  /-- The status register of REGGROW: s121 to s126 fault (R161), s120 by R63. -/
  | grow
  /-- A token register (R63). -/
  | token
  /-- A token register that may not be s0. -/
  | tokenNZ
  /-- An integer constant code in a range (Table 6.1). -/
  | konst (lo hi : Nat)
  /-- A scalar register or an integer constant (VBCAST, VXSHUF). -/
  | bcast
  /-- A v register, a scalar register or an integer constant (Table 9.4, R290). -/
  | msrc (n : Nat)
  /-- An f register (VINTERP). -/
  | fix
  /-- OFS of a class V major: 0x1C0, a v register or a scalar register (R78). -/
  | ofsV
  /-- OFS of a class T major: 0x1C0 or a scalar register (Table 4.12). -/
  | ofsT
  /-- `n` consecutive v registers read (Table 11.9, RHIT). -/
  | vblockS (n : Nat)
  /-- `n` consecutive v registers written (Table 11.9). -/
  | vblockD (n : Nat)
  /-- `n` consecutive v registers read, not from v0 (R266, AFAIL). -/
  | vblockNZ (n : Nat)
  /-- `n` consecutive v registers written later, not from v0 (R266). -/
  | vblockDNZ (n : Nat)
  /-- `n` consecutive v registers read, from an even one, not v0 (Table 14.2). -/
  | vblockSE (n : Nat)
  /-- `n` consecutive v registers written, from an even one, not v0 (Table 14.2). -/
  | vblockDE (n : Nat)
  /-- An even v pair read (R109). -/
  | vPair
  /-- A stream quad written (R109). -/
  | quadD
  /-- A stream quad read and written (R109). -/
  | quadSD
  /-- An even scalar or v pair (BOXT, TRIT root). -/
  | rootPair
  /-- The header quad of ARECV, s4 to s119 (Table 14.2). -/
  | headerD
  /-- The header quad of AREPLY. -/
  | headerS
  /-- The eight scalars of a format block (R238). -/
  | fmtBlock
  /-- An even scalar pair written, not s0 and not in s120 to s126 (R322, R409, R439). -/
  | pairDNZ
  /-- The destination of MFSR: not s0 and not in s121 to s126 (R409). -/
  | sysD
  /-- The handle register of a system major: not s0 (R409). -/
  | handle
  /-- sH of CTXREST: not s0 and not in s120 to s126 (R409). -/
  | handleD
  /-- s8 to s15 read and s8:s9 written (R411). -/
  | syscall
  deriving DecidableEq, Repr, Inhabited

/-- The consecutive registers from `n`. -/
def regsFrom (mk : Nat → Reg) (n : Nat) : Nat → List Reg
  | 0 => []
  | k + 1 => mk n :: regsFrom mk (n + 1) k

/-- A specifier names a v register. -/
def isV (c : Nat) : Bool := decide (c < 0x100)
/-- A specifier names a scalar register. -/
def isS (c : Nat) : Bool := decide (0x100 ≤ c) && decide (c < 0x180)
/-- A specifier names an f register. -/
def isF (c : Nat) : Bool := decide (0x180 ≤ c) && decide (c < 0x1C0)
/-- A specifier is an integer constant. -/
def isK (c : Nat) : Bool := decide (0x1C0 ≤ c) && decide (c < 0x1E0)

/-- Scalar registers `r` to `r + n - 1` may be written (R56): none is s121, s122 or s123. -/
def scalarWritable (r n : Nat) : Bool := decide (r + n ≤ 121) || decide (124 ≤ r)

/-- A register number fits an operand of `n` registers (R55). -/
def aligned (r n : Nat) : Bool := r % n == 0

/-- The code is legal in the position, the allotment of the train apart (R55, R56, R63, R76 and the tables). -/
def Pos.ok (p : Pos) (c : Nat) : Bool :=
  let r := c - 0x100
  match p with
  | .unused => c == 0
  | .src n => decide (c < 0x1F8) && (if isV c then aligned c n else if isS c then aligned r n else if isF c then n == 1 else true)
  | .dst n => (isV c && aligned c n) || (isF c && n == 1)
  | .vdst n | .vdstKeep n _ | .vdata n => isV c && aligned c n
  | .vHigh => isV c && aligned c 2
  | .data n => (isV c && aligned c n) || (isF c && n == 1)
  | .tripleS => isS c && aligned r 4
  | .tripleD => isS c && aligned r 4 && r != 120
  | .scalarS n => isS c && aligned r n
  | .scalarD n | .scalarDKeep n _ => isS c && aligned r n && scalarWritable r n
  | .scalarSD => isS c && scalarWritable r 1
  | .scalarHigh => isS c && aligned r 2 && scalarWritable (r + 1) 1
  | .grow | .token => isS c && (decide (r < 120) || r == 127)
  | .tokenNZ => isS c && (decide (r < 120) || r == 127) && r != 0
  | .konst lo hi => decide (0x1C0 + lo ≤ c) && decide (c ≤ 0x1C0 + hi)
  | .bcast => isS c || isK c
  | .msrc n => (isV c && aligned c n) || (isS c && aligned r n) || isK c
  | .fix => isF c
  | .ofsV => c == 0x1C0 || isV c || isS c
  | .ofsT => c == 0x1C0 || isS c
  | .vblockS n | .vblockD n => decide (c + n ≤ 256)
  | .vblockNZ n | .vblockDNZ n => c != 0 && decide (c + n ≤ 256)
  | .vblockSE n | .vblockDE n => c != 0 && c % 2 == 0 && decide (c + n ≤ 256)
  | .vPair => isV c && aligned c 2
  | .quadD | .quadSD => isV c && aligned c 4 && c != 0
  | .rootPair => (isV c && aligned c 2) || (isS c && aligned r 2)
  | .headerD | .headerS => isS c && aligned r 4 && decide (4 ≤ r) && decide (r ≤ 116)
  | .fmtBlock => isS c && aligned r 8 && decide (8 ≤ r) && decide (r ≤ 112)
  | .pairDNZ => isS c && aligned r 2 && r != 0 && (decide (r < 120) || r == 127)
  | .sysD => isS c && r != 0 && (decide (r ≤ 120) || r == 127)
  | .handle => isS c && r != 0
  | .handleD => isS c && r != 0 && (decide (r < 120) || r == 127)
  | .syscall => true

/-- The registers of `n` that a specifier names; constants and read-only codes name none. -/
def specRegs (c n : Nat) : List Reg :=
  if isV c then regsFrom .v c n else if isS c then regsFrom .s (c - 0x100) n
  else if isF c then regsFrom .f (c - 0x180) n else []

/-- The registers that the operand reads. -/
def Pos.reads (p : Pos) (c : Nat) : List Reg :=
  match p with
  | .src n | .data n | .vdata n | .scalarS n | .msrc n | .vblockS n | .vblockNZ n | .vblockSE n => specRegs c n
  | .vdstKeep n k | .scalarDKeep n k => if k then specRegs c n else []
  | .tripleS => specRegs c 3
  | .scalarSD | .bcast | .fix | .ofsV | .ofsT | .handle => specRegs c 1
  | .vPair | .rootPair => specRegs c 2
  | .quadSD | .headerS => specRegs c 4
  | .fmtBlock => specRegs c 8
  | .syscall => regsFrom .s 8 8
  | _ => []

/-- The registers that the operand writes, at issue or at completion. -/
def Pos.writes (p : Pos) (c : Nat) : List Reg :=
  match p with
  | .dst n | .vdst n | .scalarD n | .scalarDKeep n _ | .vblockD n | .vblockDE n => specRegs c n
  | .vdstKeep n _ => if c == 0 then [] else specRegs c n
  | .vHigh => [.v (c + 1)]
  | .scalarHigh => [.s (c - 0x100 + 1)]
  | .tripleD => specRegs c 3
  | .scalarSD | .grow | .token | .tokenNZ | .sysD | .handleD => specRegs c 1
  | .quadD | .quadSD | .headerD => specRegs c 4
  | .pairDNZ => specRegs c 2
  | .syscall => regsFrom .s 8 2
  | _ => []

/-- The highest v register that the operand names, for the allotment check of R54. -/
def Pos.topV (p : Pos) (c : Nat) : Option Nat :=
  let top (n : Nat) : Option Nat := if isV c then some (c + n - 1) else none
  match p with
  | .src n | .dst n | .vdst n | .vdstKeep n _ | .data n | .vdata n | .msrc n => top n
  | .vblockS n | .vblockD n | .vblockNZ n | .vblockDNZ n | .vblockSE n | .vblockDE n => top n
  | .vHigh | .vPair | .rootPair => top 2
  | .quadD | .quadSD => top 4
  | .ofsV => top 1
  | _ => none

/-- Registers of an integer operand by TYPE (R55). -/
def intW {n : Nat} (ty : BitVec n) : Nat := if 6 ≤ ty.toNat then 2 else 1
/-- Registers of a float operand by TYPE (R118). -/
def fltW {n : Nat} (ty : BitVec n) : Nat := if ty.toNat == 3 then 2 else 1
/-- Registers of a VREDU or VSCAN operand (R142). -/
def redW (f : FmtV3) : Nat := if 6 ≤ f.minor.toNat then fltW f.ty else intW f.ty
/-- Registers of a memory operand by SIZE (Table 4.4). -/
def sizeRegs (size : Nat) : Nat := if size == 3 then 2 else if size == 4 then 4 else 1
/-- Registers of an atomic operand by WIDTH (Table 4.4). -/
def widthRegs (width : Nat) : Nat := if width == 1 then 2 else 1
/-- The largest C of VPACK (Table 6.6). -/
def packMax (minor : Nat) : Nat := match minor with | 2 | 3 => 1 | 4 => 7 | _ => 0
/-- The largest C of VUNPK (Table 6.6). -/
def unpackMax (minor : Nat) : Nat := match minor with | 0 | 1 => 1 | 4 => 15 | _ => 3
/-- The pairs of Table 10.8 start at an even tile (R251). -/
def mcvtPairs (f : FmtA) : Bool :=
  (f.minor != 0 || bits f.imm.toNat 6 6 % 2 == 0) && (f.minor != 3 || bits f.imm.toNat 0 6 % 2 == 0)

/-- TYPE, RND, SAT, NEG and ABS of a V3 word: the legal types, whether RND and SAT are used, and the source positions
that admit modifiers (4 for A, 2 for B, 1 for C; R12, R77, R84). -/
def v3Rest (f : FmtV3) (types : List Nat) (rnd sat : Bool) (mods : Nat) : Bool :=
  decide (f.ty.toNat ∈ types) && (if rnd then f.rnd != 7 else f.rnd == 0) && (sat || f.sat == 0)
    && Nat.land f.neg.toNat (7 - mods) == 0 && Nat.land f.abs.toNat (7 - mods) == 0

/-- TYPE, RND, SAT and the reserved field of an S3 word (R94). -/
def s3Rest (f : FmtS3) (types : List Nat) (sat : Bool) : Bool :=
  decide (f.ty.toNat ∈ types) && f.rnd == 0 && (sat || f.sat == 0) && f.res == 0

/-- The operand positions of an instruction with their codes; an event has none. A of VUNPK.e2m1 is an even pair of registers: a constant
or a read-only code there is ILLEGAL-FIELD (DEDUCED, log 42). -/
def shape : Instr → List (Pos × Nat)
  | .vadd f => [(.dst (intW f.ty), f.d.toNat), (.src (intW f.ty), f.a.toNat), (.src (intW f.ty), f.b.toNat), (.unused, f.c.toNat)]
  | .vsub f => [(.dst (intW f.ty), f.d.toNat), (.src (intW f.ty), f.a.toNat), (.src (intW f.ty), f.b.toNat), (.unused, f.c.toNat)]
  | .vmul f => [(.dst (intW f.ty), f.d.toNat), (.src (intW f.ty), f.a.toNat), (.src (intW f.ty), f.b.toNat), (.unused, f.c.toNat)]
  | .vmulhi f => [(.dst (intW f.ty), f.d.toNat), (.src (intW f.ty), f.a.toNat), (.src (intW f.ty), f.b.toNat), (.unused, f.c.toNat)]
  | .vmad f => [(.dst (intW f.ty), f.d.toNat), (.src (intW f.ty), f.a.toNat), (.src (intW f.ty), f.b.toNat), (.src (intW f.ty), f.c.toNat)]
  | .vmin f => [(.dst (intW f.ty), f.d.toNat), (.src (intW f.ty), f.a.toNat), (.src (intW f.ty), f.b.toNat), (.unused, f.c.toNat)]
  | .vmax f => [(.dst (intW f.ty), f.d.toNat), (.src (intW f.ty), f.a.toNat), (.src (intW f.ty), f.b.toNat), (.unused, f.c.toNat)]
  | .vabsd f => [(.dst (intW f.ty), f.d.toNat), (.src (intW f.ty), f.a.toNat), (.src (intW f.ty), f.b.toNat), (.unused, f.c.toNat)]
  | .vand f => [(.dst (intW f.ty), f.d.toNat), (.src (intW f.ty), f.a.toNat), (.src (intW f.ty), f.b.toNat), (.unused, f.c.toNat)]
  | .vor f => [(.dst (intW f.ty), f.d.toNat), (.src (intW f.ty), f.a.toNat), (.src (intW f.ty), f.b.toNat), (.unused, f.c.toNat)]
  | .vxor f => [(.dst (intW f.ty), f.d.toNat), (.src (intW f.ty), f.a.toNat), (.src (intW f.ty), f.b.toNat), (.unused, f.c.toNat)]
  | .vshl f => [(.dst (intW f.ty), f.d.toNat), (.src (intW f.ty), f.a.toNat), (.src (intW f.ty), f.b.toNat), (.unused, f.c.toNat)]
  | .vshr f => [(.dst (intW f.ty), f.d.toNat), (.src (intW f.ty), f.a.toNat), (.src (intW f.ty), f.b.toNat), (.unused, f.c.toNat)]
  | .vrot f => [(.dst (intW f.ty), f.d.toNat), (.src (intW f.ty), f.a.toNat), (.src (intW f.ty), f.b.toNat), (.unused, f.c.toNat)]
  | .vfun f => [(.dst 1, f.d.toNat), (.src 1, f.a.toNat), (.src 1, f.b.toNat), (.src 1, f.c.toNat)]
  | .vbfx f => [(.dst (intW f.ty), f.d.toNat), (.src (intW f.ty), f.a.toNat), (.src (intW f.ty), f.b.toNat), (.src (intW f.ty), f.c.toNat)]
  | .vbfi f => [(.dst (intW f.ty), f.d.toNat), (.src (intW f.ty), f.a.toNat), (.src (intW f.ty), f.b.toNat), (.src (intW f.ty), f.c.toNat)]
  | .vclz f => [(.dst (intW f.ty), f.d.toNat), (.src (intW f.ty), f.a.toNat), (.unused, f.b.toNat), (.unused, f.c.toNat)]
  | .vctz f => [(.dst (intW f.ty), f.d.toNat), (.src (intW f.ty), f.a.toNat), (.unused, f.b.toNat), (.unused, f.c.toNat)]
  | .vffs f => [(.dst (intW f.ty), f.d.toNat), (.src (intW f.ty), f.a.toNat), (.unused, f.b.toNat), (.unused, f.c.toNat)]
  | .vpopc f => [(.dst (intW f.ty), f.d.toNat), (.src (intW f.ty), f.a.toNat), (.unused, f.b.toNat), (.unused, f.c.toNat)]
  | .vbrev f => [(.dst (intW f.ty), f.d.toNat), (.src (intW f.ty), f.a.toNat), (.unused, f.b.toNat), (.unused, f.c.toNat)]
  | .vcmp f => [(.tripleD, f.d.toNat), (.src (intW f.ty), f.a.toNat), (.src (intW f.ty), f.b.toNat), (.unused, f.c.toNat)]
  | .vsel f => [(.dst (intW f.ty), f.d.toNat), (.src (intW f.ty), f.a.toNat), (.src (intW f.ty), f.b.toNat), (.tripleS, f.c.toNat)]
  | .vmov f => [(.dst (intW f.ty), f.d.toNat), (.src (intW f.ty), f.a.toNat), (.unused, f.b.toNat), (.unused, f.c.toNat)]
  | .vmovi f => [(if f.minor == 0 then .dst 1 else .vHigh, f.d.toNat), (.unused, f.a.toNat)]
  | .vaddi f => [(.dst 1, f.d.toNat), (.src 1, f.a.toNat)]
  | .vcvti f => [(.dst (intW f.ty), f.d.toNat), (.src (intW f.minor), f.a.toNat), (.konst 0 3, f.b.toNat), (.unused, f.c.toNat)]
  | .vbsinit f => [(.quadD, f.d.toNat), (.vPair, f.a.toNat), (.src 1, f.b.toNat), (.unused, f.c.toNat)]
  | .vbsrd f => [(.dst 1, f.d.toNat), (.quadSD, f.a.toNat), (.src 1, f.b.toNat), (.vPair, f.c.toNat)]
  | .sadd f => [(.scalarD (intW f.ty), 0x100 + f.d.toNat), (.scalarS (intW f.ty), 0x100 + f.a.toNat), (.scalarS (intW f.ty), 0x100 + f.b.toNat), (.unused, f.c.toNat)]
  | .ssub f => [(.scalarD (intW f.ty), 0x100 + f.d.toNat), (.scalarS (intW f.ty), 0x100 + f.a.toNat), (.scalarS (intW f.ty), 0x100 + f.b.toNat), (.unused, f.c.toNat)]
  | .smul f => [(.scalarD (intW f.ty), 0x100 + f.d.toNat), (.scalarS (intW f.ty), 0x100 + f.a.toNat), (.scalarS (intW f.ty), 0x100 + f.b.toNat), (.unused, f.c.toNat)]
  | .smulhi f => [(.scalarD (intW f.ty), 0x100 + f.d.toNat), (.scalarS (intW f.ty), 0x100 + f.a.toNat), (.scalarS (intW f.ty), 0x100 + f.b.toNat), (.unused, f.c.toNat)]
  | .sand f => [(.scalarD (intW f.ty), 0x100 + f.d.toNat), (.scalarS (intW f.ty), 0x100 + f.a.toNat), (.scalarS (intW f.ty), 0x100 + f.b.toNat), (.unused, f.c.toNat)]
  | .sor f => [(.scalarD (intW f.ty), 0x100 + f.d.toNat), (.scalarS (intW f.ty), 0x100 + f.a.toNat), (.scalarS (intW f.ty), 0x100 + f.b.toNat), (.unused, f.c.toNat)]
  | .sxor f => [(.scalarD (intW f.ty), 0x100 + f.d.toNat), (.scalarS (intW f.ty), 0x100 + f.a.toNat), (.scalarS (intW f.ty), 0x100 + f.b.toNat), (.unused, f.c.toNat)]
  | .sshl f => [(.scalarD (intW f.ty), 0x100 + f.d.toNat), (.scalarS (intW f.ty), 0x100 + f.a.toNat), (.scalarS (intW f.ty), 0x100 + f.b.toNat), (.unused, f.c.toNat)]
  | .sshr f => [(.scalarD (intW f.ty), 0x100 + f.d.toNat), (.scalarS (intW f.ty), 0x100 + f.a.toNat), (.scalarS (intW f.ty), 0x100 + f.b.toNat), (.unused, f.c.toNat)]
  | .sbfx f => [(.scalarD (intW f.ty), 0x100 + f.d.toNat), (.scalarS (intW f.ty), 0x100 + f.a.toNat), (.scalarS (intW f.ty), 0x100 + f.b.toNat), (.scalarS (intW f.ty), 0x100 + f.c.toNat)]
  | .sbfi f => [(.scalarD (intW f.ty), 0x100 + f.d.toNat), (.scalarS (intW f.ty), 0x100 + f.a.toNat), (.scalarS (intW f.ty), 0x100 + f.b.toNat), (.scalarS (intW f.ty), 0x100 + f.c.toNat)]
  | .sclz f => [(.scalarD (intW f.ty), 0x100 + f.d.toNat), (.scalarS (intW f.ty), 0x100 + f.a.toNat), (.unused, f.b.toNat), (.unused, f.c.toNat)]
  | .spopc f => [(.scalarD (intW f.ty), 0x100 + f.d.toNat), (.scalarS (intW f.ty), 0x100 + f.a.toNat), (.unused, f.b.toNat), (.unused, f.c.toNat)]
  | .sffs f => [(.scalarD (intW f.ty), 0x100 + f.d.toNat), (.scalarS (intW f.ty), 0x100 + f.a.toNat), (.unused, f.b.toNat), (.unused, f.c.toNat)]
  | .smin f => [(.scalarD (intW f.ty), 0x100 + f.d.toNat), (.scalarS (intW f.ty), 0x100 + f.a.toNat), (.scalarS (intW f.ty), 0x100 + f.b.toNat), (.unused, f.c.toNat)]
  | .smax f => [(.scalarD (intW f.ty), 0x100 + f.d.toNat), (.scalarS (intW f.ty), 0x100 + f.a.toNat), (.scalarS (intW f.ty), 0x100 + f.b.toNat), (.unused, f.c.toNat)]
  | .scmp f => [(.scalarD 1, 0x100 + f.d.toNat), (.scalarS (intW f.ty), 0x100 + f.a.toNat), (.scalarS (intW f.ty), 0x100 + f.b.toNat), (.unused, f.c.toNat)]
  | .smov f => [(.scalarD (intW f.ty), 0x100 + f.d.toNat), (.scalarS (intW f.ty), 0x100 + f.a.toNat), (.unused, f.b.toNat), (.unused, f.c.toNat)]
  | .smovi f => [(if f.minor == 0 then .scalarD 1 else .scalarHigh, 0x100 + f.d.toNat), (.unused, f.a.toNat)]
  | .saddi f => [(.scalarD 1, 0x100 + f.d.toNat), (.scalarS 1, 0x100 + f.a.toNat)]
  | .ssel f => [(.scalarD (intW f.ty), 0x100 + f.d.toNat), (.scalarS (intW f.ty), 0x100 + f.a.toNat), (.scalarS (intW f.ty), 0x100 + f.b.toNat), (.scalarS 1, 0x100 + f.c.toNat)]
  | .smcnt f => [(.scalarD 1, 0x100 + f.d.toNat), (.tripleS, 0x100 + f.a.toNat), (.unused, f.b.toNat), (.unused, f.c.toNat)]
  | .smfirst f => [(.scalarD 1, 0x100 + f.d.toNat), (.tripleS, 0x100 + f.a.toNat), (.unused, f.b.toNat), (.unused, f.c.toNat)]
  | .vfadd f => [(.dst (fltW f.ty), f.d.toNat), (.src (fltW f.ty), f.a.toNat), (.src (fltW f.ty), f.b.toNat), (.unused, f.c.toNat)]
  | .vfsub f => [(.dst (fltW f.ty), f.d.toNat), (.src (fltW f.ty), f.a.toNat), (.src (fltW f.ty), f.b.toNat), (.unused, f.c.toNat)]
  | .vfmul f => [(.dst (fltW f.ty), f.d.toNat), (.src (fltW f.ty), f.a.toNat), (.src (fltW f.ty), f.b.toNat), (.unused, f.c.toNat)]
  | .vfma f => [(.dst (fltW f.ty), f.d.toNat), (.src (fltW f.ty), f.a.toNat), (.src (fltW f.ty), f.b.toNat), (.src (fltW f.ty), f.c.toNat)]
  | .vfmin f => [(.dst (fltW f.ty), f.d.toNat), (.src (fltW f.ty), f.a.toNat), (.src (fltW f.ty), f.b.toNat), (.unused, f.c.toNat)]
  | .vfmax f => [(.dst (fltW f.ty), f.d.toNat), (.src (fltW f.ty), f.a.toNat), (.src (fltW f.ty), f.b.toNat), (.unused, f.c.toNat)]
  | .vfcmp f => [(.tripleD, f.d.toNat), (.src (fltW f.ty), f.a.toNat), (.src (fltW f.ty), f.b.toNat), (.unused, f.c.toNat)]
  | .vfclass f => [(.dst 1, f.d.toNat), (.src (fltW f.ty), f.a.toNat), (.unused, f.b.toNat), (.unused, f.c.toNat)]
  | .vfdiv f => [(.dst (fltW f.ty), f.d.toNat), (.src (fltW f.ty), f.a.toNat), (.src (fltW f.ty), f.b.toNat), (.unused, f.c.toNat)]
  | .vfsqrt f => [(.dst (fltW f.ty), f.d.toNat), (.src (fltW f.ty), f.a.toNat), (.unused, f.b.toNat), (.unused, f.c.toNat)]
  | .vfrcp f => [(.dst 1, f.d.toNat), (.src 1, f.a.toNat), (.unused, f.b.toNat), (.unused, f.c.toNat)]
  | .vfrsq f => [(.dst 1, f.d.toNat), (.src 1, f.a.toNat), (.unused, f.b.toNat), (.unused, f.c.toNat)]
  | .vfexp2 f => [(.dst 1, f.d.toNat), (.src 1, f.a.toNat), (.unused, f.b.toNat), (.unused, f.c.toNat)]
  | .vflog2 f => [(.dst 1, f.d.toNat), (.src 1, f.a.toNat), (.unused, f.b.toNat), (.unused, f.c.toNat)]
  | .vfsin f => [(.dst 1, f.d.toNat), (.src 1, f.a.toNat), (.unused, f.b.toNat), (.unused, f.c.toNat)]
  | .vfcos f => [(.dst 1, f.d.toNat), (.src 1, f.a.toNat), (.unused, f.b.toNat), (.unused, f.c.toNat)]
  | .vfrnd f => [(.dst (fltW f.ty), f.d.toNat), (.src (fltW f.ty), f.a.toNat), (.unused, f.b.toNat), (.unused, f.c.toNat)]
  | .vffract f => [(.dst (fltW f.ty), f.d.toNat), (.src (fltW f.ty), f.a.toNat), (.unused, f.b.toNat), (.unused, f.c.toNat)]
  | .vfldexp f => [(.dst (fltW f.ty), f.d.toNat), (.src (fltW f.ty), f.a.toNat), (.src 1, f.b.toNat), (.unused, f.c.toNat)]
  | .vfcvt f => [(.dst (fltW f.ty), f.d.toNat), (.src (fltW f.minor), f.a.toNat), (.konst 0 3, f.b.toNat), (.unused, f.c.toNat)]
  | .vcvtfi f => [(.dst (intW f.ty), f.d.toNat), (.src (fltW f.minor), f.a.toNat), (.unused, f.b.toNat), (.unused, f.c.toNat)]
  | .vcvtif f => [(.dst (fltW f.ty), f.d.toNat), (.src (intW f.minor), f.a.toNat), (.unused, f.b.toNat), (.unused, f.c.toNat)]
  | .vpack f => [(.dst (if f.minor == 4 then 2 else 1), f.d.toNat), (.src 1, f.a.toNat), (.src 1, f.b.toNat), (.konst 0 (packMax f.minor.toNat), f.c.toNat)]
  | .vunpk f => [(.dst 1, f.d.toNat), (if f.minor == 4 then .rootPair else .src 1, f.a.toNat), (if f.minor == 4 then .src 1 else .unused, f.b.toNat), (.konst 0 (unpackMax f.minor.toNat), f.c.toNat)]
  | .vfdot2 f => [(.dst 1, f.d.toNat), (.src 1, f.a.toNat), (.src 1, f.b.toNat), (.src 1, f.c.toNat)]
  | .vshuf f => [(.dst (intW f.ty), f.d.toNat), (.src (intW f.ty), f.a.toNat), (.src 1, f.b.toNat), (.unused, f.c.toNat)]
  | .vbcast f => [(.dst (intW f.ty), f.d.toNat), (.src (intW f.ty), f.a.toNat), (.bcast, f.b.toNat), (.unused, f.c.toNat)]
  | .vredu f => [(.scalarD (redW f), f.d.toNat), (.src (redW f), f.a.toNat), (if f.minor == 7 then .konst 0 1 else .unused, f.b.toNat), (.unused, f.c.toNat)]
  | .vscan f => [(.dst (redW f), f.d.toNat), (.src (redW f), f.a.toNat), (if f.minor == 7 then .konst 0 1 else .unused, f.b.toNat), (.konst 0 1, f.c.toNat)]
  | .vxshuf f => [(.vdst (intW f.ty), f.d.toNat), (.src (intW f.ty), f.a.toNat), (.bcast, f.b.toNat), (.unused, f.c.toNat)]
  | .vderiv f => [(.dst 1, f.d.toNat), (.src 1, f.a.toNat), (.unused, f.b.toNat), (.unused, f.c.toNat)]
  | .vinterp f => [(.dst 1, f.d.toNat), (.fix, f.a.toNat), (.src 1, f.b.toNat), (.src 1, f.c.toNat)]
  | .nop f => [(.unused, f.sa.toNat), (.unused, f.sb.toNat)]
  | .br f => [(.unused, f.sa.toNat)]
  | .brs f => [(.scalarS 1, 0x100 + f.sa.toNat)]
  | .brv f => [(.tripleS, 0x100 + f.sa.toNat)]
  | .brm f => [(.tripleS, 0x100 + f.sa.toNat)]
  | .call f => [(.unused, f.sa.toNat), (.scalarD 1, 0x17F)]
  | .ret f => [(.unused, f.sa.toNat), (.scalarS 1, 0x17F)]
  | .jmpi f => [(.scalarS 1, 0x100 + f.sa.toNat)]
  | .sjoin f => [(.unused, f.sa.toNat)]
  | .wait f => [(.unused, f.sa.toNat)]
  | .exit f => [(.unused, f.sa.toNat)]
  | .yield f => [(.unused, f.sa.toNat)]
  | .reggrow f => [(.grow, 0x100 + f.sa.toNat)]
  | .regtrim f => [(.unused, f.sa.toNat)]
  | .kills f => [(.tripleS, 0x100 + f.sa.toNat)]
  | .emitv f => [(.scalarSD, 0x100 + f.sa.toNat)]
  | .emitp f => [(.scalarS 1, 0x100 + f.sa.toNat)]
  | .fxrel f => [(.unused, f.sa.toNat)]
  | .tdec f => [(.scalarS 2, 0x100 + f.sa.toNat)]
  | .tinc f => [(.scalarS 2, 0x100 + f.sa.toNat)]
  | .ld f => [(.dst (sizeRegs f.size.toNat), f.d.toNat), (.scalarS 2, 0x100 + f.base.toNat), (.ofsV, f.ofs.toNat)]
  | .st f => [(.data (sizeRegs f.size.toNat), f.d.toNat), (.scalarS 2, 0x100 + f.base.toNat), (.ofsV, f.ofs.toNat)]
  | .sld f => [(.scalarD (sizeRegs f.size.toNat), f.d.toNat), (.scalarS 2, 0x100 + f.base.toNat), (.ofsT, f.ofs.toNat)]
  | .sst f => [(.scalarS (sizeRegs f.size.toNat), f.d.toNat), (.scalarS 2, 0x100 + f.base.toNat), (.ofsT, f.ofs.toNat)]
  | .atom f => [(.vdstKeep (widthRegs f.width.toNat) (f.op == 8), f.d.toNat), (.scalarS 2, 0x100 + f.base.toNat), (.ofsV, f.ofs.toNat), (.msrc (widthRegs f.width.toNat), f.src.toNat)]
  | .satom f => [(.scalarDKeep (widthRegs f.width.toNat) (f.op == 8), f.d.toNat), (.scalarS 2, 0x100 + f.base.toNat), (.ofsT, f.ofs.toNat), (.scalarS (widthRegs f.width.toNat), f.src.toNat)]
  | .acall f => [(.vdstKeep (widthRegs f.width.toNat) false, f.d.toNat), (.scalarS 2, 0x100 + f.base.toNat), (.ofsV, f.ofs.toNat), (.msrc (widthRegs f.width.toNat), f.src.toNat)]
  | .pref f => [(.unused, f.d.toNat), (.scalarS 2, 0x100 + f.base.toNat), (.ofsT, f.ofs.toNat)]
  | .lpin f => [(.token, f.d.toNat), (.scalarS 2, 0x100 + f.base.toNat), (.ofsT, f.ofs.toNat)]
  | .lunpin f => [(.unused, f.d.toNat), (.scalarS 2, 0x100 + f.base.toNat), (.ofsT, f.ofs.toNat)]
  | .blst f => [(.vdata (sizeRegs f.size.toNat), f.d.toNat), (.scalarS 2, 0x100 + f.base.toNat), (.ofsV, f.ofs.toNat)]
  | .stkpsh f => [(.vdata (sizeRegs f.size.toNat), f.d.toNat), (.scalarS 2, 0x100 + f.base.toNat), (.ofsV, f.ofs.toNat)]
  | .stkpop f => [(.vdst (sizeRegs f.size.toNat), f.d.toNat), (.scalarS 2, 0x100 + f.base.toNat), (.ofsV, f.ofs.toNat)]
  | .cpy f => [(.token, 0x100 + f.tok.toNat), (.scalarS 2, 0x100 + f.desc.toNat), (.unused, f.desc2.toNat)]
  | .cpyg f => [(.token, 0x100 + f.tok.toNat), (.scalarS 2, 0x100 + f.desc.toNat), (.unused, f.desc2.toNat)]
  | .cpys f => [(.token, 0x100 + f.tok.toNat), (.scalarS 2, 0x100 + f.desc.toNat), (.unused, f.desc2.toNat)]
  | .cpyr f => [(.token, 0x100 + f.tok.toNat), (.scalarS 2, 0x100 + f.desc.toNat), (.unused, f.desc2.toNat)]
  | .cpyx f => [(.token, 0x100 + f.tok.toNat), (.scalarS 2, 0x100 + f.desc.toNat), (.unused, f.desc2.toNat)]
  | .mdec f => [(.token, 0x100 + f.tok.toNat), (.scalarS 2, 0x100 + f.desc.toNat), (.scalarS 2, 0x100 + f.desc2.toNat)]
  | .nbinit f => [(.unused, f.tok.toNat), (.unused, f.desc.toNat), (.unused, f.desc2.toNat)]
  | .nbarr f => [(.token, 0x100 + f.tok.toNat), (.unused, f.desc.toNat), (.unused, f.desc2.toNat)]
  | .nbwait f => [(.tokenNZ, 0x100 + f.tok.toNat), (.unused, f.desc.toNat), (.unused, f.desc2.toNat)]
  | .nbinv f => [(.unused, f.tok.toNat), (.unused, f.desc.toNat), (.unused, f.desc2.toNat)]
  | .trace f => [(.token, 0x100 + f.tok.toNat), (.scalarS 2, 0x100 + f.desc.toNat), (.unused, f.desc2.toNat), (.vblockNZ 9, bits f.imm.toNat 0 8), (.vblockDNZ 6, bits f.imm.toNat 8 8)]
  | .mma f => [(.token, 0x100 + f.tok.toNat), (.fmtBlock, 0x100 + f.desc.toNat), (.unused, f.desc2.toNat)]
  | .mzero f => [(.unused, f.tok.toNat), (.unused, f.desc.toNat), (.unused, f.desc2.toNat)]
  | .mlda f => [(.token, 0x100 + f.tok.toNat), (.scalarS 2, 0x100 + f.desc.toNat), (.scalarS 1, 0x100 + f.desc2.toNat)]
  | .msta f => [(.token, 0x100 + f.tok.toNat), (.scalarS 2, 0x100 + f.desc.toNat), (.scalarS 1, 0x100 + f.desc2.toNat)]
  | .mcvt f => [(.unused, f.tok.toNat), (.unused, f.desc.toNat), (.unused, f.desc2.toNat)]
  | .mqnt f => [(.token, 0x100 + f.tok.toNat), (.scalarS 2, 0x100 + f.desc.toNat), (if f.minor == 6 then .unused else .scalarS 2, if f.minor == 6 then f.desc2.toNat else 0x100 + f.desc2.toNat)]
  | .boxt f => [(.vblockD 17, f.d.toNat), (.vblockS 8, f.a.toNat), (.vblockS 1, f.b.toNat), (.rootPair, f.c.toNat)]
  | .trit f => [(.vblockD 5, f.d.toNat), (.vblockS 8, f.a.toNat), (.vblockS 1, f.b.toNat), (.rootPair, f.c.toNat)]
  | .regrp f => [(.unused, f.tok.toNat), (.unused, f.desc.toNat), (.unused, f.desc2.toNat), (.vblockS 1, bits f.imm.toNat 0 8)]
  | .ringoff f => [(.token, 0x100 + f.tok.toNat), (.unused, f.desc.toNat), (.unused, f.desc2.toNat)]
  | .ringtake f => [(.token, 0x100 + f.tok.toNat), (.unused, f.desc.toNat), (.unused, f.desc2.toNat)]
  | .rhit f => [(.unused, f.d.toNat), (.vblockS 6, f.a.toNat), (.unused, f.b.toNat), (.unused, f.c.toNat)]
  | .arecv f => [(.unused, f.tok.toNat), (.headerD, 0x100 + f.desc.toNat), (.unused, f.desc2.toNat), (.vblockDE 3, bits f.imm.toNat 0 8)]
  | .areply f => [(.unused, f.tok.toNat), (.headerS, 0x100 + f.desc.toNat), (.unused, f.desc2.toNat), (.vblockSE 3, bits f.imm.toNat 0 8)]
  | .afail f => [(.unused, f.tok.toNat), (.tripleS, 0x100 + f.desc.toNat), (.unused, f.desc2.toNat), (.vblockNZ 1, bits f.imm.toNat 0 8)]
  | .esarr f => [(.unused, f.d.toNat), (.unused, f.a.toNat)]
  | .eswait f => [(.tokenNZ, 0x100 + f.d.toNat), (.unused, f.a.toNat)]
  | .esbar f => [(.token, 0x100 + f.d.toNat), (.unused, f.a.toNat)]
  | .esbcst f => [(.unused, f.d.toNat), (.scalarS 2, 0x100 + f.a.toNat)]
  | .esrecv f => [(.pairDNZ, 0x100 + f.d.toNat), (.unused, f.a.toNat)]
  | .esred f => [(.pairDNZ, 0x100 + f.d.toNat), (.scalarS 2, 0x100 + f.a.toNat)]
  | .estick f => [(.pairDNZ, 0x100 + f.d.toNat), (.unused, f.a.toNat)]
  | .trec f => [(.unused, f.d.toNat), (.scalarS 2, 0x100 + f.a.toNat)]
  | .clkrd f => [(.pairDNZ, 0x100 + f.d.toNat), (.unused, f.a.toNat)]
  | .brk f => [(.unused, f.d.toNat), (.unused, f.a.toNat)]
  | .trap f => [(.unused, f.sa.toNat), (.unused, f.sb.toNat)]
  | .syscall f => [(.unused, f.sa.toNat), (.unused, f.sb.toNat), (.syscall, 0x108)]
  | .mfsr f => [(.sysD, 0x100 + f.sa.toNat), (.unused, f.sb.toNat)]
  | .mtsr f => [(.scalarS 1, 0x100 + f.sa.toNat), (.unused, f.sb.toNat)]
  | .eret f => [(.unused, f.sa.toNat), (.unused, f.sb.toNat)]
  | .fltrd f => [(.pairDNZ, 0x100 + f.sa.toNat), (.scalarS 1, 0x100 + f.sb.toNat)]
  | .tresume f => [(.handle, 0x100 + f.sa.toNat), (.unused, f.sb.toNat)]
  | .tkill f => [(.handle, 0x100 + f.sa.toNat), (.unused, f.sb.toNat)]
  | .tsnap f => [(.handle, 0x100 + f.sa.toNat), (.unused, f.sb.toNat)]
  | .ctxsave f => [(.scalarS 2, 0x100 + f.sa.toNat), (.handle, 0x100 + f.sb.toNat)]
  | .ctxrest f => [(.scalarS 2, 0x100 + f.sa.toNat), (.handleD, 0x100 + f.sb.toNat)]
  | .espre f => [(.scalarS 1, 0x100 + f.sa.toNat), (.unused, f.sb.toNat)]
  | .tlbinv f => [(.scalarS 2, 0x100 + f.sa.toNat), (.unused, f.sb.toNat)]
  | .haltall f => [(.unused, f.sa.toNat), (.unused, f.sb.toNat)]
  | .schedulerPick .. => []
  | .splitMerge .. => []
  | .joinRelease .. => []
  | .yieldLimit .. => []
  | .reggrowGrant .. => []
  | .reggrowStarvation .. => []
  | .regtrimComplete .. => []
  | .trainEnd .. => []
  | .computePassStart .. => []
  | .rungSequencerSpawn .. => []
  | .fixativeRefillComplete .. => []
  | .rasterPrimitive .. => []
  | .loadValueArrival .. => []
  | .sliceBatchApply .. => []
  | .atomicReply .. => []
  | .pageWalkComplete .. => []
  | .tlbInvalidationComplete .. => []
  | .copyCompletion .. => []
  | .mdecCompletion .. => []
  | .matrixOpCompletion .. => []
  | .nbTokenRelease .. => []
  | .nbarrHeldCount .. => []
  | .rayTrainStart .. => []
  | .rayRecordDelivery .. => []
  | .regrpSort .. => []
  | .regrpWaitLimit .. => []
  | .ringOfferWithdrawal .. => []
  | .blendApply .. => []
  | .registrationClose .. => []
  | .accordRequestArrival .. => []
  | .accordBatchDelivery .. => []
  | .accordReplyArrival .. => []
  | .combinerStart .. => []
  | .combinerSlotPass .. => []
  | .vxshufPairing .. => []
  | .vxshufDelivery .. => []
  | .shuffleTimeout .. => []
  | .escapementTick .. => []
  | .escapementEntry .. => []
  | .escapementReleaseDelivery .. => []
  | .escapementBroadcastDelivery .. => []
  | .escapementUncorrectableError .. => []
  | .escapementSignalRepeat .. => []
  | .linkRetirement .. => []
  | .correctableError .. => []
  | .unitRetirement .. => []
  | .watchdog .. => []
  | .eventDelivery .. => []
  | .truncatedDumpClose .. => []
  | .haltBroadcastArrival .. => []
  | .haltComplete .. => []
  | .contextSaveEffect .. => []
  | .syscallReply .. => []
  | .fput .. => []
  | .fget .. => []
  | .fatom .. => []
  | .fabricReply .. => []
  | .traceRecordAppend .. => []
  | .doorbell .. => []
  | .queueProcessorStep .. => []
  | .launchPacket .. => []
  | .launchIndirect .. => []
  | .prologueRerun .. => []
  | .prologueWatchdog .. => []
  | .taskPacket .. => []
  | .tdecPacket .. => []
  | .signalPacket .. => []
  | .waitMemory .. => []
  | .waitMemoryTimeout .. => []
  | .copyPacket .. => []
  | .handoverPacket .. => []
  | .preemptPoint .. => []
  | .packetCompletion .. => []
  | .packetBindingsFit .. => []
  | .workgroupPlacement .. => []
  | .automaticPreemption .. => []
  | .preemptQueue .. => []
  | .resumeQueue .. => []
  | .preemptionSignalArrival .. => []
  | .drainBudgetExpiry .. => []
  | .workgroupSaved .. => []
  | .discardDone .. => []
  | .killContext .. => []
  | .killDone .. => []
  | .haltRelease .. => []
  | .profctlClr .. => []
  | .profctlEn .. => []
  | .profilingCapture .. => []
  | .leaseWrite .. => []
  | .cquotaWrite .. => []
  | .barerrClear .. => []
  | .pinmissClear .. => []
  | .evlostClear .. => []
  | .traceEnable .. => []
  | .trposClear .. => []
  | .trlostClear .. => []
  | .apertureWrite .. => []
  | .hostCxlMemAccess .. => []
  | .quoteRequest .. => []
  | .powerOn .. => []
  | .hbmTrainingComplete .. => []
  | .selfTestComplete .. => []
  | .cxlLinkLoss .. => []
  | .thermalThrottle .. => []
  | .thermalShutdown .. => []
  | .instructionFetchFill .. => []
  | .ctxrestLoadComplete .. => []
  | .uncorrectableErrorFound .. => []
  | .linkFlitRetry .. => []
  | .thermalThrottleEnd .. => []
  | .queueEnable .. => []
  | .fabricInboundRequest .. => []
  | .contextEnd .. => []

/-- The fields of an instruction that are no operand positions. A nonzero NB with ARR 0 is ILLEGAL-FIELD in every major of format A that
counts an arrival (R229; for MDEC and the matrix majors DESIGN CHOICE, log 128). -/
def rest : Instr → Bool
  | .vadd f => v3Rest f [0, 1, 2, 3, 4, 5, 6, 7] false true 0
  | .vsub f => v3Rest f [0, 1, 2, 3, 4, 5, 6, 7] false true 0
  | .vmul f => v3Rest f [0, 1, 2, 3, 4, 5, 6, 7] false true 0
  | .vmulhi f => v3Rest f [0, 1, 2, 3, 4, 5, 6, 7] false false 0
  | .vmad f => v3Rest f [0, 1, 2, 3, 4, 5, 6, 7] false true 0
  | .vmin f => v3Rest f [0, 1, 2, 3, 4, 5, 6, 7] false false 0
  | .vmax f => v3Rest f [0, 1, 2, 3, 4, 5, 6, 7] false false 0
  | .vabsd f => v3Rest f [0, 1, 2, 3, 4, 5, 6, 7] false true 0
  | .vand f => v3Rest f [0, 1, 2, 3, 4, 5, 6, 7] false false 0
  | .vor f => v3Rest f [0, 1, 2, 3, 4, 5, 6, 7] false false 0
  | .vxor f => v3Rest f [0, 1, 2, 3, 4, 5, 6, 7] false false 0
  | .vshl f => v3Rest f [0, 1, 2, 3, 4, 5, 6, 7] false false 0
  | .vshr f => v3Rest f [0, 1, 2, 3, 4, 5, 6, 7] false false 0
  | .vrot f => v3Rest f [0, 1, 2, 3, 4, 5, 6, 7] false false 0
  | .vfun f => v3Rest f [0, 1] false false 0
  | .vbfx f => v3Rest f [0, 1, 6, 7] false false 0
  | .vbfi f => v3Rest f [0, 1, 6, 7] false false 0
  | .vclz f => v3Rest f [0, 1, 2, 3, 4, 5, 6, 7] false false 0
  | .vctz f => v3Rest f [0, 1, 2, 3, 4, 5, 6, 7] false false 0
  | .vffs f => v3Rest f [0, 1, 2, 3, 4, 5, 6, 7] false false 0
  | .vpopc f => v3Rest f [0, 1, 2, 3, 4, 5, 6, 7] false false 0
  | .vbrev f => v3Rest f [0, 1, 2, 3, 4, 5, 6, 7] false false 0
  | .vcmp f => v3Rest f [0, 1, 6, 7] false false 0
  | .vsel f => v3Rest f [0, 6] false false 0
  | .vmov f => v3Rest f [0, 6] false false 0
  | .vmovi _ => true
  | .vaddi _ => true
  | .vcvti f => v3Rest f [0, 1, 2, 3, 4, 5, 6, 7] false true 0
  | .vbsinit f => v3Rest f [0] false false 0
  | .vbsrd f => v3Rest f [0] false false 0
  | .sadd f => s3Rest f [0, 1, 2, 3, 4, 5, 6, 7] true
  | .ssub f => s3Rest f [0, 1, 2, 3, 4, 5, 6, 7] true
  | .smul f => s3Rest f [0, 1, 2, 3, 4, 5, 6, 7] true
  | .smulhi f => s3Rest f [0, 1, 2, 3, 4, 5, 6, 7] false
  | .sand f => s3Rest f [0, 1, 2, 3, 4, 5, 6, 7] false
  | .sor f => s3Rest f [0, 1, 2, 3, 4, 5, 6, 7] false
  | .sxor f => s3Rest f [0, 1, 2, 3, 4, 5, 6, 7] false
  | .sshl f => s3Rest f [0, 1, 2, 3, 4, 5, 6, 7] false
  | .sshr f => s3Rest f [0, 1, 2, 3, 4, 5, 6, 7] false
  | .sbfx f => s3Rest f [0, 1, 6, 7] false
  | .sbfi f => s3Rest f [0, 1, 6, 7] false
  | .sclz f => s3Rest f [0, 1, 2, 3, 4, 5, 6, 7] false
  | .spopc f => s3Rest f [0, 1, 2, 3, 4, 5, 6, 7] false
  | .sffs f => s3Rest f [0, 1, 2, 3, 4, 5, 6, 7] false
  | .smin f => s3Rest f [0, 1, 2, 3, 4, 5, 6, 7] false
  | .smax f => s3Rest f [0, 1, 2, 3, 4, 5, 6, 7] false
  | .scmp f => s3Rest f [0, 1, 6, 7] false
  | .smov f => s3Rest f [0, 6] false
  | .smovi _ => true
  | .saddi _ => true
  | .ssel f => s3Rest f [0, 6] false
  | .smcnt f => s3Rest f [0] false
  | .smfirst f => s3Rest f [0] false
  | .vfadd f => v3Rest f [0, 1, 2, 3] true true 6
  | .vfsub f => v3Rest f [0, 1, 2, 3] true true 6
  | .vfmul f => v3Rest f [0, 1, 2, 3] true true 6
  | .vfma f => v3Rest f [0, 1, 2, 3] true true 7
  | .vfmin f => v3Rest f [0, 1, 2, 3] false false 6
  | .vfmax f => v3Rest f [0, 1, 2, 3] false false 6
  | .vfcmp f => v3Rest f [0, 3] false false 6
  | .vfclass f => v3Rest f [0, 3] false false 0
  | .vfdiv f => v3Rest f [0, 3] true true 6
  | .vfsqrt f => v3Rest f [0, 3] true true 4
  | .vfrcp f => v3Rest f [0, 1] false true 4
  | .vfrsq f => v3Rest f [0, 1] false true 4
  | .vfexp2 f => v3Rest f [0, 1] false true 4
  | .vflog2 f => v3Rest f [0, 1] false true 4
  | .vfsin f => v3Rest f [0, 1] false true 4
  | .vfcos f => v3Rest f [0, 1] false true 4
  | .vfrnd f => v3Rest f [0, 1, 2, 3] true false 4
  | .vffract f => v3Rest f [0, 1, 2, 3] false false 4
  | .vfldexp f => v3Rest f [0, 3] true true 4
  | .vfcvt f => v3Rest f [0, 1, 2, 3, 4, 5] true true 4
  | .vcvtfi f => v3Rest f [0, 1, 6, 7] true true 4
  | .vcvtif f => v3Rest f [0, 3] true false 0
  | .vpack f => v3Rest f [0] true true 6
  | .vunpk f => v3Rest f [0] false false 0
  | .vfdot2 f => v3Rest f [1, 2] true true 7
  | .vshuf f => v3Rest f [0, 6] false false 0
  | .vbcast f => v3Rest f [0, 6] false false 0
  | .vredu f => v3Rest f (if 6 ≤ f.minor.toNat then [0, 1, 2, 3] else [0, 1, 2, 3, 4, 5, 6, 7]) (f.minor == 6) false (if 6 ≤ f.minor.toNat then 4 else 0)
  | .vscan f => v3Rest f (if 6 ≤ f.minor.toNat then [0, 1, 2, 3] else [0, 1, 2, 3, 4, 5, 6, 7]) (f.minor == 6) false (if 6 ≤ f.minor.toNat then 4 else 0)
  | .vxshuf f => f.minor == 0 && v3Rest f [0, 6] false false 0
  | .vderiv f => v3Rest f [0] false false 0
  | .vinterp f => v3Rest f [0] false false 0
  | .nop f => f.imm == 0
  | .br f => f.cond == 0
  | .brs f => decide (1 ≤ f.cond.toNat) && decide (f.cond.toNat ≤ 6)
  | .brv f => decide (f.cond.toNat ≤ 1)
  | .brm f => decide (f.cond.toNat ≤ 2)
  | .call f => f.cond == 0
  | .ret f => f.cond == 0 && f.offset == 0
  | .jmpi f => f.cond == 0 && f.offset == 0
  | .sjoin f => f.cond == 0 && f.offset == 0
  | .wait f => f.cond == 0 && f.offset.toNat / 2 ^ 24 == 0
  | .exit f => f.cond == 0 && f.offset == 0
  | .yield f => f.cond == 0 && f.offset == 0
  | .reggrow f => f.cond == 0 && decide (1 ≤ f.offset.toNat) && decide (f.offset.toNat ≤ 15)
  | .regtrim f => f.cond == 0 && decide (1 ≤ f.offset.toNat) && decide (f.offset.toNat ≤ 15)
  | .kills f => f.cond == 0 && f.offset == 0
  | .emitv f => f.cond == 0 && f.offset == 0
  | .emitp f => f.cond == 0 && f.offset == 0
  | .fxrel f => f.cond == 0 && f.offset == 0
  | .tdec f => f.cond == 0 && decide (1 ≤ f.offset.toNat) && decide (f.offset.toNat ≤ 65535)
  | .tinc f => f.cond == 0 && decide (1 ≤ f.offset.toNat) && decide (f.offset.toNat ≤ 65535)
  | .ld f => decide (f.size.toNat ≤ 6) && decide (f.space.toNat ≤ 2)
  | .st f => decide (f.size.toNat ≤ 4) && decide (f.space.toNat ≤ 2)
  | .sld f => decide (f.size.toNat ≤ 6) && decide (f.space.toNat ≤ 1)
  | .sst f => decide (f.size.toNat ≤ 4) && decide (f.space.toNat ≤ 1)
  | .atom f => decide (f.width.toNat ≤ 1)
  | .satom f => decide (f.width.toNat ≤ 1)
  | .acall f => decide (f.width.toNat ≤ 1)
  | .pref f => decide (f.size.toNat ≤ 6) && f.space == 0
  | .lpin f => decide (f.size.toNat ≤ 6) && f.space == 0
  | .lunpin f => decide (f.size.toNat ≤ 6) && f.space == 0
  | .blst f => (f.size == 2 || f.size == 3) && f.space == 0
  | .stkpsh f => (f.size == 2 || f.size == 3) && f.space == 1
  | .stkpop f => (f.size == 2 || f.size == 3) && f.space == 1
  | .cpy f => (f.arr == 1 || f.nb == 0) && f.imm == 0
  | .cpyg f => (f.arr == 1 || f.nb == 0) && f.imm == 0
  | .cpys f => (f.arr == 1 || f.nb == 0) && f.imm == 0
  | .cpyr f => (f.arr == 1 || f.nb == 0) && f.imm == 0
  | .cpyx f => (f.arr == 1 || f.nb == 0) && decide (f.imm.toNat < 256)
  | .mdec f => (f.arr == 1 || f.nb == 0) && f.imm == 0
  | .nbinit f => f.arr == 0 && decide (1 ≤ f.imm.toNat) && decide (f.imm.toNat ≤ 255)
  | .nbarr f => f.arr == 0 && f.imm == 0
  | .nbwait f => f.arr == 0 && f.imm == 0
  | .nbinv f => f.arr == 0 && f.imm == 0
  | .trace f => f.arr == 0 && f.nb == 0 && decide (f.imm.toNat < 65536)
  | .mma f => (f.arr == 1 || f.nb == 0) && decide (f.imm.toNat < 64)
  | .mzero f => f.minor == 0 && f.arr == 0 && f.nb == 0 && decide (f.imm.toNat < 64)
  | .mlda f => (f.arr == 1 || f.nb == 0) && decide (f.imm.toNat < 64)
  | .msta f => (f.arr == 1 || f.nb == 0) && decide (f.imm.toNat < 64)
  | .mcvt f => f.arr == 0 && f.nb == 0 && decide (f.imm.toNat < 65536) && bits f.imm.toNat 12 3 != 7 && mcvtPairs f
  | .mqnt f => (f.arr == 1 || f.nb == 0) && bits f.imm.toNat 6 6 == 0 && decide (f.imm.toNat < 65536) && bits f.imm.toNat 12 3 != 7
  | .boxt f => v3Rest f [0] false false 0
  | .trit f => v3Rest f [0] false false 0
  | .regrp f => f.arr == 0 && f.nb == 0 && decide (f.imm.toNat < 256)
  | .ringoff f => f.arr == 0 && f.nb == 0 && decide (f.imm.toNat < 64)
  | .ringtake f => f.arr == 0 && f.nb == 0 && decide (f.imm.toNat < 64)
  | .rhit f => v3Rest f [0] false false 0
  | .arecv f => f.arr == 0 && f.nb == 0 && decide (f.imm.toNat < 256)
  | .areply f => f.arr == 0 && f.nb == 0 && decide (f.imm.toNat < 256)
  | .afail f => f.arr == 0 && f.nb == 0 && decide (f.imm.toNat < 256)
  | .esarr f => decide (f.imm.toNat < 256)
  | .eswait f => decide (f.imm.toNat < 256)
  | .esbar f => decide (f.imm.toNat < 256)
  | .esbcst f => decide (f.imm.toNat < 256)
  | .esrecv f => decide (f.imm.toNat < 256)
  | .esred f => decide (f.imm.toNat < 256)
  | .estick f => f.imm == 0
  | .trec f => decide (f.imm.toNat < 65536)
  | .clkrd f => f.imm == 0
  | .brk f => decide (f.imm.toNat < 65536)
  | .trap f => decide (f.imm.toNat < 65536)
  | .syscall f => decide (f.imm.toNat < 65536)
  | .mfsr f => decide (f.imm.toNat < 4096)
  | .mtsr f => decide (f.imm.toNat < 4096)
  | .eret f => f.imm == 0
  | .fltrd f => f.imm == 0
  | .tresume f => f.imm == 0
  | .tkill f => f.imm == 0
  | .tsnap f => f.imm == 0
  | .ctxsave f => f.imm == 0
  | .ctxrest f => f.imm == 0
  | .espre f => f.imm == 0
  | .tlbinv f => decide (f.imm.toNat < 4)
  | .haltall f => f.imm == 0
  | .schedulerPick .. => true
  | .splitMerge .. => true
  | .joinRelease .. => true
  | .yieldLimit .. => true
  | .reggrowGrant .. => true
  | .reggrowStarvation .. => true
  | .regtrimComplete .. => true
  | .trainEnd .. => true
  | .computePassStart .. => true
  | .rungSequencerSpawn .. => true
  | .fixativeRefillComplete .. => true
  | .rasterPrimitive .. => true
  | .loadValueArrival .. => true
  | .sliceBatchApply .. => true
  | .atomicReply .. => true
  | .pageWalkComplete .. => true
  | .tlbInvalidationComplete .. => true
  | .copyCompletion .. => true
  | .mdecCompletion .. => true
  | .matrixOpCompletion .. => true
  | .nbTokenRelease .. => true
  | .nbarrHeldCount .. => true
  | .rayTrainStart .. => true
  | .rayRecordDelivery .. => true
  | .regrpSort .. => true
  | .regrpWaitLimit .. => true
  | .ringOfferWithdrawal .. => true
  | .blendApply .. => true
  | .registrationClose .. => true
  | .accordRequestArrival .. => true
  | .accordBatchDelivery .. => true
  | .accordReplyArrival .. => true
  | .combinerStart .. => true
  | .combinerSlotPass .. => true
  | .vxshufPairing .. => true
  | .vxshufDelivery .. => true
  | .shuffleTimeout .. => true
  | .escapementTick .. => true
  | .escapementEntry .. => true
  | .escapementReleaseDelivery .. => true
  | .escapementBroadcastDelivery .. => true
  | .escapementUncorrectableError .. => true
  | .escapementSignalRepeat .. => true
  | .linkRetirement .. => true
  | .correctableError .. => true
  | .unitRetirement .. => true
  | .watchdog .. => true
  | .eventDelivery .. => true
  | .truncatedDumpClose .. => true
  | .haltBroadcastArrival .. => true
  | .haltComplete .. => true
  | .contextSaveEffect .. => true
  | .syscallReply .. => true
  | .fput .. => true
  | .fget .. => true
  | .fatom .. => true
  | .fabricReply .. => true
  | .traceRecordAppend .. => true
  | .doorbell .. => true
  | .queueProcessorStep .. => true
  | .launchPacket .. => true
  | .launchIndirect .. => true
  | .prologueRerun .. => true
  | .prologueWatchdog .. => true
  | .taskPacket .. => true
  | .tdecPacket .. => true
  | .signalPacket .. => true
  | .waitMemory .. => true
  | .waitMemoryTimeout .. => true
  | .copyPacket .. => true
  | .handoverPacket .. => true
  | .preemptPoint .. => true
  | .packetCompletion .. => true
  | .packetBindingsFit .. => true
  | .workgroupPlacement .. => true
  | .automaticPreemption .. => true
  | .preemptQueue .. => true
  | .resumeQueue .. => true
  | .preemptionSignalArrival .. => true
  | .drainBudgetExpiry .. => true
  | .workgroupSaved .. => true
  | .discardDone .. => true
  | .killContext .. => true
  | .killDone .. => true
  | .haltRelease .. => true
  | .profctlClr .. => true
  | .profctlEn .. => true
  | .profilingCapture .. => true
  | .leaseWrite .. => true
  | .cquotaWrite .. => true
  | .barerrClear .. => true
  | .pinmissClear .. => true
  | .evlostClear .. => true
  | .traceEnable .. => true
  | .trposClear .. => true
  | .trlostClear .. => true
  | .apertureWrite .. => true
  | .hostCxlMemAccess .. => true
  | .quoteRequest .. => true
  | .powerOn .. => true
  | .hbmTrainingComplete .. => true
  | .selfTestComplete .. => true
  | .cxlLinkLoss .. => true
  | .thermalThrottle .. => true
  | .thermalShutdown .. => true
  | .instructionFetchFill .. => true
  | .ctxrestLoadComplete .. => true
  | .uncorrectableErrorFound .. => true
  | .linkFlitRetry .. => true
  | .thermalThrottleEnd .. => true
  | .queueEnable .. => true
  | .fabricInboundRequest .. => true
  | .contextEnd .. => true

/-- Check 4 of R85 as far as the word alone decides it. -/
def fieldsOk (i : Instr) : Bool := (shape i).all (fun pc => pc.1.ok pc.2) && rest i

/-- The registers an instruction reads. -/
def readsOf (i : Instr) : List Reg := ((shape i).map fun pc => pc.1.reads pc.2).flatten

/-- The registers an instruction writes. -/
def writesOf (i : Instr) : List Reg := ((shape i).map fun pc => pc.1.writes pc.2).flatten

/-- The v registers an instruction names lie in an allotment of `g` granules; v0 always does (R54). -/
def inAllotment (g : Nat) (i : Instr) : Bool :=
  (shape i).all fun pc =>
    match pc.1.topV pc.2 with
    | some n => n == 0 || decide (n < 16 * g)
    | none => true

/-- The class of a major (Table 4.3); events have the class of none. -/
inductive Class where
  /-- Vector. -/
  | V
  /-- Train. -/
  | T
  /-- Privileged train. -/
  | P
  /-- NOP. -/
  | N
  /-- An event, which no word encodes. -/
  | event
  deriving DecidableEq, Repr

/-- The class of an instruction (Tables 4.8 to 4.14). -/
def classOf : Instr → Class
  | .vadd _ => .V
  | .vsub _ => .V
  | .vmul _ => .V
  | .vmulhi _ => .V
  | .vmad _ => .V
  | .vmin _ => .V
  | .vmax _ => .V
  | .vabsd _ => .V
  | .vand _ => .V
  | .vor _ => .V
  | .vxor _ => .V
  | .vshl _ => .V
  | .vshr _ => .V
  | .vrot _ => .V
  | .vfun _ => .V
  | .vbfx _ => .V
  | .vbfi _ => .V
  | .vclz _ => .V
  | .vctz _ => .V
  | .vffs _ => .V
  | .vpopc _ => .V
  | .vbrev _ => .V
  | .vcmp _ => .V
  | .vsel _ => .V
  | .vmov _ => .V
  | .vmovi _ => .V
  | .vaddi _ => .V
  | .vcvti _ => .V
  | .vbsinit _ => .V
  | .vbsrd _ => .V
  | .sadd _ => .T
  | .ssub _ => .T
  | .smul _ => .T
  | .smulhi _ => .T
  | .sand _ => .T
  | .sor _ => .T
  | .sxor _ => .T
  | .sshl _ => .T
  | .sshr _ => .T
  | .sbfx _ => .T
  | .sbfi _ => .T
  | .sclz _ => .T
  | .spopc _ => .T
  | .sffs _ => .T
  | .smin _ => .T
  | .smax _ => .T
  | .scmp _ => .T
  | .smov _ => .T
  | .smovi _ => .T
  | .saddi _ => .T
  | .ssel _ => .T
  | .smcnt _ => .T
  | .smfirst _ => .T
  | .vfadd _ => .V
  | .vfsub _ => .V
  | .vfmul _ => .V
  | .vfma _ => .V
  | .vfmin _ => .V
  | .vfmax _ => .V
  | .vfcmp _ => .V
  | .vfclass _ => .V
  | .vfdiv _ => .V
  | .vfsqrt _ => .V
  | .vfrcp _ => .V
  | .vfrsq _ => .V
  | .vfexp2 _ => .V
  | .vflog2 _ => .V
  | .vfsin _ => .V
  | .vfcos _ => .V
  | .vfrnd _ => .V
  | .vffract _ => .V
  | .vfldexp _ => .V
  | .vfcvt _ => .V
  | .vcvtfi _ => .V
  | .vcvtif _ => .V
  | .vpack _ => .V
  | .vunpk _ => .V
  | .vfdot2 _ => .V
  | .vshuf _ => .V
  | .vbcast _ => .V
  | .vredu _ => .V
  | .vscan _ => .V
  | .vxshuf _ => .V
  | .vderiv _ => .V
  | .vinterp _ => .V
  | .nop _ => .N
  | .br _ => .T
  | .brs _ => .T
  | .brv _ => .T
  | .brm _ => .T
  | .call _ => .T
  | .ret _ => .T
  | .jmpi _ => .T
  | .sjoin _ => .T
  | .wait _ => .T
  | .exit _ => .T
  | .yield _ => .T
  | .reggrow _ => .T
  | .regtrim _ => .T
  | .kills _ => .T
  | .emitv _ => .T
  | .emitp _ => .T
  | .fxrel _ => .T
  | .tdec _ => .T
  | .tinc _ => .T
  | .ld _ => .V
  | .st _ => .V
  | .sld _ => .T
  | .sst _ => .T
  | .atom _ => .V
  | .satom _ => .T
  | .acall _ => .V
  | .pref _ => .T
  | .lpin _ => .T
  | .lunpin _ => .T
  | .blst _ => .V
  | .stkpsh _ => .V
  | .stkpop _ => .V
  | .cpy _ => .T
  | .cpyg _ => .T
  | .cpys _ => .T
  | .cpyr _ => .T
  | .cpyx _ => .T
  | .mdec _ => .T
  | .nbinit _ => .T
  | .nbarr _ => .T
  | .nbwait _ => .T
  | .nbinv _ => .T
  | .trace _ => .V
  | .mma _ => .T
  | .mzero _ => .T
  | .mlda _ => .T
  | .msta _ => .T
  | .mcvt _ => .T
  | .mqnt _ => .T
  | .boxt _ => .V
  | .trit _ => .V
  | .regrp _ => .T
  | .ringoff _ => .T
  | .ringtake _ => .T
  | .rhit _ => .V
  | .arecv _ => .T
  | .areply _ => .T
  | .afail _ => .T
  | .esarr _ => .T
  | .eswait _ => .T
  | .esbar _ => .T
  | .esbcst _ => .T
  | .esrecv _ => .T
  | .esred _ => .T
  | .estick _ => .T
  | .trec _ => .T
  | .clkrd _ => .T
  | .brk _ => .T
  | .trap _ => .T
  | .syscall _ => .T
  | .mfsr _ => .P
  | .mtsr _ => .P
  | .eret _ => .P
  | .fltrd _ => .P
  | .tresume _ => .P
  | .tkill _ => .P
  | .tsnap _ => .P
  | .ctxsave _ => .P
  | .ctxrest _ => .P
  | .espre _ => .P
  | .tlbinv _ => .P
  | .haltall _ => .P
  | .schedulerPick .. => .event
  | .splitMerge .. => .event
  | .joinRelease .. => .event
  | .yieldLimit .. => .event
  | .reggrowGrant .. => .event
  | .reggrowStarvation .. => .event
  | .regtrimComplete .. => .event
  | .trainEnd .. => .event
  | .computePassStart .. => .event
  | .rungSequencerSpawn .. => .event
  | .fixativeRefillComplete .. => .event
  | .rasterPrimitive .. => .event
  | .loadValueArrival .. => .event
  | .sliceBatchApply .. => .event
  | .atomicReply .. => .event
  | .pageWalkComplete .. => .event
  | .tlbInvalidationComplete .. => .event
  | .copyCompletion .. => .event
  | .mdecCompletion .. => .event
  | .matrixOpCompletion .. => .event
  | .nbTokenRelease .. => .event
  | .nbarrHeldCount .. => .event
  | .rayTrainStart .. => .event
  | .rayRecordDelivery .. => .event
  | .regrpSort .. => .event
  | .regrpWaitLimit .. => .event
  | .ringOfferWithdrawal .. => .event
  | .blendApply .. => .event
  | .registrationClose .. => .event
  | .accordRequestArrival .. => .event
  | .accordBatchDelivery .. => .event
  | .accordReplyArrival .. => .event
  | .combinerStart .. => .event
  | .combinerSlotPass .. => .event
  | .vxshufPairing .. => .event
  | .vxshufDelivery .. => .event
  | .shuffleTimeout .. => .event
  | .escapementTick .. => .event
  | .escapementEntry .. => .event
  | .escapementReleaseDelivery .. => .event
  | .escapementBroadcastDelivery .. => .event
  | .escapementUncorrectableError .. => .event
  | .escapementSignalRepeat .. => .event
  | .linkRetirement .. => .event
  | .correctableError .. => .event
  | .unitRetirement .. => .event
  | .watchdog .. => .event
  | .eventDelivery .. => .event
  | .truncatedDumpClose .. => .event
  | .haltBroadcastArrival .. => .event
  | .haltComplete .. => .event
  | .contextSaveEffect .. => .event
  | .syscallReply .. => .event
  | .fput .. => .event
  | .fget .. => .event
  | .fatom .. => .event
  | .fabricReply .. => .event
  | .traceRecordAppend .. => .event
  | .doorbell .. => .event
  | .queueProcessorStep .. => .event
  | .launchPacket .. => .event
  | .launchIndirect .. => .event
  | .prologueRerun .. => .event
  | .prologueWatchdog .. => .event
  | .taskPacket .. => .event
  | .tdecPacket .. => .event
  | .signalPacket .. => .event
  | .waitMemory .. => .event
  | .waitMemoryTimeout .. => .event
  | .copyPacket .. => .event
  | .handoverPacket .. => .event
  | .preemptPoint .. => .event
  | .packetCompletion .. => .event
  | .packetBindingsFit .. => .event
  | .workgroupPlacement .. => .event
  | .automaticPreemption .. => .event
  | .preemptQueue .. => .event
  | .resumeQueue .. => .event
  | .preemptionSignalArrival .. => .event
  | .drainBudgetExpiry .. => .event
  | .workgroupSaved .. => .event
  | .discardDone .. => .event
  | .killContext .. => .event
  | .killDone .. => .event
  | .haltRelease .. => .event
  | .profctlClr .. => .event
  | .profctlEn .. => .event
  | .profilingCapture .. => .event
  | .leaseWrite .. => .event
  | .cquotaWrite .. => .event
  | .barerrClear .. => .event
  | .pinmissClear .. => .event
  | .evlostClear .. => .event
  | .traceEnable .. => .event
  | .trposClear .. => .event
  | .trlostClear .. => .event
  | .apertureWrite .. => .event
  | .hostCxlMemAccess .. => .event
  | .quoteRequest .. => .event
  | .powerOn .. => .event
  | .hbmTrainingComplete .. => .event
  | .selfTestComplete .. => .event
  | .cxlLinkLoss .. => .event
  | .thermalThrottle .. => .event
  | .thermalShutdown .. => .event
  | .instructionFetchFill .. => .event
  | .ctxrestLoadComplete .. => .event
  | .uncorrectableErrorFound .. => .event
  | .linkFlitRetry .. => .event
  | .thermalThrottleEnd .. => .event
  | .queueEnable .. => .event
  | .fabricInboundRequest .. => .event
  | .contextEnd .. => .event

/-- The rung codes a major is limited to (the Rung columns of Tables 4.10 to 4.13), and whether it belongs to the graphics
ladder alone; none where any rung will do. -/
def rungsOf : Instr → Option (List Nat × Bool)
  | .vderiv _ => some ([4], true)
  | .vinterp _ => some ([4, 5], true)
  | .kills _ => some ([4, 5], true)
  | .emitv _ => some ([2], true)
  | .emitp _ => some ([2], true)
  | .blst _ => some ([4, 5], true)
  | .stkpsh _ => some ([6], false)
  | .stkpop _ => some ([6], false)
  | .mdec _ => some ([2], true)
  | .boxt _ => some ([6], false)
  | .trit _ => some ([6], false)
  | .regrp _ => some ([6], false)
  | .ringoff _ => some ([6], false)
  | .ringtake _ => some ([6], false)
  | .rhit _ => some ([6], false)
  | .vadd _ => none
  | .vsub _ => none
  | .vmul _ => none
  | .vmulhi _ => none
  | .vmad _ => none
  | .vmin _ => none
  | .vmax _ => none
  | .vabsd _ => none
  | .vand _ => none
  | .vor _ => none
  | .vxor _ => none
  | .vshl _ => none
  | .vshr _ => none
  | .vrot _ => none
  | .vfun _ => none
  | .vbfx _ => none
  | .vbfi _ => none
  | .vclz _ => none
  | .vctz _ => none
  | .vffs _ => none
  | .vpopc _ => none
  | .vbrev _ => none
  | .vcmp _ => none
  | .vsel _ => none
  | .vmov _ => none
  | .vmovi _ => none
  | .vaddi _ => none
  | .vcvti _ => none
  | .vbsinit _ => none
  | .vbsrd _ => none
  | .sadd _ => none
  | .ssub _ => none
  | .smul _ => none
  | .smulhi _ => none
  | .sand _ => none
  | .sor _ => none
  | .sxor _ => none
  | .sshl _ => none
  | .sshr _ => none
  | .sbfx _ => none
  | .sbfi _ => none
  | .sclz _ => none
  | .spopc _ => none
  | .sffs _ => none
  | .smin _ => none
  | .smax _ => none
  | .scmp _ => none
  | .smov _ => none
  | .smovi _ => none
  | .saddi _ => none
  | .ssel _ => none
  | .smcnt _ => none
  | .smfirst _ => none
  | .vfadd _ => none
  | .vfsub _ => none
  | .vfmul _ => none
  | .vfma _ => none
  | .vfmin _ => none
  | .vfmax _ => none
  | .vfcmp _ => none
  | .vfclass _ => none
  | .vfdiv _ => none
  | .vfsqrt _ => none
  | .vfrcp _ => none
  | .vfrsq _ => none
  | .vfexp2 _ => none
  | .vflog2 _ => none
  | .vfsin _ => none
  | .vfcos _ => none
  | .vfrnd _ => none
  | .vffract _ => none
  | .vfldexp _ => none
  | .vfcvt _ => none
  | .vcvtfi _ => none
  | .vcvtif _ => none
  | .vpack _ => none
  | .vunpk _ => none
  | .vfdot2 _ => none
  | .vshuf _ => none
  | .vbcast _ => none
  | .vredu _ => none
  | .vscan _ => none
  | .vxshuf _ => none
  | .nop _ => none
  | .br _ => none
  | .brs _ => none
  | .brv _ => none
  | .brm _ => none
  | .call _ => none
  | .ret _ => none
  | .jmpi _ => none
  | .sjoin _ => none
  | .wait _ => none
  | .exit _ => none
  | .yield _ => none
  | .reggrow _ => none
  | .regtrim _ => none
  | .fxrel _ => none
  | .tdec _ => none
  | .tinc _ => none
  | .ld _ => none
  | .st _ => none
  | .sld _ => none
  | .sst _ => none
  | .atom _ => none
  | .satom _ => none
  | .acall _ => none
  | .pref _ => none
  | .lpin _ => none
  | .lunpin _ => none
  | .cpy _ => none
  | .cpyg _ => none
  | .cpys _ => none
  | .cpyr _ => none
  | .cpyx _ => none
  | .nbinit _ => none
  | .nbarr _ => none
  | .nbwait _ => none
  | .nbinv _ => none
  | .trace _ => none
  | .mma _ => none
  | .mzero _ => none
  | .mlda _ => none
  | .msta _ => none
  | .mcvt _ => none
  | .mqnt _ => none
  | .arecv _ => none
  | .areply _ => none
  | .afail _ => none
  | .esarr _ => none
  | .eswait _ => none
  | .esbar _ => none
  | .esbcst _ => none
  | .esrecv _ => none
  | .esred _ => none
  | .estick _ => none
  | .trec _ => none
  | .clkrd _ => none
  | .brk _ => none
  | .trap _ => none
  | .syscall _ => none
  | .mfsr _ => none
  | .mtsr _ => none
  | .eret _ => none
  | .fltrd _ => none
  | .tresume _ => none
  | .tkill _ => none
  | .tsnap _ => none
  | .ctxsave _ => none
  | .ctxrest _ => none
  | .espre _ => none
  | .tlbinv _ => none
  | .haltall _ => none
  | .schedulerPick .. => none
  | .splitMerge .. => none
  | .joinRelease .. => none
  | .yieldLimit .. => none
  | .reggrowGrant .. => none
  | .reggrowStarvation .. => none
  | .regtrimComplete .. => none
  | .trainEnd .. => none
  | .computePassStart .. => none
  | .rungSequencerSpawn .. => none
  | .fixativeRefillComplete .. => none
  | .rasterPrimitive .. => none
  | .loadValueArrival .. => none
  | .sliceBatchApply .. => none
  | .atomicReply .. => none
  | .pageWalkComplete .. => none
  | .tlbInvalidationComplete .. => none
  | .copyCompletion .. => none
  | .mdecCompletion .. => none
  | .matrixOpCompletion .. => none
  | .nbTokenRelease .. => none
  | .nbarrHeldCount .. => none
  | .rayTrainStart .. => none
  | .rayRecordDelivery .. => none
  | .regrpSort .. => none
  | .regrpWaitLimit .. => none
  | .ringOfferWithdrawal .. => none
  | .blendApply .. => none
  | .registrationClose .. => none
  | .accordRequestArrival .. => none
  | .accordBatchDelivery .. => none
  | .accordReplyArrival .. => none
  | .combinerStart .. => none
  | .combinerSlotPass .. => none
  | .vxshufPairing .. => none
  | .vxshufDelivery .. => none
  | .shuffleTimeout .. => none
  | .escapementTick .. => none
  | .escapementEntry .. => none
  | .escapementReleaseDelivery .. => none
  | .escapementBroadcastDelivery .. => none
  | .escapementUncorrectableError .. => none
  | .escapementSignalRepeat .. => none
  | .linkRetirement .. => none
  | .correctableError .. => none
  | .unitRetirement .. => none
  | .watchdog .. => none
  | .eventDelivery .. => none
  | .truncatedDumpClose .. => none
  | .haltBroadcastArrival .. => none
  | .haltComplete .. => none
  | .contextSaveEffect .. => none
  | .syscallReply .. => none
  | .fput .. => none
  | .fget .. => none
  | .fatom .. => none
  | .fabricReply .. => none
  | .traceRecordAppend .. => none
  | .doorbell .. => none
  | .queueProcessorStep .. => none
  | .launchPacket .. => none
  | .launchIndirect .. => none
  | .prologueRerun .. => none
  | .prologueWatchdog .. => none
  | .taskPacket .. => none
  | .tdecPacket .. => none
  | .signalPacket .. => none
  | .waitMemory .. => none
  | .waitMemoryTimeout .. => none
  | .copyPacket .. => none
  | .handoverPacket .. => none
  | .preemptPoint .. => none
  | .packetCompletion .. => none
  | .packetBindingsFit .. => none
  | .workgroupPlacement .. => none
  | .automaticPreemption .. => none
  | .preemptQueue .. => none
  | .resumeQueue .. => none
  | .preemptionSignalArrival .. => none
  | .drainBudgetExpiry .. => none
  | .workgroupSaved .. => none
  | .discardDone .. => none
  | .killContext .. => none
  | .killDone .. => none
  | .haltRelease .. => none
  | .profctlClr .. => none
  | .profctlEn .. => none
  | .profilingCapture .. => none
  | .leaseWrite .. => none
  | .cquotaWrite .. => none
  | .barerrClear .. => none
  | .pinmissClear .. => none
  | .evlostClear .. => none
  | .traceEnable .. => none
  | .trposClear .. => none
  | .trlostClear .. => none
  | .apertureWrite .. => none
  | .hostCxlMemAccess .. => none
  | .quoteRequest .. => none
  | .powerOn .. => none
  | .hbmTrainingComplete .. => none
  | .selfTestComplete .. => none
  | .cxlLinkLoss .. => none
  | .thermalThrottle .. => none
  | .thermalShutdown .. => none
  | .instructionFetchFill .. => none
  | .ctxrestLoadComplete .. => none
  | .uncorrectableErrorFound .. => none
  | .linkFlitRetry .. => none
  | .thermalThrottleEnd .. => none
  | .queueEnable .. => none
  | .fabricInboundRequest .. => none
  | .contextEnd .. => none

/-- The MINOR, OP or ESRED operation is listed for the major (R84; for BOXT and TRIT also the first row of Table 11.13). The rules of MZERO
(R249) and VXSHUF (R299) give a nonzero MINOR of these ILLEGAL-FIELD in their own words, against the general sentences of R82, R84 and R85
(DEDUCED, log 114). -/
def opcodeListed : Instr → Bool
  | .vadd f => decide (f.minor.toNat < 1)
  | .vsub f => decide (f.minor.toNat < 1)
  | .vmul f => decide (f.minor.toNat < 1)
  | .vmulhi f => decide (f.minor.toNat < 1)
  | .vmad f => decide (f.minor.toNat < 1)
  | .vmin f => decide (f.minor.toNat < 1)
  | .vmax f => decide (f.minor.toNat < 1)
  | .vabsd f => decide (f.minor.toNat < 1)
  | .vand f => decide (f.minor.toNat < 3)
  | .vor f => decide (f.minor.toNat < 3)
  | .vxor f => decide (f.minor.toNat < 2)
  | .vshl f => decide (f.minor.toNat < 1)
  | .vshr f => decide (f.minor.toNat < 1)
  | .vrot f => decide (f.minor.toNat < 2)
  | .vfun f => decide (f.minor.toNat < 2)
  | .vbfx f => decide (f.minor.toNat < 1)
  | .vbfi f => decide (f.minor.toNat < 1)
  | .vclz f => decide (f.minor.toNat < 1)
  | .vctz f => decide (f.minor.toNat < 1)
  | .vffs f => decide (f.minor.toNat < 1)
  | .vpopc f => decide (f.minor.toNat < 1)
  | .vbrev f => decide (f.minor.toNat < 1)
  | .vcmp f => decide (f.minor.toNat < 6)
  | .vsel f => decide (f.minor.toNat < 1)
  | .vmov f => decide (f.minor.toNat < 1)
  | .vmovi f => decide (f.minor.toNat < 2)
  | .vaddi f => decide (f.minor.toNat < 1)
  | .vcvti _ => true
  | .vbsinit f => decide (f.minor.toNat < 1)
  | .vbsrd f => decide (f.minor.toNat < 1)
  | .sadd f => decide (f.minor.toNat < 1)
  | .ssub f => decide (f.minor.toNat < 1)
  | .smul f => decide (f.minor.toNat < 1)
  | .smulhi f => decide (f.minor.toNat < 1)
  | .sand f => decide (f.minor.toNat < 1)
  | .sor f => decide (f.minor.toNat < 1)
  | .sxor f => decide (f.minor.toNat < 1)
  | .sshl f => decide (f.minor.toNat < 1)
  | .sshr f => decide (f.minor.toNat < 1)
  | .sbfx f => decide (f.minor.toNat < 1)
  | .sbfi f => decide (f.minor.toNat < 1)
  | .sclz f => decide (f.minor.toNat < 1)
  | .spopc f => decide (f.minor.toNat < 1)
  | .sffs f => decide (f.minor.toNat < 1)
  | .smin f => decide (f.minor.toNat < 1)
  | .smax f => decide (f.minor.toNat < 1)
  | .scmp f => decide (f.minor.toNat < 6)
  | .smov f => decide (f.minor.toNat < 1)
  | .smovi f => decide (f.minor.toNat < 2)
  | .saddi f => decide (f.minor.toNat < 1)
  | .ssel f => decide (f.minor.toNat < 1)
  | .smcnt f => decide (f.minor.toNat < 1)
  | .smfirst f => decide (f.minor.toNat < 1)
  | .vfadd f => decide (f.minor.toNat < 1)
  | .vfsub f => decide (f.minor.toNat < 1)
  | .vfmul f => decide (f.minor.toNat < 1)
  | .vfma f => decide (f.minor.toNat < 1)
  | .vfmin f => decide (f.minor.toNat < 2)
  | .vfmax f => decide (f.minor.toNat < 2)
  | .vfcmp _ => true
  | .vfclass f => decide (f.minor.toNat < 1)
  | .vfdiv f => decide (f.minor.toNat < 1)
  | .vfsqrt f => decide (f.minor.toNat < 1)
  | .vfrcp f => decide (f.minor.toNat < 1)
  | .vfrsq f => decide (f.minor.toNat < 1)
  | .vfexp2 f => decide (f.minor.toNat < 1)
  | .vflog2 f => decide (f.minor.toNat < 1)
  | .vfsin f => decide (f.minor.toNat < 1)
  | .vfcos f => decide (f.minor.toNat < 1)
  | .vfrnd f => decide (f.minor.toNat < 1)
  | .vffract f => decide (f.minor.toNat < 1)
  | .vfldexp f => decide (f.minor.toNat < 1)
  | .vfcvt f => decide (f.minor.toNat < 6)
  | .vcvtfi f => decide (f.minor.toNat ∈ [0, 3])
  | .vcvtif f => decide (f.minor.toNat ∈ [0, 1, 6, 7])
  | .vpack f => decide (f.minor.toNat < 5)
  | .vunpk f => decide (f.minor.toNat < 5)
  | .vfdot2 f => decide (f.minor.toNat < 1)
  | .vshuf f => decide (f.minor.toNat < 4)
  | .vbcast f => decide (f.minor.toNat < 1)
  | .vredu _ => true
  | .vscan _ => true
  | .vxshuf _ => true
  | .vderiv f => decide (f.minor.toNat < 4)
  | .vinterp f => decide (f.minor.toNat < 1)
  | .nop f => decide (f.minor.toNat < 1)
  | .br f => decide (f.minor.toNat < 1)
  | .brs f => decide (f.minor.toNat < 1)
  | .brv f => decide (f.minor.toNat < 1)
  | .brm f => decide (f.minor.toNat < 1)
  | .call f => decide (f.minor.toNat < 1)
  | .ret f => decide (f.minor.toNat < 1)
  | .jmpi f => decide (f.minor.toNat < 1)
  | .sjoin f => decide (f.minor.toNat < 1)
  | .wait f => decide (f.minor.toNat < 1)
  | .exit f => decide (f.minor.toNat < 1)
  | .yield f => decide (f.minor.toNat < 1)
  | .reggrow f => decide (f.minor.toNat < 1)
  | .regtrim f => decide (f.minor.toNat < 1)
  | .kills f => decide (f.minor.toNat < 1)
  | .emitv f => decide (f.minor.toNat < 1)
  | .emitp f => decide (f.minor.toNat < 1)
  | .fxrel f => decide (f.minor.toNat < 1)
  | .tdec f => decide (f.minor.toNat < 1)
  | .tinc f => decide (f.minor.toNat < 1)
  | .ld f => decide (f.minor.toNat < 1)
  | .st f => decide (f.minor.toNat < 1)
  | .sld f => decide (f.minor.toNat < 1)
  | .sst f => decide (f.minor.toNat < 1)
  | .atom f => decide (f.op.toNat ≤ 14)
  | .satom f => decide (f.op.toNat ≤ 14)
  | .acall _ => true
  | .pref f => decide (f.minor.toNat < 2)
  | .lpin f => decide (f.minor.toNat < 1)
  | .lunpin f => decide (f.minor.toNat < 1)
  | .blst f => decide (f.minor.toNat < 3)
  | .stkpsh f => decide (f.minor.toNat < 1)
  | .stkpop f => decide (f.minor.toNat < 1)
  | .cpy f => decide (f.minor.toNat < 1)
  | .cpyg f => decide (f.minor.toNat < 1)
  | .cpys f => decide (f.minor.toNat < 1)
  | .cpyr f => decide (f.minor.toNat ∈ [0, 1, 2, 3, 4, 5, 6, 10, 11, 12])
  | .cpyx f => decide (f.minor.toNat < 1)
  | .mdec f => decide (f.minor.toNat < 1)
  | .nbinit f => decide (f.minor.toNat < 1)
  | .nbarr f => decide (f.minor.toNat < 1)
  | .nbwait f => decide (f.minor.toNat < 1)
  | .nbinv f => decide (f.minor.toNat < 1)
  | .trace f => decide (f.minor.toNat < 1)
  | .mma f => decide (f.minor.toNat < 4)
  | .mzero _ => true
  | .mlda f => decide (f.minor.toNat < 2)
  | .msta f => decide (f.minor.toNat < 2)
  | .mcvt f => decide (f.minor.toNat < 6)
  | .mqnt f => decide (f.minor.toNat ∈ [4, 5, 6])
  | .boxt f => decide (f.minor.toNat < 1)
  | .trit f => decide (f.minor.toNat < 1)
  | .regrp f => decide (f.minor.toNat < 1)
  | .ringoff f => decide (f.minor.toNat < 1)
  | .ringtake f => decide (f.minor.toNat < 1)
  | .rhit f => decide (f.minor.toNat < 1)
  | .arecv f => decide (f.minor.toNat < 1)
  | .areply f => decide (f.minor.toNat < 1)
  | .afail f => decide (f.minor.toNat < 1)
  | .esarr f => decide (f.minor.toNat < 1)
  | .eswait f => decide (f.minor.toNat < 1)
  | .esbar f => decide (f.minor.toNat < 1)
  | .esbcst f => decide (f.minor.toNat < 1)
  | .esrecv f => decide (f.minor.toNat < 1)
  | .esred f => decide (f.minor.toNat < 11)
  | .estick f => decide (f.minor.toNat < 1)
  | .trec f => decide (f.minor.toNat < 1)
  | .clkrd f => decide (f.minor.toNat < 1)
  | .brk f => decide (f.minor.toNat < 1)
  | .trap f => decide (f.minor.toNat < 1)
  | .syscall f => decide (f.minor.toNat < 1)
  | .mfsr f => decide (f.minor.toNat < 1)
  | .mtsr f => decide (f.minor.toNat < 1)
  | .eret f => decide (f.minor.toNat < 1)
  | .fltrd f => decide (f.minor.toNat < 1)
  | .tresume f => decide (f.minor.toNat < 1)
  | .tkill f => decide (f.minor.toNat < 1)
  | .tsnap f => decide (f.minor.toNat < 1)
  | .ctxsave f => decide (f.minor.toNat < 1)
  | .ctxrest f => decide (f.minor.toNat < 1)
  | .espre f => decide (f.minor.toNat < 1)
  | .tlbinv f => decide (f.minor.toNat < 1)
  | .haltall f => decide (f.minor.toNat < 1)
  | .schedulerPick .. => true
  | .splitMerge .. => true
  | .joinRelease .. => true
  | .yieldLimit .. => true
  | .reggrowGrant .. => true
  | .reggrowStarvation .. => true
  | .regtrimComplete .. => true
  | .trainEnd .. => true
  | .computePassStart .. => true
  | .rungSequencerSpawn .. => true
  | .fixativeRefillComplete .. => true
  | .rasterPrimitive .. => true
  | .loadValueArrival .. => true
  | .sliceBatchApply .. => true
  | .atomicReply .. => true
  | .pageWalkComplete .. => true
  | .tlbInvalidationComplete .. => true
  | .copyCompletion .. => true
  | .mdecCompletion .. => true
  | .matrixOpCompletion .. => true
  | .nbTokenRelease .. => true
  | .nbarrHeldCount .. => true
  | .rayTrainStart .. => true
  | .rayRecordDelivery .. => true
  | .regrpSort .. => true
  | .regrpWaitLimit .. => true
  | .ringOfferWithdrawal .. => true
  | .blendApply .. => true
  | .registrationClose .. => true
  | .accordRequestArrival .. => true
  | .accordBatchDelivery .. => true
  | .accordReplyArrival .. => true
  | .combinerStart .. => true
  | .combinerSlotPass .. => true
  | .vxshufPairing .. => true
  | .vxshufDelivery .. => true
  | .shuffleTimeout .. => true
  | .escapementTick .. => true
  | .escapementEntry .. => true
  | .escapementReleaseDelivery .. => true
  | .escapementBroadcastDelivery .. => true
  | .escapementUncorrectableError .. => true
  | .escapementSignalRepeat .. => true
  | .linkRetirement .. => true
  | .correctableError .. => true
  | .unitRetirement .. => true
  | .watchdog .. => true
  | .eventDelivery .. => true
  | .truncatedDumpClose .. => true
  | .haltBroadcastArrival .. => true
  | .haltComplete .. => true
  | .contextSaveEffect .. => true
  | .syscallReply .. => true
  | .fput .. => true
  | .fget .. => true
  | .fatom .. => true
  | .fabricReply .. => true
  | .traceRecordAppend .. => true
  | .doorbell .. => true
  | .queueProcessorStep .. => true
  | .launchPacket .. => true
  | .launchIndirect .. => true
  | .prologueRerun .. => true
  | .prologueWatchdog .. => true
  | .taskPacket .. => true
  | .tdecPacket .. => true
  | .signalPacket .. => true
  | .waitMemory .. => true
  | .waitMemoryTimeout .. => true
  | .copyPacket .. => true
  | .handoverPacket .. => true
  | .preemptPoint .. => true
  | .packetCompletion .. => true
  | .packetBindingsFit .. => true
  | .workgroupPlacement .. => true
  | .automaticPreemption .. => true
  | .preemptQueue .. => true
  | .resumeQueue .. => true
  | .preemptionSignalArrival .. => true
  | .drainBudgetExpiry .. => true
  | .workgroupSaved .. => true
  | .discardDone .. => true
  | .killContext .. => true
  | .killDone .. => true
  | .haltRelease .. => true
  | .profctlClr .. => true
  | .profctlEn .. => true
  | .profilingCapture .. => true
  | .leaseWrite .. => true
  | .cquotaWrite .. => true
  | .barerrClear .. => true
  | .pinmissClear .. => true
  | .evlostClear .. => true
  | .traceEnable .. => true
  | .trposClear .. => true
  | .trlostClear .. => true
  | .apertureWrite .. => true
  | .hostCxlMemAccess .. => true
  | .quoteRequest .. => true
  | .powerOn .. => true
  | .hbmTrainingComplete .. => true
  | .selfTestComplete .. => true
  | .cxlLinkLoss .. => true
  | .thermalThrottle .. => true
  | .thermalShutdown .. => true
  | .instructionFetchFill .. => true
  | .ctxrestLoadComplete .. => true
  | .uncorrectableErrorFound .. => true
  | .linkFlitRetry .. => true
  | .thermalThrottleEnd .. => true
  | .queueEnable .. => true
  | .fabricInboundRequest .. => true
  | .contextEnd .. => true

/-- A word that must be the last of its run: format C (R72), REGRP (R276), RINGOFF and RINGTAKE (R302), ERET (R409). -/
def mustEndRun : Instr → Bool
  | .br _ => true
  | .brs _ => true
  | .brv _ => true
  | .brm _ => true
  | .call _ => true
  | .ret _ => true
  | .jmpi _ => true
  | .sjoin _ => true
  | .wait _ => true
  | .exit _ => true
  | .yield _ => true
  | .reggrow _ => true
  | .regtrim _ => true
  | .kills _ => true
  | .emitv _ => true
  | .emitp _ => true
  | .fxrel _ => true
  | .tdec _ => true
  | .tinc _ => true
  | .regrp _ => true
  | .ringoff _ => true
  | .ringtake _ => true
  | .eret _ => true
  | .vadd _ => false
  | .vsub _ => false
  | .vmul _ => false
  | .vmulhi _ => false
  | .vmad _ => false
  | .vmin _ => false
  | .vmax _ => false
  | .vabsd _ => false
  | .vand _ => false
  | .vor _ => false
  | .vxor _ => false
  | .vshl _ => false
  | .vshr _ => false
  | .vrot _ => false
  | .vfun _ => false
  | .vbfx _ => false
  | .vbfi _ => false
  | .vclz _ => false
  | .vctz _ => false
  | .vffs _ => false
  | .vpopc _ => false
  | .vbrev _ => false
  | .vcmp _ => false
  | .vsel _ => false
  | .vmov _ => false
  | .vmovi _ => false
  | .vaddi _ => false
  | .vcvti _ => false
  | .vbsinit _ => false
  | .vbsrd _ => false
  | .sadd _ => false
  | .ssub _ => false
  | .smul _ => false
  | .smulhi _ => false
  | .sand _ => false
  | .sor _ => false
  | .sxor _ => false
  | .sshl _ => false
  | .sshr _ => false
  | .sbfx _ => false
  | .sbfi _ => false
  | .sclz _ => false
  | .spopc _ => false
  | .sffs _ => false
  | .smin _ => false
  | .smax _ => false
  | .scmp _ => false
  | .smov _ => false
  | .smovi _ => false
  | .saddi _ => false
  | .ssel _ => false
  | .smcnt _ => false
  | .smfirst _ => false
  | .vfadd _ => false
  | .vfsub _ => false
  | .vfmul _ => false
  | .vfma _ => false
  | .vfmin _ => false
  | .vfmax _ => false
  | .vfcmp _ => false
  | .vfclass _ => false
  | .vfdiv _ => false
  | .vfsqrt _ => false
  | .vfrcp _ => false
  | .vfrsq _ => false
  | .vfexp2 _ => false
  | .vflog2 _ => false
  | .vfsin _ => false
  | .vfcos _ => false
  | .vfrnd _ => false
  | .vffract _ => false
  | .vfldexp _ => false
  | .vfcvt _ => false
  | .vcvtfi _ => false
  | .vcvtif _ => false
  | .vpack _ => false
  | .vunpk _ => false
  | .vfdot2 _ => false
  | .vshuf _ => false
  | .vbcast _ => false
  | .vredu _ => false
  | .vscan _ => false
  | .vxshuf _ => false
  | .vderiv _ => false
  | .vinterp _ => false
  | .nop _ => false
  | .ld _ => false
  | .st _ => false
  | .sld _ => false
  | .sst _ => false
  | .atom _ => false
  | .satom _ => false
  | .acall _ => false
  | .pref _ => false
  | .lpin _ => false
  | .lunpin _ => false
  | .blst _ => false
  | .stkpsh _ => false
  | .stkpop _ => false
  | .cpy _ => false
  | .cpyg _ => false
  | .cpys _ => false
  | .cpyr _ => false
  | .cpyx _ => false
  | .mdec _ => false
  | .nbinit _ => false
  | .nbarr _ => false
  | .nbwait _ => false
  | .nbinv _ => false
  | .trace _ => false
  | .mma _ => false
  | .mzero _ => false
  | .mlda _ => false
  | .msta _ => false
  | .mcvt _ => false
  | .mqnt _ => false
  | .boxt _ => false
  | .trit _ => false
  | .rhit _ => false
  | .arecv _ => false
  | .areply _ => false
  | .afail _ => false
  | .esarr _ => false
  | .eswait _ => false
  | .esbar _ => false
  | .esbcst _ => false
  | .esrecv _ => false
  | .esred _ => false
  | .estick _ => false
  | .trec _ => false
  | .clkrd _ => false
  | .brk _ => false
  | .trap _ => false
  | .syscall _ => false
  | .mfsr _ => false
  | .mtsr _ => false
  | .fltrd _ => false
  | .tresume _ => false
  | .tkill _ => false
  | .tsnap _ => false
  | .ctxsave _ => false
  | .ctxrest _ => false
  | .espre _ => false
  | .tlbinv _ => false
  | .haltall _ => false
  | .schedulerPick .. => false
  | .splitMerge .. => false
  | .joinRelease .. => false
  | .yieldLimit .. => false
  | .reggrowGrant .. => false
  | .reggrowStarvation .. => false
  | .regtrimComplete .. => false
  | .trainEnd .. => false
  | .computePassStart .. => false
  | .rungSequencerSpawn .. => false
  | .fixativeRefillComplete .. => false
  | .rasterPrimitive .. => false
  | .loadValueArrival .. => false
  | .sliceBatchApply .. => false
  | .atomicReply .. => false
  | .pageWalkComplete .. => false
  | .tlbInvalidationComplete .. => false
  | .copyCompletion .. => false
  | .mdecCompletion .. => false
  | .matrixOpCompletion .. => false
  | .nbTokenRelease .. => false
  | .nbarrHeldCount .. => false
  | .rayTrainStart .. => false
  | .rayRecordDelivery .. => false
  | .regrpSort .. => false
  | .regrpWaitLimit .. => false
  | .ringOfferWithdrawal .. => false
  | .blendApply .. => false
  | .registrationClose .. => false
  | .accordRequestArrival .. => false
  | .accordBatchDelivery .. => false
  | .accordReplyArrival .. => false
  | .combinerStart .. => false
  | .combinerSlotPass .. => false
  | .vxshufPairing .. => false
  | .vxshufDelivery .. => false
  | .shuffleTimeout .. => false
  | .escapementTick .. => false
  | .escapementEntry .. => false
  | .escapementReleaseDelivery .. => false
  | .escapementBroadcastDelivery .. => false
  | .escapementUncorrectableError .. => false
  | .escapementSignalRepeat .. => false
  | .linkRetirement .. => false
  | .correctableError .. => false
  | .unitRetirement .. => false
  | .watchdog .. => false
  | .eventDelivery .. => false
  | .truncatedDumpClose .. => false
  | .haltBroadcastArrival .. => false
  | .haltComplete .. => false
  | .contextSaveEffect .. => false
  | .syscallReply .. => false
  | .fput .. => false
  | .fget .. => false
  | .fatom .. => false
  | .fabricReply .. => false
  | .traceRecordAppend .. => false
  | .doorbell .. => false
  | .queueProcessorStep .. => false
  | .launchPacket .. => false
  | .launchIndirect .. => false
  | .prologueRerun .. => false
  | .prologueWatchdog .. => false
  | .taskPacket .. => false
  | .tdecPacket .. => false
  | .signalPacket .. => false
  | .waitMemory .. => false
  | .waitMemoryTimeout .. => false
  | .copyPacket .. => false
  | .handoverPacket .. => false
  | .preemptPoint .. => false
  | .packetCompletion .. => false
  | .packetBindingsFit .. => false
  | .workgroupPlacement .. => false
  | .automaticPreemption .. => false
  | .preemptQueue .. => false
  | .resumeQueue .. => false
  | .preemptionSignalArrival .. => false
  | .drainBudgetExpiry .. => false
  | .workgroupSaved .. => false
  | .discardDone .. => false
  | .killContext .. => false
  | .killDone .. => false
  | .haltRelease .. => false
  | .profctlClr .. => false
  | .profctlEn .. => false
  | .profilingCapture .. => false
  | .leaseWrite .. => false
  | .cquotaWrite .. => false
  | .barerrClear .. => false
  | .pinmissClear .. => false
  | .evlostClear .. => false
  | .traceEnable .. => false
  | .trposClear .. => false
  | .trlostClear .. => false
  | .apertureWrite .. => false
  | .hostCxlMemAccess .. => false
  | .quoteRequest .. => false
  | .powerOn .. => false
  | .hbmTrainingComplete .. => false
  | .selfTestComplete .. => false
  | .cxlLinkLoss .. => false
  | .thermalThrottle .. => false
  | .thermalShutdown .. => false
  | .instructionFetchFill .. => false
  | .ctxrestLoadComplete .. => false
  | .uncorrectableErrorFound .. => false
  | .linkFlitRetry .. => false
  | .thermalThrottleEnd .. => false
  | .queueEnable .. => false
  | .fabricInboundRequest .. => false
  | .contextEnd .. => false

/-- A control word whose fall-through word is a target (R147). -/
def fallsThrough : Instr → Bool
  | .brs _ => true
  | .brv _ => true
  | .brm _ => true
  | .call _ => true
  | .sjoin _ => true
  | .wait _ => true
  | .yield _ => true
  | .reggrow _ => true
  | .regtrim _ => true
  | .kills _ => true
  | .emitv _ => true
  | .emitp _ => true
  | .fxrel _ => true
  | .tdec _ => true
  | .tinc _ => true
  | .vadd _ => false
  | .vsub _ => false
  | .vmul _ => false
  | .vmulhi _ => false
  | .vmad _ => false
  | .vmin _ => false
  | .vmax _ => false
  | .vabsd _ => false
  | .vand _ => false
  | .vor _ => false
  | .vxor _ => false
  | .vshl _ => false
  | .vshr _ => false
  | .vrot _ => false
  | .vfun _ => false
  | .vbfx _ => false
  | .vbfi _ => false
  | .vclz _ => false
  | .vctz _ => false
  | .vffs _ => false
  | .vpopc _ => false
  | .vbrev _ => false
  | .vcmp _ => false
  | .vsel _ => false
  | .vmov _ => false
  | .vmovi _ => false
  | .vaddi _ => false
  | .vcvti _ => false
  | .vbsinit _ => false
  | .vbsrd _ => false
  | .sadd _ => false
  | .ssub _ => false
  | .smul _ => false
  | .smulhi _ => false
  | .sand _ => false
  | .sor _ => false
  | .sxor _ => false
  | .sshl _ => false
  | .sshr _ => false
  | .sbfx _ => false
  | .sbfi _ => false
  | .sclz _ => false
  | .spopc _ => false
  | .sffs _ => false
  | .smin _ => false
  | .smax _ => false
  | .scmp _ => false
  | .smov _ => false
  | .smovi _ => false
  | .saddi _ => false
  | .ssel _ => false
  | .smcnt _ => false
  | .smfirst _ => false
  | .vfadd _ => false
  | .vfsub _ => false
  | .vfmul _ => false
  | .vfma _ => false
  | .vfmin _ => false
  | .vfmax _ => false
  | .vfcmp _ => false
  | .vfclass _ => false
  | .vfdiv _ => false
  | .vfsqrt _ => false
  | .vfrcp _ => false
  | .vfrsq _ => false
  | .vfexp2 _ => false
  | .vflog2 _ => false
  | .vfsin _ => false
  | .vfcos _ => false
  | .vfrnd _ => false
  | .vffract _ => false
  | .vfldexp _ => false
  | .vfcvt _ => false
  | .vcvtfi _ => false
  | .vcvtif _ => false
  | .vpack _ => false
  | .vunpk _ => false
  | .vfdot2 _ => false
  | .vshuf _ => false
  | .vbcast _ => false
  | .vredu _ => false
  | .vscan _ => false
  | .vxshuf _ => false
  | .vderiv _ => false
  | .vinterp _ => false
  | .nop _ => false
  | .br _ => false
  | .ret _ => false
  | .jmpi _ => false
  | .exit _ => false
  | .ld _ => false
  | .st _ => false
  | .sld _ => false
  | .sst _ => false
  | .atom _ => false
  | .satom _ => false
  | .acall _ => false
  | .pref _ => false
  | .lpin _ => false
  | .lunpin _ => false
  | .blst _ => false
  | .stkpsh _ => false
  | .stkpop _ => false
  | .cpy _ => false
  | .cpyg _ => false
  | .cpys _ => false
  | .cpyr _ => false
  | .cpyx _ => false
  | .mdec _ => false
  | .nbinit _ => false
  | .nbarr _ => false
  | .nbwait _ => false
  | .nbinv _ => false
  | .trace _ => false
  | .mma _ => false
  | .mzero _ => false
  | .mlda _ => false
  | .msta _ => false
  | .mcvt _ => false
  | .mqnt _ => false
  | .boxt _ => false
  | .trit _ => false
  | .regrp _ => false
  | .ringoff _ => false
  | .ringtake _ => false
  | .rhit _ => false
  | .arecv _ => false
  | .areply _ => false
  | .afail _ => false
  | .esarr _ => false
  | .eswait _ => false
  | .esbar _ => false
  | .esbcst _ => false
  | .esrecv _ => false
  | .esred _ => false
  | .estick _ => false
  | .trec _ => false
  | .clkrd _ => false
  | .brk _ => false
  | .trap _ => false
  | .syscall _ => false
  | .mfsr _ => false
  | .mtsr _ => false
  | .eret _ => false
  | .fltrd _ => false
  | .tresume _ => false
  | .tkill _ => false
  | .tsnap _ => false
  | .ctxsave _ => false
  | .ctxrest _ => false
  | .espre _ => false
  | .tlbinv _ => false
  | .haltall _ => false
  | .schedulerPick .. => false
  | .splitMerge .. => false
  | .joinRelease .. => false
  | .yieldLimit .. => false
  | .reggrowGrant .. => false
  | .reggrowStarvation .. => false
  | .regtrimComplete .. => false
  | .trainEnd .. => false
  | .computePassStart .. => false
  | .rungSequencerSpawn .. => false
  | .fixativeRefillComplete .. => false
  | .rasterPrimitive .. => false
  | .loadValueArrival .. => false
  | .sliceBatchApply .. => false
  | .atomicReply .. => false
  | .pageWalkComplete .. => false
  | .tlbInvalidationComplete .. => false
  | .copyCompletion .. => false
  | .mdecCompletion .. => false
  | .matrixOpCompletion .. => false
  | .nbTokenRelease .. => false
  | .nbarrHeldCount .. => false
  | .rayTrainStart .. => false
  | .rayRecordDelivery .. => false
  | .regrpSort .. => false
  | .regrpWaitLimit .. => false
  | .ringOfferWithdrawal .. => false
  | .blendApply .. => false
  | .registrationClose .. => false
  | .accordRequestArrival .. => false
  | .accordBatchDelivery .. => false
  | .accordReplyArrival .. => false
  | .combinerStart .. => false
  | .combinerSlotPass .. => false
  | .vxshufPairing .. => false
  | .vxshufDelivery .. => false
  | .shuffleTimeout .. => false
  | .escapementTick .. => false
  | .escapementEntry .. => false
  | .escapementReleaseDelivery .. => false
  | .escapementBroadcastDelivery .. => false
  | .escapementUncorrectableError .. => false
  | .escapementSignalRepeat .. => false
  | .linkRetirement .. => false
  | .correctableError .. => false
  | .unitRetirement .. => false
  | .watchdog .. => false
  | .eventDelivery .. => false
  | .truncatedDumpClose .. => false
  | .haltBroadcastArrival .. => false
  | .haltComplete .. => false
  | .contextSaveEffect .. => false
  | .syscallReply .. => false
  | .fput .. => false
  | .fget .. => false
  | .fatom .. => false
  | .fabricReply .. => false
  | .traceRecordAppend .. => false
  | .doorbell .. => false
  | .queueProcessorStep .. => false
  | .launchPacket .. => false
  | .launchIndirect .. => false
  | .prologueRerun .. => false
  | .prologueWatchdog .. => false
  | .taskPacket .. => false
  | .tdecPacket .. => false
  | .signalPacket .. => false
  | .waitMemory .. => false
  | .waitMemoryTimeout .. => false
  | .copyPacket .. => false
  | .handoverPacket .. => false
  | .preemptPoint .. => false
  | .packetCompletion .. => false
  | .packetBindingsFit .. => false
  | .workgroupPlacement .. => false
  | .automaticPreemption .. => false
  | .preemptQueue .. => false
  | .resumeQueue .. => false
  | .preemptionSignalArrival .. => false
  | .drainBudgetExpiry .. => false
  | .workgroupSaved .. => false
  | .discardDone .. => false
  | .killContext .. => false
  | .killDone .. => false
  | .haltRelease .. => false
  | .profctlClr .. => false
  | .profctlEn .. => false
  | .profilingCapture .. => false
  | .leaseWrite .. => false
  | .cquotaWrite .. => false
  | .barerrClear .. => false
  | .pinmissClear .. => false
  | .evlostClear .. => false
  | .traceEnable .. => false
  | .trposClear .. => false
  | .trlostClear .. => false
  | .apertureWrite .. => false
  | .hostCxlMemAccess .. => false
  | .quoteRequest .. => false
  | .powerOn .. => false
  | .hbmTrainingComplete .. => false
  | .selfTestComplete .. => false
  | .cxlLinkLoss .. => false
  | .thermalThrottle .. => false
  | .thermalShutdown .. => false
  | .instructionFetchFill .. => false
  | .ctxrestLoadComplete .. => false
  | .uncorrectableErrorFound .. => false
  | .linkFlitRetry .. => false
  | .thermalThrottleEnd .. => false
  | .queueEnable .. => false
  | .fabricInboundRequest .. => false
  | .contextEnd .. => false

/-- The words from the control word to the target of an OFFSET major (R147). -/
def branchOffset : Instr → Option (BitVec 32)
  | .br f => some f.offset
  | .brs f => some f.offset
  | .brv f => some f.offset
  | .brm f => some f.offset
  | .call f => some f.offset
  | .vadd _ => none
  | .vsub _ => none
  | .vmul _ => none
  | .vmulhi _ => none
  | .vmad _ => none
  | .vmin _ => none
  | .vmax _ => none
  | .vabsd _ => none
  | .vand _ => none
  | .vor _ => none
  | .vxor _ => none
  | .vshl _ => none
  | .vshr _ => none
  | .vrot _ => none
  | .vfun _ => none
  | .vbfx _ => none
  | .vbfi _ => none
  | .vclz _ => none
  | .vctz _ => none
  | .vffs _ => none
  | .vpopc _ => none
  | .vbrev _ => none
  | .vcmp _ => none
  | .vsel _ => none
  | .vmov _ => none
  | .vmovi _ => none
  | .vaddi _ => none
  | .vcvti _ => none
  | .vbsinit _ => none
  | .vbsrd _ => none
  | .sadd _ => none
  | .ssub _ => none
  | .smul _ => none
  | .smulhi _ => none
  | .sand _ => none
  | .sor _ => none
  | .sxor _ => none
  | .sshl _ => none
  | .sshr _ => none
  | .sbfx _ => none
  | .sbfi _ => none
  | .sclz _ => none
  | .spopc _ => none
  | .sffs _ => none
  | .smin _ => none
  | .smax _ => none
  | .scmp _ => none
  | .smov _ => none
  | .smovi _ => none
  | .saddi _ => none
  | .ssel _ => none
  | .smcnt _ => none
  | .smfirst _ => none
  | .vfadd _ => none
  | .vfsub _ => none
  | .vfmul _ => none
  | .vfma _ => none
  | .vfmin _ => none
  | .vfmax _ => none
  | .vfcmp _ => none
  | .vfclass _ => none
  | .vfdiv _ => none
  | .vfsqrt _ => none
  | .vfrcp _ => none
  | .vfrsq _ => none
  | .vfexp2 _ => none
  | .vflog2 _ => none
  | .vfsin _ => none
  | .vfcos _ => none
  | .vfrnd _ => none
  | .vffract _ => none
  | .vfldexp _ => none
  | .vfcvt _ => none
  | .vcvtfi _ => none
  | .vcvtif _ => none
  | .vpack _ => none
  | .vunpk _ => none
  | .vfdot2 _ => none
  | .vshuf _ => none
  | .vbcast _ => none
  | .vredu _ => none
  | .vscan _ => none
  | .vxshuf _ => none
  | .vderiv _ => none
  | .vinterp _ => none
  | .nop _ => none
  | .ret _ => none
  | .jmpi _ => none
  | .sjoin _ => none
  | .wait _ => none
  | .exit _ => none
  | .yield _ => none
  | .reggrow _ => none
  | .regtrim _ => none
  | .kills _ => none
  | .emitv _ => none
  | .emitp _ => none
  | .fxrel _ => none
  | .tdec _ => none
  | .tinc _ => none
  | .ld _ => none
  | .st _ => none
  | .sld _ => none
  | .sst _ => none
  | .atom _ => none
  | .satom _ => none
  | .acall _ => none
  | .pref _ => none
  | .lpin _ => none
  | .lunpin _ => none
  | .blst _ => none
  | .stkpsh _ => none
  | .stkpop _ => none
  | .cpy _ => none
  | .cpyg _ => none
  | .cpys _ => none
  | .cpyr _ => none
  | .cpyx _ => none
  | .mdec _ => none
  | .nbinit _ => none
  | .nbarr _ => none
  | .nbwait _ => none
  | .nbinv _ => none
  | .trace _ => none
  | .mma _ => none
  | .mzero _ => none
  | .mlda _ => none
  | .msta _ => none
  | .mcvt _ => none
  | .mqnt _ => none
  | .boxt _ => none
  | .trit _ => none
  | .regrp _ => none
  | .ringoff _ => none
  | .ringtake _ => none
  | .rhit _ => none
  | .arecv _ => none
  | .areply _ => none
  | .afail _ => none
  | .esarr _ => none
  | .eswait _ => none
  | .esbar _ => none
  | .esbcst _ => none
  | .esrecv _ => none
  | .esred _ => none
  | .estick _ => none
  | .trec _ => none
  | .clkrd _ => none
  | .brk _ => none
  | .trap _ => none
  | .syscall _ => none
  | .mfsr _ => none
  | .mtsr _ => none
  | .eret _ => none
  | .fltrd _ => none
  | .tresume _ => none
  | .tkill _ => none
  | .tsnap _ => none
  | .ctxsave _ => none
  | .ctxrest _ => none
  | .espre _ => none
  | .tlbinv _ => none
  | .haltall _ => none
  | .schedulerPick .. => none
  | .splitMerge .. => none
  | .joinRelease .. => none
  | .yieldLimit .. => none
  | .reggrowGrant .. => none
  | .reggrowStarvation .. => none
  | .regtrimComplete .. => none
  | .trainEnd .. => none
  | .computePassStart .. => none
  | .rungSequencerSpawn .. => none
  | .fixativeRefillComplete .. => none
  | .rasterPrimitive .. => none
  | .loadValueArrival .. => none
  | .sliceBatchApply .. => none
  | .atomicReply .. => none
  | .pageWalkComplete .. => none
  | .tlbInvalidationComplete .. => none
  | .copyCompletion .. => none
  | .mdecCompletion .. => none
  | .matrixOpCompletion .. => none
  | .nbTokenRelease .. => none
  | .nbarrHeldCount .. => none
  | .rayTrainStart .. => none
  | .rayRecordDelivery .. => none
  | .regrpSort .. => none
  | .regrpWaitLimit .. => none
  | .ringOfferWithdrawal .. => none
  | .blendApply .. => none
  | .registrationClose .. => none
  | .accordRequestArrival .. => none
  | .accordBatchDelivery .. => none
  | .accordReplyArrival .. => none
  | .combinerStart .. => none
  | .combinerSlotPass .. => none
  | .vxshufPairing .. => none
  | .vxshufDelivery .. => none
  | .shuffleTimeout .. => none
  | .escapementTick .. => none
  | .escapementEntry .. => none
  | .escapementReleaseDelivery .. => none
  | .escapementBroadcastDelivery .. => none
  | .escapementUncorrectableError .. => none
  | .escapementSignalRepeat .. => none
  | .linkRetirement .. => none
  | .correctableError .. => none
  | .unitRetirement .. => none
  | .watchdog .. => none
  | .eventDelivery .. => none
  | .truncatedDumpClose .. => none
  | .haltBroadcastArrival .. => none
  | .haltComplete .. => none
  | .contextSaveEffect .. => none
  | .syscallReply .. => none
  | .fput .. => none
  | .fget .. => none
  | .fatom .. => none
  | .fabricReply .. => none
  | .traceRecordAppend .. => none
  | .doorbell .. => none
  | .queueProcessorStep .. => none
  | .launchPacket .. => none
  | .launchIndirect .. => none
  | .prologueRerun .. => none
  | .prologueWatchdog .. => none
  | .taskPacket .. => none
  | .tdecPacket .. => none
  | .signalPacket .. => none
  | .waitMemory .. => none
  | .waitMemoryTimeout .. => none
  | .copyPacket .. => none
  | .handoverPacket .. => none
  | .preemptPoint .. => none
  | .packetCompletion .. => none
  | .packetBindingsFit .. => none
  | .workgroupPlacement .. => none
  | .automaticPreemption .. => none
  | .preemptQueue .. => none
  | .resumeQueue .. => none
  | .preemptionSignalArrival .. => none
  | .drainBudgetExpiry .. => none
  | .workgroupSaved .. => none
  | .discardDone .. => none
  | .killContext .. => none
  | .killDone .. => none
  | .haltRelease .. => none
  | .profctlClr .. => none
  | .profctlEn .. => none
  | .profilingCapture .. => none
  | .leaseWrite .. => none
  | .cquotaWrite .. => none
  | .barerrClear .. => none
  | .pinmissClear .. => none
  | .evlostClear .. => none
  | .traceEnable .. => none
  | .trposClear .. => none
  | .trlostClear .. => none
  | .apertureWrite .. => none
  | .hostCxlMemAccess .. => none
  | .quoteRequest .. => none
  | .powerOn .. => none
  | .hbmTrainingComplete .. => none
  | .selfTestComplete .. => none
  | .cxlLinkLoss .. => none
  | .thermalThrottle .. => none
  | .thermalShutdown .. => none
  | .instructionFetchFill .. => none
  | .ctxrestLoadComplete .. => none
  | .uncorrectableErrorFound .. => none
  | .linkFlitRetry .. => none
  | .thermalThrottleEnd .. => none
  | .queueEnable .. => none
  | .fabricInboundRequest .. => none
  | .contextEnd .. => none

/-- The tiles an instruction names in its own word (R233). -/
def tilesOf : Instr → List Nat
  | .mma f => [bits f.imm.toNat 0 6]
  | .mzero f => [bits f.imm.toNat 0 6]
  | .mlda f => [bits f.imm.toNat 0 6]
  | .msta f => [bits f.imm.toNat 0 6]
  | .mqnt f => [bits f.imm.toNat 0 6]
  | .mcvt f => [bits f.imm.toNat 0 6 + (if f.minor == 3 then 1 else 0), bits f.imm.toNat 6 6 + (if f.minor == 0 then 1 else 0)]
  | .vadd _ => []
  | .vsub _ => []
  | .vmul _ => []
  | .vmulhi _ => []
  | .vmad _ => []
  | .vmin _ => []
  | .vmax _ => []
  | .vabsd _ => []
  | .vand _ => []
  | .vor _ => []
  | .vxor _ => []
  | .vshl _ => []
  | .vshr _ => []
  | .vrot _ => []
  | .vfun _ => []
  | .vbfx _ => []
  | .vbfi _ => []
  | .vclz _ => []
  | .vctz _ => []
  | .vffs _ => []
  | .vpopc _ => []
  | .vbrev _ => []
  | .vcmp _ => []
  | .vsel _ => []
  | .vmov _ => []
  | .vmovi _ => []
  | .vaddi _ => []
  | .vcvti _ => []
  | .vbsinit _ => []
  | .vbsrd _ => []
  | .sadd _ => []
  | .ssub _ => []
  | .smul _ => []
  | .smulhi _ => []
  | .sand _ => []
  | .sor _ => []
  | .sxor _ => []
  | .sshl _ => []
  | .sshr _ => []
  | .sbfx _ => []
  | .sbfi _ => []
  | .sclz _ => []
  | .spopc _ => []
  | .sffs _ => []
  | .smin _ => []
  | .smax _ => []
  | .scmp _ => []
  | .smov _ => []
  | .smovi _ => []
  | .saddi _ => []
  | .ssel _ => []
  | .smcnt _ => []
  | .smfirst _ => []
  | .vfadd _ => []
  | .vfsub _ => []
  | .vfmul _ => []
  | .vfma _ => []
  | .vfmin _ => []
  | .vfmax _ => []
  | .vfcmp _ => []
  | .vfclass _ => []
  | .vfdiv _ => []
  | .vfsqrt _ => []
  | .vfrcp _ => []
  | .vfrsq _ => []
  | .vfexp2 _ => []
  | .vflog2 _ => []
  | .vfsin _ => []
  | .vfcos _ => []
  | .vfrnd _ => []
  | .vffract _ => []
  | .vfldexp _ => []
  | .vfcvt _ => []
  | .vcvtfi _ => []
  | .vcvtif _ => []
  | .vpack _ => []
  | .vunpk _ => []
  | .vfdot2 _ => []
  | .vshuf _ => []
  | .vbcast _ => []
  | .vredu _ => []
  | .vscan _ => []
  | .vxshuf _ => []
  | .vderiv _ => []
  | .vinterp _ => []
  | .nop _ => []
  | .br _ => []
  | .brs _ => []
  | .brv _ => []
  | .brm _ => []
  | .call _ => []
  | .ret _ => []
  | .jmpi _ => []
  | .sjoin _ => []
  | .wait _ => []
  | .exit _ => []
  | .yield _ => []
  | .reggrow _ => []
  | .regtrim _ => []
  | .kills _ => []
  | .emitv _ => []
  | .emitp _ => []
  | .fxrel _ => []
  | .tdec _ => []
  | .tinc _ => []
  | .ld _ => []
  | .st _ => []
  | .sld _ => []
  | .sst _ => []
  | .atom _ => []
  | .satom _ => []
  | .acall _ => []
  | .pref _ => []
  | .lpin _ => []
  | .lunpin _ => []
  | .blst _ => []
  | .stkpsh _ => []
  | .stkpop _ => []
  | .cpy _ => []
  | .cpyg _ => []
  | .cpys _ => []
  | .cpyr _ => []
  | .cpyx _ => []
  | .mdec _ => []
  | .nbinit _ => []
  | .nbarr _ => []
  | .nbwait _ => []
  | .nbinv _ => []
  | .trace _ => []
  | .boxt _ => []
  | .trit _ => []
  | .regrp _ => []
  | .ringoff _ => []
  | .ringtake _ => []
  | .rhit _ => []
  | .arecv _ => []
  | .areply _ => []
  | .afail _ => []
  | .esarr _ => []
  | .eswait _ => []
  | .esbar _ => []
  | .esbcst _ => []
  | .esrecv _ => []
  | .esred _ => []
  | .estick _ => []
  | .trec _ => []
  | .clkrd _ => []
  | .brk _ => []
  | .trap _ => []
  | .syscall _ => []
  | .mfsr _ => []
  | .mtsr _ => []
  | .eret _ => []
  | .fltrd _ => []
  | .tresume _ => []
  | .tkill _ => []
  | .tsnap _ => []
  | .ctxsave _ => []
  | .ctxrest _ => []
  | .espre _ => []
  | .tlbinv _ => []
  | .haltall _ => []
  | .schedulerPick .. => []
  | .splitMerge .. => []
  | .joinRelease .. => []
  | .yieldLimit .. => []
  | .reggrowGrant .. => []
  | .reggrowStarvation .. => []
  | .regtrimComplete .. => []
  | .trainEnd .. => []
  | .computePassStart .. => []
  | .rungSequencerSpawn .. => []
  | .fixativeRefillComplete .. => []
  | .rasterPrimitive .. => []
  | .loadValueArrival .. => []
  | .sliceBatchApply .. => []
  | .atomicReply .. => []
  | .pageWalkComplete .. => []
  | .tlbInvalidationComplete .. => []
  | .copyCompletion .. => []
  | .mdecCompletion .. => []
  | .matrixOpCompletion .. => []
  | .nbTokenRelease .. => []
  | .nbarrHeldCount .. => []
  | .rayTrainStart .. => []
  | .rayRecordDelivery .. => []
  | .regrpSort .. => []
  | .regrpWaitLimit .. => []
  | .ringOfferWithdrawal .. => []
  | .blendApply .. => []
  | .registrationClose .. => []
  | .accordRequestArrival .. => []
  | .accordBatchDelivery .. => []
  | .accordReplyArrival .. => []
  | .combinerStart .. => []
  | .combinerSlotPass .. => []
  | .vxshufPairing .. => []
  | .vxshufDelivery .. => []
  | .shuffleTimeout .. => []
  | .escapementTick .. => []
  | .escapementEntry .. => []
  | .escapementReleaseDelivery .. => []
  | .escapementBroadcastDelivery .. => []
  | .escapementUncorrectableError .. => []
  | .escapementSignalRepeat .. => []
  | .linkRetirement .. => []
  | .correctableError .. => []
  | .unitRetirement .. => []
  | .watchdog .. => []
  | .eventDelivery .. => []
  | .truncatedDumpClose .. => []
  | .haltBroadcastArrival .. => []
  | .haltComplete .. => []
  | .contextSaveEffect .. => []
  | .syscallReply .. => []
  | .fput .. => []
  | .fget .. => []
  | .fatom .. => []
  | .fabricReply .. => []
  | .traceRecordAppend .. => []
  | .doorbell .. => []
  | .queueProcessorStep .. => []
  | .launchPacket .. => []
  | .launchIndirect .. => []
  | .prologueRerun .. => []
  | .prologueWatchdog .. => []
  | .taskPacket .. => []
  | .tdecPacket .. => []
  | .signalPacket .. => []
  | .waitMemory .. => []
  | .waitMemoryTimeout .. => []
  | .copyPacket .. => []
  | .handoverPacket .. => []
  | .preemptPoint .. => []
  | .packetCompletion .. => []
  | .packetBindingsFit .. => []
  | .workgroupPlacement .. => []
  | .automaticPreemption .. => []
  | .preemptQueue .. => []
  | .resumeQueue .. => []
  | .preemptionSignalArrival .. => []
  | .drainBudgetExpiry .. => []
  | .workgroupSaved .. => []
  | .discardDone .. => []
  | .killContext .. => []
  | .killDone .. => []
  | .haltRelease .. => []
  | .profctlClr .. => []
  | .profctlEn .. => []
  | .profilingCapture .. => []
  | .leaseWrite .. => []
  | .cquotaWrite .. => []
  | .barerrClear .. => []
  | .pinmissClear .. => []
  | .evlostClear .. => []
  | .traceEnable .. => []
  | .trposClear .. => []
  | .trlostClear .. => []
  | .apertureWrite .. => []
  | .hostCxlMemAccess .. => []
  | .quoteRequest .. => []
  | .powerOn .. => []
  | .hbmTrainingComplete .. => []
  | .selfTestComplete .. => []
  | .cxlLinkLoss .. => []
  | .thermalThrottle .. => []
  | .thermalShutdown .. => []
  | .instructionFetchFill .. => []
  | .ctxrestLoadComplete .. => []
  | .uncorrectableErrorFound .. => []
  | .linkFlitRetry .. => []
  | .thermalThrottleEnd .. => []
  | .queueEnable .. => []
  | .fabricInboundRequest .. => []
  | .contextEnd .. => []

end Sys2Proof.Machine
end

