-- ==== Sys2Proof/WellFormed.lean ====
section
/-! DEFINITION. Well-formed instructions: those whose fields break no rule that the word alone decides
(spec/04_formats_opcode_map.md R75 to R84; the checks stand in Machine/Fields.lean). -/

namespace Sys2Proof

/-- The MINOR, OP or operation is listed, and every field is legal. -/
def Instr.wellFormed (i : Instr) : Bool := Machine.opcodeListed i && Machine.fieldsOk i

end Sys2Proof
end

