-- ==== Sys2Proof/Decode.lean ====
section
/-! DEFINITION. The decoder and the encoder of native words (spec/04_formats_opcode_map.md R71, R75, R84, R85; Tables 4.1,
4.2 and 4.8 to 4.14). Decoding refuses a word by check 1 of R85 alone; the other checks of R85 need the train that
fetches the word and stand in Machine/Fields.lean and Machine/RunCheck.lean. -/

namespace Sys2Proof

/-- Why the decoder refuses. -/
inductive Reject where
  /-- Fewer than the eight bytes of a word. -/
  | tooShort
  /-- R85 check 1: the major is unassigned (0x00 of the all-zero word among them), or the MINOR, OP or ESRED operation is
  not listed for it. -/
  | illegalOpcode
  deriving DecidableEq, Repr

/-- The body of format V3 (Table 4.2). -/
def packV3 (f : FmtV3) : BitVec 52 :=
  f.d ++ f.a ++ f.b ++ f.c ++ f.rnd ++ f.sat ++ f.neg ++ f.abs ++ f.minor ++ f.ty

/-- The fields of a format V3 body (Table 4.2). -/
def unpackV3 (b : BitVec 52) : FmtV3 :=
  { d := b.extractLsb' 43 9,
    a := b.extractLsb' 34 9,
    b := b.extractLsb' 25 9,
    c := b.extractLsb' 16 9,
    rnd := b.extractLsb' 13 3,
    sat := b.extractLsb' 12 1,
    neg := b.extractLsb' 9 3,
    abs := b.extractLsb' 6 3,
    minor := b.extractLsb' 3 3,
    ty := b.extractLsb' 0 3 }

/-- The body of format VI (Table 4.2). -/
def packVI (f : FmtVI) : BitVec 52 :=
  f.d ++ f.a ++ f.minor ++ f.imm

/-- The fields of a format VI body (Table 4.2). -/
def unpackVI (b : BitVec 52) : FmtVI :=
  { d := b.extractLsb' 43 9,
    a := b.extractLsb' 34 9,
    minor := b.extractLsb' 32 2,
    imm := b.extractLsb' 0 32 }

/-- The body of format S3 (Table 4.2). -/
def packS3 (f : FmtS3) : BitVec 52 :=
  f.d ++ f.a ++ f.b ++ f.c ++ f.rnd ++ f.sat ++ f.minor ++ f.ty ++ f.res

/-- The fields of a format S3 body (Table 4.2). -/
def unpackS3 (b : BitVec 52) : FmtS3 :=
  { d := b.extractLsb' 45 7,
    a := b.extractLsb' 38 7,
    b := b.extractLsb' 31 7,
    c := b.extractLsb' 24 7,
    rnd := b.extractLsb' 21 3,
    sat := b.extractLsb' 20 1,
    minor := b.extractLsb' 14 6,
    ty := b.extractLsb' 11 3,
    res := b.extractLsb' 0 11 }

/-- The body of format SI (Table 4.2). -/
def packSI (f : FmtSI) : BitVec 52 :=
  f.d ++ f.a ++ f.minor ++ f.imm

/-- The fields of a format SI body (Table 4.2). -/
def unpackSI (b : BitVec 52) : FmtSI :=
  { d := b.extractLsb' 45 7,
    a := b.extractLsb' 38 7,
    minor := b.extractLsb' 32 6,
    imm := b.extractLsb' 0 32 }

/-- The body of format M (Table 4.2). -/
def packM (f : FmtM) : BitVec 52 :=
  f.d ++ f.base ++ f.ofs ++ f.size ++ f.space ++ f.minor ++ f.disp

/-- The fields of a format M body (Table 4.2). -/
def unpackM (b : BitVec 52) : FmtM :=
  { d := b.extractLsb' 43 9,
    base := b.extractLsb' 36 7,
    ofs := b.extractLsb' 27 9,
    size := b.extractLsb' 24 3,
    space := b.extractLsb' 22 2,
    minor := b.extractLsb' 20 2,
    disp := b.extractLsb' 0 20 }

/-- The body of format MA (Table 4.2). -/
def packMA (f : FmtMA) : BitVec 52 :=
  f.d ++ f.base ++ f.ofs ++ f.src ++ f.op ++ f.width ++ f.disp

/-- The fields of a format MA body (Table 4.2). -/
def unpackMA (b : BitVec 52) : FmtMA :=
  { d := b.extractLsb' 43 9,
    base := b.extractLsb' 36 7,
    ofs := b.extractLsb' 27 9,
    src := b.extractLsb' 18 9,
    op := b.extractLsb' 13 5,
    width := b.extractLsb' 11 2,
    disp := b.extractLsb' 0 11 }

/-- The body of format C (Table 4.2). -/
def packC (f : FmtC) : BitVec 52 :=
  f.cond ++ f.sa ++ f.minor ++ f.offset

/-- The fields of a format C body (Table 4.2). -/
def unpackC (b : BitVec 52) : FmtC :=
  { cond := b.extractLsb' 48 4,
    sa := b.extractLsb' 41 7,
    minor := b.extractLsb' 32 9,
    offset := b.extractLsb' 0 32 }

/-- The body of format A (Table 4.2). -/
def packA (f : FmtA) : BitVec 52 :=
  f.tok ++ f.desc ++ f.desc2 ++ f.nb ++ f.arr ++ f.minor ++ f.imm

/-- The fields of a format A body (Table 4.2). -/
def unpackA (b : BitVec 52) : FmtA :=
  { tok := b.extractLsb' 45 7,
    desc := b.extractLsb' 38 7,
    desc2 := b.extractLsb' 31 7,
    nb := b.extractLsb' 27 4,
    arr := b.extractLsb' 26 1,
    minor := b.extractLsb' 20 6,
    imm := b.extractLsb' 0 20 }

/-- The body of format X (Table 4.2). -/
def packX (f : FmtX) : BitVec 52 :=
  f.minor ++ f.sa ++ f.sb ++ f.imm

/-- The fields of a format X body (Table 4.2). -/
def unpackX (b : BitVec 52) : FmtX :=
  { minor := b.extractLsb' 44 8,
    sa := b.extractLsb' 37 7,
    sb := b.extractLsb' 30 7,
    imm := b.extractLsb' 0 30 }

/-- The instruction a major and a body name (Tables 4.8 to 4.14). -/
def ofMajor (major : Nat) (b : BitVec 52) : Option Instr :=
  match major with
  | 0x01 => some (.nop (unpackX b))
  | 0x10 => some (.vadd (unpackV3 b))
  | 0x11 => some (.vsub (unpackV3 b))
  | 0x12 => some (.vmul (unpackV3 b))
  | 0x13 => some (.vmulhi (unpackV3 b))
  | 0x14 => some (.vmad (unpackV3 b))
  | 0x15 => some (.vmin (unpackV3 b))
  | 0x16 => some (.vmax (unpackV3 b))
  | 0x17 => some (.vabsd (unpackV3 b))
  | 0x18 => some (.vand (unpackV3 b))
  | 0x19 => some (.vor (unpackV3 b))
  | 0x1A => some (.vxor (unpackV3 b))
  | 0x1B => some (.vshl (unpackV3 b))
  | 0x1C => some (.vshr (unpackV3 b))
  | 0x1D => some (.vrot (unpackV3 b))
  | 0x1E => some (.vfun (unpackV3 b))
  | 0x1F => some (.vbfx (unpackV3 b))
  | 0x20 => some (.vbfi (unpackV3 b))
  | 0x21 => some (.vclz (unpackV3 b))
  | 0x22 => some (.vctz (unpackV3 b))
  | 0x23 => some (.vffs (unpackV3 b))
  | 0x24 => some (.vpopc (unpackV3 b))
  | 0x25 => some (.vbrev (unpackV3 b))
  | 0x26 => some (.vcmp (unpackV3 b))
  | 0x27 => some (.vsel (unpackV3 b))
  | 0x28 => some (.vmov (unpackV3 b))
  | 0x29 => some (.vmovi (unpackVI b))
  | 0x2A => some (.vaddi (unpackVI b))
  | 0x2B => some (.vcvti (unpackV3 b))
  | 0x2C => some (.vbsrd (unpackV3 b))
  | 0x2D => some (.vbsinit (unpackV3 b))
  | 0x30 => some (.sadd (unpackS3 b))
  | 0x31 => some (.ssub (unpackS3 b))
  | 0x32 => some (.smul (unpackS3 b))
  | 0x33 => some (.smulhi (unpackS3 b))
  | 0x34 => some (.sand (unpackS3 b))
  | 0x35 => some (.sor (unpackS3 b))
  | 0x36 => some (.sxor (unpackS3 b))
  | 0x37 => some (.sshl (unpackS3 b))
  | 0x38 => some (.sshr (unpackS3 b))
  | 0x39 => some (.sbfx (unpackS3 b))
  | 0x3A => some (.sbfi (unpackS3 b))
  | 0x3B => some (.sclz (unpackS3 b))
  | 0x3C => some (.spopc (unpackS3 b))
  | 0x3D => some (.sffs (unpackS3 b))
  | 0x3E => some (.smin (unpackS3 b))
  | 0x3F => some (.smax (unpackS3 b))
  | 0x40 => some (.scmp (unpackS3 b))
  | 0x41 => some (.smov (unpackS3 b))
  | 0x42 => some (.smovi (unpackSI b))
  | 0x43 => some (.saddi (unpackSI b))
  | 0x44 => some (.ssel (unpackS3 b))
  | 0x45 => some (.smcnt (unpackS3 b))
  | 0x46 => some (.smfirst (unpackS3 b))
  | 0x50 => some (.vfadd (unpackV3 b))
  | 0x51 => some (.vfsub (unpackV3 b))
  | 0x52 => some (.vfmul (unpackV3 b))
  | 0x53 => some (.vfma (unpackV3 b))
  | 0x54 => some (.vfmin (unpackV3 b))
  | 0x55 => some (.vfmax (unpackV3 b))
  | 0x56 => some (.vfcmp (unpackV3 b))
  | 0x57 => some (.vfclass (unpackV3 b))
  | 0x58 => some (.vfdiv (unpackV3 b))
  | 0x59 => some (.vfsqrt (unpackV3 b))
  | 0x5A => some (.vfrcp (unpackV3 b))
  | 0x5B => some (.vfrsq (unpackV3 b))
  | 0x5C => some (.vfexp2 (unpackV3 b))
  | 0x5D => some (.vflog2 (unpackV3 b))
  | 0x5E => some (.vfsin (unpackV3 b))
  | 0x5F => some (.vfcos (unpackV3 b))
  | 0x60 => some (.vfrnd (unpackV3 b))
  | 0x61 => some (.vffract (unpackV3 b))
  | 0x62 => some (.vfldexp (unpackV3 b))
  | 0x63 => some (.vfcvt (unpackV3 b))
  | 0x64 => some (.vcvtfi (unpackV3 b))
  | 0x65 => some (.vcvtif (unpackV3 b))
  | 0x66 => some (.vpack (unpackV3 b))
  | 0x67 => some (.vunpk (unpackV3 b))
  | 0x68 => some (.vfdot2 (unpackV3 b))
  | 0x70 => some (.vshuf (unpackV3 b))
  | 0x71 => some (.vbcast (unpackV3 b))
  | 0x72 => some (.vredu (unpackV3 b))
  | 0x73 => some (.vscan (unpackV3 b))
  | 0x74 => some (.vxshuf (unpackV3 b))
  | 0x75 => some (.vderiv (unpackV3 b))
  | 0x76 => some (.vinterp (unpackV3 b))
  | 0x78 => some (.br (unpackC b))
  | 0x79 => some (.brs (unpackC b))
  | 0x7A => some (.brv (unpackC b))
  | 0x7B => some (.brm (unpackC b))
  | 0x7C => some (.call (unpackC b))
  | 0x7D => some (.ret (unpackC b))
  | 0x7E => some (.jmpi (unpackC b))
  | 0x7F => some (.sjoin (unpackC b))
  | 0x80 => some (.wait (unpackC b))
  | 0x81 => some (.exit (unpackC b))
  | 0x82 => some (.yield (unpackC b))
  | 0x83 => some (.reggrow (unpackC b))
  | 0x84 => some (.regtrim (unpackC b))
  | 0x85 => some (.kills (unpackC b))
  | 0x86 => some (.emitv (unpackC b))
  | 0x87 => some (.emitp (unpackC b))
  | 0x88 => some (.fxrel (unpackC b))
  | 0x89 => some (.tdec (unpackC b))
  | 0x8A => some (.tinc (unpackC b))
  | 0x90 => some (.ld (unpackM b))
  | 0x91 => some (.st (unpackM b))
  | 0x92 => some (.sld (unpackM b))
  | 0x93 => some (.sst (unpackM b))
  | 0x94 => some (.atom (unpackMA b))
  | 0x96 => some (.satom (unpackMA b))
  | 0x97 => some (.acall (unpackMA b))
  | 0x98 => some (.pref (unpackM b))
  | 0x99 => some (.lpin (unpackM b))
  | 0x9A => some (.lunpin (unpackM b))
  | 0x9B => some (.blst (unpackM b))
  | 0xA0 => some (.cpy (unpackA b))
  | 0xA1 => some (.cpyg (unpackA b))
  | 0xA2 => some (.cpys (unpackA b))
  | 0xA3 => some (.cpyr (unpackA b))
  | 0xA4 => some (.cpyx (unpackA b))
  | 0xA5 => some (.mdec (unpackA b))
  | 0xA6 => some (.nbinit (unpackA b))
  | 0xA7 => some (.nbarr (unpackA b))
  | 0xA8 => some (.nbwait (unpackA b))
  | 0xA9 => some (.nbinv (unpackA b))
  | 0xAA => some (.trace (unpackA b))
  | 0xB0 => some (.mma (unpackA b))
  | 0xB1 => some (.mzero (unpackA b))
  | 0xB2 => some (.mlda (unpackA b))
  | 0xB3 => some (.msta (unpackA b))
  | 0xB4 => some (.mcvt (unpackA b))
  | 0xB5 => some (.mqnt (unpackA b))
  | 0xB8 => some (.boxt (unpackV3 b))
  | 0xB9 => some (.trit (unpackV3 b))
  | 0xBA => some (.stkpsh (unpackM b))
  | 0xBB => some (.stkpop (unpackM b))
  | 0xBC => some (.regrp (unpackA b))
  | 0xBD => some (.ringoff (unpackA b))
  | 0xBE => some (.ringtake (unpackA b))
  | 0xBF => some (.rhit (unpackV3 b))
  | 0xC0 => some (.arecv (unpackA b))
  | 0xC1 => some (.areply (unpackA b))
  | 0xC2 => some (.afail (unpackA b))
  | 0xC4 => some (.esarr (unpackSI b))
  | 0xC5 => some (.eswait (unpackSI b))
  | 0xC6 => some (.esbar (unpackSI b))
  | 0xC7 => some (.esbcst (unpackSI b))
  | 0xC8 => some (.esrecv (unpackSI b))
  | 0xC9 => some (.esred (unpackSI b))
  | 0xCA => some (.estick (unpackSI b))
  | 0xCC => some (.trec (unpackSI b))
  | 0xCD => some (.clkrd (unpackSI b))
  | 0xCE => some (.brk (unpackSI b))
  | 0xE0 => some (.trap (unpackX b))
  | 0xE1 => some (.syscall (unpackX b))
  | 0xE2 => some (.mfsr (unpackX b))
  | 0xE3 => some (.mtsr (unpackX b))
  | 0xE4 => some (.eret (unpackX b))
  | 0xE5 => some (.fltrd (unpackX b))
  | 0xE6 => some (.tresume (unpackX b))
  | 0xE7 => some (.tkill (unpackX b))
  | 0xE8 => some (.tsnap (unpackX b))
  | 0xE9 => some (.ctxsave (unpackX b))
  | 0xEA => some (.ctxrest (unpackX b))
  | 0xEB => some (.espre (unpackX b))
  | 0xEC => some (.tlbinv (unpackX b))
  | 0xED => some (.haltall (unpackX b))
  | _ => none

/-- The MAJOR field of an instruction; none for an event, which has no word. -/
def majorOf : Instr → Option (BitVec 8)
  | .vadd _ => some 0x10#8
  | .vsub _ => some 0x11#8
  | .vmul _ => some 0x12#8
  | .vmulhi _ => some 0x13#8
  | .vmad _ => some 0x14#8
  | .vmin _ => some 0x15#8
  | .vmax _ => some 0x16#8
  | .vabsd _ => some 0x17#8
  | .vand _ => some 0x18#8
  | .vor _ => some 0x19#8
  | .vxor _ => some 0x1A#8
  | .vshl _ => some 0x1B#8
  | .vshr _ => some 0x1C#8
  | .vrot _ => some 0x1D#8
  | .vfun _ => some 0x1E#8
  | .vbfx _ => some 0x1F#8
  | .vbfi _ => some 0x20#8
  | .vclz _ => some 0x21#8
  | .vctz _ => some 0x22#8
  | .vffs _ => some 0x23#8
  | .vpopc _ => some 0x24#8
  | .vbrev _ => some 0x25#8
  | .vcmp _ => some 0x26#8
  | .vsel _ => some 0x27#8
  | .vmov _ => some 0x28#8
  | .vmovi _ => some 0x29#8
  | .vaddi _ => some 0x2A#8
  | .vcvti _ => some 0x2B#8
  | .vbsinit _ => some 0x2D#8
  | .vbsrd _ => some 0x2C#8
  | .sadd _ => some 0x30#8
  | .ssub _ => some 0x31#8
  | .smul _ => some 0x32#8
  | .smulhi _ => some 0x33#8
  | .sand _ => some 0x34#8
  | .sor _ => some 0x35#8
  | .sxor _ => some 0x36#8
  | .sshl _ => some 0x37#8
  | .sshr _ => some 0x38#8
  | .sbfx _ => some 0x39#8
  | .sbfi _ => some 0x3A#8
  | .sclz _ => some 0x3B#8
  | .spopc _ => some 0x3C#8
  | .sffs _ => some 0x3D#8
  | .smin _ => some 0x3E#8
  | .smax _ => some 0x3F#8
  | .scmp _ => some 0x40#8
  | .smov _ => some 0x41#8
  | .smovi _ => some 0x42#8
  | .saddi _ => some 0x43#8
  | .ssel _ => some 0x44#8
  | .smcnt _ => some 0x45#8
  | .smfirst _ => some 0x46#8
  | .vfadd _ => some 0x50#8
  | .vfsub _ => some 0x51#8
  | .vfmul _ => some 0x52#8
  | .vfma _ => some 0x53#8
  | .vfmin _ => some 0x54#8
  | .vfmax _ => some 0x55#8
  | .vfcmp _ => some 0x56#8
  | .vfclass _ => some 0x57#8
  | .vfdiv _ => some 0x58#8
  | .vfsqrt _ => some 0x59#8
  | .vfrcp _ => some 0x5A#8
  | .vfrsq _ => some 0x5B#8
  | .vfexp2 _ => some 0x5C#8
  | .vflog2 _ => some 0x5D#8
  | .vfsin _ => some 0x5E#8
  | .vfcos _ => some 0x5F#8
  | .vfrnd _ => some 0x60#8
  | .vffract _ => some 0x61#8
  | .vfldexp _ => some 0x62#8
  | .vfcvt _ => some 0x63#8
  | .vcvtfi _ => some 0x64#8
  | .vcvtif _ => some 0x65#8
  | .vpack _ => some 0x66#8
  | .vunpk _ => some 0x67#8
  | .vfdot2 _ => some 0x68#8
  | .vshuf _ => some 0x70#8
  | .vbcast _ => some 0x71#8
  | .vredu _ => some 0x72#8
  | .vscan _ => some 0x73#8
  | .vxshuf _ => some 0x74#8
  | .vderiv _ => some 0x75#8
  | .vinterp _ => some 0x76#8
  | .nop _ => some 0x01#8
  | .br _ => some 0x78#8
  | .brs _ => some 0x79#8
  | .brv _ => some 0x7A#8
  | .brm _ => some 0x7B#8
  | .call _ => some 0x7C#8
  | .ret _ => some 0x7D#8
  | .jmpi _ => some 0x7E#8
  | .sjoin _ => some 0x7F#8
  | .wait _ => some 0x80#8
  | .exit _ => some 0x81#8
  | .yield _ => some 0x82#8
  | .reggrow _ => some 0x83#8
  | .regtrim _ => some 0x84#8
  | .kills _ => some 0x85#8
  | .emitv _ => some 0x86#8
  | .emitp _ => some 0x87#8
  | .fxrel _ => some 0x88#8
  | .tdec _ => some 0x89#8
  | .tinc _ => some 0x8A#8
  | .ld _ => some 0x90#8
  | .st _ => some 0x91#8
  | .sld _ => some 0x92#8
  | .sst _ => some 0x93#8
  | .atom _ => some 0x94#8
  | .satom _ => some 0x96#8
  | .acall _ => some 0x97#8
  | .pref _ => some 0x98#8
  | .lpin _ => some 0x99#8
  | .lunpin _ => some 0x9A#8
  | .blst _ => some 0x9B#8
  | .stkpsh _ => some 0xBA#8
  | .stkpop _ => some 0xBB#8
  | .cpy _ => some 0xA0#8
  | .cpyg _ => some 0xA1#8
  | .cpys _ => some 0xA2#8
  | .cpyr _ => some 0xA3#8
  | .cpyx _ => some 0xA4#8
  | .mdec _ => some 0xA5#8
  | .nbinit _ => some 0xA6#8
  | .nbarr _ => some 0xA7#8
  | .nbwait _ => some 0xA8#8
  | .nbinv _ => some 0xA9#8
  | .trace _ => some 0xAA#8
  | .mma _ => some 0xB0#8
  | .mzero _ => some 0xB1#8
  | .mlda _ => some 0xB2#8
  | .msta _ => some 0xB3#8
  | .mcvt _ => some 0xB4#8
  | .mqnt _ => some 0xB5#8
  | .boxt _ => some 0xB8#8
  | .trit _ => some 0xB9#8
  | .regrp _ => some 0xBC#8
  | .ringoff _ => some 0xBD#8
  | .ringtake _ => some 0xBE#8
  | .rhit _ => some 0xBF#8
  | .arecv _ => some 0xC0#8
  | .areply _ => some 0xC1#8
  | .afail _ => some 0xC2#8
  | .esarr _ => some 0xC4#8
  | .eswait _ => some 0xC5#8
  | .esbar _ => some 0xC6#8
  | .esbcst _ => some 0xC7#8
  | .esrecv _ => some 0xC8#8
  | .esred _ => some 0xC9#8
  | .estick _ => some 0xCA#8
  | .trec _ => some 0xCC#8
  | .clkrd _ => some 0xCD#8
  | .brk _ => some 0xCE#8
  | .trap _ => some 0xE0#8
  | .syscall _ => some 0xE1#8
  | .mfsr _ => some 0xE2#8
  | .mtsr _ => some 0xE3#8
  | .eret _ => some 0xE4#8
  | .fltrd _ => some 0xE5#8
  | .tresume _ => some 0xE6#8
  | .tkill _ => some 0xE7#8
  | .tsnap _ => some 0xE8#8
  | .ctxsave _ => some 0xE9#8
  | .ctxrest _ => some 0xEA#8
  | .espre _ => some 0xEB#8
  | .tlbinv _ => some 0xEC#8
  | .haltall _ => some 0xED#8
  | .schedulerPick .. => none
  | .splitMerge .. => none
  | .joinRelease .. => none
  | .yieldLimit .. => none
  | .reggrowGrant .. => none
  | .reggrowStarvation .. => none
  | .regtrimComplete .. => none
  | .trainEnd .. => none
  | .computePassStart .. => none
  | .rungSequencerSpawn .. => none
  | .fixativeRefillComplete .. => none
  | .rasterPrimitive .. => none
  | .loadValueArrival .. => none
  | .sliceBatchApply .. => none
  | .atomicReply .. => none
  | .pageWalkComplete .. => none
  | .tlbInvalidationComplete .. => none
  | .copyCompletion .. => none
  | .mdecCompletion .. => none
  | .matrixOpCompletion .. => none
  | .nbTokenRelease .. => none
  | .nbarrHeldCount .. => none
  | .rayTrainStart .. => none
  | .rayRecordDelivery .. => none
  | .regrpSort .. => none
  | .regrpWaitLimit .. => none
  | .ringOfferWithdrawal .. => none
  | .blendApply .. => none
  | .registrationClose .. => none
  | .accordRequestArrival .. => none
  | .accordBatchDelivery .. => none
  | .accordReplyArrival .. => none
  | .combinerStart .. => none
  | .combinerSlotPass .. => none
  | .vxshufPairing .. => none
  | .vxshufDelivery .. => none
  | .shuffleTimeout .. => none
  | .escapementTick .. => none
  | .escapementEntry .. => none
  | .escapementReleaseDelivery .. => none
  | .escapementBroadcastDelivery .. => none
  | .escapementUncorrectableError .. => none
  | .escapementSignalRepeat .. => none
  | .linkRetirement .. => none
  | .correctableError .. => none
  | .unitRetirement .. => none
  | .watchdog .. => none
  | .eventDelivery .. => none
  | .truncatedDumpClose .. => none
  | .haltBroadcastArrival .. => none
  | .haltComplete .. => none
  | .contextSaveEffect .. => none
  | .syscallReply .. => none
  | .fput .. => none
  | .fget .. => none
  | .fatom .. => none
  | .fabricReply .. => none
  | .traceRecordAppend .. => none
  | .doorbell .. => none
  | .queueProcessorStep .. => none
  | .launchPacket .. => none
  | .launchIndirect .. => none
  | .prologueRerun .. => none
  | .prologueWatchdog .. => none
  | .taskPacket .. => none
  | .tdecPacket .. => none
  | .signalPacket .. => none
  | .waitMemory .. => none
  | .waitMemoryTimeout .. => none
  | .copyPacket .. => none
  | .handoverPacket .. => none
  | .preemptPoint .. => none
  | .packetCompletion .. => none
  | .packetBindingsFit .. => none
  | .workgroupPlacement .. => none
  | .automaticPreemption .. => none
  | .preemptQueue .. => none
  | .resumeQueue .. => none
  | .preemptionSignalArrival .. => none
  | .drainBudgetExpiry .. => none
  | .workgroupSaved .. => none
  | .discardDone .. => none
  | .killContext .. => none
  | .killDone .. => none
  | .haltRelease .. => none
  | .profctlClr .. => none
  | .profctlEn .. => none
  | .profilingCapture .. => none
  | .leaseWrite .. => none
  | .cquotaWrite .. => none
  | .barerrClear .. => none
  | .pinmissClear .. => none
  | .evlostClear .. => none
  | .traceEnable .. => none
  | .trposClear .. => none
  | .trlostClear .. => none
  | .apertureWrite .. => none
  | .hostCxlMemAccess .. => none
  | .quoteRequest .. => none
  | .powerOn .. => none
  | .hbmTrainingComplete .. => none
  | .selfTestComplete .. => none
  | .cxlLinkLoss .. => none
  | .thermalThrottle .. => none
  | .thermalShutdown .. => none
  | .instructionFetchFill .. => none
  | .ctxrestLoadComplete .. => none
  | .uncorrectableErrorFound .. => none
  | .linkFlitRetry .. => none
  | .thermalThrottleEnd .. => none
  | .queueEnable .. => none
  | .fabricInboundRequest .. => none
  | .contextEnd .. => none

/-- The 52-bit body of an instruction; 0 for an event. -/
def bodyOf : Instr → BitVec 52
  | .vadd f => packV3 f
  | .vsub f => packV3 f
  | .vmul f => packV3 f
  | .vmulhi f => packV3 f
  | .vmad f => packV3 f
  | .vmin f => packV3 f
  | .vmax f => packV3 f
  | .vabsd f => packV3 f
  | .vand f => packV3 f
  | .vor f => packV3 f
  | .vxor f => packV3 f
  | .vshl f => packV3 f
  | .vshr f => packV3 f
  | .vrot f => packV3 f
  | .vfun f => packV3 f
  | .vbfx f => packV3 f
  | .vbfi f => packV3 f
  | .vclz f => packV3 f
  | .vctz f => packV3 f
  | .vffs f => packV3 f
  | .vpopc f => packV3 f
  | .vbrev f => packV3 f
  | .vcmp f => packV3 f
  | .vsel f => packV3 f
  | .vmov f => packV3 f
  | .vmovi f => packVI f
  | .vaddi f => packVI f
  | .vcvti f => packV3 f
  | .vbsinit f => packV3 f
  | .vbsrd f => packV3 f
  | .sadd f => packS3 f
  | .ssub f => packS3 f
  | .smul f => packS3 f
  | .smulhi f => packS3 f
  | .sand f => packS3 f
  | .sor f => packS3 f
  | .sxor f => packS3 f
  | .sshl f => packS3 f
  | .sshr f => packS3 f
  | .sbfx f => packS3 f
  | .sbfi f => packS3 f
  | .sclz f => packS3 f
  | .spopc f => packS3 f
  | .sffs f => packS3 f
  | .smin f => packS3 f
  | .smax f => packS3 f
  | .scmp f => packS3 f
  | .smov f => packS3 f
  | .smovi f => packSI f
  | .saddi f => packSI f
  | .ssel f => packS3 f
  | .smcnt f => packS3 f
  | .smfirst f => packS3 f
  | .vfadd f => packV3 f
  | .vfsub f => packV3 f
  | .vfmul f => packV3 f
  | .vfma f => packV3 f
  | .vfmin f => packV3 f
  | .vfmax f => packV3 f
  | .vfcmp f => packV3 f
  | .vfclass f => packV3 f
  | .vfdiv f => packV3 f
  | .vfsqrt f => packV3 f
  | .vfrcp f => packV3 f
  | .vfrsq f => packV3 f
  | .vfexp2 f => packV3 f
  | .vflog2 f => packV3 f
  | .vfsin f => packV3 f
  | .vfcos f => packV3 f
  | .vfrnd f => packV3 f
  | .vffract f => packV3 f
  | .vfldexp f => packV3 f
  | .vfcvt f => packV3 f
  | .vcvtfi f => packV3 f
  | .vcvtif f => packV3 f
  | .vpack f => packV3 f
  | .vunpk f => packV3 f
  | .vfdot2 f => packV3 f
  | .vshuf f => packV3 f
  | .vbcast f => packV3 f
  | .vredu f => packV3 f
  | .vscan f => packV3 f
  | .vxshuf f => packV3 f
  | .vderiv f => packV3 f
  | .vinterp f => packV3 f
  | .nop f => packX f
  | .br f => packC f
  | .brs f => packC f
  | .brv f => packC f
  | .brm f => packC f
  | .call f => packC f
  | .ret f => packC f
  | .jmpi f => packC f
  | .sjoin f => packC f
  | .wait f => packC f
  | .exit f => packC f
  | .yield f => packC f
  | .reggrow f => packC f
  | .regtrim f => packC f
  | .kills f => packC f
  | .emitv f => packC f
  | .emitp f => packC f
  | .fxrel f => packC f
  | .tdec f => packC f
  | .tinc f => packC f
  | .ld f => packM f
  | .st f => packM f
  | .sld f => packM f
  | .sst f => packM f
  | .atom f => packMA f
  | .satom f => packMA f
  | .acall f => packMA f
  | .pref f => packM f
  | .lpin f => packM f
  | .lunpin f => packM f
  | .blst f => packM f
  | .stkpsh f => packM f
  | .stkpop f => packM f
  | .cpy f => packA f
  | .cpyg f => packA f
  | .cpys f => packA f
  | .cpyr f => packA f
  | .cpyx f => packA f
  | .mdec f => packA f
  | .nbinit f => packA f
  | .nbarr f => packA f
  | .nbwait f => packA f
  | .nbinv f => packA f
  | .trace f => packA f
  | .mma f => packA f
  | .mzero f => packA f
  | .mlda f => packA f
  | .msta f => packA f
  | .mcvt f => packA f
  | .mqnt f => packA f
  | .boxt f => packV3 f
  | .trit f => packV3 f
  | .regrp f => packA f
  | .ringoff f => packA f
  | .ringtake f => packA f
  | .rhit f => packV3 f
  | .arecv f => packA f
  | .areply f => packA f
  | .afail f => packA f
  | .esarr f => packSI f
  | .eswait f => packSI f
  | .esbar f => packSI f
  | .esbcst f => packSI f
  | .esrecv f => packSI f
  | .esred f => packSI f
  | .estick f => packSI f
  | .trec f => packSI f
  | .clkrd f => packSI f
  | .brk f => packSI f
  | .trap f => packX f
  | .syscall f => packX f
  | .mfsr f => packX f
  | .mtsr f => packX f
  | .eret f => packX f
  | .fltrd f => packX f
  | .tresume f => packX f
  | .tkill f => packX f
  | .tsnap f => packX f
  | .ctxsave f => packX f
  | .ctxrest f => packX f
  | .espre f => packX f
  | .tlbinv f => packX f
  | .haltall f => packX f
  | .schedulerPick .. => 0#52
  | .splitMerge .. => 0#52
  | .joinRelease .. => 0#52
  | .yieldLimit .. => 0#52
  | .reggrowGrant .. => 0#52
  | .reggrowStarvation .. => 0#52
  | .regtrimComplete .. => 0#52
  | .trainEnd .. => 0#52
  | .computePassStart .. => 0#52
  | .rungSequencerSpawn .. => 0#52
  | .fixativeRefillComplete .. => 0#52
  | .rasterPrimitive .. => 0#52
  | .loadValueArrival .. => 0#52
  | .sliceBatchApply .. => 0#52
  | .atomicReply .. => 0#52
  | .pageWalkComplete .. => 0#52
  | .tlbInvalidationComplete .. => 0#52
  | .copyCompletion .. => 0#52
  | .mdecCompletion .. => 0#52
  | .matrixOpCompletion .. => 0#52
  | .nbTokenRelease .. => 0#52
  | .nbarrHeldCount .. => 0#52
  | .rayTrainStart .. => 0#52
  | .rayRecordDelivery .. => 0#52
  | .regrpSort .. => 0#52
  | .regrpWaitLimit .. => 0#52
  | .ringOfferWithdrawal .. => 0#52
  | .blendApply .. => 0#52
  | .registrationClose .. => 0#52
  | .accordRequestArrival .. => 0#52
  | .accordBatchDelivery .. => 0#52
  | .accordReplyArrival .. => 0#52
  | .combinerStart .. => 0#52
  | .combinerSlotPass .. => 0#52
  | .vxshufPairing .. => 0#52
  | .vxshufDelivery .. => 0#52
  | .shuffleTimeout .. => 0#52
  | .escapementTick .. => 0#52
  | .escapementEntry .. => 0#52
  | .escapementReleaseDelivery .. => 0#52
  | .escapementBroadcastDelivery .. => 0#52
  | .escapementUncorrectableError .. => 0#52
  | .escapementSignalRepeat .. => 0#52
  | .linkRetirement .. => 0#52
  | .correctableError .. => 0#52
  | .unitRetirement .. => 0#52
  | .watchdog .. => 0#52
  | .eventDelivery .. => 0#52
  | .truncatedDumpClose .. => 0#52
  | .haltBroadcastArrival .. => 0#52
  | .haltComplete .. => 0#52
  | .contextSaveEffect .. => 0#52
  | .syscallReply .. => 0#52
  | .fput .. => 0#52
  | .fget .. => 0#52
  | .fatom .. => 0#52
  | .fabricReply .. => 0#52
  | .traceRecordAppend .. => 0#52
  | .doorbell .. => 0#52
  | .queueProcessorStep .. => 0#52
  | .launchPacket .. => 0#52
  | .launchIndirect .. => 0#52
  | .prologueRerun .. => 0#52
  | .prologueWatchdog .. => 0#52
  | .taskPacket .. => 0#52
  | .tdecPacket .. => 0#52
  | .signalPacket .. => 0#52
  | .waitMemory .. => 0#52
  | .waitMemoryTimeout .. => 0#52
  | .copyPacket .. => 0#52
  | .handoverPacket .. => 0#52
  | .preemptPoint .. => 0#52
  | .packetCompletion .. => 0#52
  | .packetBindingsFit .. => 0#52
  | .workgroupPlacement .. => 0#52
  | .automaticPreemption .. => 0#52
  | .preemptQueue .. => 0#52
  | .resumeQueue .. => 0#52
  | .preemptionSignalArrival .. => 0#52
  | .drainBudgetExpiry .. => 0#52
  | .workgroupSaved .. => 0#52
  | .discardDone .. => 0#52
  | .killContext .. => 0#52
  | .killDone .. => 0#52
  | .haltRelease .. => 0#52
  | .profctlClr .. => 0#52
  | .profctlEn .. => 0#52
  | .profilingCapture .. => 0#52
  | .leaseWrite .. => 0#52
  | .cquotaWrite .. => 0#52
  | .barerrClear .. => 0#52
  | .pinmissClear .. => 0#52
  | .evlostClear .. => 0#52
  | .traceEnable .. => 0#52
  | .trposClear .. => 0#52
  | .trlostClear .. => 0#52
  | .apertureWrite .. => 0#52
  | .hostCxlMemAccess .. => 0#52
  | .quoteRequest .. => 0#52
  | .powerOn .. => 0#52
  | .hbmTrainingComplete .. => 0#52
  | .selfTestComplete .. => 0#52
  | .cxlLinkLoss .. => 0#52
  | .thermalThrottle .. => 0#52
  | .thermalShutdown .. => 0#52
  | .instructionFetchFill .. => 0#52
  | .ctxrestLoadComplete .. => 0#52
  | .uncorrectableErrorFound .. => 0#52
  | .linkFlitRetry .. => 0#52
  | .thermalThrottleEnd .. => 0#52
  | .queueEnable .. => 0#52
  | .fabricInboundRequest .. => 0#52
  | .contextEnd .. => 0#52

/-- The word of an instruction under a head (Table 4.1); an event has none. -/
def encode (h : Head) (i : Instr) : Option (BitVec 64) :=
  (majorOf i).map fun m => BitVec.ofBool h.last ++ h.rate ++ m ++ bodyOf i

/-- The head of a word (Table 4.1). -/
def headOf (w : BitVec 64) : Head := { last := w.getLsbD 63, rate := w.extractLsb' 60 3 }

/-- R85 check 1: the instruction of a word, or its refusal. -/
def decodeWord (w : BitVec 64) : Except Reject (Head × Instr) :=
  match ofMajor (w.extractLsb' 52 8).toNat (w.extractLsb' 0 52) with
  | none => .error .illegalOpcode
  | some i => if Machine.opcodeListed i then .ok (headOf w, i) else .error .illegalOpcode

/-- The eight bytes of a word as they lie in memory, lowest address first (R1, R71). -/
def wordBytes (w : BitVec 64) : List Byte :=
  [w.extractLsb' 0 8, w.extractLsb' 8 8, w.extractLsb' 16 8, w.extractLsb' 24 8,
   w.extractLsb' 32 8, w.extractLsb' 40 8, w.extractLsb' 48 8, w.extractLsb' 56 8]

/-- The word that eight bytes hold (R1, R71). -/
def wordOfBytes (b0 b1 b2 b3 b4 b5 b6 b7 : Byte) : BitVec 64 :=
  b7 ++ b6 ++ b5 ++ b4 ++ b3 ++ b2 ++ b1 ++ b0

/-- Decodes the first word of a byte list and returns the bytes after it. -/
def decode : List Byte → Except Reject ((Head × Instr) × List Byte)
  | b0 :: b1 :: b2 :: b3 :: b4 :: b5 :: b6 :: b7 :: rest =>
    match decodeWord (wordOfBytes b0 b1 b2 b3 b4 b5 b6 b7) with
    | .ok hi => .ok (hi, rest)
    | .error r => .error r
  | _ => .error .tooShort

/-- The instruction the decoder reads from bits `w`, bit 0 the least significant bit of the one 64-bit word; bits at and
above `nbits` are 0. -/
def decodeTableWord (nbits w : Nat) : Option Instr :=
  match decode (wordBytes (BitVec.ofNat 64 (w % 2 ^ nbits))) with
  | .ok ((_, i), _) => some i
  | .error _ => none

end Sys2Proof
end

