-- ==== Sys2Proof/Config.lean ====
section
/-! DEFINITION. What an implementation fixes and the specification leaves open. Every constant here is opaque: it has no
body that a proof could see, so a claim holds whatever the hardware does. -/

namespace Sys2Proof

/-- A value the specification leaves open, a fresh one for each value of the counter `State.free` (DESIGN CHOICE, log 5). -/
opaque Config.freeValue : Nat → BitVec 64

/-- Which of the two adjacent values a faithful F32 function returns for an input (R128): true the upper one. The first
argument numbers the function as Table 6.4 lists them, 0 VFRCP to 3 VFLOG2 (DEDUCED, log 6). -/
opaque Config.faithfulUp : Nat → BitVec 32 → Bool

/-- The code that a function of Table 6.4 with an absolute error bound returns for an input, when it lies inside the
bound (R128). The first argument numbers the function, 3 VFLOG2, 4 VFSIN, 5 VFCOS; the second is the input (DEDUCED, log 6). -/
opaque Config.boundedCode : Nat → BitVec 32 → BitVec 32

/-- The set of an L2 slice that a line belongs to; R376 and R212 leave the index open (DESIGN CHOICE, log 7). -/
opaque Config.l2Set : Nat → Nat

/-- The HBM4 channel that a physical address of an HBM4 range lies on (R365); the specification does not lay the channels
out (DESIGN CHOICE, log 20). -/
opaque Config.hbmChannel : Nat → Nat

end Sys2Proof
end

