-- ==== Sys2Proof/Machine/Num.lean ====
section
/-! DEFINITION. Floating formats, exact values, rounding and flags (spec/02_number_formats.md R28 to R39, R43, R47). An
exact value is a signed quotient of natural numbers, an infinity or a NaN; every rounding is done once, on the exact
value. -/

namespace Sys2Proof.Machine

/-- The floating formats of Table 2.1 (E8M0 is a scale, not a format that an operation returns). -/
inductive FloatFmt where
  | f32 | f16 | bf16 | f64 | e4m3 | e5m2 | e2m1
  deriving DecidableEq, Repr, Inhabited

/-- Width in bits (Table 2.1). -/
def FloatFmt.width : FloatFmt → Nat
  | .f64 => 64 | .f32 => 32 | .f16 => 16 | .bf16 => 16 | .e4m3 => 8 | .e5m2 => 8 | .e2m1 => 4

/-- Width of the fraction field (Table 2.1). -/
def FloatFmt.frac : FloatFmt → Nat
  | .f64 => 52 | .f32 => 23 | .f16 => 10 | .bf16 => 7 | .e4m3 => 3 | .e5m2 => 2 | .e2m1 => 1

/-- Exponent bias (Table 2.1). -/
def FloatFmt.bias : FloatFmt → Nat
  | .f64 => 1023 | .f32 => 127 | .f16 => 15 | .bf16 => 127 | .e4m3 => 7 | .e5m2 => 15 | .e2m1 => 1

/-- Width of the exponent field (Table 2.1). -/
def FloatFmt.expw (f : FloatFmt) : Nat := f.width - 1 - f.frac

/-- Code of the largest finite magnitude (Table 2.1). -/
def FloatFmt.maxCode : FloatFmt → Nat
  | .e4m3 => 0x7E
  | .e2m1 => 0x7
  | f => (2 ^ f.expw - 1) * 2 ^ f.frac - 1

/-- The format has infinities (Table 2.1). -/
def FloatFmt.hasInf : FloatFmt → Bool
  | .e4m3 | .e2m1 => false
  | _ => true

/-- The canonical quiet NaN (R29); E2M1 has none and gives 0 (R38). -/
def FloatFmt.qnan : FloatFmt → Nat
  | .f64 => 0x7FF8000000000000 | .f32 => 0x7FC00000 | .f16 => 0x7E00 | .bf16 => 0x7FC0 | .e4m3 => 0x7F | .e5m2 => 0x7E
  | .e2m1 => 0

/-- The format of a float-family TYPE (Table 1.1); TYPE 6 and 7 are refused at decode. -/
def floatType (ty : Nat) : FloatFmt :=
  match ty with
  | 0 => .f32 | 1 => .f16 | 2 => .bf16 | 3 => .f64 | 4 => .e4m3 | _ => .e5m2

/-- A float-family TYPE of 64 bits, whose register operands are even pairs (R118). -/
def floatWide (ty : Nat) : Bool := ty == 3

/-- Elements of a value of a float-family TYPE (R118). -/
def floatElems (ty : Nat) : Nat :=
  match ty with
  | 0 | 3 => 1
  | 1 | 2 => 2
  | _ => 4

/-- An exact value: a finite one with its sign and its magnitude as a quotient (the sign of zero counts), an infinity,
or a NaN, signalling or quiet. -/
inductive FNum where
  | fin (neg : Bool) (num den : Nat)
  | inf (neg : Bool)
  | nan (signalling : Bool)
  deriving DecidableEq, Repr, Inhabited

/-- Zero with a sign. -/
def FNum.zero (neg : Bool) : FNum := .fin neg 0 1

/-- The value of an integer. -/
def FNum.ofInt (x : Int) : FNum := .fin (decide (x < 0)) x.natAbs 1

/-- The value of sign times m times 2^e. -/
def FNum.scaled (neg : Bool) (m : Nat) (e : Int) : FNum :=
  if 0 ≤ e then .fin neg (m * 2 ^ e.toNat) 1 else .fin neg m (2 ^ (-e).toNat)

/-- Times 2^e. -/
def FNum.ldexp (x : FNum) (e : Int) : FNum :=
  match x with
  | .fin s n d => if 0 ≤ e then .fin s (n * 2 ^ e.toNat) d else .fin s n (d * 2 ^ (-e).toNat)
  | y => y

/-- Changes the sign. -/
def FNum.negate : FNum → FNum
  | .fin s n d => .fin (!s) n d
  | .inf s => .inf (!s)
  | .nan q => .nan q

/-- A NaN. -/
def FNum.isNan : FNum → Bool
  | .nan _ => true
  | _ => false

/-- A signalling NaN. -/
def FNum.isSnan : FNum → Bool
  | .nan q => q
  | _ => false

/-- An infinity. -/
def FNum.isInf : FNum → Bool
  | .inf _ => true
  | _ => false

/-- A zero of either sign. -/
def FNum.isZero : FNum → Bool
  | .fin _ n _ => n == 0
  | _ => false

/-- The sign bit; a NaN has none. -/
def FNum.sign : FNum → Bool
  | .fin s _ _ => s
  | .inf s => s
  | .nan _ => false

/-- The value of a code, subnormals kept (R28 to R30). -/
def decodeRaw (f : FloatFmt) (code : Nat) : FNum :=
  let fr := bits code 0 f.frac
  let e := bits code f.frac f.expw
  let s := code.testBit (f.width - 1)
  let top := e == 2 ^ f.expw - 1
  if f.hasInf && top then
    (if fr == 0 then .inf s else .nan (decide (f.width ≥ 16) && !fr.testBit (f.frac - 1)))
  else if f == .e4m3 && bits code 0 7 == 0x7F then .nan false
  else if e == 0 then FNum.scaled s fr (1 - (f.bias : Int) - f.frac)
  else FNum.scaled s (2 ^ f.frac + fr) ((e : Int) - f.bias - f.frac)

/-- IsSubnormal of Table 2.8. -/
def isSubnormal (f : FloatFmt) (code : Nat) : Bool := bits code f.frac f.expw == 0 && bits code 0 f.frac != 0

/-- Decode of Table 2.8: with DAZ, an F32 subnormal reads as zero of its sign (R39). -/
def decodeNum (f : FloatFmt) (daz : Bool) (code : Nat) : FNum :=
  if daz && f == .f32 && isSubnormal f code then FNum.zero (code.testBit 31) else decodeRaw f code

/-- Exception flags in the order of s120[14:10]: bit 0 invalid, 1 divide-by-zero, 2 overflow, 3 underflow, 4 inexact
(Table 2.6). -/
abbrev Flags := BitVec 5

/-- No flag. -/
def Flags.none : Flags := 0
/-- Invalid. -/
def Flags.inv : Flags := 1
/-- Divide-by-zero. -/
def Flags.dvz : Flags := 2
/-- Overflow. -/
def Flags.ovf : Flags := 4
/-- Underflow. -/
def Flags.unf : Flags := 8
/-- Inexact. -/
def Flags.inx : Flags := 16

/-- Raises a flag when a condition holds. -/
def Flags.when (c : Bool) (f : Flags) : Flags := if c then f else 0

/-- How a result is rounded: the code 1 to 6 of Table 1.2, SAT, FTZ, and the draw G[31:16] that code 6 uses (R36). -/
structure Rounding where
  rnd : Nat
  sat : Bool := false
  ftz : Bool := false
  draw : Nat := 0
  deriving DecidableEq, Repr, Inhabited

/-- Nearest-even with nothing else. -/
def Rounding.nearest : Rounding := { rnd := 1 }

/-- Whether the quotient t + r/d of sign `s` is rounded up in magnitude (R35, R36). -/
def roundUp (m : Rounding) (s : Bool) (t r d : Nat) : Bool :=
  if r == 0 then false
  else
    match m.rnd with
    | 1 => decide (d < 2 * r) || (decide (2 * r = d) && t % 2 == 1)
    | 2 => false
    | 3 => !s
    | 4 => s
    | 5 => decide (d ≤ 2 * r)
    | _ => decide (65536 * d ≤ 65536 * r + m.draw * d)

/-- The binary exponent of n/d, n and d nonzero: the e with 2^e ≤ n/d < 2^(e+1). -/
def ilog2 (n d : Nat) : Int :=
  let e : Int := (Nat.log2 n : Int) - (Nat.log2 d : Int)
  let below : Bool := if 0 ≤ e then decide (n < d * 2 ^ e.toNat) else decide (n * 2 ^ (-e).toNat < d)
  if below then e - 1 else e

/-- n/d over 2^q as a quotient and a remainder over a divisor. -/
def scaledDiv (n d : Nat) (q : Int) : Nat × Nat × Nat :=
  let n' := if 0 ≤ q then n else n * 2 ^ (-q).toNat
  let d' := if 0 ≤ q then d * 2 ^ q.toNat else d
  (n' / d', n' % d', d')

/-- Puts a sign on a magnitude code. -/
def signCode (f : FloatFmt) (s : Bool) (mag : Nat) : Nat := if s then 2 ^ (f.width - 1) + mag else mag

/-- The result of an overflow of a finite value (R38). -/
def overflowCode (f : FloatFmt) (m : Rounding) (s : Bool) : Nat :=
  if m.sat then signCode f s f.maxCode
  else
    match f with
    | .e4m3 => signCode f s 0x7F
    | .e2m1 => signCode f s 0x7
    | _ =>
      let toMax := m.rnd == 2 || (m.rnd == 3 && s) || (m.rnd == 4 && !s)
      if toMax then signCode f s f.maxCode else signCode f s (f.maxCode + 1)

/-- Rounds a nonzero finite magnitude n/d of sign `s` (R35 to R39). -/
def roundFinite (f : FloatFmt) (m : Rounding) (s : Bool) (n d : Nat) : Nat × Flags :=
  let e := ilog2 n d
  let emin : Int := 1 - (f.bias : Int)
  let q := (if e < emin then emin else e) - f.frac
  let (t, r, d') := scaledDiv n d q
  let t' := if roundUp m s t r d' then t + 1 else t
  let mag := (q + f.frac + f.bias - 1).toNat * 2 ^ f.frac + t'
  if f.maxCode < mag then (overflowCode f m s, Flags.ovf ||| Flags.inx)
  else
    let inexact := r != 0
    -- tininess after rounding (R39): the value rounded to full precision lies below the least normal
    let (t2, r2, d2) := scaledDiv n d (e - f.frac)
    let t2' := if roundUp m s t2 r2 d2 then t2 + 1 else t2
    let tiny := decide (e < emin) && !(decide (e = emin - 1) && decide (t2' = 2 ^ (f.frac + 1)))
    if m.ftz && f == .f32 && decide (0 < mag) && decide (mag < 2 ^ f.frac) then
      (signCode f s 0, Flags.unf ||| Flags.inx)
    else if f == .e2m1 && mag == 0 then (0, Flags.when inexact Flags.inx ||| Flags.when (tiny && inexact) Flags.unf)
    else (signCode f s mag, Flags.when inexact Flags.inx ||| Flags.when (tiny && inexact) Flags.unf)

/-- RoundToFormat of Table 2.8: the code and the flags of encoding an exact value (R35 to R39). -/
def roundTo (f : FloatFmt) (m : Rounding) (x : FNum) : Nat × Flags :=
  match x with
  | .nan _ => (f.qnan, Flags.when (f == .e2m1) Flags.inv)
  | .inf s =>
    if f.hasInf then (signCode f s (f.maxCode + 1), 0)
    else if m.sat then (signCode f s f.maxCode, Flags.ovf ||| Flags.inx)
    else (if f == .e4m3 then signCode f s 0x7F else signCode f s 0x7, Flags.ovf ||| Flags.inx)
  | .fin s n d =>
    if n == 0 then (if f == .e2m1 then 0 else signCode f s 0, 0) else roundFinite f m s n d

/-- The sum of two exact values and whether it is invalid; `down` says the rounding is toward −∞, which gives an exact
zero sum of opposite signs the sign − (R123). -/
def FNum.add (down : Bool) (x y : FNum) : FNum × Bool :=
  match x, y with
  | .nan a, .nan b => (.nan false, a || b)
  | .nan a, _ => (.nan false, a)
  | _, .nan b => (.nan false, b)
  | .inf a, .inf b => if a == b then (.inf a, false) else (.nan false, true)
  | .inf a, _ => (.inf a, false)
  | _, .inf b => (.inf b, false)
  | .fin a n d, .fin b n' d' =>
    if a == b then (.fin a (n * d' + n' * d) (d * d'), false)
    else
      let p := n * d'
      let q := n' * d
      if p == q then (.fin down 0 1, false)
      else if q < p then (.fin a (p - q) (d * d'), false) else (.fin b (q - p) (d * d'), false)

/-- The product of two exact values and whether it is invalid (R123). -/
def FNum.mul (x y : FNum) : FNum × Bool :=
  match x, y with
  | .nan a, .nan b => (.nan false, a || b)
  | .nan a, _ => (.nan false, a)
  | _, .nan b => (.nan false, b)
  | .inf a, .inf b => (.inf (a != b), false)
  | .inf a, .fin b n _ => if n == 0 then (.nan false, true) else (.inf (a != b), false)
  | .fin a n _, .inf b => if n == 0 then (.nan false, true) else (.inf (a != b), false)
  | .fin a n d, .fin b n' d' => (.fin (a != b) (n * n') (d * d'), false)

/-- x times y plus z, exact, and whether it is invalid: 0 times ∞ is invalid even when z is a quiet NaN (R123). -/
def FNum.fma (down : Bool) (x y z : FNum) : FNum × Bool :=
  let (p, i) := FNum.mul x y
  let (s, j) := FNum.add down p z
  (s, i || j)

/-- The quotient and its invalid and divide-by-zero flags (R127). -/
def FNum.div (x y : FNum) : FNum × Flags :=
  match x, y with
  | .nan a, .nan b => (.nan false, Flags.when (a || b) Flags.inv)
  | .nan a, _ => (.nan false, Flags.when a Flags.inv)
  | _, .nan b => (.nan false, Flags.when b Flags.inv)
  | .inf _, .inf _ => (.nan false, Flags.inv)
  | .inf a, .fin b _ _ => (.inf (a != b), 0)
  | .fin a _ _, .inf b => (.fin (a != b) 0 1, 0)
  | .fin a n d, .fin b n' d' =>
    if n' == 0 then (if n == 0 then (.nan false, Flags.inv) else (.inf (a != b), Flags.dvz))
    else (.fin (a != b) (n * d') (d * n'), 0)

/-- The integer square root of `x`, by bits from `2^(k-1)` down. -/
def isqrtFrom (x : Nat) : Nat → Nat → Nat
  | 0, r => r
  | k + 1, r => if (r + 2 ^ k) * (r + 2 ^ k) ≤ x then isqrtFrom x k (r + 2 ^ k) else isqrtFrom x k r

/-- The integer square root. -/
def isqrt (x : Nat) : Nat := isqrtFrom x (Nat.log2 x / 2 + 1) 0

/-- The square root of n/d, n nonzero, as a quotient that every rounding of Table 1.2 treats as the exact root: the root
cut to 96 or more bits, with half a unit added when it is not exact. -/
def sqrtQuot (n d : Nat) : Nat × Nat :=
  -- n/d = x / 4^k with x at or above 2^192
  let k := Nat.log2 d + 97
  let x := n * 4 ^ k / d
  let exact := n * 4 ^ k % d == 0
  let r := isqrt x
  if exact && r * r == x then (r, 2 ^ k) else (2 * r + 1, 2 ^ (k + 1))

/-- The square root and its flags (R127). -/
def FNum.sqrt (x : FNum) : FNum × Flags :=
  match x with
  | .nan a => (.nan false, Flags.when a Flags.inv)
  | .inf s => if s then (.nan false, Flags.inv) else (.inf false, 0)
  | .fin s n d =>
    if n == 0 then (.fin s 0 1, 0)
    else if s then (.nan false, Flags.inv)
    else
      let (a, b) := sqrtQuot n d
      (.fin false a b, 0)

/-- The order of two values that are no NaN, −0 equal to +0: x < y. -/
def FNum.lt (x y : FNum) : Bool :=
  match x, y with
  | .inf a, .inf b => a && !b
  | .inf a, .fin _ _ _ => a
  | .fin _ _ _, .inf b => !b
  | .fin a n d, .fin b n' d' =>
    let p := n * d'
    let q := n' * d
    match a, b with
    | false, false => decide (p < q)
    | true, true => decide (q < p)
    | true, false => decide (0 < p) || decide (0 < q)
    | false, true => false
  | _, _ => false

/-- Equality of two values that are no NaN, −0 equal to +0. -/
def FNum.eqv (x y : FNum) : Bool := !x.isNan && !y.isNan && !FNum.lt x y && !FNum.lt y x

/-- The order that puts −0 below +0 (R124). -/
def FNum.below (x y : FNum) : Bool := FNum.lt x y || (x.isZero && y.isZero && x.sign && !y.sign)

/-- minimum or maximum (`num` false: a NaN wins) and minimumNumber or maximumNumber (`num` true), with the invalid flag
of a signalling NaN (R124). -/
def FNum.pick (maxi num : Bool) (x y : FNum) : FNum × Flags :=
  let inv := Flags.when (x.isSnan || y.isSnan) Flags.inv
  if x.isNan && y.isNan then (.nan false, inv)
  else if x.isNan then (if num then y else .nan false, inv)
  else if y.isNan then (if num then x else .nan false, inv)
  else if maxi then (if FNum.below x y then y else x, inv)
  else (if FNum.below y x then y else x, inv)

/-- The integral value of a quotient n/d of sign `s` under a rounding, and whether it is exact (R129, R133). -/
def roundInt (m : Rounding) (s : Bool) (n d : Nat) : Nat × Bool :=
  let t := n / d
  let r := n % d
  (if roundUp m s t r d then t + 1 else t, r == 0)

/-- One step of a lane's generator (R37). -/
def genStep (g : Word) : Word :=
  let g := g ^^^ (g <<< 13)
  let g := g ^^^ (g >>> 17)
  g ^^^ (g <<< 5)

/-- The draw that code 6 takes from a generator (R36). -/
def genDraw (g : Word) : Nat := g.toNat / 65536

/-- The float constants of Table 2.5: the F32 code of operand codes 0x1E0 to 0x1EF. -/
def floatConst32 (k : Nat) : Nat :=
  match k with
  | 0 => 0x00000000 | 1 => 0x80000000 | 2 => 0x3F000000 | 3 => 0x3F800000
  | 4 => 0x40000000 | 5 => 0x40800000 | 6 => 0x41000000 | 7 => 0x3E800000
  | 8 => 0xBF000000 | 9 => 0xBF800000 | 10 => 0xC0000000 | 11 => 0xC0800000
  | 12 => 0x3FB8AA3B | 13 => 0x3F317218 | 14 => 0x7F800000 | _ => 0x7F7FFFFF

/-- The F16 column of Table 2.5. -/
def floatConst16 (k : Nat) : Nat :=
  match k with
  | 0 => 0x0000 | 1 => 0x8000 | 2 => 0x3800 | 3 => 0x3C00 | 4 => 0x4000 | 5 => 0x4400 | 6 => 0x4800 | 7 => 0x3400
  | 8 => 0xB800 | 9 => 0xBC00 | 10 => 0xC000 | 11 => 0xC400 | 12 => 0x3DC5 | 13 => 0x398C | 14 => 0x7C00 | _ => 0x7BFF

/-- The BF16 column of Table 2.5. -/
def floatConstBf (k : Nat) : Nat :=
  match k with
  | 0 => 0x0000 | 1 => 0x8000 | 2 => 0x3F00 | 3 => 0x3F80 | 4 => 0x4000 | 5 => 0x4080 | 6 => 0x4100 | 7 => 0x3E80
  | 8 => 0xBF00 | 9 => 0xBF80 | 10 => 0xC000 | 11 => 0xC080 | 12 => 0x3FB9 | 13 => 0x3F31 | 14 => 0x7F80 | _ => 0x7F7F

/-- The E4M3 column of Table 2.5. -/
def floatConstE4 (k : Nat) : Nat :=
  match k with
  | 0 => 0x00 | 1 => 0x80 | 2 => 0x30 | 3 => 0x38 | 4 => 0x40 | 5 => 0x48 | 6 => 0x50 | 7 => 0x28
  | 8 => 0xB0 | 9 => 0xB8 | 10 => 0xC0 | 11 => 0xC8 | 12 => 0x3C | 13 => 0x33 | 14 => 0x7E | _ => 0x7E

/-- The E5M2 column of Table 2.5. -/
def floatConstE5 (k : Nat) : Nat :=
  match k with
  | 0 => 0x00 | 1 => 0x80 | 2 => 0x38 | 3 => 0x3C | 4 => 0x40 | 5 => 0x44 | 6 => 0x48 | 7 => 0x34
  | 8 => 0xB8 | 9 => 0xBC | 10 => 0xC0 | 11 => 0xC4 | 12 => 0x3E | 13 => 0x3A | 14 => 0x7C | _ => 0x7B

/-- A float constant as one element of a format (R34): F64 takes the exact widening of the F32 value. -/
def floatConst (f : FloatFmt) (k : Nat) : Nat :=
  match f with
  | .f32 => floatConst32 k
  | .f64 => (roundTo .f64 .nearest (decodeRaw .f32 (floatConst32 k))).1
  | .f16 => floatConst16 k
  | .bf16 => floatConstBf k
  | .e4m3 => floatConstE4 k
  | .e5m2 => floatConstE5 k
  | .e2m1 => 0

/-- An integer constant as one element of a format: rounded nearest-even (R76). -/
def intConst (f : FloatFmt) (x : Int) : Nat := (roundTo f .nearest (FNum.ofInt x)).1

/-- NibblePos of R31. -/
def nibblePos (k : Nat) : Nat := 2 * (k % 8) + k / 8

/-- Element `k` of an E2M1 block of 80 bits (E2M1Value, R30, R31, R47). -/
def e2m1Value (block k : Nat) : FNum :=
  let code := bits block (4 * nibblePos k) 4
  let scale := bits block 64 8
  if scale == 0xFF then .nan false
  else
    let m := if code == 8 then decodeRaw .e4m3 (bits block 72 8) else decodeRaw .e2m1 code
    m.ldexp ((scale : Int) - 127)

/-- One node of a summation tree: the rounded sum and the flags (R43). -/
def treeNode (f : FloatFmt) (m : Rounding) (daz : Bool) (x y : Nat) : Nat × Flags :=
  let (e, i) := FNum.add (m.rnd == 4) (decodeNum f daz x) (decodeNum f daz y)
  let (r, fl) := roundTo f m e
  (r, fl ||| Flags.when i Flags.inv)

/-- One level of the tree over neighbours. -/
def treeLevel (f : FloatFmt) (m : Rounding) (daz : Bool) : List Nat → List Nat × Flags
  | x :: y :: rest =>
    let (r, fl) := treeNode f m daz x y
    let (rs, fls) := treeLevel f m daz rest
    (r :: rs, fl ||| fls)
  | l => (l, 0)

/-- Levels until one value is left. -/
def treeLevels (f : FloatFmt) (m : Rounding) (daz : Bool) : Nat → List Nat → Nat × Flags
  | 0, l => (l.headD 0, 0)
  | n + 1, l =>
    let (l', fl) := treeLevel f m daz l
    let (r, fl') := treeLevels f m daz n l'
    (r, fl ||| fl')

/-- TreeSumF of 96 element codes (R43): three beats of five levels, then (beat0 + beat1) + beat2; code 6 rounds
nearest-even. -/
def treeSumF (f : FloatFmt) (m : Rounding) (daz : Bool) (x : List Nat) : Nat × Flags :=
  let m := { m with rnd := if m.rnd == 6 then 1 else m.rnd }
  let (b0, f0) := treeLevels f m daz 5 (x.take 32)
  let (b1, f1) := treeLevels f m daz 5 ((x.drop 32).take 32)
  let (b2, f2) := treeLevels f m daz 5 (x.drop 64)
  let (p, f3) := treeNode f m daz b0 b1
  let (r, f4) := treeNode f m daz p b2
  (r, f0 ||| f1 ||| f2 ||| f3 ||| f4)

end Sys2Proof.Machine
end

