-- ==== Sys2Proof/Machine/Approx.lean ====
section
/-! DEFINITION. The approximate functions of spec/06_float_convert_crosslane.md R128 (Tables 6.4, 6.5, 6.12). F16 results
that the rule calls correct are computed; where the rule leaves the result open inside a bound, an opaque constant of
Config chooses and the bound is enforced (DEDUCED, log 6). The exact values are irrational at every argument that is no exact
point; they are computed to far more places than any result has (DESIGN CHOICE, log 9). -/

namespace Sys2Proof.Machine

/-- Places of the fixed-point values below. -/
def apxBits : Nat := 256

/-- floor of π times 2^256. -/
def piFixed : Nat := 0x3243F6A8885A308D313198A2E03707344A4093822299F31D0082EFA98EC4E6C89

/-- The product of the roots 2^(1/2), 2^(1/4), ... chosen by the bits of a fraction p/q below 1, in fixed point. -/
def exp2Frac (p q : Nat) : Nat → Nat → Nat → Nat
  | 0, _, acc => acc
  | n + 1, root, acc =>
    let root' := isqrt (root * 2 ^ apxBits)
    exp2Frac (2 * p % q) q n root' (if q ≤ 2 * p then acc * root' / 2 ^ apxBits else acc)

/-- 2^x of a finite x with a power of two as its denominator; exact for an integral x. -/
def exp2Exact (s : Bool) (n d : Nat) : FNum :=
  let x : Int := if s then -(n : Int) else n
  let fl := x / (d : Int)
  let fr := (x % (d : Int)).toNat
  let fl := if fl < -4000 then -4000 else if 4000 < fl then 4000 else fl
  if fr == 0 then FNum.scaled false 1 fl
  else FNum.scaled false (2 * exp2Frac fr d (Nat.log2 d) (2 ^ (apxBits + 1)) (2 ^ apxBits) + 1) (fl - apxBits - 1)

/-- Sum of z^(2i+1)/(2i+1) in fixed point, from the power `t` of z and its square. -/
def atanhSum (z2 : Nat) : Nat → Nat → Nat → Nat
  | 0, _, _ => 0
  | n + 1, k, t => t / k + atanhSum z2 n (k + 2) (t * z2 / 2 ^ apxBits)

/-- The inverse hyperbolic tangent of p/q below 1/2, in fixed point. -/
def atanhFixed (p q : Nat) : Nat :=
  let z := p * 2 ^ apxBits / q
  atanhSum (z * z / 2 ^ apxBits) 90 1 z

/-- log2 of a positive n/d that is no power of two. -/
def log2Exact (n d : Nat) : FNum :=
  let e := ilog2 n d
  let a := if 0 ≤ e then n else n * 2 ^ (-e).toNat
  let b := if 0 ≤ e then d * 2 ^ e.toNat else d
  -- a/b in [1, 2); halve it from the square root of two up
  let (a, b, e) := if 2 * b * b < a * a then (a, 2 * b, e + 1) else (a, b, e)
  let s3 := atanhFixed 1 3
  let t : Int := if b ≤ a then atanhFixed (a - b) (a + b) else -(atanhFixed (b - a) (a + b) : Int)
  let x := e * s3 + t
  .fin (decide (x < 0)) x.natAbs s3

/-- The alternating series t/k! of sine and cosine in fixed point, from a term `t` and the next factor `k`. -/
def trigSum (a2 : Nat) : Nat → Nat → Int → Int
  | 0, _, _ => 0
  | n + 1, k, t => t + trigSum a2 n (k + 2) (-(t * a2 / ((2 ^ apxBits * (k * (k + 1)) : Nat) : Int)))

/-- sin 2πr (cosine false) or cos 2πr of r = n/d in (0, 1/2), in fixed point. -/
def trigFixed (cosine : Bool) (n d : Nat) : Int :=
  let a := 2 * piFixed * n / d
  let a2 := a * a / 2 ^ apxBits
  if cosine then trigSum a2 64 1 ((2 ^ apxBits : Nat) : Int) else trigSum a2 64 2 a

/-- The exact value or an exact point of VFSIN and VFCOS at a finite x (R128, Table 6.12), and whether the point is exact. -/
def trigExact (cosine : Bool) (s : Bool) (n d : Nat) : FNum × Bool :=
  let (k, _) := roundInt .nearest s n d
  let diff : Int := (n : Int) - k * d
  let rneg := (decide (diff < 0)) != s
  let rn := diff.natAbs
  if rn == 0 then
    (if cosine then .fin false 1 1 else .fin (s && n == 0) 0 1, true)
  else if 4 * rn == d then (if cosine then .fin false 0 1 else .fin rneg 1 1, true)
  else if 2 * rn == d then (if cosine then .fin true 1 1 else .fin false 0 1, true)
  else
    let v := trigFixed cosine rn d
    (.fin ((decide (v < 0)) != (!cosine && rneg)) v.natAbs (2 ^ apxBits), false)

/-- A value of magnitude 2^128 or above: no F32 value lies beyond it, so that it overflows by R38. -/
def beyondF32 : FNum → Bool
  | .fin _ n d => decide (2 ^ 128 * d ≤ n)
  | _ => false

/-- A value that one of two adjacent codes may stand for (R128, faithful): exact when representable; one that lies beyond every
F32 value overflows by R38. -/
def faithful (up sat ftz : Bool) (x : FNum) : Nat × Flags :=
  let s := x.sign
  -- the upper neighbour in magnitude is away from zero
  roundTo .f32 { rnd := if beyondF32 x then 1 else if up != s then 3 else 4, sat := sat, ftz := ftz } x

/-- |x − y| ≤ 2^(−k) for finite x and y. -/
def within (k : Nat) (x y : FNum) : Bool :=
  match FNum.add false x (y.negate) with
  | (.fin _ n d, _) => decide (n * 2 ^ k ≤ d)
  | _ => false

/-- A value returned inside an absolute bound of 2^(−k): the opaque choice where it lies inside the bound, else the
nearest value (R128). Underflow is raised for a subnormal returned value, and not for a returned zero (DESIGN CHOICE, log 108). -/
def bounded (f : FloatFmt) (k : Nat) (choice : Nat) (m : Rounding) (x : FNum) : Nat × Flags :=
  let c := bits choice 0 f.width
  if within k (decodeRaw f c) x then
    let (r, fl) := roundTo f m (decodeRaw f c)
    (r, fl ||| Flags.inx ||| Flags.when (isSubnormal f c) Flags.unf)
  else roundTo f m x

/-- The function of Table 6.4 numbered 0 VFRCP, 1 VFRSQ, 2 VFEXP2, 3 VFLOG2, 4 VFSIN, 5 VFCOS, of one element of
format F32 or F16, with its flags (R128). -/
def approxOp (fn : Nat) (f : FloatFmt) (sat daz ftz : Bool) (code : Nat) : Nat × Flags :=
  let m : Rounding := { rnd := 1, sat := sat, ftz := ftz }
  let x := decodeNum f daz code
  let w := BitVec.ofNat 32 code
  let up := Config.faithfulUp fn w
  let fin (x : FNum) : Nat × Flags := if f == .f32 then faithful up sat ftz x else roundTo f m x
  match x with
  | .nan q => (f.qnan, Flags.when q Flags.inv)
  | .inf s =>
    match fn, s with
    | 0, s => roundTo f m (.fin s 0 1)
    | 1, false => roundTo f m (.fin false 0 1)
    | 2, true => roundTo f m (.fin false 0 1)
    | 2, false => (signCode f false (f.maxCode + 1), 0)
    | 3, false => (signCode f false (f.maxCode + 1), 0)
    | _, _ => (f.qnan, Flags.inv)
  | .fin s n d =>
    match fn with
    | 0 => if n == 0 then (signCode f s (f.maxCode + 1), Flags.dvz) else fin (.fin s d n)
    | 1 =>
      if n == 0 then (signCode f s (f.maxCode + 1), Flags.dvz)
      else if s then (f.qnan, Flags.inv)
      else
        let (a, b) := sqrtQuot d n
        fin (.fin false a b)
    | 2 => if n == 0 then roundTo f m (.fin false 1 1) else fin (exp2Exact s n d)
    | 3 =>
      if n == 0 then (signCode f true (f.maxCode + 1), Flags.dvz)
      else if s then (f.qnan, Flags.inv)
      else
        let e := ilog2 n d
        let power := if 0 ≤ e then n == d * 2 ^ e.toNat else n * 2 ^ (-e).toNat == d
        if power then roundTo f m (FNum.ofInt e)
        else if f == .f32 && decide (d ≤ 2 * n) && decide (n ≤ 2 * d) then
          bounded f 24 (Config.boundedCode 3 w).toNat m (log2Exact n d)
        else fin (log2Exact n d)
    | _ =>
      let (y, exact) := trigExact (fn == 5) s n d
      if exact then roundTo f m y
      else if f == .f32 then bounded f 22 (Config.boundedCode fn w).toNat m y
      else bounded f 10 (Config.boundedCode (fn + 8) w).toNat m y

end Sys2Proof.Machine
end

