-- ==== Sys2Proof/Machine/Elem.lean ====
section
/-! DEFINITION. Integer elements (spec/02_number_formats.md R26, R27) and the element-wise integer operations of
spec/05_integer_bit_instructions.md, as functions of one register value (32 bits, or 64 bits of an even pair). -/

namespace Sys2Proof.Machine

/-- Width of an integer element (Table 1.1). -/
def intWidth (ty : Nat) : Nat :=
  match ty with
  | 0 | 1 => 32
  | 2 | 3 => 16
  | 4 | 5 => 8
  | _ => 64

/-- An I type (Table 1.1). -/
def intSigned (ty : Nat) : Bool := ty % 2 == 0

/-- A 64-bit integer TYPE, whose register operands are even pairs (R55, R90). -/
def intWide (ty : Nat) : Bool := decide (6 ≤ ty)

/-- Width of the value that holds the elements: 32 or 64 bits (R90). -/
def valueWidth (ty : Nat) : Nat := if intWide ty then 64 else 32

/-- Elements in a value (R90). -/
def intElems (ty : Nat) : Nat := valueWidth ty / intWidth ty

/-- Element `k` of a value as a plain number (R26). -/
def elemNat (x : Nat) (w k : Nat) : Nat := bits x (w * k) w

/-- Element `k` of a value as an integer, signed for I types (R26, Elem of Table 2.8). -/
def elemInt (x : Nat) (ty k : Nat) : Int :=
  let e := elemNat x (intWidth ty) k
  if intSigned ty then signed e (intWidth ty) else (e : Int)

/-- Fits an exact integer into an element, as its bits (R27, Fit of Table 2.8). -/
def fitInt (e : Int) (ty : Nat) (sat : Bool) : Nat :=
  let w := intWidth ty
  if sat then
    let lo : Int := if intSigned ty then -((2 ^ (w - 1) : Nat) : Int) else 0
    let hi : Int := if intSigned ty then ((2 ^ (w - 1) : Nat) : Int) - 1 else ((2 ^ w : Nat) : Int) - 1
    wrapInt (if e < lo then lo else if hi < e then hi else e) w
  else wrapInt e w

/-- Builds a value from its elements, element 0 lowest, each of width `w` (R26). -/
def packElems (w : Nat) : List Nat → Nat
  | [] => 0
  | e :: es => e % 2 ^ w + 2 ^ w * packElems w es

/-- Forms a value element by element (the loop of R95). -/
def mapElems (ty : Nat) (f : Nat → Nat) : Nat := packElems (intWidth ty) ((List.range (intElems ty)).map f)

/-- An operation of exact integers, element by element, fitted by SAT (R95). -/
def intOp (op : Int → Int → Int → Int) (ty : Nat) (sat : Bool) (a b c : Nat) : Nat :=
  mapElems ty fun k => fitInt (op (elemInt a ty k) (elemInt b ty k) (elemInt c ty k)) ty sat

/-- VMULHI: floor of x times y over 2^w (Table 5.3). -/
def mulhi (w : Nat) (x y : Int) : Int := (x * y) / ((2 ^ w : Nat) : Int)

/-- NOT over the width of the value (R97). -/
def notW (ty : Nat) (x : Nat) : Nat := 2 ^ valueWidth ty - 1 - x % 2 ^ valueWidth ty

/-- VAND by minor (Table 5.5). -/
def andOp (minor ty a b : Nat) : Nat :=
  match minor with
  | 0 => Nat.land a b
  | 1 => Nat.land a (notW ty b)
  | _ => notW ty (Nat.land a b)

/-- VOR by minor (Table 5.5). -/
def orOp (minor ty a b : Nat) : Nat :=
  match minor with
  | 0 => Nat.lor a b
  | 1 => Nat.lor a (notW ty b)
  | _ => notW ty (Nat.lor a b)

/-- VXOR by minor (Table 5.5). -/
def xorOp (minor ty a b : Nat) : Nat :=
  match minor with
  | 0 => Nat.xor a b
  | _ => notW ty (Nat.xor a b)

/-- VSHL of one value (R98). -/
def shlOp (ty a b : Nat) : Nat :=
  let w := intWidth ty
  mapElems ty fun k =>
    let s := elemNat b w k % 256
    if w ≤ s then 0 else elemNat a w k * 2 ^ s % 2 ^ w

/-- VSHR of one value: arithmetic for I types (R98). -/
def shrOp (ty a b : Nat) : Nat :=
  let w := intWidth ty
  mapElems ty fun k =>
    let s := elemNat b w k % 256
    let x := elemInt a ty k
    if w ≤ s then (if x < 0 then wrapInt (-1) w else 0) else wrapInt (x / ((2 ^ s : Nat) : Int)) w

/-- VROT of one value, left for minor 0 and right for minor 1 (R98). -/
def rotOp (minor ty a b : Nat) : Nat :=
  let w := intWidth ty
  mapElems ty fun k =>
    let t := elemNat b w k % 256 % w
    let t := if minor == 0 then t else (w - t) % w
    let x := elemNat a w k
    x * 2 ^ t % 2 ^ w + x / 2 ^ (w - t)

/-- VFUN: the funnel shift (R99). -/
def funOp (minor a b c : Nat) : Nat :=
  let p := a * 2 ^ 32 + b
  let n := c % 32
  if minor == 0 then bits (p * 2 ^ n) 32 32 else bits (p / 2 ^ n) 0 32

/-- VBFX: bit-field extract (R100). -/
def bfxOp (ty a off wid : Nat) : Nat :=
  let w := intWidth ty
  if w ≤ off || wid == 0 then 0
  else
    let wid := min wid (w - off)
    let f := bits a off wid
    if intSigned ty then wrapInt (signed f wid) w else f

/-- VBFI: bit-field insert (R101). -/
def bfiOp (ty a b c : Nat) : Nat :=
  let w := intWidth ty
  let off := bits c 0 8
  let wid := bits c 8 8
  if w ≤ off || wid == 0 then a
  else
    let wid := min wid (w - off)
    bits a 0 off + 2 ^ off * bits b 0 wid + 2 ^ (off + wid) * (a / 2 ^ (off + wid))

/-- Zero bits above the highest set bit of a `w`-bit element (Table 5.6). -/
def clz (w x : Nat) : Nat := if x == 0 then w else w - 1 - Nat.log2 x

/-- Position of the lowest set bit among bits `i`, `i + 1`, ... of a number, within `n` bits. -/
def lowestBit (x : Nat) : Nat → Nat → Option Nat
  | _, 0 => none
  | i, n + 1 => if x.testBit i then some i else lowestBit x (i + 1) n

/-- Zero bits below the lowest set bit (Table 5.6). -/
def ctz (w x : Nat) : Nat := (lowestBit x 0 w).getD w

/-- 1-based position of the lowest set bit, 0 for zero (Table 5.6). -/
def ffs (w x : Nat) : Nat := ((lowestBit x 0 w).map (· + 1)).getD 0

/-- Number of set bits among the low `w` (Table 5.6). -/
def popc : Nat → Nat → Nat
  | 0, _ => 0
  | w + 1, x => x % 2 + popc w (x / 2)

/-- The low `w` bits in reverse order (Table 5.6). -/
def brev : Nat → Nat → Nat
  | 0, _ => 0
  | w + 1, x => x % 2 * 2 ^ w + brev w (x / 2)

/-- A function of the width and the element, on every element (R102). -/
def bitOp (f : Nat → Nat → Nat) (ty a : Nat) : Nat := mapElems ty fun k => f (intWidth ty) (elemNat a (intWidth ty) k)

/-- The comparisons of Table 5.7. -/
def cmpInt (minor : Nat) (x y : Int) : Bool :=
  match minor with
  | 0 => decide (x = y)
  | 1 => decide (x ≠ y)
  | 2 => decide (x < y)
  | 3 => decide (x ≤ y)
  | 4 => decide (x > y)
  | _ => decide (x ≥ y)

/-- VCMP and SCMP of one pair of values (R103, R114). -/
def cmpOp (minor ty a b : Nat) : Bool := cmpInt minor (elemInt a ty 0) (elemInt b ty 0)

/-- VCVTI of one value: source type `src`, destination type `ty`, selector `sel` (R107). -/
def cvtiOp (src ty : Nat) (sat : Bool) (sel a : Nat) : Nat :=
  mapElems ty fun k => if k + sel < intElems src then fitInt (elemInt a src (k + sel)) ty sat else 0

/-- VBSRD of one lane: from WINDOW, NVALID, RCOUNT, the requested count and the refill pair, the field and the new
window, NVALID and RCOUNT (R111). -/
def bsrdOp (window nvalid rcount b refill : Nat) : Nat × Nat × Nat × Nat :=
  let n := min nvalid 64
  let w := bits window 0 n
  let q := min b 32
  if q ≤ n then (bits w 0 q, w / 2 ^ q, n - q, rcount)
  else (w + bits refill 0 (q - n) * 2 ^ n, bits refill (q - n) (64 - (q - n)), 64 - (q - n), (rcount + 1) % 2 ^ 32)

end Sys2Proof.Machine
end

