-- ==== Sys2Proof/Machine/State.lean ====
section
/-! DEFINITION. The state of the module, as plain data. Every piece of state that the specification names is here; the
fields `agenda`, `cur`, `nextId` and `free` are the model's own (DESIGN CHOICE, log 2). Keyed tables list what differs from the default
of their kind; INVENTORY.md names the rule and the reset value of each piece. -/

namespace Sys2Proof.Machine

/-- The states of a train slot (Table 3.5). SAVED is left at once for FREE (R67): what a saved train keeps stands in the
table of trains beyond the slots, at 8192 and above, in state `saved`. -/
inductive SlotState where
  | free | starting | resident | parked | ending | saved
  deriving DecidableEq, Repr, Inhabited

/-- STATE of a split table entry (Table 3.4). -/
inductive SplitState where
  | ready | joinwait | parked
  deriving DecidableEq, Repr, Inhabited

/-- What holds the next run of a split (Table 8.2). -/
inductive Hold where
  /-- Nothing. -/
  | free
  /-- WAIT with its four thresholds (R158). -/
  | wait (g s c t : Nat)
  /-- YIELD: whether the scheduler has issued a run of another train, and cycles without another eligible train (R160). -/
  | yield (issued : Bool) (idle : Nat)
  /-- REGGROW of `n` granules with its status register and issue cycle (R161). -/
  | grow (n sreg cycle : Nat)
  /-- REGTRIM of `n` granules (R163). -/
  | trim (n : Nat)
  /-- REGRP or a ring operation: kind 0 REGRP, 1 RINGOFF, 2 RINGTAKE (R276, R302), with the arrival cycle once queued. -/
  | regroup (kind arg tok : Nat) (queued : Option Nat)
  /-- An Escapement instruction waits for a release or a value without holding an issue slot (R324, R328). -/
  | escape
  /-- ERET: the train is the handler and waits for an event (R413). -/
  | handler
  deriving DecidableEq, Repr, Inhabited

/-- A long-lived reference to a train: its slot, the generation of the slot, and the split that issued. -/
structure Who where
  tid : Nat := 0
  gen : Nat := 0
  sid : Nat := 0
  /-- The workgroup of the train at the issue, which waits for what its ended trains have left under way (R398). -/
  wg : Nat := 0
  deriving DecidableEq, Repr, Inhabited

/-- A fault record (Table 22.3). -/
structure FaultRec where
  kind : Nat
  trainLevel : Bool
  lane : Nat
  sid : Nat
  offset : Nat
  pending : LaneMask
  addr : DWord
  size : Nat
  info : Word
  deriving DecidableEq, Repr, Inhabited

/-- One entry of the split table (Table 3.4), with what R61 and R62 remember of the split. -/
structure Split where
  valid : Bool := false
  state : SplitState := .ready
  pc : Nat := 0
  member : LaneMask := 0
  active : LaneMask := 0
  /-- The last word of a partial run that the split resumes (R62). -/
  partialEnd : Option Nat := none
  /-- The pending lanes of a faulting instruction that is issued again (R205, R209, R291). -/
  replay : Option LaneMask := none
  /-- What holds the next run. -/
  hold : Hold := .free
  /-- Records of the fault that parked the split. -/
  recs : List FaultRec := []
  /-- Records of faults that park the split instead of its next run (R298, R301). -/
  deferred : List FaultRec := []
  /-- Cycles for which a watched wait has lasted (R403). -/
  watch : Nat := 0
  /-- Where the split goes on after it has issued one word again by itself (R315). -/
  back : Option Nat := none
  /-- The CTXSAVE, TSNAP, TLBINV and HALTALL operations that its next run waits for (R416, R419, R420). -/
  sysOps : List Nat := []
  /-- The ACALL of the issuing word, whose requests its queues have yet to accept (R291). -/
  sending : Option Nat := none
  /-- The cycle in which a BRV formed the split, which tells splits of one number apart (R61, R298). -/
  born : Nat := 0
  deriving DecidableEq, Repr, Inhabited

/-- A deferral record (Table 7.1); a record in the list is VALID. -/
structure DeferRec where
  join : Bool
  sid : Nat
  pc : Nat
  lanes : LaneMask
  deriving DecidableEq, Repr, Inhabited

/-- What a live lane holds (R50): its element and the read-only codes of it. -/
structure LaneElem where
  elem : Nat
  helper : Bool := false
  seq : Nat := 0
  sample : Nat := 0
  bi : Word := 0
  bj : Word := 0
  bk : Word := 0
  /-- The `%elem` of a sample's coarse pixel, or the identifier of the ray of a RAY lane. -/
  parent : Nat := 0
  deriving DecidableEq, Repr, Inhabited

/-- A register that waits for a long-latency result (R86), with the stall reason of Table 8.3. -/
structure Busy where
  isV : Bool
  reg : Nat
  reason : Nat
  /-- The operation that will deliver. -/
  op : Nat
  deriving DecidableEq, Repr, Inhabited

/-- An NBARR arrival that waits to count: the barrier, the token, the split, the operations whose ends it awaits, the largest
timestamp of the work that it covers, and the train's Lamport clock (R350, R353, R437). -/
structure HeldArrival where
  bar : Nat
  tok : Nat
  sid : Nat
  ops : List Nat
  ts : Nat
  lam : Nat
  deriving DecidableEq, Repr, Inhabited

/-- A train slot (R67, R68). -/
structure Train where
  state : SlotState := .free
  /-- GEN of the slot (R408). -/
  gen : Nat := 0
  /-- Names this train among all that have stood in the slot, passes included (the model's own, DESIGN CHOICE, log 2). -/
  inc : Nat := 0
  age : Nat := 0
  ctx : Nat := 0
  launch : Nat := 0
  wg : Nat := 0
  role : Nat := 0
  ordinal : Nat := 0
  rung : Nat := 0
  combiner : Bool := false
  granules : Nat := 0
  vregs : Tab (List Word) := []
  sregs : Tab Word := []
  /-- Pending bits of s0 to s127 (R63). -/
  pend : BitVec 128 := 0
  /-- The stall reason of a pending register other than 8, token (R194). -/
  pendWhy : Tab Nat := []
  busy : List Busy := []
  gens : List Word := []
  elems : Tab LaneElem := []
  /-- Live lanes (R48). -/
  live : LaneMask := 0
  splits : List Split := []
  stack : List DeferRec := []
  /-- The four counters of R64. -/
  gather : Nat := 0
  scatter : Nat := 0
  copies : Nat := 0
  tile : Nat := 0
  /-- Program timestamp (R66). -/
  pts : Nat := 0
  /-- Timestamps that registers carry until the train reads them (R349): scalar registers by number, vector registers from 128
  on. -/
  carried : Tab Nat := []
  /-- Registers that hold an uncorrectable error, numbered in the same way (R404). -/
  broken : List Nat := []
  /-- The largest timestamp of the train's completed operations, which a WAIT observes (R158, R349), and of its completed matrix
  operations, which an arrival covers (R353). -/
  ended : Nat := 0
  matTs : Nat := 0
  /-- Values of the f-registers of the lanes' own elements (R169). -/
  fix : Tab (List Word) := []
  fxrel : Bool := false
  /-- Lamport clock (R437). -/
  lamport : Nat := 0
  /-- Captured high words of profiling counters, by odd number (R195). -/
  capture : Tab Word := []
  /-- Vertices that this CLUSTER train emitted are kept in the launch; here the key register of the last REGRP (R303). -/
  regrpKey : Nat := 0
  /-- NBARR arrivals that have not counted yet, in program order (R236, R350, R428). -/
  heldArr : List HeldArrival := []
  /-- A TKILL that waits for the end of the run in issue (R190). -/
  killAtEnd : Bool := false
  /-- The CTXSAVE operation that is to save this train (R416). -/
  saveOp : Option Nat := none
  /-- Depth of the rays of a RAY train (R265), and its ray allotment. -/
  rayDepth : Nat := 0
  reserveSlot : Bool := false
  /-- A combiner train waits in ARECV: the header quad and the first of its vector registers (R294). -/
  arecv : Option (Nat × Nat) := none
  /-- The CTXREST operation that loads this train (R418). -/
  restOp : Option Nat := none
  /-- It has left STARTING for a save, a discard or a kill, and its pass has not started: it issues nothing (R53, R398, Table 3.5). -/
  waitsPass : Bool := false
  /-- It is ENDING because its workgroup has been discarded (R398, Table 3.5). -/
  discarded : Bool := false
  /-- A train STARTING from its saved context, which comes back with its workgroup or to the combiner slot (R67, R398). -/
  returning : Bool := false
  /-- A saved train that CTXSAVE has taken out: only a CTXREST of its image brings it back (R416, R417). -/
  imageOnly : Bool := false
  /-- Escapement waits of a saved train: kind, launch slot or channel, register, phase (R454). -/
  esWaits : List (Nat × Nat × Nat × Nat) := []
  deriving DecidableEq, Repr, Inhabited

/-- A run that a scheduler is issuing: the words not yet issued, the first of them standing at the split's PC. -/
structure RunInIssue where
  slot : Nat
  sid : Nat
  words : List DWord
  /-- The stall reason of Table 8.3 that the run met at its next word, if any. -/
  stall : Option Nat := none
  /-- The cycle in which the run was picked, which orders the runs of a train's splits (R191). -/
  picked : Nat := 0
  deriving DecidableEq, Repr, Inhabited

/-- A scheduler (R185 to R193). -/
structure Sched where
  run : Option RunInIssue := none
  last : Option Nat := none
  /-- Which train of that slot it was. -/
  lastInc : Nat := 0
  streak : Nat := 0
  /-- An idle cycle has passed since the last run, above 95 °C (R452). -/
  rested : Bool := false
  bins : Tab Nat := []
  reasons : Tab Nat := []
  deriving DecidableEq, Repr, Inhabited

/-- A run in an instruction cache (R88). -/
structure CachedRun where
  launch : Nat
  start : Nat
  words : List DWord
  deriving DecidableEq, Repr, Inhabited

/-- A leaf's attributes and frame (Table 20.3): `base` is the physical frame address, `size` the page size. -/
structure Page where
  home : Nat
  spread : Nat
  slice : Nat
  cls : Nat
  priv : Bool
  x : Bool
  w : Bool
  r : Bool
  base : Nat
  size : Nat
  deriving DecidableEq, Repr, Inhabited

/-- A cached translation: the context, the first virtual address of the page and its leaf (R371). -/
structure TlbEntry where
  ctx : Nat
  va : Nat
  page : Page
  deriving DecidableEq, Repr, Inhabited

/-- An L1 copy of a line: its 128 bytes and its timestamps (R340). -/
structure L1Line where
  data : List Byte
  wts : Nat
  rts : Nat
  /-- The copy holds an uncorrectable error (R404). -/
  bad : Bool := false
  deriving DecidableEq, Repr, Inhabited

/-- A line resident in its L2 slice (R212, R313, R374, R376). -/
structure L2Line where
  slice : Nat := 0
  /-- SPREAD and SLICE of the page the line came by, from which a retirement finds its new home (R310, R312). -/
  spread : Nat := 0
  named : Nat := 0
  cls : Nat := 0
  /-- LPIN pin counts by context. -/
  pins : Tab Nat := []
  /-- The context whose PINUSE counts the line as a home 1 pin. -/
  home1 : Option Nat := none
  /-- Fetch pins of tile fetch units (R248). -/
  fetch : Nat := 0
  /-- An invalidation has dropped the line; its LPIN pins stand until LUNPIN or the end of their contexts (R213, R373). -/
  dropped : Bool := false
  /-- Order of the last use. -/
  used : Nat := 0
  deriving DecidableEq, Repr, Inhabited

/-- Where an access leads (R196, R200). -/
inductive Loc where
  /-- A physical address, with the page's home, spread, slice field and class. -/
  | phys (pa home spread slice cls : Nat)
  /-- An offset of a workgroup's local memory. -/
  | loc (wg off : Nat)
  /-- An offset of a workgroup's tiles. -/
  | acc (wg off : Nat)
  /-- An offset of a core's local memory inside its home 2 windows. -/
  | window (core off : Nat)
  deriving DecidableEq, Repr, Inhabited

/-- A load in flight: who reads, where the value goes and the lanes' values (R86, R202, R204). -/
structure LoadOp where
  tid : Nat
  gen : Nat
  sid : Nat
  scalar : Bool
  dest : Nat
  regs : Nat
  lanes : LaneMask
  vals : Tab Nat
  deriving DecidableEq, Repr, Inhabited

/-- An update in the queue of its line (R208, R314). -/
structure Update where
  /-- The operation that the reply belongs to. -/
  op : Nat
  loc : Loc
  /-- ATOM OP code; 15 TDEC, 16 TINC. -/
  code : Nat
  wide : Bool
  operand : Nat
  compare : Nat
  lane : Nat
  /-- The requester: train slot, for the timestamp. -/
  tid : Nat
  /-- The least timestamp the update may take: the requester's pts at issue. -/
  pts : Nat
  /-- The virtual address, for records and the ready list. -/
  va : Nat
  /-- The requester's Lamport clock, which a TDEC carries (R437). -/
  lam : Nat := 0
  deriving DecidableEq, Repr, Inhabited

/-- An ATOM, SATOM, TDEC or TINC that awaits its updates (R348). -/
structure AtomOp where
  tid : Nat
  gen : Nat
  sid : Nat
  scalar : Bool
  dest : Nat
  wide : Bool
  /-- Lanes that write D: applied lanes and helpers (R208). -/
  lanes : LaneMask
  waiting : Nat
  vals : Tab Nat
  ts : Nat
  /-- Queue whose TASKERR counts a TDEC that finds 0 (R178). -/
  queue : Nat
  /-- The instruction's word and access size. -/
  pc : Nat
  size : Nat
  /-- Lanes whose update met an uncorrectable error: lane, address and source (R315). -/
  failed : List (Nat × Nat × Word) := []
  /-- The launch whose completion waits for it (R343), the context and the workgroup that issued it. -/
  launch : Nat := 0
  ctx : Nat := 0
  wg : Nat := 0
  deriving DecidableEq, Repr, Inhabited

/-- A matrix operation that a train has issued (R234 to R254). -/
structure MatOp where
  tid : Nat := 0
  gen : Nat := 0
  sid : Nat := 0
  joined : DWord := 0
  ctx : Nat := 0
  core : Nat := 0
  priv : Bool := false
  wg : Nat := 0
  /-- 0 MMA, 1 MZERO, 2 MLDA, 3 MSTA, 4 MCVT, 5 MQNT. -/
  kind : Nat := 0
  minor : Nat := 0
  tile : Nat := 0
  /-- Source tile of MCVT. -/
  source : Nat := 0
  /-- Updating rows, fixed at issue. -/
  rows : LaneMask := 0
  tok : Nat := 0
  arr : Option Nat := none
  /-- It increments the tile counter (R234). -/
  counted : Bool := false
  /-- The format block (R238). -/
  block : List Word := []
  addr : Nat := 0
  stride : Int := 0
  scale : Nat := 0
  rnd : Nat := 1
  sat : Bool := false
  /-- Generators of the lanes at issue (R251, R253). -/
  gens : List Word := []
  ts : Nat := 0
  lam : Nat := 0
  seen : List Nat := []
  /-- Lines that the tile fetch unit has read for it, by line number: their 128 bytes (R247). -/
  lines : Tab Nat := []
  /-- Resident lines that it holds by a fetch pin (R248). -/
  pins : List Nat := []
  deriving DecidableEq, Repr, Inhabited

/-- Where a prefetched line goes: its slice alone, or also the L1 or the node cache of the core (R211, R273). -/
inductive PrefTo where
  | l2 | l1 | node
  deriving DecidableEq, Repr, Inhabited

/-- A prefetch whose translation is being walked (R211, R371). -/
structure Walk where
  core : Nat
  ctx : Nat
  tid : Nat
  va : Nat
  kept : PrefTo
  /-- PRIV of the launch that prefetches, and PTBASE at the start of the walk (R370, R372). -/
  priv : Bool
  ptbase : Nat
  deriving DecidableEq, Repr, Inhabited

/-- One loop of a copy descriptor (Table 9.7). -/
structure CopyLoop where
  count : Nat
  src : Int
  dst : Int
  deriving DecidableEq, Repr, Inhabited

/-- A copy descriptor (Table 9.7). -/
structure CopyDesc where
  src : Nat
  dst : Nat
  idx : Nat
  ctl : Nat
  loops : List CopyLoop
  deriving DecidableEq, Repr, Inhabited

/-- A copy in progress (R217 to R221). -/
structure CopyOp where
  who : Who
  joined : DWord
  ctx : Nat
  core : Nat
  priv : Bool
  wg : Nat
  /-- 0 CPY, 1 CPYG, 2 CPYS, 3 CPYR, 4 CPYX, 5 COPY packet. -/
  kind : Nat
  op : Nat
  tok : Nat
  arr : Option Nat
  desc : CopyDesc
  /-- Destination workgroups; one alone but for CPYX. -/
  dests : List Nat
  skipped : Nat
  /-- The next element, over all destinations in turn. -/
  pos : Nat
  ts : Nat
  lam : Nat
  /-- Watched ranges that have raised their event (R434). -/
  seen : List Nat
  /-- The packet of a COPY packet (R383). -/
  packet : Nat
  deriving DecidableEq, Repr, Inhabited

/-- A meshlet decode in progress (R259, R260). -/
structure MdecOp where
  who : Who
  joined : DWord
  ctx : Nat
  core : Nat
  priv : Bool
  wg : Nat
  src : Nat
  dst : Nat
  tok : Nat
  arr : Option Nat
  ts : Nat
  lam : Nat
  seen : List Nat
  deriving DecidableEq, Repr, Inhabited

/-- A BLST lane held at its slice (R279). -/
structure Blend where
  who : Who
  ctx : Nat
  launch : Nat
  seq : Nat
  tx : Nat
  ty : Nat
  loc : Loc
  op : Nat
  wide : Bool
  src : Nat
  pts : Nat
  lane : Nat
  pc : Nat
  va : Nat
  /-- The instruction that holds it, and the lowest watched byte of the lanes of that instruction which have been applied (R433). -/
  instr : Nat := 0
  hit : Option (Nat × Nat) := none
  deriving DecidableEq, Repr, Inhabited

/-- The requests of one ACALL to one accord page (R291, R297). -/
structure AccGroup where
  op : Nat
  cluster : Nat
  ctx : Nat
  launch : Nat
  /-- Physical and virtual base of the page. -/
  page : Nat
  va : Nat
  method : Nat
  wide : Bool
  pts : Nat
  lam : Nat
  /-- Requesting lane, argument and ea - PAGE, in ascending lane order. -/
  reqs : List (Nat × Nat × Nat)
  /-- The queue was full before all of its requests had entered (R297). -/
  cut : Bool := false
  deriving DecidableEq, Repr, Inhabited

/-- A request in a batch: its ACALL, its lane, its argument and its offset in the page (R289). -/
structure AccReq where
  op : Nat
  lane : Nat
  arg : Nat
  off : Nat
  pts : Nat
  lam : Nat
  deriving DecidableEq, Repr, Inhabited

/-- A batch (R289), with the error codes that AFAIL has recorded (R295). -/
structure AccBatch where
  ctx : Nat
  launch : Nat
  page : Nat
  va : Nat
  method : Nat
  wide : Bool
  seq : Nat
  reqs : List AccReq
  fails : Tab Word := []
  /-- Order in which batches opened (R289). -/
  opened : Nat := 0
  deriving DecidableEq, Repr, Inhabited

/-- An ACALL whose replies have not all arrived (R291, R298). -/
structure AccOp where
  who : Who
  joined : DWord
  ctx : Nat
  dest : Nat
  wide : Bool
  /-- Lanes whose requests were sent, and helpers. -/
  sent : LaneMask
  helpers : LaneMask
  /-- The fault that stopped the lane checks, and the pending lanes. -/
  fault : Option (Nat × Nat × DWord × Word)
  pending : LaneMask
  unaccepted : Nat
  waiting : Nat
  vals : Tab Nat
  failed : List (Nat × Word)
  addrs : Tab Nat
  ts : Nat
  lam : Nat
  pc : Nat
  /-- When the issuing split was formed. -/
  born : Nat := 0
  deriving DecidableEq, Repr, Inhabited

/-- A reply on its way (R296). -/
structure AccReply where
  op : Nat
  lane : Nat
  val : Nat
  err : Bool
  ts : Nat
  lam : Nat
  deriving DecidableEq, Repr, Inhabited

/-- A VXSHUF at its port, or paired (R300, R301). -/
structure Shuffle where
  who : Who
  core : Nat
  launch : Nat
  key : Nat
  wide : Bool
  dest : Nat
  act : LaneMask
  vals : List Nat
  issued : Nat
  /-- The partner and the cycle in which both destinations are written. -/
  pair : Option (Nat × Nat) := none
  /-- Context, joined name and formation of the issuing split (R298, R301). -/
  ctx : Nat := 0
  joined : DWord := 0
  born : Nat := 0
  deriving DecidableEq, Repr, Inhabited

/-- An offer that stands at a core of the ring: the offering train, and since when (R303). -/
structure RingOffer where
  who : Who
  since : Nat
  deriving DecidableEq, Repr, Inhabited

/-- What a member of a set awaits on a barrier slot or a channel (R324, R328): KIND of Table 22.11, the register, the phase
and the split. -/
structure EsWait where
  member : Nat
  kind : Nat
  reg : Nat
  phase : Nat
  sid : Nat
  /-- Order of issue (R454). -/
  seq : Nat
  deriving DecidableEq, Repr, Inhabited

/-- A module barrier slot bound to a set of a launch (Table 15.4). ACC is the reduction of `vals` under `op`. -/
structure EsSlot where
  launch : Nat
  set : Nat
  members : List (Nat × Nat)
  /-- Module scope (R318). -/
  far : Bool := false
  departed : List Nat := []
  count : Nat := 0
  arrived : List Nat := []
  /-- Members that have departed after their arrival in the current phase (R321). -/
  leaving : List Nat := []
  phase : Nat := 0
  op : Option Nat := none
  vals : List Nat := []
  killed : Bool := false
  result : Nat := 0
  lastKilled : Bool := false
  broken : Bool := false
  waits : List EsWait := []
  /-- Largest timestamp and clock of the arrivals of the phase, and of the last completed one (R350, R437). -/
  ts : Nat := 0
  lam : Nat := 0
  lastTs : Nat := 0
  lastLam : Nat := 0
  deriving DecidableEq, Repr, Inhabited

/-- A value on a channel, with what it carries. -/
structure EsValue where
  val : Nat
  ts : Nat
  lam : Nat
  /-- It stands for a value that was lost while its member was saved (R330). -/
  lost : Bool := false
  deriving DecidableEq, Repr, Inhabited

/-- A module broadcast channel bound to a set of a launch (R327, R328). -/
structure EsChan where
  launch : Nat
  set : Nat
  members : List (Nat × Nat)
  far : Bool := false
  departed : List Nat := []
  broken : Bool := false
  /-- Values received and not yet taken, by member. -/
  recv : Tab (List EsValue) := []
  waits : List EsWait := []
  deriving DecidableEq, Repr, Inhabited

/-- An Escapement message (R316): an arrival or a broadcast that has not entered, a release, or a broadcast on its way. -/
inductive EsMsg where
  /-- An arrival at a slot: its member, its operation and value, and its issue cycle. -/
  | arrival (slot member : Nat) (op : Option Nat) (val : EsValue) (issued : Nat)
  /-- A broadcast that has not entered. -/
  | entering (chan member : Nat) (val : EsValue) (issued : Nat)
  /-- A broadcast that is delivered at a tick. -/
  | broadcast (chan : Nat) (val : EsValue) (due : Nat)
  /-- A release of a phase that is delivered at a tick. -/
  | release (slot phase : Nat) (killed : Bool) (val : EsValue) (due : Nat)
  /-- A release or a broadcast that was lost: its waiters fault at the tick at which it was due (R330). -/
  | lostRelease (slot phase due : Nat)
  | lostBroadcast (chan due : Nat)
  deriving DecidableEq, Repr, Inhabited

/-- A core (R181, R193, R195). -/
structure Core where
  /-- L1 copies by line number (R340). -/
  l1 : Tab L1Line := []
  /-- Box nodes of the node cache by line number (R270). -/
  nodes : Tab L1Line := []
  /-- Cached translations (R371). -/
  tlb : List TlbEntry := []
  /-- Bytes of the home 2 windows, by offset in local memory (R369). -/
  windows : Bytes := []
  scheds : Tab Sched := []
  icache : List CachedRun := []
  profEn : Bool := false
  /-- The offer that stands at the core (R303). -/
  offer : Option RingOffer := none
  /-- The bytes that a start at a rung coarser than SAMPLE or LANE has not found in the core's fixative store: such starts are held until
  space returns (R171). -/
  storeHeld : Option Nat := none
  deriving DecidableEq, Repr, Inhabited

/-- An event on a context's queue (R406, Table 22.4): TYPE, the handle of a parked train, and the words that FLTRD reads
(R414). -/
structure Event where
  type : Nat
  handle : Word
  words : List DWord
  /-- Order in which events were raised (R406), and the cycle. -/
  seq : Nat := 0
  cycle : Nat := 0
  deriving DecidableEq, Repr, Inhabited

/-- A trace record that is to be appended: KIND, joined name, tag, value, and its L (R436, R437). -/
structure TraceRec where
  kind : Nat
  joined : DWord
  tag : Nat
  value : DWord
  lam : Nat
  /-- The cycle of its cause, and the module core and slot of its train, in whose order records of one cycle are appended (R436). -/
  since : Nat := 0
  tid : Nat := 0
  deriving DecidableEq, Repr, Inhabited

/-- A context (R384, R406 to R412). -/
structure Ctx where
  /-- Translation is off (R6). -/
  physical : Bool := false
  ptbase : Nat := 0
  pinq : Nat := 0
  pinuse : Nat := 0
  pinmiss : Nat := 0
  lease : Nat := 16
  events : List Event := []
  hentry : Nat := 0
  evlost : Nat := 0
  wdog : Nat := 0
  /-- Events of train faults that wait for space in the queue, each with its train's slot number (R406). -/
  waiting : List Event := []
  /-- The context has begun: the entry of the context table has been read (R445). -/
  begun : Bool := false
  /-- PRIV, handler context, PROC and THREAD, combiner save area of the entry (Table 26.4). -/
  priv : Bool := false
  handlerCtx : Option Nat := none
  proc : Nat := 0
  thread : Nat := 0
  combSave : Nat := 0
  /-- DUMPBASE and DUMPLEN (Table 22.6). -/
  dumpBase : Nat := 0
  dumpLen : Nat := 0
  /-- WBASE, WLEN and WCTL of the watched ranges 0 to 3 (Table 25.2). -/
  wbase : Tab Nat := []
  wlen : Tab Nat := []
  wctl : Tab Nat := []
  /-- TRBASE, TRLEN, TRPOS, TRLOST and bits [3:0] of 0x474 (Table 25.4). -/
  trBase : Nat := 0
  trLen : Nat := 0
  trPos : Nat := 0
  trLost : Nat := 0
  trCtl : Nat := 0
  /-- The largest L recorded by the session (R437). -/
  trM : Nat := 0
  /-- Cycle of the previous record, and whether the next one carries a full timestamp (R438). -/
  trPrev : Nat := 0
  trFull : Bool := false
  /-- Records that are to be appended, oldest first (R436). -/
  trQueue : List TraceRec := []
  deriving DecidableEq, Repr, Inhabited

/-- A role of a launch header (Table 21.4). -/
structure Role where
  entry : Nat
  granules : Nat
  trains : Nat
  producer : Bool
  stream : Bool
  deriving DecidableEq, Repr, Inhabited

/-- A run map entry (R24): first word and length. -/
structure RunEntry where
  start : Nat
  len : Nat
  deriving DecidableEq, Repr, Inhabited

/-- A fixative record of an ended or running element (R169). -/
structure FixRec where
  core : Nat := 0
  values : Tab Word := []
  /-- The element has ended; it holds references for closing (R169). -/
  ended : Bool := false
  spilled : Bool := false
  /-- Order of creation. -/
  order : Nat := 0
  /-- It has been refilled, and is the first to be spilled again (R171). -/
  refilled : Bool := false
  /-- Joined name of the producing train (R172). -/
  joined : DWord := 0
  /-- Where the record stands in the spill region. -/
  spillAt : Nat := 0
  /-- It stands in the room that R265 sets aside for RAY trains (R171). -/
  aside : Bool := false
  /-- The copies in the stores of other cores (R170) that have been spilled, with the place, or refilled. -/
  copies : Tab (Option Nat) := []
  deriving DecidableEq, Repr, Inhabited

/-- A primitive (R166): its vertices, its parent cluster element and its place in that cluster's lists. -/
structure Prim where
  v0 : Nat := 0
  v1 : Nat := 0
  v2 : Nat := 0
  cluster : Nat := 0
  deriving DecidableEq, Repr, Inhabited

/-- A ray (R265 to R268). -/
structure Ray where
  launch : Nat := 0
  core : Nat := 0
  /-- Its `%elem` (R50). -/
  elem : Nat := 0
  depth : Nat := 0
  /-- The nine ray registers at TRACE. -/
  words : List Word := []
  root : Nat := 0
  /-- The record that will be delivered (Table 11.6). -/
  hit : List Word := []
  /-- The TRACE and the spawning lane that it delivers to. -/
  trace : Nat := 0
  lane : Nat := 0
  /-- The timestamp of the TRACE's issue, with which its train starts (R345). -/
  issued : Nat := 0
  /-- Its RAY element stands in a train. -/
  started : Bool := false
  /-- The ray element has ended (R268), at this timestamp. -/
  ended : Bool := false
  ts : Nat := 0
  /-- Accesses of its RAY train that had no place yet when it ended: they are events of the TRACE (R345). -/
  ops : List Nat := []
  /-- It has delivered its record, and stays while a train holds its element (R169). -/
  delivered : Bool := false
  /-- Values that the spawning element read for the f-registers at its TRACE (R167). -/
  captured : Tab Word := []
  /-- Keys of the fixative records that the spawner's ancestors own (R169). -/
  ancestors : List Nat := []
  deriving DecidableEq, Repr, Inhabited

/-- A TRACE whose rays have not all delivered (R266, R268). -/
structure TraceOp where
  who : Who
  hitReg : Nat
  lanes : LaneMask
  recs : Tab (List Word)
  left : Nat
  spawned : Nat
  tok : Nat
  ts : Nat
  deriving DecidableEq, Repr, Inhabited

/-- A COARSE element (R264): its primitive, its coarse pixel and its covered samples by `%sample`. -/
structure CoarseInfo where
  seq : Nat
  cx : Nat
  cy : Nat
  samples : List Nat
  helper : Bool
  ended : Bool := false
  /-- Its SAMPLE elements have been spawned, and this many have not ended. -/
  spawned : Bool := false
  left : Nat := 0
  deriving DecidableEq, Repr, Inhabited

/-- A registration of a primitive at a screen tile (R279). -/
structure Registration where
  seq : Nat
  tx : Nat
  ty : Nat
  isOpen : Bool := true
  deriving DecidableEq, Repr, Inhabited

/-- An element that the rung sequencer has spawned and that stands in no train yet; `core` is none where any core will
do (R170). -/
structure PendElem where
  rung : Nat
  core : Option Nat
  elem : LaneElem
  deriving DecidableEq, Repr, Inhabited

/-- A render target (Table 21.5). -/
structure Target where
  base : Nat
  pitch : Nat
  es : Nat
  spp : Nat
  width : Nat
  height : Nat
  deriving DecidableEq, Repr, Inhabited

/-- The raster state of a draw (Tables 11.4, 21.5): the viewport as F32 codes. -/
structure Raster where
  x0 : Nat := 0
  y0 : Nat := 0
  w : Nat := 0
  h : Nat := 0
  sx0 : Nat := 0
  sy0 : Nat := 0
  sx1 : Nat := 0
  sy1 : Nat := 0
  csize : Nat := 0
  spp : Nat := 0
  cull : Nat := 0
  front : Nat := 0
  targets : List Target := []
  deriving DecidableEq, Repr, Inhabited

/-- What a launch holds on a core for its RAY trains (R265): the reserve slots and the workgroup of its ray local
region. -/
structure RayReserve where
  slots : List Nat
  region : Nat
  deriving DecidableEq, Repr, Inhabited

/-- A launch in progress (R384). -/
structure Launch where
  ctx : Nat := 0
  /-- Launch slot, process and thread numbers of the joined name (R431). -/
  lslot : Nat := 0
  proc : Nat := 0
  thread : Nat := 0
  queue : Nat := 0
  graphics : Bool := false
  /-- CLASS of the queue (R188). -/
  klass : Nat := 0
  priv : Bool := false
  /-- The timer when the launch started (R397). -/
  since : Nat := 0
  /-- The Lamport clock that its trains start with (R437). -/
  lam : Nat := 0
  codeBase : Nat := 0
  codeWords : Nat := 0
  /-- The code section as it stood when the first train started (R88); none for a word that could not be read then. -/
  code : List (Option DWord) := []
  /-- The run maps, by rung code (R24). -/
  runMaps : Tab (List RunEntry) := []
  roles : List Role := []
  /-- The f-register bytes: declared rung and mode (0 flat, 1 linear, 2 persp) (Table 21.4). -/
  fix : Tab (Nat × Nat) := []
  tileSize : Nat := 96
  seed : Word := 0
  /-- Member lists of the sets, by set index: workgroup ordinal and train ordinal (R386). -/
  sets : Tab (List (Nat × Nat)) := []
  /-- Trains of a workgroup, all roles (R387). -/
  trainsPerWg : Nat := 0
  /-- Fixative records, by rung code * 2^32 + element (R169). -/
  recs : Tab FixRec := []
  /-- Parents of OBJECT, CLUSTER and VERTEX elements, by rung code * 2^32 + element (Table 3.1). -/
  parents : Tab Nat := []
  /-- Primitives by sequence number (R166). -/
  prims : Tab Prim := []
  /-- The next unassigned VERTEX index of the draw (R165). -/
  nextVertex : Nat := 0
  /-- Primitives that CLUSTER elements have emitted, by the cluster's `%elem`, in list order (R166). -/
  emitted : Tab (List Prim) := []
  /-- COARSE pixels that KILLS or EXIT has ended as killed: they spawn no samples (R164). -/
  killed : List Nat := []
  /-- CMASK of the queue (R379). -/
  cmask : Nat := 0
  argBlock : Nat := 0
  wgCount : Nat := 0
  elems : Nat := 0
  idemp : Bool := false
  localUnits : Nat := 0
  tiles : Nat := 0
  combine : Nat := 0xFFFFFFFF
  /-- NRES, ray granules and RLOCAL (R265). -/
  nres : Nat := 0
  rayGranules : Nat := 1
  rlocal : Nat := 0
  rayReserve : Tab RayReserve := []
  /-- The timer since which elements of a draw have waited for a train (R397). -/
  waitSince : Option Nat := none
  /-- Launch timestamp (R343). -/
  ts : Nat := 0
  /-- The packet that the launch belongs to (R380). -/
  packet : Nat := 0
  /-- SPILL base and size, and a spill write has faulted (R171, R172). -/
  spillBase : Nat := 0
  spillSize : Nat := 0
  spillStopped : Bool := false
  /-- Barrier-slot and channel bindings: the launch's number to the set index, and to the module's number (R317). -/
  slotSet : Tab Nat := []
  slotMap : Tab Nat := []
  chanSet : Tab Nat := []
  chanMap : Tab Nat := []
  /-- Compute workgroups that wait for placement again after a discard, with the timer at the discard, and the next
  ordinal never placed. -/
  rerun : List (Nat × Nat) := []
  nextWg : Nat := 0
  /-- Ordinals beyond `nextWg` that a placement group has placed (R389). -/
  ahead : List Nat := []
  /-- Its context has been killed (R399). -/
  dead : Bool := false
  /-- Compute workgroups that have left their core for good. -/
  gone : Nat := 0
  /-- The LAUNCH pass has ended (R53). -/
  launchEnded : Bool := false
  /-- Graphics: objects and their clusters (Table 21.3). -/
  objects : Nat := 0
  clusters : List Nat := []
  pend : List PendElem := []
  nextCoarse : Nat := 0
  nextSample : Nat := 0
  nextRay : Nat := 0
  coarse : Tab CoarseInfo := []
  registrations : List Registration := []
  /-- CLUSTER and VERTEX elements whose trains have ended, with the core. -/
  clustersDone : Tab Nat := []
  vertsDone : Tab Nat := []
  /-- The raster unit's next primitive: cluster, place in its list, and sequence number (R166). -/
  rasterCluster : Nat := 0
  rasterIndex : Nat := 0
  nextSeq : Nat := 0
  raster : Raster := {}
  deriving DecidableEq, Repr, Inhabited

/-- A token that a barrier is about to write: who, the register, the value, the carried timestamp and clock. -/
structure BarToken where
  who : Who
  tok : Nat
  val : Word
  ts : Nat
  lam : Nat
  deriving DecidableEq, Repr, Inhabited

/-- The arrivals of a train that has ended and that have not counted yet, in program order (R65, R428). -/
structure LateArrivals where
  who : Who
  arr : List HeldArrival
  deriving DecidableEq, Repr, Inhabited

/-- A named barrier (Table 9.9), with the largest timestamp and clock of the phase's arrivals (R350, R437). -/
structure NamedBar where
  valid : Bool := true
  count : Nat := 0
  arrived : Nat := 0
  phase : Nat := 0
  waiters : List (Who × Nat) := []
  ts : Nat := 0
  lam : Nat := 0
  /-- Tokens of the completed phase, written in the next cycle (R223). -/
  due : List BarToken := []
  deriving DecidableEq, Repr, Inhabited

/-- The states of Table 21.10 of a workgroup that stands on a core or in a save area. -/
inductive WgState where
  | placed | draining | holding | discarding | saved | waiting
  deriving DecidableEq, Repr, Inhabited

/-- A workgroup (R181, Table 21.10). -/
structure Workgroup where
  core : Nat := 0
  launch : Nat := 0
  ordinal : Nat := 0
  /-- Trains of the workgroup, all roles; at placement COUNT of its barriers (Table 9.9). -/
  trains : Nat := 1
  /-- Bytes of the local memory allotment (R181). -/
  localSize : Nat := 0
  /-- Local memory, by offset in the allotment (R196). -/
  mem : Bytes := []
  tileCount : Nat := 0
  /-- Accumulator tiles as bytes, by offset in the tile allotment (R199). -/
  acc : Bytes := []
  /-- The workgroup whose local memory this one shares: the ray local region (R265). -/
  region : Option Nat := none
  /-- WORKGROUP pass ended; ordinals of trains whose TILE pass has ended (R53). -/
  wgEnded : Bool := false
  tileEnds : List Nat := []
  /-- Tiles whose ERR bit is 1 (R232). -/
  tileErr : List Nat := []
  state : WgState := .placed
  /-- Named barriers that differ from their reset values (R223). -/
  bars : Tab NamedBar := []
  /-- Arrivals that trains of it have left behind (R65). -/
  late : List LateArrivals := []
  /-- It is a resident combiner train's (R361). -/
  combiner : Bool := false
  /-- BARERR (Table 9.11). -/
  barErr : Nat := 0
  /-- The tick at which a pre-emption signal reaches it (R398). -/
  sigAt : Option Nat := none
  /-- The timer at the end of its drain; none without a limit (R398). -/
  drainEnd : Option Nat := none
  /-- Its slot in the queue's save area, and the timer at its placement or its save (R397, R398). -/
  saveSlot : Nat := 0
  since : Nat := 0
  deriving DecidableEq, Repr, Inhabited

/-- What a system instruction has in progress that its split's next run waits for (R416, R419, R420). -/
inductive SysOp where
  /-- CTXSAVE of a train to an address, by the issuing word at `pc`. -/
  | save (by_ : Who) (target : Who) (addr pc : Nat)
  /-- TSNAP of a train, by the issuing word at `pc`. -/
  | snap (by_ : Who) (target : Who) (pc : Nat)
  /-- TLBINV: its scope, its context and its address. -/
  | inv (by_ : Who) (scope ctx addr : Nat)
  /-- HALTALL waits for HALTED. -/
  | halt (by_ : Who)
  deriving DecidableEq, Repr, Inhabited

/-- A CTXREST that is loading a train: the issuer's token and the train's slot (R418). -/
structure RestOp where
  who : Who
  tok : Nat
  tid : Nat
  deriving DecidableEq, Repr, Inhabited

/-- A SYSCALL whose reply has not arrived (R411): the issuer, its joined name, the code and s8 to s15. For a fabric call,
`bytes` are those that FPUT has sent and `failed` is the kind of the fault that stopped the copy (R448). -/
structure SysCall where
  who : Who
  ctx : Nat
  joined : DWord
  code : Nat
  args : List Word
  lam : Nat := 0
  moved : Bool := false
  bytes : List Byte := []
  failed : Option Nat := none
  ts : Nat := 0
  deriving DecidableEq, Repr, Inhabited

/-- A handler train of a handler context (R407): its current event with the event's context, whether it has waited in ERET
since its last event, and the event of a nested fault that the system cores hold (R421). -/
structure Handler where
  who : Who
  current : Option (Nat × Event) := none
  waiting : Bool := true
  deriving DecidableEq, Repr, Inhabited

/-- The open core dump (R420, R427): its issuer and the issuer's context, DUMPBASE, the count and the length of the header,
the workgroups whose sections stand, and the nested record that closes it (R421). -/
structure Dump where
  who : Who
  ctx : Nat
  /-- DUMPBASE of what has last written into the dump, and its context where that is another than the opener's (R427). -/
  base : Nat
  baseCtx : Option Nat := none
  sections : Nat := 0
  len : Nat := 64
  wgs : List Nat := []
  nested : Option (DWord × FaultRec) := none
  deriving DecidableEq, Repr, Inhabited

/-- The debug halt (R420): 0 none, 1 broadcast on its way, 2 arrived, 3 HALTED. -/
structure Halt where
  phase : Nat := 0
  due : Nat := 0
  /-- The issuer, which runs on. -/
  who : Option Who := none
  /-- The halt of R452, after which the compute dies are powered off. -/
  thermal : Bool := false
  deriving DecidableEq, Repr, Inhabited

/-- A packet that has started and has not completed (R380 to R383). `index` is its ring index and `record` its task
record's address where a task runs it. -/
structure Packet where
  queue : Nat
  ctx : Nat
  op : Nat
  index : Nat := 0
  record : Option Nat := none
  /-- Bytes 0 to 63, as one number. -/
  data : Nat := 0
  /-- Address of its completion record; 0 for none. -/
  completion : Nat := 0
  /-- Its work has started; else it waits for bindings (R388). -/
  started : Bool := false
  /-- Its own work is done (a COPY, a LAUNCH whose launch has been counted). -/
  finished : Bool := false
  /-- The fault kind that stopped its COPY (R383). -/
  stopped : Option Nat := none
  launch : Option Nat := none
  /-- Iterations of a prologue so far, and whether another follows (R392). -/
  iter : Nat := 0
  again : Bool := false
  /-- The launch header, which is read once, when the packet starts (R384). -/
  header : Option Nat := none
  /-- A prologue of the packet is to be run (R391). -/
  prologue : Bool := false
  /-- The timer at its start (R383). -/
  since : Nat := 0
  ts : Nat := 0
  lam : Nat := 0
  deriving DecidableEq, Repr, Inhabited

/-- An interrupt that the module has raised (R383, R422, R452); that of a SIGNAL packet carries the packet's L (R437). -/
inductive Interrupt where
  | signal (host system : Bool) (vector : Nat) (lam : Nat)
  | retirement
  | thermal
  deriving DecidableEq, Repr, Inhabited

/-- What boot, attestation and cooling keep (R449 to R452). -/
structure Boot where
  /-- The last step of Table 26.6 that was carried out; 0 before power-on. -/
  step : Nat := 0
  recovery : Bool := false
  bootErr : Nat := 0
  /-- Self-tests done: STF64, STF32, STF16, STF8, STE2M1 (Table 26.3). -/
  tests : List Nat := []
  mrs : List (BitVec 256) := List.replicate 8 0
  serial : BitVec 128 := 0
  /-- The identity key of the configuration record: its modulus and its private exponent (R451). -/
  keyN : Nat := 0
  keyD : Nat := 0
  boots : Nat := 0
  mailbox : Bytes := []
  throttled : Bool := false
  /-- The compute dies are powered off (R452). -/
  off : Bool := false
  deriving DecidableEq, Repr, Inhabited

/-- Reasons for which the machine model stops. -/
inductive Fault where
  /-- An instruction is executed while no scheduler has a run in issue. Raised by the common issue operation of every
  instruction; the hardware never issues an instruction outside a run, so this is safe. -/
  | noRunInIssue
  deriving DecidableEq, Repr

/-- Instructions without a meaning. -/
inductive Refusal where
  /-- The opcode-table row of this mnemonic has no meaning yet. Raised by the dispatcher only; safe. -/
  | notModelled (mnemonic : String)
  deriving DecidableEq, Repr

/-- The module. -/
structure State where
  /-- The module cycle number (R439), of which programs read the low 64 bits; every step of the model is a cycle of its own (DESIGN CHOICE, log 10). -/
  cycle : Nat
  /-- Events that are to happen next, in order (the model's own, DESIGN CHOICE, log 2). -/
  agenda : List Instr
  /-- The scheduler whose run issues its next word: core * 4 + scheduler (the model's own, DESIGN CHOICE, log 2). -/
  cur : Option Nat
  /-- The next unused identifier of an operation, launch or workgroup (the model's own, DESIGN CHOICE, log 2). -/
  nextId : Nat
  /-- Selects the next free value of Config.freeValue (the model's own, DESIGN CHOICE, log 2). -/
  free : Nat
  /-- Physical memory (R364). -/
  mem : Bytes
  /-- wts and rts of the lines that have been accessed, by line key (R340). -/
  lines : Tab (Nat × Nat)
  /-- Lines resident in L2 slices, by line number (R313, R376). -/
  l2 : Tab L2Line
  /-- Lines that hold an uncorrectable error, with the source of Table 22.2 (R404). -/
  bad : Tab Nat
  /-- HBM training is complete (R365, R449). -/
  hbmReady : Bool
  /-- QTABLE (R379, Table 26.2). -/
  qtable : Nat
  /-- CXLPOP (R446, Table 20.1). -/
  cxlpop : Tab Nat
  /-- W(c) of each core (R369). -/
  homewin : Tab Nat
  /-- Cycles in which the module was not halted, which its timers count (Table 0.4). -/
  timer : Nat
  /-- The largest timestamp that the queue processor has seen (R343). -/
  qpTs : Nat
  /-- The running timestamps of the accesses that the host link and the fabric links deliver (R351). -/
  hostTs : Nat
  fabTs : Nat
  /-- WIDX of a queue as last read, and the doorbells that wait for ENABLE (R444). -/
  widx : Tab Nat
  bells : List Nat
  /-- Queues whose offered items the present step of the queue processor serves (R382). -/
  serving : List (Nat × Nat)
  packets : Tab Packet
  /-- The largest Lamport clock of the decrements that made a task ready, by record (R437). -/
  taskLam : Tab Nat
  /-- Records on ready lists whose decrement came from another context than the queue's: queue, address, context (R394). -/
  foreign : List (Nat × Nat × Nat)
  /-- Pre-emptions asked for and not applied yet: during a halt, or with nothing placed (R397, Table 0.4). -/
  preempting : List Nat
  /-- The workgroups whose pre-emption signal ESPRE has asked for in a halt (R7, R419). -/
  espreHeld : List Nat
  /-- The requests of the present tick that have set QSTATE: queue, tick, and QSTATE before (R7, R397). -/
  asked : List (Nat × Nat × Nat)
  /-- Queues that have been pre-empted by request and not resumed: they place nothing, also when they are STOPPED (R397, R401). -/
  barred : List Nat
  /-- RESUMEs that wait for the drains and saves of their queues (R400). -/
  resuming : List Nat
  /-- The kill in progress and KILL-DONE (R396, R399). -/
  killing : Option Nat
  /-- Contexts that have been killed and whose writes have not all stopped (R399). -/
  killed : List Nat
  killDone : Bool
  halt : Halt
  dump : Option Dump
  /-- Handler trains by handler context (R407). -/
  handlers : Tab Handler
  /-- Events of nested faults, which the system cores hold (R421). -/
  sysEvents : List Event
  sysOps : Tab SysOp
  rests : Tab RestOp
  syscalls : Tab SysCall
  interrupts : List Interrupt
  /-- Replies of this module to fabric requests of others: value, status and the session's M (R448). -/
  fabricOut : List (Nat × Nat × Nat)
  /-- The modules that the routing tables reach (R447). -/
  routes : List Nat
  /-- What accesses of the host and reads of the register aperture have returned: the bytes, or none for an error response or an
  Unsupported Request (R441 to R443). -/
  hostOut : List (Option (List Byte))
  boot : Boot
  /-- CTXTABLE and CTXCOUNT (Table 26.2). -/
  ctxTable : Nat
  ctxCount : Nat
  /-- Retired HBM4 channels, CXL ports without a link, cores to be retired when they empty, retired links (R365, R422,
  R446, R309). -/
  retiredHbm : List Nat
  hbmCandidates : List Nat
  lostPorts : List Nat
  leavingCores : List Nat
  retiredLinks : List LinkId
  /-- Cycles of the correctable errors of a unit, uncorrectable errors of a unit, cycles of the retries of a link. -/
  unitErrors : List (UnitId × Nat)
  unitFatal : List (UnitId × Nat)
  linkErrors : List (LinkId × Nat)
  /-- Combiner cores on which a combiner train waits for granules (R181, R183). -/
  combWait : List Nat
  /-- CQUOTA fields Q0 to Q3 (Table 20.7). -/
  cquota : Tab Nat
  retiredCores : List Nat
  retiredSlices : List Nat
  /-- Cached translations of the clusters (R371). -/
  clusterTlb : Tab (List TlbEntry)
  loads : Tab LoadOp
  /-- Updates waiting at their lines, in order of arrival (R314). -/
  updates : List Update
  atoms : Tab AtomOp
  copyOps : Tab CopyOp
  mdecs : Tab MdecOp
  traces : Tab TraceOp
  /-- Held BLST lanes by identifier, in issue order (R279). -/
  blends : Tab Blend
  /-- Accords (R288 to R298): requests on their way, open batches by cluster in order of opening, sequence numbers by page
  number, delivered batches by context * 64 + cluster, ACALLs, and replies on their way. -/
  accGroups : Tab AccGroup
  accQueues : Tab (List AccBatch)
  accSeq : Tab Nat
  accOut : Tab AccBatch
  accOps : Tab AccOp
  accReplies : Tab AccReply
  shuffles : Tab Shuffle
  /-- Barrier slots 0 to 255 and channels 0 to 63 that are bound, and the messages of the network (R317). -/
  esSlots : Tab EsSlot
  esChans : Tab EsChan
  esMsgs : Tab EsMsg
  /-- REPLACE-REQUESTED (R309, R330, R422). -/
  replaceReq : Bool
  /-- Matrix operations by identifier, which rises in issue order (R234). -/
  mats : Tab MatOp
  walks : Tab Walk
  /-- Train slots by core * 32 + slot. -/
  trains : Tab Train
  cores : Tab Core
  launches : Tab Launch
  /-- Rays by identifier (R265). -/
  rays : Tab Ray
  wgs : Tab Workgroup
  ctxs : Tab Ctx
  deriving DecidableEq, Repr, Inhabited

/-- The module right after reset (spec/26). -/
def State.reset : State where
  cycle := 0
  agenda := []
  cur := none
  nextId := 1
  free := 0
  mem := []
  lines := []
  l2 := []
  bad := []
  hbmReady := false
  qtable := 0
  cxlpop := []
  homewin := []
  timer := 0
  qpTs := 0
  hostTs := 0
  fabTs := 0
  widx := []
  bells := []
  serving := []
  packets := []
  taskLam := []
  foreign := []
  preempting := []
  espreHeld := []
  asked := []
  barred := []
  resuming := []
  killing := none
  killed := []
  killDone := false
  halt := {}
  dump := none
  handlers := []
  sysEvents := []
  sysOps := []
  rests := []
  syscalls := []
  interrupts := []
  fabricOut := []
  routes := []
  hostOut := []
  boot := {}
  ctxTable := 0
  ctxCount := 0
  retiredHbm := []
  hbmCandidates := []
  lostPorts := []
  leavingCores := []
  retiredLinks := []
  unitErrors := []
  unitFatal := []
  linkErrors := []
  combWait := []
  cquota := [(0, 16), (1, 16), (2, 16), (3, 16)]
  retiredCores := []
  retiredSlices := []
  clusterTlb := []
  loads := []
  updates := []
  atoms := []
  copyOps := []
  mdecs := []
  traces := []
  blends := []
  accGroups := []
  accQueues := []
  accSeq := []
  accOut := []
  accOps := []
  accReplies := []
  shuffles := []
  esSlots := []
  esChans := []
  esMsgs := []
  replaceReq := false
  mats := []
  walks := []
  trains := []
  cores := []
  launches := []
  rays := []
  wgs := []
  ctxs := []

end Sys2Proof.Machine
end

