-- ==== Sys2Proof/Machine/Ops.lean ====
section
/-! DEFINITION. The named operations over trains, splits, registers and runs that every instruction uses: issuing and
retiring a word, reading and writing registers, taking a fault, and resuming from one. -/

namespace Sys2Proof.Machine

/-- A step's answer. -/
abbrev Result := Host.Outcome State Fault Refusal

/-- Who issues: core, scheduler, slot and split. -/
structure Me where
  core : Nat
  sched : Nat
  slot : Nat
  sid : Nat
  deriving DecidableEq, Repr, Inhabited

/-- The train's slot number in the table of trains. -/
def Me.tid (me : Me) : Nat := me.core * 32 + me.slot

/-- A train slot. -/
def State.train (s : State) (tid : Nat) : Train := Tab.get {} s.trains tid
/-- Replaces a train slot. -/
def State.setTrain (s : State) (tid : Nat) (t : Train) : State := { s with trains := Tab.put s.trains tid t }
/-- Changes a train slot. -/
def State.updTrain (s : State) (tid : Nat) (f : Train → Train) : State := s.setTrain tid (f (s.train tid))
/-- A core. -/
def State.core (s : State) (c : Nat) : Core := Tab.get {} s.cores c
/-- Changes a core. -/
def State.updCore (s : State) (c : Nat) (f : Core → Core) : State := { s with cores := Tab.put s.cores c (f (s.core c)) }
/-- A launch. -/
def State.launch (s : State) (l : Nat) : Launch := Tab.get {} s.launches l
/-- Changes a launch. -/
def State.updLaunch (s : State) (l : Nat) (f : Launch → Launch) : State :=
  { s with launches := Tab.put s.launches l (f (s.launch l)) }
/-- A workgroup. -/
def State.wg (s : State) (w : Nat) : Workgroup := Tab.get {} s.wgs w
/-- Changes a workgroup. -/
def State.updWg (s : State) (w : Nat) (f : Workgroup → Workgroup) : State :=
  { s with wgs := Tab.put s.wgs w (f (s.wg w)) }
/-- A context. -/
def State.ctx (s : State) (c : Nat) : Ctx := Tab.get {} s.ctxs c
/-- Changes a context. -/
def State.updCtx (s : State) (c : Nat) (f : Ctx → Ctx) : State := { s with ctxs := Tab.put s.ctxs c (f (s.ctx c)) }
/-- A scheduler of a core. -/
def Core.sched (c : Core) (k : Nat) : Sched := Tab.get {} c.scheds k
/-- Changes a scheduler. -/
def State.updSched (s : State) (c k : Nat) (f : Sched → Sched) : State :=
  s.updCore c fun co => { co with scheds := Tab.put co.scheds k (f (co.sched k)) }
/-- A split of a train. -/
def Train.split (t : Train) (n : Nat) : Split := t.splits.getD n {}
/-- Replaces a split. -/
def Train.setSplit (t : Train) (n : Nat) (sp : Split) : Train := { t with splits := listSet t.splits n sp }
/-- Changes a split. -/
def Train.updSplit (t : Train) (n : Nat) (f : Split → Split) : Train := t.setSplit n (f (t.split n))
/-- Changes the split that issues. -/
def State.updSplit (s : State) (me : Me) (f : Split → Split) : State := s.updTrain me.tid fun t => t.updSplit me.sid f
/-- Queues an event of the machine to happen next (the model's agenda, DESIGN CHOICE, log 2). -/
def State.later (s : State) (i : Instr) : State := { s with agenda := s.agenda ++ [i] }
/-- A free value and the state in which the next one differs (DESIGN CHOICE, log 5). -/
def State.freeValue (s : State) : BitVec 64 × State := (Config.freeValue s.free, { s with free := s.free + 1 })
/-- What a store of `n` entries keeps of a list that has grown: which entry goes from a full one is open (DESIGN CHOICE, log 32). -/
def State.crowd {α : Type} (n : Nat) (l : List α) (s : State) : List α × State :=
  if l.length ≤ n then (l, s) else (l.eraseIdx (s.freeValue.1.toNat % l.length), s.freeValue.2)
/-- The Escapement tick, four cycles each (R329). -/
def State.tick (s : State) : Nat := s.cycle / 4

/-- The train of the issuer. -/
def Me.train (me : Me) (s : State) : Train := s.train me.tid
/-- The split of the issuer. -/
def Me.split (me : Me) (s : State) : Split := (me.train s).split me.sid

/-- Lanes of a mask in ascending order. -/
def lanesOf (m : LaneMask) : List Nat := (List.range numLanes).filter fun l => m.getLsbD l

/-- The mask of the lanes that satisfy a predicate. -/
def maskOf (p : Nat → Bool) : LaneMask :=
  BitVec.ofNat 96 (packBits ((List.range numLanes).map p))
where
  /-- A number from its bits, the least significant first. -/
  packBits : List Bool → Nat
    | [] => 0
    | b :: bs => b.toNat + 2 * packBits bs

/-- Lanes that records of a split hold (R156, R157). -/
def Train.heldLanes (t : Train) (sid : Nat) : LaneMask :=
  (t.stack.filter fun r => r.sid == sid).foldl (fun m r => m ||| r.lanes) 0

/-- The lanes on which the issuing instruction acts: ACTIVE (R48), less the lanes that have completed it already when it
is issued again for its pending lanes (R205, R209). -/
def Me.active (me : Me) (s : State) : LaneMask :=
  let sp := me.split s
  match sp.replay with
  | none => sp.active
  | some m => sp.active &&& m

/-- Helper lanes of a train (R48). -/
def Train.helpers (t : Train) : LaneMask := maskOf fun l => ((Tab.find t.elems l).map (·.helper)).getD false

/-- Word k of a lane mask (Table 3.3). -/
def maskWord (m : LaneMask) (k : Nat) : Word := m.extractLsb' (32 * k) 32

/-- Replaces word k of a lane mask. -/
def setMaskWord (m : LaneMask) (k : Nat) (w : Word) : LaneMask :=
  (m &&& ~~~((0xFFFFFFFF#96) <<< (32 * k))) ||| ((w.setWidth 96) <<< (32 * k))

/-- Reads a scalar register as a split sees it (R56, R58). -/
def Train.readS (t : Train) (sid n : Nat) : Word :=
  if n == 0 then 0
  else if 124 ≤ n && n ≤ 126 then maskWord (t.split sid).active (n - 124)
  else Tab.get 0 t.sregs n

/-- The value a write leaves in s120 (R40). -/
def modeWrite (v : Word) : Word :=
  let r := v.toNat % 8
  let r := if r == 0 || r == 7 then 1 else r
  BitVec.ofNat 32 (v.toNat % 2 ^ 15 / 8 * 8 + r)

/-- Writes a scalar register (R56, R58, R91, R156): s0 discards, s120 is stored by R40, s121 to s123 are read-only (their
writes fault at decode), s124 to s126 reach only lanes that the split owns and no record holds. -/
def Train.writeS (t : Train) (sid n : Nat) (v : Word) : Train :=
  if n == 0 || (121 ≤ n && n ≤ 123) then t
  else if n == 120 then { t with sregs := Tab.put t.sregs 120 (modeWrite v) }
  else if 124 ≤ n && n ≤ 126 then
    t.updSplit sid fun sp =>
      let own := sp.member &&& ~~~(t.heldLanes sid)
      let keep := sp.active &&& ~~~(setMaskWord 0 (n - 124) 0xFFFFFFFF)
      { sp with active := keep ||| ((setMaskWord 0 (n - 124) v) &&& own) }
  else { t with sregs := Tab.put t.sregs n v, carried := Tab.del t.carried n, broken := t.broken.filter fun k => k != n }

/-- Reads an operand of 32 bits, or of 64 from an even pair (R26). -/
def Train.readSN (t : Train) (sid n : Nat) (wide : Bool) : Nat :=
  if wide then (t.readS sid n).toNat + 2 ^ 32 * (t.readS sid (n + 1)).toNat else (t.readS sid n).toNat

/-- Writes a value of 32 bits, or of 64 to an even pair (R26). -/
def Train.writeSN (t : Train) (sid n : Nat) (wide : Bool) (x : Nat) : Train :=
  let t := t.writeS sid n (BitVec.ofNat 32 x)
  if wide then t.writeS sid (n + 1) (BitVec.ofNat 32 (x / 2 ^ 32)) else t

/-- Reads a mask triple (R55): s124 to s126 are the split's own bits (R58). -/
def Train.readTriple (t : Train) (sid n : Nat) : LaneMask :=
  setMaskWord (setMaskWord (setMaskWord 0 0 (t.readS sid n)) 1 (t.readS sid (n + 1))) 2 (t.readS sid (n + 2))

/-- Writes the member lanes of a split into a mask triple, lanes outside the split keeping their bits (R103). `bits`
gives each member lane its new bit. -/
def Train.writeTriple (t : Train) (sid n : Nat) (bits : LaneMask) : Train :=
  let m := (t.split sid).member
  let mix (t : Train) (k : Nat) : Train :=
    let old := t.readS sid (n + k)
    t.writeS sid (n + k) ((old &&& ~~~(maskWord m k)) ||| (maskWord bits k &&& maskWord m k))
  mix (mix (mix t 0) 1) 2

/-- A vector register in a lane; v0 reads zero (R54). -/
def Train.readV (t : Train) (n l : Nat) : Word := if n == 0 then 0 else (Tab.get [] t.vregs n).getD l 0

/-- The values of a register after a write in some lanes. -/
def updLanes (m : LaneMask) (old : List Word) (f : Nat → Word) : List Word :=
  (List.range numLanes).map fun l => if m.getLsbD l then f l else old.getD l 0

/-- Writes a vector register in the lanes of a mask; v0 discards (R54, R91). What the register carried goes with the last of its
live lanes' values (R349), and an error with them. -/
def Train.writeV (t : Train) (m : LaneMask) (n : Nat) (f : Nat → Word) : Train :=
  if n == 0 then t
  else { t with vregs := Tab.put t.vregs n (updLanes m (Tab.get [] t.vregs n) f),
                carried := if t.live &&& ~~~m == 0 then Tab.del t.carried (128 + n) else t.carried,
                broken := if t.live &&& ~~~m == 0 then t.broken.filter fun k => k != 128 + n else t.broken }

/-- The registers of an operand of `k` words, word i of each lane's value in register n + i (R26). -/
def Train.writeVN (t : Train) (m : LaneMask) (n : Nat) (f : Nat → Nat) : Nat → Train
  | 0 => t
  | k + 1 => (Train.writeVN t m n f k).writeV m (n + k) fun l => BitVec.ofNat 32 (f l / 2 ^ (32 * k))

/-- Replies reach the registers of D in the lanes of a mask; D = v0 drops them whole (R208, R290). -/
def Train.writeReplies (t : Train) (m : LaneMask) (n : Nat) (wide : Bool) (f : Nat → Nat) : Train :=
  if n == 0 then t else t.writeVN m n f (if wide then 2 else 1)

/-- s120 of a train. -/
def Train.mode (t : Train) : Word := Tab.get 0 t.sregs 120

/-- EffectiveRnd (R35). -/
def effectiveRnd (mode : Word) (rnd : Nat) : Nat := if rnd == 0 then mode.toNat % 8 else rnd

/-- The joined name of a split (Table 25.1). -/
def State.joined (s : State) (tid sid : Nat) : DWord :=
  let t := s.train tid
  let l := s.launch t.launch
  let wgField := if t.combiner then tid / 32 / 4 else (s.wg t.wg).ordinal
  BitVec.ofNat 64 (l.proc * 2 ^ 48 + l.thread * 2 ^ 32 + (if t.combiner then 0xFE else l.lslot) * 2 ^ 24
    + wgField % 65536 * 2 ^ 8 + (if t.combiner then 0 else t.ordinal % 16) * 2 ^ 4 + sid % 4 * 4)

/-- A train's handle (R408). -/
def State.handle (s : State) (tid : Nat) : Word :=
  BitVec.ofNat 32 (tid / 32 + 2 ^ 8 * (tid % 32) + 2 ^ 13 * (s.train tid).gen)

/-- A split table entry as four 64-bit words (Table 3.4). -/
def splitWords (n : Nat) (sp : Split) : List DWord :=
  let st := match sp.state with
    | .ready => 0
    | .joinwait => 1
    | .parked => 2
  let x := sp.pc % 2 ^ 27 + 2 ^ 32 * st + 2 ^ 34 * (n % 4) + 2 ^ 36 * sp.valid.toNat + 2 ^ 64 * sp.member.toNat
    + 2 ^ 160 * sp.active.toNat
  [BitVec.ofNat 64 x, BitVec.ofNat 64 (x / 2 ^ 64), BitVec.ofNat 64 (x / 2 ^ 128), BitVec.ofNat 64 (x / 2 ^ 192)]

/-- A split table as 16 words (R60); an entry not in use reads zero but for its SID. -/
def Train.tableWords (t : Train) : List DWord :=
  ((List.range 4).map fun n => splitWords n (if (t.split n).valid then t.split n else {})).flatten

/-- A deferral record as two words (Table 7.1). -/
def deferWords (r : DeferRec) : List DWord :=
  let x := r.pc % 2 ^ 27 + 2 ^ 27 * (r.sid % 4) + 2 ^ 30 * r.join.toNat + 2 ^ 31 + 2 ^ 32 * r.lanes.toNat
  [BitVec.ofNat 64 x, BitVec.ofNat 64 (x / 2 ^ 64)]

/-- The deferral stack as 16 words, oldest record first (R152). -/
def Train.stackWords (t : Train) : List DWord :=
  ((t.stack.map deferWords).flatten ++ List.replicate 16 0).take 16

/-- A fault record as four words (Table 22.3). -/
def recWords (r : FaultRec) : List DWord :=
  let x := r.addr.toNat + 2 ^ 64 * r.pending.toNat + 2 ^ 160 * (r.offset % 2 ^ 27) + 2 ^ 187 * (r.sid % 4)
    + 2 ^ 192 * r.kind + 2 ^ 200 * (if r.trainLevel then 0 else r.lane) + 2 ^ 207 * r.trainLevel.toNat
    + 2 ^ 208 * r.size + 2 ^ 224 * r.info.toNat
  [BitVec.ofNat 64 x, BitVec.ofNat 64 (x / 2 ^ 64), BitVec.ofNat 64 (x / 2 ^ 128), BitVec.ofNat 64 (x / 2 ^ 192)]

/-- The fault kinds of Table 22.1. -/
inductive Kind where
  | illegalOpcode | illegalField | illegalRate | privilege | unmapped | protection | misaligned | aperture | badHandle
  | copyRights | streamRights | barrierBusy | accordMethod | unbound | pinQuota | fpTrap | machineCheck | watchdog
  | shuffleTimeout | stackOverflow | breakpoint | softwareTrap | nested | fixativeSpill
  deriving DecidableEq, Repr, Inhabited

/-- The code of a kind (Table 22.1). -/
def Kind.code : Kind → Nat
  | .illegalOpcode => 0x01 | .illegalField => 0x02 | .illegalRate => 0x03 | .privilege => 0x04 | .unmapped => 0x05
  | .protection => 0x06 | .misaligned => 0x07 | .aperture => 0x08 | .badHandle => 0x09 | .copyRights => 0x0A
  | .streamRights => 0x0B | .barrierBusy => 0x0C | .accordMethod => 0x0D | .unbound => 0x0E | .pinQuota => 0x0F
  | .fpTrap => 0x10 | .machineCheck => 0x11 | .watchdog => 0x12 | .shuffleTimeout => 0x13 | .stackOverflow => 0x14
  | .breakpoint => 0x15 | .softwareTrap => 0x16 | .nested => 0x17 | .fixativeSpill => 0x18

/-- What TRESUME does (the Resume column of Table 22.1). -/
inductive Resume where
  | replay | next | pc | none
  deriving DecidableEq, Repr, Inhabited

/-- The Resume column, by kind code; MACHINE-CHECK depends on the level (Table 22.1). -/
def resumeOf (code : Nat) (trainLevel : Bool) : Resume :=
  match code with
  | 0x05 | 0x06 | 0x07 | 0x08 | 0x0C | 0x0F | 0x12 | 0x18 => .replay
  | 0x0D | 0x13 => .pc
  | 0x10 | 0x14 | 0x15 | 0x16 => .next
  | 0x11 => if trainLevel then .none else .replay
  | _ => .none

/-- The trace session of a context takes records (R435, R439). -/
def Ctx.tracing (c : Ctx) : Bool := c.trCtl.testBit 2 && (c.trCtl % 4 == 1 || c.trCtl % 4 == 2)

/-- The module is halted, so that no Lamport clock advances (R437, Table 0.4). -/
def State.halted (s : State) : Bool := s.halt.phase == 3

/-- A record is to be appended to the session of a context, with the clock that it carries; one without a clock of its own
takes M + 1 (R436, R437). -/
def State.traceAdd (s : State) (ctx kind : Nat) (joined : DWord) (tag : Nat) (value : DWord) (lam : Option Nat) (tid : Nat := 0) : State :=
  s.updCtx ctx fun c =>
    if !c.tracing then c
    else
      let l := lam.getD (if s.halted then c.trM else c.trM + 1)
      { c with trM := max c.trM l,
               trQueue := c.trQueue ++ [{ kind := kind, joined := joined, tag := tag, value := value, lam := l, since := s.cycle, tid := tid }] }

/-- The split that the event of a train fault names (Table 25.1). -/
def Event.sid (e : Event) : Nat := (e.words.headD 0).toNat / 4 % 4

/-- An event comes to its place in a queue: behind all but those that higher splits of its train have raised in the same cycle, which
then report the tables as they now stand (R62, R425). -/
def placeEvent (e : Event) (q : List Event) : List Event :=
  let after (x : Event) : Bool := e.type == 0 && x.type == 0 && x.handle == e.handle && x.cycle == e.cycle && decide (e.sid < x.sid)
  match q.findIdx? after with
  | none => q ++ [e]
  | some i =>
    let late := (q.drop i).map fun x =>
      if after x then { x with words := x.words.take 4 ++ (e.words.drop 4).take 32 ++ x.words.drop 36 } else x
    q.take i ++ ((e :: late).zip (late.map (·.seq) ++ [e.seq])).map fun (x, n) => { x with seq := n }

/-- Puts an event on the queue of a context (R406): a full queue drops it and counts it, or makes a train fault's event
wait. A debug event is copied to the trace session (R436). -/
def State.raiseEvent (s : State) (ctx : Nat) (e : Event) : State :=
  let e := { e with seq := s.nextId, cycle := s.cycle }
  let s := { s with nextId := s.nextId + 1 }
  let s := if e.type == 3 then s.traceAdd ctx 5 (e.words.headD 0) 0 (e.words.headD 0) none else s
  s.updCtx ctx fun c =>
    if c.events.length < 256 then { c with events := placeEvent e c.events }
    else if e.type == 0 then
      let q := placeEvent e (c.events ++ c.waiting)
      { c with events := q.take 256, waiting := q.drop 256 }
    else { c with evlost := min (c.evlost + 1) 65535 }

/-- The event of a train fault (Table 22.4, R414). -/
def State.faultEvent (s : State) (tid sid : Nat) (recs : List FaultRec) : Event :=
  let t := s.train tid
  let kind := (recs.head?.map (·.kind)).getD 0
  { type := 0, handle := s.handle tid,
    words := [s.joined tid sid, BitVec.ofNat 64 (kind * 2 ^ 48 + recs.length * 2 ^ 40 + (s.handle tid).toNat),
      BitVec.ofNat 64 s.tick, 0] ++ t.tableWords ++ t.stackWords ++ (recs.map recWords).flatten }

/-- The end of a run on its scheduler: the scheduler is free and the split's next run starts at its PC. -/
def State.endRun (s : State) (me : Me) : State :=
  let s := s.updSched me.core me.sched fun k => { k with run := none }
  { s with cur := none }

/-- The train is a handler that holds an event (R407, R421). -/
def State.holdsEvent (s : State) (tid : Nat) : Bool :=
  s.handlers.any fun (_, h) => h.who.tid == tid && h.who.gen == (s.train tid).inc && h.current.isSome

/-- The record of a nested fault (R421, R427): the first record as a train-level one of kind NESTED. -/
def nestedRec (r : FaultRec) : FaultRec :=
  { r with kind := 0x17, trainLevel := true, lane := 0, pending := 0, info := BitVec.ofNat 32 r.kind }

/-- A fault of a handler that holds an event (R421): it parks with one NESTED record, its event goes to the system cores,
which will close an open dump, and the train is the handler no more. -/
def parkNested (me : Me) (r : FaultRec) (s : State) : State :=
  let r := nestedRec r
  let s := s.updSplit me fun sp => { sp with state := .parked, recs := [r] }
  let s := s.updTrain me.tid fun t => { t with state := .parked }
  let inc := (s.train me.tid).inc
  { s with sysEvents := s.sysEvents ++ [s.faultEvent me.tid me.sid [r]],
           handlers := s.handlers.filter fun (_, h) => !(h.who.tid == me.tid && h.who.gen == inc),
           dump := s.dump.map fun d => { d with nested := some (s.joined me.tid me.sid, r) } }

/-- TAKING A FAULT (R62, R402, R405, R406): the split parks with its records, the train is PARKED, and one event is
raised on the context's queue. The split's PC has been set to the word at which it is to resume. -/
def parkSplit (me : Me) (recs : List FaultRec) (s : State) : State :=
  if s.holdsEvent me.tid then parkNested me (recs.headD default) s
  else
    let s := s.updSplit me fun sp => { sp with state := .parked, recs := recs }
    let s := s.updTrain me.tid fun t => { t with state := .parked }
    s.raiseEvent (s.train me.tid).ctx (s.faultEvent me.tid me.sid recs)

/-- Taking a fault in the run in issue: the rest of the run is not issued (R62, R190). -/
def takeFault (s : State) (me : Me) (recs : List FaultRec) : State := (parkSplit me recs s).endRun me

/-- The length of the run in issue from the present word. -/
def Me.wordsLeft (me : Me) (s : State) : Nat :=
  (((s.core me.core).sched me.sched).run.map (·.words.length)).getD 0

/-- Parks the issuing split by records of one instruction, at the word that the Resume column says (R62): the faulting
word for replay and for kinds that do not resume, the word after it for next. Where lanes fault by several kinds, lanes
to be replayed decide. -/
def faultWith (s : State) (me : Me) (recs : List FaultRec) : State :=
  let pc := (me.split s).pc
  let left := me.wordsLeft s
  let lead := (recs.find? fun r => resumeOf r.kind r.trainLevel == .replay).orElse fun _ => recs.head?
  let kind := (lead.map (·.kind)).getD 0
  let tl := (lead.map (·.trainLevel)).getD true
  let pending := (lead.map (·.pending)).getD 0
  match resumeOf kind tl with
  | .next =>
    let s := s.updSplit me fun sp =>
      { sp with pc := pc + 1, replay := none, partialEnd := if 1 < left then some (pc + left - 1) else none }
    takeFault s me recs
  | .replay =>
    let s := s.updSplit me fun sp =>
      { sp with replay := if tl then none else some pending, partialEnd := some (pc + left - 1) }
    takeFault s me recs
  | _ => takeFault s me recs

/-- A train-level fault of the issuing word, with an address, a size and INFO (R402). -/
def faultAt (k : Kind) (addr : DWord) (size : Nat) (info : Word) (me : Me) (s : State) : State :=
  let sp := me.split s
  faultWith s me [{ kind := k.code, trainLevel := true, lane := 0, sid := me.sid, offset := sp.pc, pending := 0,
                    addr := addr, size := size, info := info }]

/-- A train-level fault of the issuing word without an address. -/
def faultTrain (k : Kind) (info : Word) (me : Me) (s : State) : State := faultAt k 0 0 info me s

/-- The records of lanes that fault, in ascending order: lane, kind, address and INFO (R405). -/
def laneRecs (me : Me) (s : State) (size : Nat) (pending : LaneMask) (l : List (Nat × Kind × DWord × Word)) :
    List FaultRec :=
  l.map fun (lane, k, a, info) =>
    { kind := k.code, trainLevel := false, lane := lane, sid := me.sid, offset := (me.split s).pc, pending := pending,
      addr := a, size := size, info := info }

/-- The event of an engine (Table 22.4): TYPE 1 a fault, 2 a spill write, 3 a debug event, with one record. -/
def engineEvent (s : State) (type : Nat) (joined : DWord) (pos : Nat) (r : FaultRec) : Event :=
  { type := type, handle := 0xFFFFFFFF,
    words := [joined, BitVec.ofNat 64 (r.kind * 2 ^ 48 + 1 * 2 ^ 40 + type * 2 ^ 32 + 0xFFFFFFFF), BitVec.ofNat 64 s.tick,
      BitVec.ofNat 64 pos] ++ List.replicate 32 0 ++ recWords r }

/-- A train-level record of an engine. -/
def engineRec (kind : Nat) (addr size : Nat) (info : Word) : FaultRec :=
  { kind := kind, trainLevel := true, lane := 0, sid := 0, offset := 0, pending := 0, addr := BitVec.ofNat 64 addr,
    size := size, info := info }

/-- RESUMING (R62, R415): a PARKED split goes on at its recorded PC; a split whose kind reads none stays PARKED. -/
def Split.resume (sp : Split) : Split :=
  if sp.valid && sp.state == .parked then
    if sp.recs.any fun r => resumeOf r.kind r.trainLevel == .none then sp else { sp with state := .ready, recs := [] }
  else sp

/-- Some split of the train is PARKED. -/
def Train.anyParked (t : Train) : Bool := t.splits.any fun sp => sp.valid && sp.state == .parked

/-- TRESUME of a train (R415): the slot leaves PARKED when no split is PARKED any more (Table 3.5). -/
def Train.resume (t : Train) : Train :=
  let t := { t with splits := t.splits.map Split.resume }
  if t.state == .parked && !t.anyParked then { t with state := .resident } else t

/-- Leaves the issuing word behind: the split's PC moves to the next word, a pending-lane restriction ends, and the run
ends with its last word (R190). A split that carries deferred records parks instead of its next run (R298). -/
def retire (me : Me) (s : State) : State :=
  let left := me.wordsLeft s
  let s := s.updSplit me fun sp =>
    { sp with pc := if left ≤ 1 then sp.back.getD (sp.pc + 1) else sp.pc + 1, replay := none,
              partialEnd := if left ≤ 1 then none else sp.partialEnd, back := if left ≤ 1 then none else sp.back }
  if left ≤ 1 then s.endRun me
  else
    s.updSched me.core me.sched fun k =>
      { k with run := k.run.map fun r => { r with words := r.words.drop 1, stall := none } }

/-- Ends the run of a control word with the split at a target. -/
def goto (pc : Nat) (me : Me) (s : State) : State :=
  let s := s.updSplit me fun sp => { sp with pc := pc, replay := none, partialEnd := none }
  s.endRun me

/-- The issuer: the split whose run the current scheduler issues. -/
def issuer (s : State) : Option Me :=
  match s.cur with
  | none => none
  | some k =>
    match ((s.core (k / 4)).sched (k % 4)).run with
    | none => none
    | some r => some { core := k / 4, sched := k % 4, slot := r.slot, sid := r.sid }

/-- The scalar register is pending (R63). -/
def Train.pending (t : Train) (n : Nat) : Bool := t.pend.getLsbD n

/-- Sets or clears a pending bit; s0 never pends (R63). -/
def Train.setPending (t : Train) (n : Nat) (b : Bool) : Train :=
  if n == 0 then t
  else { t with pend := if b then t.pend ||| BitVec.twoPow 128 n else t.pend &&& ~~~(BitVec.twoPow 128 n) }

/-- A register awaits a long-latency result: the stall reason, if so (R86). -/
def Train.busyReason (t : Train) (r : Reg) : Option Nat :=
  (t.busy.find? fun b => (match r with
    | .v n => b.isV && b.reg == n
    | .s n => !b.isV && b.reg == n
    | .f _ => false)).map (·.reason)

/-- The stall of one register that the next word reads or writes: a long-latency result not yet arrived (R86), or a
pending bit (R63). -/
def Train.regStall (t : Train) (r : Reg) : Option Nat :=
  match t.busyReason r with
  | some k => some k
  | none =>
    match r with
    | .s n => if t.pending n then some 8 else none
    | _ => none

/-- The stall reason that the wait for a register is charged to while its run has not been picked (R194). -/
def Train.regReason (t : Train) (r : Reg) : Option Nat :=
  match t.regStall r, r with
  | some 8, .s n => some (Tab.get 8 t.pendWhy n)
  | x, _ => x

/-- The reason charged to a register that holds up a word in its issue slot (R193): accord reply where it reads an ACALL
destination, token where it only writes a register whose pending bit is set, else memory scoreboard, also where it both reads and writes one
(DESIGN CHOICE, log 129). -/
def Train.heldReason (t : Train) (reads : List Reg) (r : Reg) : Nat :=
  if reads.contains r then (if t.busyReason r == some 7 then 7 else 9)
  else if t.busyReason r == none then 8 else 9

/-- The stall that an instruction meets at its operands while it holds the issue slot (R63, R86, R193). -/
def stallOf (i : Instr) (me : Me) (s : State) : Option Nat :=
  let t := me.train s
  ((readsOf i ++ writesOf i).find? fun r => (t.regStall r).isSome).map (t.heldReason (readsOf i))

/-- A register in the table of carried timestamps. -/
def regKey : Reg → Option Nat
  | .s n => some n
  | .v n => some (128 + n)
  | .f _ => none

/-- Registers carry the timestamp of a completion until they are read (R349); s0 and v0 carry nothing. -/
def Train.carry (t : Train) (regs : List Reg) (ts : Nat) : Train :=
  { t with carried := (regs.filterMap regKey).foldl (fun c k =>
      if k % 128 == 0 && k ≤ 128 then c else Tab.put c k (max ts (Tab.get 0 c k))) t.carried }

/-- OBSERVING (R349): the train's pts rises to the carried timestamp. -/
def Train.observe (t : Train) (ts : Nat) : Train := { t with pts := max t.pts ts }

/-- Registers of a list that carry a timestamp. -/
def Train.unread (t : Train) (regs : List Reg) : List Nat :=
  (regs.filterMap regKey).filter fun k => (Tab.find t.carried k).isSome

/-- Reading registers observes what they carry (R349). -/
def Train.readCarried (t : Train) (ks : List Nat) : Train :=
  { t.observe (ks.foldl (fun m k => max m (Tab.get 0 t.carried k)) 0) with carried := ks.foldl (fun c k => Tab.del c k) t.carried }

/-- What the train could yet observe of its completed operations is observed: where its registers leave it, for a saved image, a sort
of rays or the ring (DESIGN CHOICE, log 14). -/
def Train.absorb (t : Train) : Train :=
  { t.observe (max (max t.ended t.matTs) (t.carried.foldl (fun m x => max m x.2) 0)) with carried := [] }

/-- The release of a WAIT observes every operation that has completed (R158). -/
def Train.waitOver (t : Train) (h : Hold) : Train :=
  match h with
  | .wait _ _ _ _ => t.observe t.ended
  | _ => t

/-- The word waits, holding its issue slot: nothing changes but the stall reason (R63, R64, R193). -/
def stall (reason : Nat) (me : Me) (s : State) : State :=
  let s := s.updSched me.core me.sched fun k => { k with run := k.run.map fun r => { r with stall := some reason } }
  { s with cur := none }

/-- Registers that the instruction reads and whose carried timestamps its train has yet to observe. -/
def unreadOf (i : Instr) (me : Me) (s : State) : List Nat := (me.train s).unread (readsOf i)

/-- Registers that the instruction reads and that hold an uncorrectable error (R404): vector registers are read by active lanes alone. -/
def brokenOf (i : Instr) (me : Me) (s : State) : List Nat :=
  ((readsOf i).filterMap regKey).filter fun k => (me.train s).broken.contains k && (decide (k < 128) || me.active s != 0)

/-- Reading a register with an uncorrectable error: MACHINE-CHECK, source 1, of the train where it is scalar, else of the lanes that
read it (R404; every lane of the register holds the error, DESIGN CHOICE, log 87). -/
def brokenFault (ks : List Nat) (me : Me) (s : State) : State :=
  if ks.any fun k => decide (k < 128) then faultTrain .machineCheck 1 me s
  else
    let act := me.active s
    faultWith s me (laneRecs me s 0 act ((lanesOf act).map fun l => (l, .machineCheck, 0, 1)))

/-- The operands of an instruction can be read: none carries a timestamp to be observed first, and none holds an error. -/
def operandsOk (i : Instr) (me : Me) (s : State) : Bool := (unreadOf i me s).isEmpty && (brokenOf i me s).isEmpty

/-- What comes before an instruction whose operands cannot be read as they stand: reading registers that carry timestamps observes
them, in a cycle of its own (DESIGN CHOICE, log 14), and an error faults. -/
def operandsFirst (i : Instr) (me : Me) (s : State) : State :=
  if (unreadOf i me s).isEmpty then brokenFault (brokenOf i me s) me s
  else s.updTrain me.tid fun t => t.readCarried (unreadOf i me s)

/-- Issues an instruction of the run in issue: it waits while an operand is not ready, and once its operands can be read it has its
effect. -/
def issue (i : Instr) (s : State) (effect : Me → State → State) : Result :=
  match issuer s with
  | none => .fault .noRunInIssue
  | some me =>
    match stallOf i me s with
    | some k => .next (stall k me s)
    | none => .next (if operandsOk i me s then effect me s else operandsFirst i me s)

/-- An instruction that changes its train alone and goes on to the next word. -/
def issueTrain (i : Instr) (s : State) (effect : Me → State → Train → Train) : Result :=
  issue i s fun me s => retire me (s.updTrain me.tid (effect me s))

/-- Marks a register as awaiting a long-latency result (R86). -/
def Train.addBusy (t : Train) (op reason : Nat) (regs : List Reg) : Train :=
  { t with busy := t.busy ++ (regs.filterMap fun r => match r with
      | .v n => if n == 0 then none else some { isV := true, reg := n, reason := reason, op := op }
      | .s n => if n == 0 then none else some { isV := false, reg := n, reason := reason, op := op }
      | .f _ => none) }

/-- The registers that an operation was to deliver are ready. -/
def Train.doneBusy (t : Train) (op : Nat) : Train := { t with busy := t.busy.filter fun b => b.op != op }

/-- A fresh identifier. -/
def State.fresh (s : State) : Nat × State := (s.nextId, { s with nextId := s.nextId + 1 })

/-- The value of a token arrives (R63): the register is written and its pending bit clears. -/
def Train.token (t : Train) (n : Nat) (v : Word) : Train :=
  if n == 0 then t
  else
    let t := (t.writeS 0 n v).setPending n false
    { t with pendWhy := Tab.del t.pendWhy n }

/-- Names a register as a token whose wait is charged to reason `why` (R63, R194). -/
def Train.awaitToken (t : Train) (n why : Nat) : Train :=
  if n == 0 then t else { t.setPending n true with pendWhy := Tab.put t.pendWhy n why }

/-- The counters of R64. -/
inductive Counter where
  | gather | scatter | copy | tile
  deriving DecidableEq, Repr, Inhabited

/-- The value of a counter. -/
def Train.count (t : Train) : Counter → Nat
  | .gather => t.gather
  | .scatter => t.scatter
  | .copy => t.copies
  | .tile => t.tile

/-- Sets a counter. -/
def Train.setCount (t : Train) (c : Counter) (n : Nat) : Train :=
  match c with
  | .gather => { t with gather := n }
  | .scatter => { t with scatter := n }
  | .copy => { t with copies := n }
  | .tile => { t with tile := n }

/-- The train has an update whose reply it has not received, a blend lane that has not been applied, or a request that its accord queue
has not accepted: its later ordinary accesses and asynchronous operations wait for their places (R339, R340, R345, R348). -/
def unsettled (s : State) (tid : Nat) : Bool :=
  (s.atoms.any fun a => a.2.tid == tid && a.2.gen == (s.train tid).inc)
    || (s.blends.any fun b => b.2.who.tid == tid && b.2.who.gen == (s.train tid).inc)
    || s.accOps.any fun a => a.2.who.tid == tid && a.2.who.gen == (s.train tid).inc && a.2.unaccepted != 0

/-- Operations of a train that have no place in the global order yet: updates to be applied, blend lanes, and requests that no queue has
accepted (R339, R348, R350). -/
def placeOps (s : State) (tid : Nat) : List Nat :=
  let inc := (s.train tid).inc
  ((s.atoms.filter fun a => a.2.tid == tid && a.2.gen == inc && a.2.waiting != 0).map (·.1))
    ++ ((s.blends.filter fun b => b.2.who.tid == tid && b.2.who.gen == inc).map (·.1))
    ++ ((s.accOps.filter fun a => a.2.who.tid == tid && a.2.who.gen == inc && a.2.unaccepted != 0).map (·.1))

/-- An operation that an arrival or a ray awaits has ended or taken its place (R345, R350). -/
def opSettled (s : State) (id : Nat) : Bool :=
  (Tab.find s.mats id).isNone && (Tab.find s.blends id).isNone &&
    (match Tab.find s.atoms id with
      | some a => a.waiting == 0
      | none => true) &&
    (match Tab.find s.accOps id with
      | some a => a.unaccepted == 0
      | none => true)

/-- The timestamp that an arrival of a train carries: that of its accesses and of its completed matrix operations, updates included whose
replies it has yet to receive (R236, R348, R350). -/
def arrivalTs (s : State) (tid : Nat) : Nat :=
  let t := s.train tid
  (s.atoms.filter fun a => a.2.tid == tid && a.2.gen == t.inc && a.2.waiting == 0).foldl (fun m a => max m a.2.ts) (max t.pts t.matTs)

/-- The tick boundary at which a message that issued in a cycle enters (R316). -/
def entryTick (issued : Nat) : Nat := issued / 4 + 1

/-- A counter of the issuing train stands at 63 (R64). -/
def counterFull (c : Counter) (me : Me) (s : State) : Bool := decide (63 ≤ (me.train s).count c)

/-- Issues an asynchronous operation: its reads see every write that precedes it, so that it waits for the places of its train's
earlier accesses (R345). Where its counter is full as well, the wait is charged to that row of Table 8.3, which comes first (R194). -/
def issueAsync (i : Instr) (full : Me → State → Bool) (s : State) (effect : Me → State → State) : Result :=
  issue i s fun me s => if unsettled s me.tid then stall (if full me s then 3 else 9) me s else effect me s

/-- Issues an asynchronous operation that raises no counter. -/
def issueUncounted (i : Instr) (s : State) (effect : Me → State → State) : Result := issueAsync i (fun _ _ => false) s effect

/-- Issues an asynchronous instruction that raises a counter: it waits while the counter stands at 63 (R64). -/
def issueCounted (i : Instr) (c : Counter) (s : State) (effect : Me → State → State) : Result :=
  issueAsync i (counterFull c) s fun me s => if counterFull c me s then stall 3 me s else effect me s

end Sys2Proof.Machine
end

