-- ==== Sys2Proof/Machine/Fixative.lean ====
section
/-! DEFINITION. Reading f-registers across rungs (spec/07_control_split_rung_instructions.md R167, R168, R176; Table 3.1). -/

namespace Sys2Proof.Machine

/-- Encodes in F32 at nearest-even with nothing of s120 (R168). -/
def rne32 (x : FNum) : Nat := (roundTo .f32 .nearest x).1

/-- A sum of three products of F32 codes, exact, rounded once (R168). -/
def dot3 (a0 x0 a1 x1 a2 x2 : Nat) : Nat :=
  let p (a x : Nat) : FNum := (FNum.mul (decodeRaw .f32 a) (decodeRaw .f32 x)).1
  rne32 (FNum.add false (FNum.add false (p a0 x0) (p a1 x1)).1 (p a2 x2)).1

/-- Interp of R168, linear: the codes of the barycentrics and of the vertices' values. -/
def interpLinear (bi bj bk x0 x1 x2 : Nat) : Nat := dot3 bi x0 bj x1 bk x2

/-- Interp of R168, persp, with w0, w1, w2 the f63 of the vertices. -/
def interpPersp (bi bj bk x0 x1 x2 w0 w1 w2 : Nat) : Nat :=
  let q (b w : Nat) : Nat := rne32 (FNum.div (decodeRaw .f32 b) (decodeRaw .f32 w)).1
  let p0 := q bi w0
  let p1 := q bj w1
  let p2 := q bk w2
  let num := dot3 p0 x0 p1 x1 p2 x2
  let den := rne32 (FNum.add false (FNum.add false (decodeRaw .f32 p0) (decodeRaw .f32 p1)).1 (decodeRaw .f32 p2)).1
  rne32 (FNum.div (decodeRaw .f32 num) (decodeRaw .f32 den)).1

/-- The key of an element in the tables of a launch. -/
def elemKey (rung elem : Nat) : Nat := rung * 2 ^ 32 + elem

/-- A rung whose records are copied into every core that runs a descendant (R170). -/
def copiedRung (l : Launch) (rung : Nat) : Bool := if l.graphics then decide (rung < 2) else rung == 0

/-- The core whose store serves a reader on `core`: its own copy where the rung's records are copied (R170). -/
def Launch.recHome (l : Launch) (key core : Nat) (r : FixRec) : Nat := if copiedRung l (key / 2 ^ 32) then core else r.core

/-- Where the record, or its copy in the store of a core, stands in the spill region; none where it stands in that store (R171). -/
def FixRec.out (r : FixRec) (core : Nat) : Option Nat :=
  if r.core == core then (if r.spilled then some r.spillAt else none) else Tab.get none r.copies core

/-- The record, or its copy in the store of a core, is spilled to a place, or refilled (R171). -/
def FixRec.setOut (r : FixRec) (core : Nat) (place : Option Nat) : FixRec :=
  if r.core != core then { r with copies := Tab.put r.copies core place }
  else match place with
    | some a => { r with spilled := true, spillAt := a }
    | none => { r with spilled := false, refilled := true }

/-- The order in which a core spills the record or its copy: oldest first, and what has been refilled before all (R171). -/
def FixRec.spillOrder (r : FixRec) (core : Nat) : Nat :=
  if (r.core == core && r.refilled) || (r.core != core && Tab.find r.copies core == some none) then 0 else r.order + 1

/-- The places of the spill region that a record and its copies take. -/
def FixRec.places (r : FixRec) : List Nat := (if r.spilled then [r.spillAt] else []) ++ r.copies.filterMap (·.2)

/-- The value that a record of a launch holds for fN (R167). -/
def Launch.fixValue (l : Launch) (rung elem n : Nat) : Word := Tab.get 0 (Tab.get {} l.recs (elemKey rung elem)).values n

/-- The parent of a graphics element up to CLUSTER, by the launch's tables (Table 3.1). -/
def Launch.parent (l : Launch) (rung elem : Nat) : Nat := Tab.get 0 l.parents (elemKey rung elem)

/-- Climbs from an element of VERTEX or coarser to its ancestor at a coarser rung. -/
def Launch.climb (l : Launch) (target : Nat) : Nat → Nat → Nat
  | 0, e => e
  | r + 1, e => if r + 1 ≤ target then e else Launch.climb l target r (l.parent (r + 1) e)

/-- Tiles of a workgroup (Table 3.1). -/
def Launch.tilesPerWg (l : Launch) : Nat := 96 * l.trainsPerWg / l.tileSize

/-- The ancestor of a compute element at a coarser rung (Table 3.1). -/
def Launch.computeAncestor (l : Launch) (rung elem target : Nat) : Nat :=
  let tile := if rung == 5 then elem / l.tileSize else elem
  if target == 2 then tile
  else if target == 1 then (if rung == 1 then elem else tile / l.tilesPerWg)
  else 0

/-- The ancestor element at rung `target` of a lane (Table 3.1). -/
def Launch.ancestor (l : Launch) (rung : Nat) (e : LaneElem) (target : Nat) : Nat :=
  if !l.graphics then l.computeAncestor rung e.elem target
  else if rung == 5 && target == 4 then e.parent
  else if 4 ≤ rung then
    let p := Tab.get {} l.prims e.seq
    if target == 3 then p.v0 else l.climb target 2 p.cluster
  else l.climb target rung e.elem

/-- The f-registers of the three vertices of a lane's primitive (R167, R168). -/
def Launch.vertexValues (l : Launch) (e : LaneElem) (n : Nat) : Nat × Nat × Nat :=
  let p := Tab.get {} l.prims e.seq
  ((l.fixValue 3 p.v0 n).toNat, (l.fixValue 3 p.v1 n).toNat, (l.fixValue 3 p.v2 n).toNat)

/-- Interp for a lane with given barycentrics (R168): mode 1 linear, 2 persp. -/
def Launch.interp (l : Launch) (mode : Nat) (e : LaneElem) (n bi bj bk : Nat) : Word :=
  let (x0, x1, x2) := l.vertexValues e n
  if mode == 1 then BitVec.ofNat 32 (interpLinear bi bj bk x0 x1 x2)
  else
    let (w0, w1, w2) := l.vertexValues e 63
    BitVec.ofNat 32 (interpPersp bi bj bk x0 x1 x2 w0 w1 w2)

/-- ReadFix (R167) of fN in a lane of a train; a dead lane has no element and reads 0. RAY stands in neither of the orders of R167: to
a train of another rung an fN declared there is finer, and reads 0 (DESIGN CHOICE, log 136). -/
def readFix (s : State) (t : Train) (l n : Nat) : Word :=
  let la := s.launch t.launch
  match Tab.find la.fix n, Tab.find t.elems l with
  | some (p, mode), some e =>
    if p == t.rung then (Tab.get [] t.fix n).getD l 0
    else if t.rung == 6 then Tab.get 0 (Tab.get {} s.rays e.parent).captured n
    else if t.rung < p || t.fxrel then 0
    else if p == 3 && (mode == 1 || mode == 2) && 4 ≤ t.rung then
      la.interp mode e n e.bi.toNat e.bj.toNat e.bk.toNat
    else la.fixValue p (la.ancestor t.rung e p) n
  | _, _ => 0

/-- Keys of the fixative records that ReadFix of fN reaches in a lane of a train (R167, R171): those of the three vertices
where it interpolates, and none after FXREL (R173). -/
def Launch.recReads (l : Launch) (t : Train) (e : LaneElem) (n : Nat) : List Nat :=
  match Tab.find l.fix n with
  | some (p, mode) =>
    if p == t.rung || t.rung == 6 || decide (t.rung < p) || t.fxrel then []
    else if p == 3 && (mode == 1 || mode == 2) && decide (4 ≤ t.rung) then
      let q := Tab.get {} l.prims e.seq
      [elemKey 3 q.v0, elemKey 3 q.v1, elemKey 3 q.v2]
    else [elemKey p (l.ancestor t.rung e p)]
  | none => []

end Sys2Proof.Machine
end

