-- ==== Sys2Proof/Machine/Operands.lean ====
section
/-! DEFINITION. Every operand form (spec/01_notations.md Table 1.3, spec/04_formats_opcode_map.md R76, R77, R78;
spec/06_float_convert_crosslane.md R119). -/

namespace Sys2Proof.Machine

/-- A read-only code 0x1F0 to 0x1F7 in a lane (R50, Table 1.3); a dead lane reads its number and zeros. -/
def readCode (t : Train) (c l : Nat) : Word :=
  let e := (Tab.find t.elems l).getD { elem := 0 }
  match c - 0x1F0 with
  | 0 => BitVec.ofNat 32 l
  | 1 => BitVec.ofNat 32 e.elem
  | 2 => BitVec.ofNat 32 e.helper.toNat
  | 3 => e.bi
  | 4 => e.bj
  | 5 => e.bk
  | 6 => BitVec.ofNat 32 e.sample
  | _ => BitVec.ofNat 32 e.seq

/-- A register or read-only code as one 32-bit word in a lane (R76). -/
def readWord (s : State) (t : Train) (sid c l : Nat) : Word :=
  if isV c then t.readV c l
  else if isS c then t.readS sid (c - 0x100)
  else if isF c then readFix s t l (c - 0x180)
  else readCode t c l

/-- A register operand of 32 bits, or of 64 from an even pair; a read-only code is zero-extended (R55, R76, DEDUCED, log 11). -/
def readReg (s : State) (t : Train) (sid c : Nat) (wide : Bool) (l : Nat) : Nat :=
  if wide && (isV c || isS c) then
    (readWord s t sid c l).toNat + 2 ^ 32 * (readWord s t sid (c + 1) l).toNat
  else (readWord s t sid c l).toNat

/-- The value of an integer constant code (Table 1.3). -/
def constInt (c : Nat) : Int := if c < 0x1D0 then (c : Int) - 0x1C0 else 0x1CF - (c : Int)

/-- A code is a float constant. -/
def isFloatConst (c : Nat) : Bool := decide (0x1E0 ≤ c) && decide (c < 0x1F0)

/-- An integer-family source of TYPE `ty` in a lane (R76, R34, R90). -/
def intSrc (s : State) (t : Train) (sid ty c l : Nat) : Nat :=
  if isK c then packElems (intWidth ty) (List.replicate (intElems ty) (wrapInt (constInt c) (intWidth ty)))
  else if isFloatConst c then (if intWide ty then floatConst .f64 (c - 0x1E0) else floatConst32 (c - 0x1E0))
  else readReg s t sid c (intWide ty) l

/-- A source read as one unsigned 32-bit value whatever TYPE says (the operands marked single in Table 6.1). -/
def singleSrc (s : State) (t : Train) (sid c l : Nat) : Nat := intSrc s t sid 1 c l

/-- Applies NEG and ABS to the sign bit of one element, the absolute value first (R12, R29). -/
def applyMods (f : FloatFmt) (neg abs : Bool) (code : Nat) : Nat :=
  let top := 2 ^ (f.width - 1)
  let mag := code % top
  let s := (if abs then false else code.testBit (f.width - 1)) != neg
  if s then top + mag else mag

/-- Element `k` of a float-family source of format `f` in a lane, as its code after the modifiers (R76, R34, R119). -/
def fltElem (s : State) (t : Train) (sid : Nat) (f : FloatFmt) (c l k : Nat) (neg abs : Bool) : Nat :=
  let raw :=
    if isK c then intConst f (constInt c)
    else if isFloatConst c then floatConst f (c - 0x1E0)
    else elemNat (readReg s t sid c (f == .f64) l) f.width k
  applyMods f neg abs raw

/-- The effective address of a lane (R78): `w` is the width of DISP. -/
def effAddr (s : State) (t : Train) (sid base ofs l w disp : Nat) : DWord :=
  let b := t.readSN sid base true
  let o : Int := if ofs == 0x1C0 then 0 else (readWord s t sid ofs l).toInt
  BitVec.ofInt 64 ((b : Int) + o + signed disp w)

/-- Writes a vector-class destination in the lanes of a mask (R91): a v register or an even v pair, or the f-register of
the lanes' own elements. `val` gives each lane's value. -/
def writeDst (t : Train) (m : LaneMask) (c : Nat) (wide : Bool) (val : Nat → Nat) : Train :=
  if isV c then t.writeVN m c val (if wide then 2 else 1)
  else if isF c then
    { t with fix := Tab.put t.fix (c - 0x180) (updLanes m (Tab.get [] t.fix (c - 0x180)) fun l => BitVec.ofNat 32 (val l)) }
  else t

end Sys2Proof.Machine
end

