-- ==== Sys2Proof/Machine/Flags.lean ====
section
/-! DEFINITION. Floating-point flags: the sticky bits and traps of s120 (spec/02_number_formats.md R40, R41, Table 2.6;
spec/06_float_convert_crosslane.md R121, R142). -/

namespace Sys2Proof.Machine

/-- Sets sticky bits s120[14:10] (Table 2.6). -/
def stickyOr (mode : Word) (f : Flags) : Word := mode ||| ((f.setWidth 32) <<< 10)

/-- Trap enables s120[9:5] (Table 2.6). -/
def trapEnables (mode : Word) : Flags := mode.extractLsb' 5 5

/-- DAZ, s120[4]. -/
def modeDaz (mode : Word) : Bool := mode.getLsbD 4

/-- FTZ, s120[3]. -/
def modeFtz (mode : Word) : Bool := mode.getLsbD 3

/-- Lanes of `act` whose flags meet an enabled trap. -/
def trapLanes (mode : Word) (act : LaneMask) (fl : Nat → Flags) : LaneMask :=
  act &&& maskOf fun l => (fl l &&& trapEnables mode) != 0

/-- The OR of the flags of the lanes of a mask. -/
def orFlags (act : LaneMask) (fl : Nat → Flags) : Flags := (lanesOf act).foldl (fun m l => m ||| fl l) 0

/-- Completes a floating instruction of the issuer (R41, R121): the lanes that meet an enabled trap keep their destination
and fault with FP-TRAP, the others write by `write`, and the flags of every active lane are set in the sticky bits of s120
as it stands after that write, which may be one of s120 itself (R142). -/
def completeFloat (me : Me) (act : LaneMask) (fl : Nat → Flags) (write : Train → LaneMask → Train) (s : State) : State :=
  let mode := (me.train s).mode
  let trap := trapLanes mode act fl
  let s := s.updTrain me.tid fun t =>
    let t := write t (act &&& ~~~trap)
    let any := orFlags act fl
    if any == 0 then t else { t with sregs := Tab.put t.sregs 120 (stickyOr t.mode any) }
  if trap == 0 then retire me s
  else
    faultWith s me (laneRecs me s 0 0 ((lanesOf trap).map fun l => (l, Kind.fpTrap, 0, (fl l).setWidth 32)))

end Sys2Proof.Machine
end

