-- ==== Sys2Proof/Machine/VectorFloat.lean ====
section
/-! DEFINITION. The float, conversion and packing majors 0x50 to 0x68, VDERIV, and their shared operations
(spec/06_float_convert_crosslane.md R118 to R138; spec/07 R175). -/

namespace Sys2Proof.Machine

/-- Advances a generator `n` times (R37). -/
def genSteps (g : Word) : Nat → Word
  | 0 => g
  | n + 1 => genStep (genSteps g n)

/-- Advances the generators of the lanes of a mask, under code 6 only (R36). -/
def Train.advance (t : Train) (r : Nat) (m : LaneMask) (n : Nat) : Train :=
  if r == 6 then { t with gens := updLanes m t.gens fun l => genSteps (t.gens.getD l 0) n } else t

/-- The rounding of the `k`-th element (from 0) that lane `l` rounds in an instruction, `r` being the effective code
(R35, R36, R120). -/
def Train.rounding (t : Train) (r : Nat) (sat : Bool) (l k : Nat) : Rounding :=
  { rnd := r, sat := sat, ftz := modeFtz t.mode,
    draw := if r == 6 then genDraw (genSteps (t.gens.getD l 0) (k + 1)) else 0 }

/-- Rounds exact element values, each with the flags its operation raised, into one value (R120): the value and the OR
of the flags. -/
def Train.roundElems (t : Train) (fmt : FloatFmt) (r : Nat) (sat : Bool) (l : Nat) (xs : List (FNum × Flags)) :
    Nat × Flags :=
  let rs := xs.zipIdx.map fun (x, k) =>
    let (c, fl) := roundTo fmt (t.rounding r sat l k) x.1
    (c, fl ||| x.2)
  (packElems fmt.width (rs.map (·.1)), rs.foldl (fun m x => m ||| x.2) 0)

/-- A floating instruction of the issuer: `val` gives a lane's value and flags, `adv` the elements that it rounds under
the effective code `r`. -/
def vecFlt (i : Instr) (d : BitVec 9) (wide : Bool) (rnd : Nat) (adv : Nat)
    (val : Me → State → Train → Nat → Nat → Nat × Flags) (s : State) : Result :=
  issue i s fun me s =>
    let t := me.train s
    let act := me.active s
    let r := effectiveRnd t.mode rnd
    let res := val me s t r
    completeFloat me act (fun l => (res l).2) (fun t m => writeDst t m d.toNat wide fun l => (res l).1)
      (s.updTrain me.tid fun t => t.advance r act adv)

/-- The exact value of element `k` of a float source: A is position 2, B 1 and C 0 in NEG and ABS (R12, R119). -/
def fltVal (me : Me) (s : State) (t : Train) (f : FmtV3) (fmt : FloatFmt) (c : BitVec 9) (pos l k : Nat) : FNum :=
  decodeNum fmt (modeDaz t.mode)
    (fltElem s t me.sid fmt c.toNat l k (f.neg.toNat.testBit pos) (f.abs.toNat.testBit pos))

/-- An element-wise operation of A, B and C of TYPE; the operation is given the effective code (R118 to R120). -/
def vecFltOp (i : Instr) (f : FmtV3) (rnd : Nat) (sat : Bool) (op : Nat → FNum → FNum → FNum → FNum × Flags) (s : State) :
    Result :=
  let fmt := floatType f.ty.toNat
  let m := floatElems f.ty.toNat
  vecFlt i f.d (floatWide f.ty.toNat) rnd m (fun me s t r l =>
    t.roundElems fmt r sat l ((List.range m).map fun k =>
      op r (fltVal me s t f fmt f.a 2 l k) (fltVal me s t f fmt f.b 1 l k) (fltVal me s t f fmt f.c 0 l k))) s

/-- Invalid, as a flag. -/
def invFlag (x : FNum × Bool) : FNum × Flags := (x.1, Flags.when x.2 Flags.inv)

/-- VFADD (R123). -/
def execVfadd (f : FmtV3) (s : State) : Result :=
  vecFltOp (.vfadd f) f f.rnd.toNat (f.sat == 1) (fun r x y _ => invFlag (FNum.add (r == 4) x y)) s

/-- VFSUB (R123). -/
def execVfsub (f : FmtV3) (s : State) : Result :=
  vecFltOp (.vfsub f) f f.rnd.toNat (f.sat == 1) (fun r x y _ => invFlag (FNum.add (r == 4) x y.negate)) s

/-- VFMUL (R123). -/
def execVfmul (f : FmtV3) (s : State) : Result :=
  vecFltOp (.vfmul f) f f.rnd.toNat (f.sat == 1) (fun _ x y _ => invFlag (FNum.mul x y)) s

/-- VFMA: one rounding (R123). -/
def execVfma (f : FmtV3) (s : State) : Result :=
  vecFltOp (.vfma f) f f.rnd.toNat (f.sat == 1) (fun r x y z => invFlag (FNum.fma (r == 4) x y z)) s

/-- VFMIN, `.nan` and `.num` (R124). -/
def execVfmin (f : FmtV3) (s : State) : Result :=
  vecFltOp (.vfmin f) f 1 false (fun _ x y _ => FNum.pick false (f.minor == 1) x y) s

/-- VFMAX, `.nan` and `.num` (R124). -/
def execVfmax (f : FmtV3) (s : State) : Result :=
  vecFltOp (.vfmax f) f 1 false (fun _ x y _ => FNum.pick true (f.minor == 1) x y) s

/-- The conditions of Table 6.2 and the invalid flag. -/
def cmpFlt (minor : Nat) (x y : FNum) : Bool × Flags :=
  let nan := x.isNan || y.isNan
  let snan := x.isSnan || y.isSnan
  match minor with
  | 0 => (FNum.eqv x y, Flags.when snan Flags.inv)
  | 1 => (!FNum.eqv x y, Flags.when snan Flags.inv)
  | 2 => (!nan && FNum.lt x y, Flags.when nan Flags.inv)
  | 3 => (!nan && !FNum.lt y x, Flags.when nan Flags.inv)
  | 4 => (!nan && FNum.lt y x, Flags.when nan Flags.inv)
  | 5 => (!nan && !FNum.lt x y, Flags.when nan Flags.inv)
  | 6 => (nan, Flags.when snan Flags.inv)
  | _ => (!nan, Flags.when snan Flags.inv)

/-- VFCMP: as VCMP, a lane that traps keeping its bit (R125). -/
def execVfcmp (f : FmtV3) (s : State) : Result :=
  issue (.vfcmp f) s fun me s =>
    let t := me.train s
    let fmt := floatType f.ty.toNat
    let act := me.active s
    let res (l : Nat) : Bool × Flags :=
      cmpFlt f.minor.toNat (fltVal me s t f fmt f.a 2 l 0) (fltVal me s t f fmt f.b 1 l 0)
    let n := f.d.toNat - 0x100
    completeFloat me act (fun l => (res l).2)
      (fun t m =>
        let old := t.readTriple me.sid n
        t.writeTriple me.sid n ((m &&& maskOf fun l => (res l).1) ||| (act &&& ~~~m &&& old))) s

/-- The class of Table 6.3, as a bit number. -/
def classBit (f : FloatFmt) (code : Nat) : Nat :=
  match decodeRaw f code with
  | .nan q => if q then 8 else 9
  | .inf s => if s then 0 else 7
  | .fin s n _ => if n == 0 then (if s then 3 else 4)
    else if isSubnormal f code then (if s then 2 else 5) else (if s then 1 else 6)

/-- VFCLASS (R126). -/
def execVfclass (f : FmtV3) (s : State) : Result :=
  issueTrain (.vfclass f) s fun me s t =>
    let fmt := floatType f.ty.toNat
    writeDst t (me.active s) f.d.toNat false fun l =>
      2 ^ classBit fmt (fltElem s t me.sid fmt f.a.toNat l 0 false false)

/-- VFDIV (R127). -/
def execVfdiv (f : FmtV3) (s : State) : Result :=
  vecFltOp (.vfdiv f) f f.rnd.toNat (f.sat == 1) (fun _ x y _ => FNum.div x y) s

/-- VFSQRT (R127). -/
def execVfsqrt (f : FmtV3) (s : State) : Result :=
  vecFltOp (.vfsqrt f) f f.rnd.toNat (f.sat == 1) (fun _ x _ _ => x.sqrt) s

/-- A function of Table 6.4 by its number (R128). -/
def vecApprox (i : Instr) (fn : Nat) (f : FmtV3) (s : State) : Result :=
  let fmt := floatType f.ty.toNat
  vecFlt i f.d false 1 0 (fun me s t _ l =>
    let rs := (List.range (floatElems f.ty.toNat)).map fun k =>
      approxOp fn fmt (f.sat == 1) (modeDaz t.mode) (modeFtz t.mode)
        (fltElem s t me.sid fmt f.a.toNat l k (f.neg.toNat.testBit 2) (f.abs.toNat.testBit 2))
    (packElems fmt.width (rs.map (·.1)), rs.foldl (fun m x => m ||| x.2) 0)) s

/-- VFRCP (R128). -/
def execVfrcp (f : FmtV3) (s : State) : Result := vecApprox (.vfrcp f) 0 f s
/-- VFRSQ (R128). -/
def execVfrsq (f : FmtV3) (s : State) : Result := vecApprox (.vfrsq f) 1 f s
/-- VFEXP2 (R128). -/
def execVfexp2 (f : FmtV3) (s : State) : Result := vecApprox (.vfexp2 f) 2 f s
/-- VFLOG2 (R128). -/
def execVflog2 (f : FmtV3) (s : State) : Result := vecApprox (.vflog2 f) 3 f s
/-- VFSIN (R128). -/
def execVfsin (f : FmtV3) (s : State) : Result := vecApprox (.vfsin f) 4 f s
/-- VFCOS (R128). -/
def execVfcos (f : FmtV3) (s : State) : Result := vecApprox (.vfcos f) 5 f s

/-- Rounds an element to an integral value by a rounding (R129). -/
def roundIntegral (m : Rounding) (x : FNum) : FNum × Flags :=
  match x with
  | .nan q => (.nan false, Flags.when q Flags.inv)
  | .inf s => (.inf s, 0)
  | .fin s n d => (.fin s (roundInt m s n d).1 1, 0)

/-- VFRND: integral under EffectiveRnd; the encoding of the integral value is exact (R129). -/
def execVfrnd (f : FmtV3) (s : State) : Result :=
  let fmt := floatType f.ty.toNat
  let m := floatElems f.ty.toNat
  vecFlt (.vfrnd f) f.d (floatWide f.ty.toNat) f.rnd.toNat m (fun me s t r l =>
    t.roundElems fmt 1 false l ((List.range m).map fun k =>
      roundIntegral (t.rounding r false l k) (fltVal me s t f fmt f.a 2 l k))) s

/-- x − floor(x) (R130). -/
def fractNum (x : FNum) : FNum × Flags :=
  match x with
  | .nan q => (.nan false, Flags.when q Flags.inv)
  | .inf _ => (.nan false, Flags.inv)
  | .fin s n d => (.fin false (if s then (d - n % d) % d else n % d) d, 0)

/-- VFFRACT, rounded toward −∞ (R130). -/
def execVffract (f : FmtV3) (s : State) : Result :=
  let fmt := floatType f.ty.toNat
  let m := floatElems f.ty.toNat
  vecFlt (.vffract f) f.d (floatWide f.ty.toNat) 1 0 (fun me s t _ l =>
    t.roundElems fmt 4 false l ((List.range m).map fun k => fractNum (fltVal me s t f fmt f.a 2 l k))) s

/-- x times 2^n; an exponent beyond every format's range acts as 5,000 (R131). -/
def ldexpNum (x : FNum) (n : Int) : FNum × Flags :=
  let n := if n < -5000 then -5000 else if 5000 < n then 5000 else n
  (match x with
    | .nan _ => .nan false
    | y => y.ldexp n, Flags.when x.isSnan Flags.inv)

/-- VFLDEXP: B is one signed 32-bit register (R131). -/
def execVfldexp (f : FmtV3) (s : State) : Result :=
  let fmt := floatType f.ty.toNat
  vecFlt (.vfldexp f) f.d (floatWide f.ty.toNat) f.rnd.toNat 1 (fun me s t r l =>
    t.roundElems fmt r (f.sat == 1) l
      [ldexpNum (fltVal me s t f fmt f.a 2 l 0) (signed (singleSrc s t me.sid f.b.toNat l) 32)]) s

/-- A value carried into another format; a signalling NaN raises invalid (R132). -/
def carryNum (x : FNum) : FNum × Flags := (x, Flags.when x.isSnan Flags.inv)

/-- VFCVT: elements k + sel of the source format that MINOR names; destination elements without a source are 0 and
round nothing (R132). -/
def execVfcvt (f : FmtV3) (s : State) : Result :=
  let src := floatType f.minor.toNat
  let fmt := floatType f.ty.toNat
  let sel := f.b.toNat - 0x1C0
  let n := min (floatElems f.ty.toNat) (floatElems f.minor.toNat - sel)
  vecFlt (.vfcvt f) f.d (floatWide f.ty.toNat) f.rnd.toNat n (fun me s t r l =>
    t.roundElems fmt r (f.sat == 1) l ((List.range n).map fun k => carryNum (fltVal me s t f src f.a 2 l (k + sel)))) s

/-- A float rounded to an integral value and fitted into an integer TYPE (R133). -/
def toIntOp (m : Rounding) (ty : Nat) (sat : Bool) (x : FNum) : Nat × Flags :=
  let w := intWidth ty
  let lo : Int := if intSigned ty then -((2 ^ (w - 1) : Nat) : Int) else 0
  let hi : Int := if intSigned ty then ((2 ^ (w - 1) : Nat) : Int) - 1 else ((2 ^ w : Nat) : Int) - 1
  let out := if sat then Flags.inx else Flags.inv
  match x with
  | .nan _ => (0, Flags.inv)
  | .inf s => (wrapInt (if s then lo else hi) w, out)
  | .fin s n d =>
    let (q, exact) := roundInt m s n d
    let r : Int := if s then -(q : Int) else q
    if r < lo then (wrapInt lo w, out)
    else if hi < r then (wrapInt hi w, out)
    else (wrapInt r w, Flags.when (!exact) Flags.inx)

/-- VCVTFI (R133). -/
def execVcvtfi (f : FmtV3) (s : State) : Result :=
  let src := floatType f.minor.toNat
  vecFlt (.vcvtfi f) f.d (intWide f.ty.toNat) f.rnd.toNat 1 (fun me s t r l =>
    toIntOp (t.rounding r false l 0) f.ty.toNat (f.sat == 1) (fltVal me s t f src f.a 2 l 0)) s

/-- VCVTIF (R134). -/
def execVcvtif (f : FmtV3) (s : State) : Result :=
  let fmt := floatType f.ty.toNat
  vecFlt (.vcvtif f) f.d (floatWide f.ty.toNat) f.rnd.toNat 1 (fun me s t r l =>
    t.roundElems fmt r false l
      [(FNum.ofInt (elemInt (intSrc s t me.sid f.minor.toNat f.a.toNat l) f.minor.toNat 0), 0)]) s

/-- The narrow format of VPACK and VUNPK (Table 6.6). -/
def packFmt (minor : Nat) : FloatFmt :=
  match minor with
  | 0 => .f16 | 1 => .bf16 | 2 => .e4m3 | 3 => .e5m2 | _ => .e2m1

/-- Replaces `w` bits at `lo` of a value of `n` bits. -/
def replaceBits (n x lo w y : Nat) : Nat := bits x 0 lo + 2 ^ lo * (y % 2 ^ w) + 2 ^ (lo + w) * bits x (lo + w) (n - lo - w)

/-- VPACK: the codes of A and B side by side at the place that C names, the rest of D kept (R135, R136). -/
def execVpack (f : FmtV3) (s : State) : Result :=
  let fmt := packFmt f.minor.toNat
  let wide := f.minor == 4
  let c := f.c.toNat - 0x1C0
  vecFlt (.vpack f) f.d wide f.rnd.toNat 2 (fun me s t r l =>
    let (v, fl) := t.roundElems fmt r (f.sat == 1) l
      [carryNum (fltVal me s t f .f32 f.a 2 l 0), carryNum (fltVal me s t f .f32 f.b 1 l 0)]
    let old := readReg s t me.sid f.d.toNat wide l
    (replaceBits (if wide then 64 else 32) old (2 * fmt.width * c) (2 * fmt.width) v, fl)) s

/-- The element that VUNPK selects (R137). A constant as A of the formats of 16 and 8 bits holds its value, rounded to the format, in every
element (DESIGN CHOICE, log 107). -/
def unpackNum (me : Me) (s : State) (t : Train) (f : FmtV3) (l : Nat) : FNum :=
  let c := f.c.toNat - 0x1C0
  if f.minor == 4 then
    e2m1Value (readReg s t me.sid f.a.toNat true l + 2 ^ 64 * (singleSrc s t me.sid f.b.toNat l % 65536)) c
  else decodeRaw (packFmt f.minor.toNat) (fltElem s t me.sid (packFmt f.minor.toNat) f.a.toNat l c false false)

/-- VUNPK (R137). -/
def execVunpk (f : FmtV3) (s : State) : Result :=
  vecFlt (.vunpk f) f.d false 1 0 (fun me s t _ l => t.roundElems .f32 1 false l [carryNum (unpackNum me s t f l)]) s

/-- Two terms are infinities of opposite signs. -/
def FNum.clash : FNum → FNum → Bool
  | .inf a, .inf b => a != b
  | _, _ => false

/-- VFDOT2: the exact sum of two products and C, rounded once to F32; opposite infinities anywhere in the sum are invalid,
also beside a NaN (R138). -/
def execVfdot2 (f : FmtV3) (s : State) : Result :=
  let fmt := floatType f.ty.toNat
  vecFlt (.vfdot2 f) f.d false f.rnd.toNat 1 (fun me s t r l =>
    let p (k : Nat) : FNum × Bool := FNum.mul (fltVal me s t f fmt f.a 2 l k) (fltVal me s t f fmt f.b 1 l k)
    let z := fltVal me s t f .f32 f.c 0 l 0
    let (q, i) := FNum.add (r == 4) (p 0).1 (p 1).1
    let (e, j) := FNum.add (r == 4) q z
    let clash := (p 0).1.clash (p 1).1 || (p 0).1.clash z || (p 1).1.clash z
    t.roundElems .f32 r (f.sat == 1) l [(e, Flags.when ((p 0).2 || (p 1).2 || i || j || clash) Flags.inv)]) s

/-- The lanes whose difference VDERIV forms (Table 7.6). -/
def derivLanes (minor l : Nat) : Nat × Nat :=
  let q := l / 4 * 4
  let x := l % 2
  let y := l % 4 / 2
  match minor with
  | 0 => (q + 1, q)
  | 1 => (q + 2, q)
  | 2 => (q + 2 * y + 1, q + 2 * y)
  | _ => (q + 2 + x, q + x)

/-- VDERIV: F32 differences across a quad, source lanes read as they stand (R175). -/
def execVderiv (f : FmtV3) (s : State) : Result :=
  vecFlt (.vderiv f) f.d false 1 0 (fun me s t _ l =>
    let (p, q) := derivLanes f.minor.toNat l
    t.roundElems .f32 1 false l
      [invFlag (FNum.add false (fltVal me s t f .f32 f.a 2 p 0) (fltVal me s t f .f32 f.a 2 q 0).negate)]) s

end Sys2Proof.Machine
end

