-- ==== Sys2Proof/Machine/Control.lean ====
section
/-! DEFINITION. NOP and the control majors 0x78 to 0x88 (spec/07_control_split_rung_instructions.md R146 to R166, R173).
TDEC and TINC stand with the atomics. -/

namespace Sys2Proof.Machine

/-- The run map of a train's rung (R24, R51). -/
def runMap (s : State) (t : Train) : List RunEntry := Tab.get [] (s.launch t.launch).runMaps t.rung

/-- A word offset inside the code section that is a run start of the train's rung (R147). -/
def isTarget (s : State) (t : Train) (pc : Nat) : Bool :=
  decide (pc < (s.launch t.launch).codeWords) && (runMap s t).any fun e => e.start == pc

/-- The target of an OFFSET major at word `pc` (R147); a negative one names no word. -/
def branchTarget (pc : Nat) (offset : BitVec 32) : Nat := ((pc : Int) + offset.toInt).toNat

/-- Ends the run at the word after the control word, with what holds the next run (R146). -/
def fallHeld (h : Hold) (me : Me) (s : State) : State :=
  let pc := (me.split s).pc
  goto (pc + 1) me (s.updSplit me fun sp => { sp with hold := h })

/-- Goes to the target or falls through. -/
def branchIf (taken : Bool) (offset : BitVec 32) (me : Me) (s : State) : State :=
  let pc := (me.split s).pc
  goto (if taken then branchTarget pc offset else pc + 1) me s

/-- NOP (R148). -/
def execNop (f : FmtX) (s : State) : Result := issueTrain (.nop f) s fun _ _ t => t

/-- BR (R149). -/
def execBr (f : FmtC) (s : State) : Result := issue (.br f) s fun me s => branchIf true f.offset me s

/-- The conditions of BRS (Table 4.5). -/
def brsTaken (cond : Nat) (v : Word) : Bool :=
  match cond with
  | 1 => v == 0
  | 2 => v != 0
  | 3 => decide (v.toInt < 0)
  | 4 => decide (0 ≤ v.toInt)
  | 5 => decide (0 < v.toInt)
  | _ => decide (v.toInt ≤ 0)

/-- BRS (R149). -/
def execBrs (f : FmtC) (s : State) : Result :=
  issue (.brs f) s fun me s => branchIf (brsTaken f.cond.toNat ((me.train s).readS me.sid f.sa.toNat)) f.offset me s

/-- The conditions of BRM over ACTIVE (Table 4.5, R149). -/
def brmTaken (cond : Nat) (act m : LaneMask) : Bool :=
  match cond with
  | 0 => act &&& m != 0
  | 1 => act &&& ~~~m == 0
  | _ => act &&& m == 0

/-- BRM (R149). -/
def execBrm (f : FmtC) (s : State) : Result :=
  issue (.brm f) s fun me s =>
    branchIf (brmTaken f.cond.toNat (me.active s) ((me.train s).readTriple me.sid f.sa.toNat)) f.offset me s

/-- The lowest free entry of a split table (R61). -/
def Train.freeSplit (t : Train) : Option Nat := (List.range 4).find? fun n => !(t.split n).valid

/-- BRV: divides the split, or defers one side when no entry is free (R151, R153, R61). -/
def execBrv (f : FmtC) (s : State) : Result :=
  issue (.brv f) s fun me s =>
    let t := me.train s
    let sp := t.split me.sid
    let act := me.active s
    let m := t.readTriple me.sid f.sa.toNat
    let taken := if f.cond == 0 then act &&& m else act &&& ~~~m
    let fall := act &&& ~~~taken
    let target := branchTarget sp.pc f.offset
    if taken == 0 then goto (sp.pc + 1) me s
    else if fall == 0 then goto target me s
    else
      match t.freeSplit with
      | some n =>
        goto target me (s.updTrain me.tid fun t =>
          (t.setSplit me.sid { sp with member := sp.member &&& ~~~fall, active := taken }).setSplit n
            { valid := true, pc := sp.pc + 1, member := fall, active := fall, born := s.cycle })
      | none =>
        if 8 ≤ t.stack.length then faultTrain .stackOverflow 0 me s
        else
          goto target me (s.updTrain me.tid fun t =>
            { t.setSplit me.sid { sp with active := taken } with
              stack := t.stack ++ [{ join := false, sid := me.sid, pc := sp.pc + 1, lanes := fall }] })

/-- CALL (R150). -/
def execCall (f : FmtC) (s : State) : Result :=
  issue (.call f) s fun me s =>
    let pc := (me.split s).pc
    branchIf true f.offset me (s.updTrain me.tid fun t => t.writeS me.sid 127 (BitVec.ofNat 32 (pc + 1)))

/-- Goes to a word offset that is checked at execution (R147). -/
def jumpTo (pc : Nat) (me : Me) (s : State) : State :=
  if isTarget s (me.train s) pc then goto pc me s else faultTrain .illegalField 0 me s

/-- RET (R150). -/
def execRet (f : FmtC) (s : State) : Result :=
  issue (.ret f) s fun me s => jumpTo ((me.train s).readS me.sid 127).toNat me s

/-- JMPI (R150). -/
def execJmpi (f : FmtC) (s : State) : Result :=
  issue (.jmpi f) s fun me s => jumpTo ((me.train s).readS me.sid f.sa.toNat).toNat me s

/-- Takes the top record of a split off the stack (R152): the record and the rest. -/
def popRec (sid : Nat) : List DeferRec → Option (DeferRec × List DeferRec)
  | [] => none
  | r :: rs =>
    match popRec sid rs with
    | some (x, rest) => some (x, r :: rest)
    | none => if r.sid == sid then some (r, rs) else none

/-- The loop of SJOIN (R154) at word `p`: the state of the split and of the stack. -/
def sjoinLoop (p sid : Nat) : Nat → Split → List DeferRec → Split × List DeferRec
  | 0, sp, st => ({ sp with state := .joinwait, pc := p + 1 }, st)
  | n + 1, sp, st =>
    match popRec sid st with
    | some (r, rest) =>
      if r.join then
        (if r.pc == p + 1 then sjoinLoop p sid n { sp with active := sp.active ||| r.lanes } rest
         else ({ sp with state := .joinwait, pc := p + 1 }, st))
      else
        ({ sp with active := r.lanes, pc := r.pc },
          rest ++ [{ join := true, sid := sid, pc := p + 1, lanes := sp.active }])
    | none => ({ sp with state := .joinwait, pc := p + 1 }, st)

/-- SJOIN (R154). -/
def execSjoin (f : FmtC) (s : State) : Result :=
  issue (.sjoin f) s fun me s =>
    let s := s.updTrain me.tid fun t =>
      let sp := t.split me.sid
      let (sp, st) := sjoinLoop sp.pc me.sid (t.stack.length + 1) sp t.stack
      { t.setSplit me.sid { sp with replay := none, partialEnd := none } with stack := st }
    s.endRun me

/-- WAIT: the thresholds hold the next run (R158). -/
def execWait (f : FmtC) (s : State) : Result :=
  issue (.wait f) s fun me s =>
    let o := f.offset.toNat
    fallHeld (.wait (bits o 0 6) (bits o 6 6) (bits o 12 6) (bits o 18 6)) me s

/-- YIELD (R160). -/
def execYield (f : FmtC) (s : State) : Result := issue (.yield f) s fun me s => fallHeld (.yield false 0) me s

/-- Keeps the f-register values of ending elements in the launch's records (R169). -/
def Launch.keepValues (l : Launch) (t : Train) (core : Nat) (lanes : List Nat) : Launch :=
  if t.fix.isEmpty && !(l.fix.any fun x => x.2.1 == t.rung) then l
  else
    lanes.foldl (fun l lane =>
      match Tab.find t.elems lane with
      | some e =>
        let k := elemKey t.rung e.elem
        let r := Tab.get {} l.recs k
        let r := { r with core := core, ended := true, values := t.fix.map fun x => (x.1, x.2.getD lane 0) }
        { l with recs := Tab.put l.recs k r }
      | none => l) l

/-- Ends of COARSE and SAMPLE elements, which close registrations (R279). -/
def Launch.countEnds (l : Launch) (t : Train) (es : List LaneElem) : Launch :=
  if !l.graphics then l
  else if t.rung == 4 then
    { l with coarse := es.foldl (fun c e => Tab.upd c e.elem fun x => { x with ended := true }) l.coarse }
  else if t.rung == 5 then
    { l with coarse := es.foldl (fun c e => Tab.upd c e.parent fun x => { x with left := x.left - 1 }) l.coarse }
  else l

/-- Ends lanes of a train (R48, R157, R164): they are dead, their elements end with the values they hold, and a killed
COARSE pixel spawns no samples. -/
def endLanes (m : LaneMask) (kill : Bool) (tid : Nat) (s : State) : State :=
  let t := s.train tid
  let ls := lanesOf (m &&& t.live)
  let s := s.updLaunch t.launch fun l =>
    let l := l.keepValues t (tid / 32) ls
    let l := l.countEnds t (ls.filterMap fun k => Tab.find t.elems k)
    if kill && t.rung == 4 then
      { l with killed := l.killed ++ (ls.filterMap fun k => (Tab.find t.elems k).map (·.elem)) }
    else l
  let ops := placeOps s tid
  let rays := if t.rung == 6 then ls.filterMap fun k => (Tab.find t.elems k).map (·.parent) else []
  let s := s.updTrain tid fun t =>
    { t with live := t.live &&& ~~~m,
             splits := t.splits.map fun sp => { sp with member := sp.member &&& ~~~m, active := sp.active &&& ~~~m } }
  let s := { s with rays := rays.foldl (fun rs id => Tab.upd rs id fun r => { r with ended := true, ts := t.pts, ops := ops }) s.rays }
  rays.foldl (fun s id => s.later (.rayRecordDelivery id)) s

/-- The train's last split has ended: the train is ENDING (R61, R65, Table 3.5). -/
def endIfEmpty (tid : Nat) (s : State) : State :=
  s.updTrain tid fun t => if t.splits.any (·.valid) then t else { t with state := .ending }

/-- Records that wait for the issuing split, which ends with this run, go to the engine fault log under the train's joined name (R298,
R301). -/
def logDeferred (me : Me) (s : State) : State :=
  (me.split s).deferred.foldl (fun s r =>
    s.raiseEvent (me.train s).ctx (engineEvent s 1 (s.joined me.tid me.sid) 0 r)) s

/-- The issuing split ends (R61). A JOIN record of it without lanes, which a KILLS of its last members can leave, stays on the deferral
stack (DESIGN CHOICE, log 109). -/
def endSplit (me : Me) (s : State) : State :=
  let s := (logDeferred me s).updSplit me fun _ => {}
  endIfEmpty me.tid (s.endRun me)

/-- EXIT (R157). -/
def execExit (f : FmtC) (s : State) : Result :=
  issue (.exit f) s fun me s =>
    let t := me.train s
    let sp := t.split me.sid
    let s := endLanes (sp.member &&& ~~~(t.heldLanes me.sid)) false me.tid s
    match popRec me.sid t.stack with
    | some (r, rest) =>
      let s := s.updTrain me.tid fun t => { t with stack := rest }
      goto r.pc me (s.updSplit me fun sp => { sp with active := r.lanes })
    | none => endSplit me s

/-- REGGROW: refused at once above 16 granules, else the request waits (R161); see `overCap` for a train that has grown since. -/
def execReggrow (f : FmtC) (s : State) : Result :=
  issue (.reggrow f) s fun me s =>
    let n := f.offset.toNat % 32
    let r := f.sa.toNat
    if 16 < (me.train s).granules + n then
      fallHeld .free me (s.updTrain me.tid fun t => t.writeS me.sid r 2)
    else fallHeld (.grow n r s.cycle) me (s.updTrain me.tid fun t => t.setPending r true)

/-- REGTRIM: the granules leave when every write into them has landed (R163). -/
def execRegtrim (f : FmtC) (s : State) : Result :=
  issue (.regtrim f) s fun me s =>
    let n := f.offset.toNat % 32
    if (me.train s).granules ≤ n then faultTrain .illegalField 0 me s else fallHeld (.trim n) me s

/-- KILLS (R164). -/
def execKills (f : FmtC) (s : State) : Result :=
  issue (.kills f) s fun me s =>
    let t := me.train s
    let s := endLanes (me.active s &&& t.readTriple me.sid f.sa.toNat) true me.tid s
    if (me.split s).member == 0 then endSplit me s else fallHeld .free me s

/-- EMITV: vertices of each active lane's cluster, in lane order (R165). -/
def execEmitv (f : FmtC) (s : State) : Result :=
  issue (.emitv f) s fun me s =>
    let t := me.train s
    let n := (t.readS me.sid f.sa.toNat).toNat
    if 256 < n then faultTrain .illegalField 0 me s
    else
      let first := (s.launch t.launch).nextVertex
      let owners := ((lanesOf (me.active s)).map fun l =>
        List.replicate n (((Tab.find t.elems l).map (·.elem)).getD 0)).flatten
      let s := s.updLaunch t.launch fun l =>
        { l with nextVertex := first + owners.length,
                 parents := owners.zipIdx.foldl (fun p (c, k) => Tab.put p (elemKey 3 (first + k)) c) l.parents }
      fallHeld .free me (s.updTrain me.tid fun t => t.writeS me.sid f.sa.toNat (BitVec.ofNat 32 first))

end Sys2Proof.Machine
end

