-- ==== Sys2Proof/Machine/RunCheck.lean ====
section
/-! DEFINITION. The checks of a whole run before its first instruction issues (spec/04_formats_opcode_map.md R72 to R74,
R85; spec/07 R147): opcode, RATE, privilege and field, word by word; the lowest offending word gives the fault. -/

namespace Sys2Proof.Machine

/-- The words of a split's next run: its first word and its length (R24, R62, R72); none where the PC is neither a
listed run start nor a resumption point, or the run reaches beyond the code section. -/
def runExtent (s : State) (t : Train) (sp : Split) : Option (Nat × Nat) :=
  let size := (s.launch t.launch).codeWords
  match sp.partialEnd with
  | some e => if sp.pc ≤ e && e < size then some (sp.pc, e + 1 - sp.pc) else none
  | none =>
    match (runMap s t).find? fun e => e.start == sp.pc with
    | some e => if e.start + e.len ≤ size then some (e.start, e.len) else none
    | none => none

/-- Check 2 of R85: RATE by class and the rungs that the major is limited to (R73, R74). -/
def rateOk (graphics : Bool) (rung : Nat) (rate : Nat) (i : Instr) : Bool :=
  let class_ := match classOf i with
    | .V => rate == rung
    | .T | .P => rate == 7
    | .N => rate == 7 || rate == rung
    | .event => false
  class_ &&
    (match rungsOf i with
      | none => true
      | some (l, g) => decide (rung ∈ l) && (!g || graphics))

/-- An f-register destination is declared at the train's rung (R22, R76). -/
def fixDestOk (l : Launch) (rung : Nat) (i : Instr) : Bool :=
  (writesOf i).all fun r =>
    match r with
    | .f n => ((Tab.find l.fix n).map (·.1)) == some rung
    | _ => true

/-- The targets of a control word at `pc` are run starts (R147). -/
def targetsOk (s : State) (t : Train) (pc : Nat) (i : Instr) : Bool :=
  (match branchOffset i with
    | some o => decide (0 ≤ (pc : Int) + o.toInt) && isTarget s t (branchTarget pc o)
    | none => true) && (!fallsThrough i || isTarget s t (pc + 1))

/-- Check 4 of R85 for a word at `pc`, `last` saying whether it is the last of its run. -/
def fieldOk (s : State) (t : Train) (pc : Nat) (last : Bool) (h : Head) (i : Instr) : Bool :=
  h.last == last && (!mustEndRun i || last) && fieldsOk i && inAllotment t.granules i
    && fixDestOk (s.launch t.launch) t.rung i && targetsOk s t pc i
    && (tilesOf i).all fun k => decide (k < (s.wg t.wg).tileCount)

/-- The fault of one word, if it has one (R85, in the order of its checks). -/
def wordFault (s : State) (t : Train) (pc : Nat) (last : Bool) (w : DWord) : Option Kind :=
  match decodeWord w with
  | .error _ => some .illegalOpcode
  | .ok (h, i) =>
    let l := s.launch t.launch
    if !rateOk l.graphics t.rung h.rate.toNat i then some .illegalRate
    else if classOf i == .P && !l.priv then some .privilege
    else if !fieldOk s t pc last h i then some .illegalField
    else none

/-- The fault of the lowest offending word of a run from `pc`: its offset and kind. -/
def runFault (s : State) (t : Train) (pc : Nat) : List DWord → Option (Nat × Kind)
  | [] => none
  | w :: ws =>
    match wordFault s t pc ws.isEmpty w with
    | some k => some (pc, k)
    | none => runFault s t (pc + 1) ws

/-- The fault of a word that is issued again by itself (R315), which is fetched and checked as a run is (R62, R88). It is the last word of its
run or not, as when it stood in it; where listed runs overlap, so that one ends there and another goes on, its B bit says in which of them
it stands (R72). -/
def aloneFault (s : State) (t : Train) (pc : Nat) (ws : List DWord) : Option (Nat × Kind) :=
  let ends := (runMap s t).any fun e => e.start + e.len == pc + 1
  let inside := (runMap s t).any fun e => decide (e.start ≤ pc) && decide (pc + 1 < e.start + e.len)
  let last := ends && (!inside || (ws.headD 0).getLsbD 63)
  (wordFault s t pc last (ws.headD 0)).map fun k => (pc, k)

/-- Registers that a run reads and that no earlier word of it writes, in order (R187, R194). -/
def runReads : List Instr → List Reg → List Reg
  | [], _ => []
  | i :: is, written =>
    (readsOf i).filter (fun r => !written.contains r) ++ runReads is (written ++ writesOf i)

/-- Registers that a run waits for before it is picked, in the order in which it reads them (Table 8.2, Registers): every
register that it reads whose pending bit is set, and those that no earlier word of it writes and that await a long-latency
result. -/
def Train.runWaits (t : Train) : List Instr → List Reg → List Reg
  | [], _ => []
  | i :: is, written =>
    ((readsOf i).filter fun r =>
        (match r with
          | .s n => t.pending n
          | _ => false) || (!written.contains r && (t.busyReason r).isSome))
      ++ t.runWaits is (written ++ writesOf i)

/-- The instructions of a run's words. -/
def decodeRun (ws : List DWord) : List Instr :=
  ws.filterMap fun w => match decodeWord w with
    | .ok (_, i) => some i
    | .error _ => none

/-- The train issues runs during a debug halt: the issuer of the HALTALL and the handler trains (R420). -/
def haltExempt (s : State) (tid : Nat) : Bool :=
  let is (w : Who) : Bool := w.tid == tid && w.gen == (s.train tid).inc
  ((s.halt.who.map is).getD false) || s.handlers.any fun (_, h) => is h.who

/-- The workgroup's trains issue no new run: it is held at the end of its drain, or discarded (Table 21.10). -/
def WgState.held : WgState → Bool
  | .placed | .draining => false
  | _ => true

/-- The train issues no new run (the Pre-emption row of Table 8.2): it is being saved, killed, drained, discarded or halted, its pass has
not started (R53), or the compute dies are off (R452). -/
def trainStopped (s : State) (tid : Nat) : Bool :=
  let t := s.train tid
  t.saveOp.isSome || t.killAtEnd || t.waitsPass || (s.wg t.wg).state.held || (decide (2 ≤ s.halt.phase) && !haltExempt s tid) || s.boot.off

/-- Vector registers at or above `n` that an outstanding TRACE of the train will write (R163, R268). -/
def laterWritesAbove (s : State) (tid n : Nat) : Bool :=
  s.traces.any fun (_, o) => o.who.tid == tid && o.who.gen == (s.train tid).inc && decide (n < o.hitReg + 6)

end Sys2Proof.Machine
end

