-- ==== Sys2Proof/Machine/Sched.lean ====
section
/-! DEFINITION. Eligibility, the choice of a run, merges, joins and register requests (spec/08_core_scheduling.md R185 to
R192; spec/07 R155, R160 to R163; spec/03 R61). -/

namespace Sys2Proof.Machine

/-- The entry with the least key, the first of equals. -/
def leastBy {α : Type} (key : α → Nat) : List α → Option α
  | [] => none
  | x :: xs =>
    match leastBy key xs with
    | none => some x
    | some y => if key x ≤ key y then some x else some y

/-- The run of a split as it stands in the instruction cache of its core (R88). -/
def cachedRun (s : State) (tid : Nat) (ext : Nat × Nat) : Option (List DWord) :=
  let t := s.train tid
  ((s.core (tid / 32)).icache.find? fun c => c.launch == t.launch && c.start == ext.1 && c.words.length == ext.2).map
    (·.words)

/-- The hold of a split has ended (the Wait, Register grow, Barriers rows of Table 8.2). -/
def holdOver (t : Train) (sp : Split) : Bool :=
  match sp.hold with
  | .free => true
  | .wait g sc c ti => decide (t.gather ≤ g) && decide (t.scatter ≤ sc) && decide (t.copies ≤ c) && decide (t.tile ≤ ti)
  | .yield issued idle => issued || decide (64 ≤ idle)
  | _ => false

/-- The system instruction that the split's next run waits for has ended (R416, R419, R420). -/
def sysOver (s : State) (sp : Split) : Bool :=
  sp.sysOps.all fun id => (Tab.find s.sysOps id).isNone

/-- The fixative records that a run reads stand in the store that serves the train's core (Table 8.2, Fixative; R170, R171). -/
def fixReady (s : State) (core : Nat) (t : Train) (regs : List Reg) : Bool :=
  let la := s.launch t.launch
  let here (k : Nat) : Bool := let r := Tab.get {} la.recs k; (r.out (la.recHome k core r)).isNone
  regs.all fun r =>
    match r with
    | .f n => t.elems.all fun (_, e) => (la.recReads t e n).all here
    | _ => true

/-- A split is not in the middle of a run on its scheduler. -/
def betweenRuns (s : State) (tid n : Nat) : Bool :=
  match ((s.core (tid / 32)).sched ((tid % 32 + n) % 4)).run with
  | some r => !(r.slot == tid % 32 && r.sid == n)
  | none => true

/-- The next run of a READY split is eligible (Table 8.2). A run that cannot be fetched by R72 is offered, and faults
when it is picked. -/
def eligible (s : State) (tid sid : Nat) : Bool :=
  let t := s.train tid
  let sp := t.split sid
  (t.state == .resident || t.state == .parked) && sp.valid && sp.state == .ready && !trainStopped s tid
    && betweenRuns s tid sid
    && (!sp.deferred.isEmpty ||
      (holdOver t sp && sysOver s sp &&
        (match runExtent s t sp with
          | none => true
          | some ext =>
            match cachedRun s tid ext with
            | none => false
            | some ws =>
              let is := decodeRun ws
              (t.runWaits is []).isEmpty && fixReady s (tid / 32) t (runReads is []))))

/-- Some split of the train has an eligible run on scheduler `k` (R185). -/
def offers (s : State) (tid k : Nat) : Option Nat :=
  (List.range 4).find? fun n => (tid % 32 + n) % 4 == k && eligible s tid n

/-- The trains of a core that offer an eligible run to scheduler `k`, with the split. -/
def offering (s : State) (core k : Nat) : List (Nat × Nat) :=
  (s.trains.filter fun x => x.1 / 32 == core).filterMap fun x => (offers s x.1 k).map fun n => (x.1, n)

/-- The order of R188: a combiner train, then the higher class, then the older train, then the lower slot. -/
def pickBefore (s : State) (a b : Nat) : Bool :=
  let x := s.train a
  let y := s.train b
  let kx := (s.launch x.launch).klass
  let ky := (s.launch y.launch).klass
  if x.combiner != y.combiner then x.combiner
  else if kx != ky then decide (ky < kx)
  else if x.age != y.age then decide (x.age < y.age)
  else decide (a < b)

/-- The first train by R188. -/
def pickFirst (s : State) : List (Nat × Nat) → Option (Nat × Nat)
  | [] => none
  | x :: xs =>
    match pickFirst s xs with
    | none => some x
    | some y => if pickBefore s x.1 y.1 then some x else some y

/-- Two trains compete in one class (R189); combiner trains are a class of their own. -/
def sameClass (s : State) (a b : Nat) : Bool :=
  (s.train a).combiner == (s.train b).combiner
    && ((s.train a).combiner || (s.launch (s.train a).launch).klass == (s.launch (s.train b).launch).klass)

/-- A scheduler's last run was one of the train that stands in a slot (R189). -/
def Sched.lastRan (k : Sched) (s : State) (tid : Nat) : Bool := k.last == some tid && k.lastInc == (s.train tid).inc

/-- The pick of a scheduler (R188, R189): the train and the split. -/
def pick (s : State) (core k : Nat) : Option (Nat × Nat) :=
  let l := offering s core k
  let sc := (s.core core).sched k
  match pickFirst s l with
  | none => none
  | some x =>
    if sc.lastRan s x.1 && decide (4 ≤ sc.streak) then
      let others := l.filter fun y => y.1 != x.1 && sameClass s x.1 y.1
      (pickFirst s others).orElse fun _ => some x
    else some x

/-- The streak count after a pick (R189). -/
def streakAfter (s : State) (core k tid : Nat) : Nat :=
  let sc := (s.core core).sched k
  let others := (offering s core k).any fun y => y.1 != tid && sameClass s tid y.1
  if sc.lastRan s tid then (if others then sc.streak + 1 else sc.streak) else (if others then 1 else 0)

/-- A run of a train is issued on a scheduler: the YIELDs of other trains on it are over (R160). -/
def yieldsOver (core k tid : Nat) (s : State) : State :=
  { s with trains := s.trains.map fun x =>
      if x.1 / 32 == core && x.1 != tid then
        (x.1, { x.2 with splits := x.2.splits.zipIdx.map fun (sp, n) =>
          match sp.hold with
          | .yield _ idle => if (x.1 % 32 + n) % 4 == k then { sp with hold := .yield true idle } else sp
          | _ => sp })
      else x }

/-- Parks the split of a picked run that may not issue: the record's OFFSET is the word (R72, R85). -/
def parkAt (k : Kind) (off : Nat) (me : Me) (s : State) : State :=
  takeFault s me [{ kind := k.code, trainLevel := true, lane := 0, sid := me.sid, offset := off, pending := 0,
                    addr := 0, size := 0, info := 0 }]

/-- Parks a split by the records that wait for it, instead of its next run (R298, R301). An access that was not performed
is issued again by itself, and the split then goes on (R315, R404). -/
def parkDeferred (me : Me) (s : State) : State :=
  let sp := me.split s
  let redo (r : FaultRec) : Bool := resumeOf r.kind r.trainLevel == .replay
  let again := sp.deferred.filter redo
  match again with
  | r :: _ =>
    parkSplit me again (s.updSplit me fun sp =>
      { sp with deferred := sp.deferred.filter fun r => !redo r, pc := r.offset,
                replay := if r.trainLevel then none else some r.pending,
                partialEnd := some r.offset, back := some (sp.back.getD sp.pc) })
  | [] =>
    parkSplit me (sp.deferred.map fun r => if r.kind == Kind.shuffleTimeout.code then { r with offset := sp.pc } else r)
      (s.updSplit me fun sp => { sp with deferred := [] })

/-- A split with records that wait for it parks as soon as it is READY and no run of it is in issue (R298, R301). -/
def parkDue (tid sid : Nat) (s : State) : State :=
  let t := s.train tid
  let sp := t.split sid
  if !sp.deferred.isEmpty && sp.valid && sp.state == .ready && (t.state == .resident || t.state == .parked) && betweenRuns s tid sid then
    parkDeferred { core := tid / 32, sched := (tid % 32 + sid) % 4, slot := tid % 32, sid := sid } s
  else s

/-- The splits of the module that have come to the end of a run or to their release park by the records that wait for them. -/
def parkAllDue (s : State) : State :=
  ((s.trains.filter fun x => x.2.splits.any fun sp => !sp.deferred.isEmpty).map (·.1)).foldl (fun s tid =>
    (List.range 4).foldl (fun s n => parkDue tid n s) s) s

/-- Records park a split: at once where it is READY and no run of it is in issue, else at the end of that run or at its release
(R298, R301, R315). -/
def deferFault (tid sid : Nat) (recs : List FaultRec) (s : State) : State :=
  if !((s.train tid).split sid).valid then s
  else parkDue tid sid (s.updTrain tid fun t => t.updSplit sid fun sp => { sp with deferred := sp.deferred ++ recs })

/-- The scheduler whose run issues next where `k` is to go on: an earlier-picked run of the same train comes first, since the runs
of a train's splits act in the order of their issue, also where the earlier one is stalled: for accesses and scalar effects by R92, R139, R191
and R336, and for every other word too (DESIGN CHOICE, log 10). -/
def turn (core k : Nat) (s : State) : Nat :=
  let runOf (j : Nat) : Option RunInIssue := ((s.core core).sched j).run
  match runOf k with
  | none => k
  | some r =>
    let first (j : Nat) : Bool := match runOf j with
      | some x => x.slot == r.slot && decide (x.picked < r.picked)
      | none => false
    (leastBy (fun j => ((runOf j).map (·.picked)).getD 0) ((List.range 4).filter first)).getD k

/-- Starts a picked run on its scheduler, or parks the split (R72, R85, R190, R298). -/
def startRun (core k tid sid : Nat) (s : State) : State :=
  let me : Me := { core := core, sched := k, slot := tid % 32, sid := sid }
  let t := s.train tid
  let sp := t.split sid
  if !sp.deferred.isEmpty then parkDeferred me s
  else
    match runExtent s t sp with
    | none => parkAt .illegalField sp.pc me s
    | some ext =>
      match cachedRun s tid ext with
      | none => s
      | some ws =>
        match (if sp.back.isSome then aloneFault s t sp.pc ws else runFault s t sp.pc ws) with
        | some (off, kind) => parkAt kind off me s
        | none =>
          let streak := streakAfter s core k tid
          let s := yieldsOver core k tid s
          let s := s.updTrain tid fun t => t.waitOver sp.hold
          let s := s.updSplit me fun sp => { sp with hold := .free, watch := 0, sysOps := [] }
          let s := s.updSched core k fun sc =>
            { sc with run := some { slot := tid % 32, sid := sid, words := ws, picked := s.cycle }, last := some tid,
                      lastInc := (s.train tid).inc, streak := streak }
          { s with cur := some (core * 4 + turn core k s) }

/-- The scheduler waits for the idle cycle of R452. -/
def mustRest (s : State) (core k : Nat) : Bool := s.boot.throttled && !((s.core core).sched k).rested

/-- The run that starts where scheduler `k` picks a split: that of a lower SID of the train first, whose scheduler would pick it in
the same cycle (R191). -/
def startsFirst (s : State) (core k tid sid : Nat) : Nat × Nat :=
  let sch (n : Nat) : Nat := (tid % 32 + n) % 4
  match (List.range sid).find? fun n =>
    ((s.core core).sched (sch n)).run.isNone && !mustRest s core (sch n) && pick s core (sch n) == some (tid, n) with
  | some n => (sch n, n)
  | none => (k, sid)

/-- SCHEDULER_PICK: a free scheduler picks one run; a scheduler with a run in issue goes on with it (R188, R190). Above 95 °C
an idle cycle stands between two picks (R452, DESIGN CHOICE, log 21). -/
def execSchedulerPick (core sched : Nat) (s : State) : Result :=
  let k := sched % 4
  if ((s.core core).sched k).run.isSome then .next { s with cur := some (core * 4 + turn core k s) }
  else if mustRest s core k then
    .next (s.updSched core k fun sc => { sc with rested := true })
  else
    let s := s.updSched core k fun sc => { sc with rested := false }
    match pick s core k with
    | some (tid, sid) =>
      let (j, n) := startsFirst s core k tid sid
      .next (startRun core j tid n s)
    | none => .next s

/-- The split's next run starts at a run start and is no partial run (R61, R62): a train-level fault at the first word of a run has
it issued whole again. -/
def wholeRun (s : State) (t : Train) (sp : Split) : Bool :=
  match sp.partialEnd with
  | none => true
  | some e => sp.back.isNone && (runMap s t).any fun x => x.start == sp.pc && x.start + x.len == e + 1

/-- A split is free to issue for a merge (R61): no unmet hold, no replay restriction, no partial run, no record (R156). R61
names WAIT, YIELD and REGGROW; a split whose next run waits for a system operation, in a regrouping queue, for the Escapement
network or with a deferred fault does not merge either (DESIGN CHOICE, log 96). -/
def mergeable (s : State) (t : Train) (n : Nat) : Bool :=
  let sp := t.split n
  sysOver s sp && sp.valid && sp.state == .ready && holdOver t sp && sp.replay == none && wholeRun s t sp && sp.deferred.isEmpty
    && !(t.stack.any fun r => r.sid == n)

/-- Merges split `b` into the lower split `a` (R61). -/
def mergePair (a b : Nat) (t : Train) : Train :=
  let x := t.split a
  let y := t.split b
  (((t.waitOver x.hold).waitOver y.hold).setSplit a { x with member := x.member ||| y.member, active := x.active ||| y.active, hold := .free, sysOps := [], partialEnd := none }).setSplit b {}

/-- Two splits of the train stand at one run start and may merge. -/
def mergeNow (s : State) (tid a b : Nat) : Bool :=
  let t := s.train tid
  decide (a < b) && mergeable s t a && mergeable s t b && (t.split a).pc == (t.split b).pc
    && betweenRuns s tid a && betweenRuns s tid b && (runMap s t).any fun e => e.start == (t.split a).pc

/-- The pairs of splits in ascending order. -/
def splitPairs : List (Nat × Nat) := [(0, 1), (0, 2), (0, 3), (1, 2), (1, 3), (2, 3)]

/-- SPLIT_MERGE: the splits that stand READY and free to issue at one PC become the lowest of them (R61). -/
def execSplitMerge (core slot : Nat) (s : State) : Result :=
  let tid := core * 32 + slot % 32
  .next (splitPairs.foldl (fun s (a, b) =>
    if mergeNow s tid a b then s.updTrain tid (mergePair a b) else s) s)

/-- The join release of R155 is due: some split waits and none is READY or PARKED. -/
def joinDue (t : Train) : Bool :=
  t.splits.any (fun sp => sp.valid && sp.state == .joinwait) && t.splits.all fun sp => !sp.valid || sp.state == .joinwait

/-- JOIN_RELEASE: every JOINWAIT split becomes READY at its PC (R155). -/
def execJoinRelease (core slot : Nat) (s : State) : Result :=
  let tid := core * 32 + slot % 32
  if joinDue (s.train tid) then
    .next (s.updTrain tid fun t =>
      { t with splits := t.splits.map fun sp =>
          if sp.valid && sp.state == .joinwait then { sp with state := .ready } else sp })
  else .next s

/-- YIELD_LIMIT: a YIELD ends after 64 cycles in which no other train had an eligible run (R160). -/
def execYieldLimit (core slot sid : Nat) (s : State) : Result :=
  let tid := core * 32 + slot % 32
  match ((s.train tid).split sid).hold with
  | .yield _ idle =>
    if 64 ≤ idle then .next (s.updTrain tid fun t => t.updSplit sid fun sp => { sp with hold := .free }) else .next s
  | _ => .next s

/-- The register granules that a train holds beyond its launch's ray reserve (R181, R265). -/
def poolGranules (s : State) (t : Train) : Nat :=
  if t.reserveSlot then t.granules - (s.launch t.launch).rayGranules else t.granules

/-- Granules that the ray reserves of a core hold (R265). -/
def reserveGranules (s : State) (core : Nat) : Nat :=
  s.launches.foldl (fun n (_, l) => if (Tab.find l.rayReserve core).isSome then n + l.nres * l.rayGranules else n) 0

/-- Granules of a core that are not free (R181, R265). -/
def granulesHeld (s : State) (core : Nat) : Nat :=
  (s.trains.filter fun x => x.1 / 32 == core && x.2.state != .free).foldl (fun n x => n + poolGranules s x.2) 0
    + reserveGranules s core

/-- Free granules of a core (Table 8.1). -/
def granulesFree (s : State) (core : Nat) : Nat := 128 - granulesHeld s core

/-- The REGGROW request of a split: issue cycle, granules and status register. -/
def growOf (sp : Split) : Option (Nat × Nat × Nat) :=
  match sp.hold with
  | .grow n r c => if sp.valid then some (c, n, r) else none
  | _ => none

/-- The waiting REGGROW requests of a core: train, split, issue cycle, granules, status register. -/
def growRequests (s : State) (core : Nat) : List (Nat × Nat × Nat × Nat × Nat) :=
  ((s.trains.filter fun x => x.1 / 32 == core).map fun x =>
    (x.2.splits.zipIdx.filterMap fun (sp, n) => (growOf sp).map fun (c, k, r) => (x.1, n, c, k, r))).flatten

/-- Outstanding writes into vector registers at or above `n` (R163). -/
def writesAbove (s : State) (tid n : Nat) : Bool :=
  (s.train tid).busy.any (fun b => b.isV && decide (n ≤ b.reg)) || laterWritesAbove s tid n

/-- The registers v`n` and above lose their values, with what they carry and the errors that they hold (R54, R163). -/
def Train.dropRegs (t : Train) (n : Nat) : Train :=
  { t with vregs := t.vregs.filter fun x => decide (x.1 < n), carried := t.carried.filter fun x => decide (x.1 < 128 + n),
           broken := t.broken.filter fun k => decide (k < 128 + n) }

/-- REGTRIM_COMPLETE: the highest granules leave once their outstanding writes have landed (R163). Where the REGTRIMs of two
splits would together take every granule, the later one leaves one (DESIGN CHOICE, log 97). -/
def execRegtrimComplete (core slot sid : Nat) (s : State) : Result :=
  let tid := core * 32 + slot % 32
  let t := s.train tid
  match (t.split sid).hold with
  | .trim n =>
    if writesAbove s tid (16 * (t.granules - n)) then .next s
    else
      .next (s.updTrain tid fun t =>
        let g := max 1 (t.granules - n)
        { t.dropRegs (16 * g) with granules := g }.updSplit sid fun sp => { sp with hold := .free })
  | _ => .next s

end Sys2Proof.Machine
end

