-- ==== Sys2Proof/Machine/Memory.lean ====
section
/-! DEFINITION. Addresses, translation and single accesses: the physical map and the page tables (spec/20), the spaces and
checks of an access (spec/09 R196, R197, R200), slices and their ways (spec/15 R310 to R313), and the timestamps of the
global order (spec/17 R340). -/

namespace Sys2Proof.Machine

/-- The populated ranges of Table 20.1. -/
def populated (s : State) (a : Nat) : Bool :=
  if a < 0x8000000000 then s.hbmReady && decide (a % 0x1000000000 ≤ 0xB2D04FFFF)
  else if 0x40000000000 ≤ a && a < 0x80000000000 then decide (a ≤ 0x7B9AC9FFFFF)
  else if 0x100000000000 ≤ a && a < 0x200000000000 then
    decide ((a - 0x100000000000) % 0x40000000000 <
      min (Tab.get 0 s.cxlpop ((a - 0x100000000000) / 0x40000000000)) 3072000000000)
  else false

/-- The HBM4 ranges of Table 20.1, which early service makes unpopulated (R365). -/
def inHbm (a : Nat) : Bool := decide (a < 0x8000000000) && decide (a % 0x1000000000 ≤ 0xB2D04FFFF)

/-- The index of a virtual address at a level (Table 20.2). -/
def walkIndex (va lv : Nat) : Nat :=
  match lv with
  | 0 => bits va 48 9
  | 1 => bits va 39 9
  | 2 => bits va 30 9
  | 3 => bits va 21 9
  | _ => bits va 16 5

/-- The size of a leaf's page at a level (Table 20.2). -/
def pageSize (lv : Nat) : Nat := if lv == 2 then 2 ^ 30 else if lv == 3 then 2 ^ 21 else 2 ^ 16

/-- The alignment of the table that a level's entry names (R366). -/
def tableAlign (lv : Nat) : Nat := if lv == 3 then 256 else 4096

/-- A live core (R422). -/
def coreLive (s : State) (c : Nat) : Bool := decide (c < 224) && !s.retiredCores.contains c

/-- A live core that takes further placements: none is to be retired (R422). -/
def corePlaceable (s : State) (c : Nat) : Bool := coreLive s c && !s.leavingCores.contains c

/-- The machine-check source of a frame that no access reaches any more: one of a retired HBM4 channel (R365), or one behind a
CXL port without a link (R446). -/
def deadFrame (s : State) (a : Nat) : Option Nat :=
  if inHbm a && s.retiredHbm.contains (Config.hbmChannel a) then some 5
  else if 0x100000000000 ≤ a && a < 0x200000000000 && s.lostPorts.contains ((a - 0x100000000000) / 0x40000000000) then some 6
  else none

/-- A line stands in its slice (R313). -/
def isResident (s : State) (line : Nat) : Bool :=
  match Tab.find s.l2 line with
  | some l => !l.dropped
  | none => false

/-- The source of an error found while a line is read from its memory (Table 22.2). -/
def memSource (a : Nat) : Nat := if inHbm a then 5 else 6

/-- The source of an uncorrectable error at a physical address (R404, Table 22.2): a frame that is gone; an error in the copy of a
resident line; or an error of the memory, which a good copy in the slice hides. -/
def badAt (s : State) (a : Nat) : Option Nat :=
  (deadFrame s a).orElse fun _ =>
    match Tab.find s.bad (a / 128) with
    | none => none
    | some x =>
      if isResident s (a / 128) then (if x == 4 then some 4 else none) else some (memSource a)

/-- CheckAttributes of R369 (Table 20.5). -/
def attributesOk (s : State) (lv : Nat) (p : Page) : Bool :=
  if p.spread == 3 && lv == 4 then true
  else
    (p.spread != 2 || decide (p.slice < 224)) &&
      (p.home != 2 ||
        (lv == 4 && coreLive s p.slice && p.base / 2 ^ 19 == 0 && decide (p.base / 2 ^ 16 < Tab.get 0 s.homewin p.slice)))

/-- The fields of a leaf entry (Table 20.3). -/
def leafPage (e lv : Nat) : Page :=
  { home := bits e 62 2, spread := bits e 60 2, slice := bits e 52 8, cls := bits e 6 2, priv := e.testBit 5,
    x := e.testBit 4, w := e.testBit 3, r := e.testBit 2, base := bits e 8 44 * 256, size := pageSize lv }

/-- The walk of R368 from level `lv` at table `t`, with `n` levels left: the page, or the fault. A table in HBM4 during
early service faults with OUT-OF-APERTURE, one outside populated memory with ADDRESS-UNMAPPED, one whose line holds an
uncorrectable error with MACHINE-CHECK. -/
def walkFrom (s : State) (va : Nat) : Nat → Nat → Nat → Except Kind Page
  | 0, _, _ => .error .unmapped
  | n + 1, lv, t =>
    let a := t + 8 * walkIndex va lv
    if inHbm a && !s.hbmReady then .error .aperture
    else if !populated s a then .error .unmapped
    else if (badAt s a).isSome then .error .machineCheck
    else
      let e := s.mem.readLE a 8
      if !e.testBit 0 then .error .unmapped
      else if !e.testBit 1 then
        let next := bits e 8 44 * 256
        if lv == 4 || next % tableAlign lv != 0 then .error .unmapped else walkFrom s va n (lv + 1) next
      else if lv < 2 then .error .unmapped
      else
        let p := leafPage e lv
        if p.base % p.size != 0 then .error .unmapped
        else if p.home == 2 && !(p.spread == 3 && lv == 4) then
          (if attributesOk s lv p then .ok p else .error .unmapped)
        else if inHbm p.base && !s.hbmReady then .error .aperture
        else if !(populated s p.base && populated s (p.base + p.size - 1)) then .error .unmapped
        else if attributesOk s lv p then .ok p else .error .unmapped

/-- The walk of a context (R366, R368). -/
def walk (s : State) (ctx va : Nat) : Except Kind Page := walkFrom s va 5 0 (s.ctx ctx).ptbase

/-- An accord page: SPREAD 3 of 64 KiB (Table 20.5). -/
def isAccord (p : Page) : Bool := p.spread == 3 && p.size == 2 ^ 16

/-- A cached translation of an address (R371). -/
def tlbFind (l : List TlbEntry) (ctx va : Nat) : Option Page :=
  (l.find? fun e => e.ctx == ctx && decide (e.va ≤ va) && decide (va < e.va + e.page.size)).map (·.page)

/-- Translates for a core: its own cache, its cluster's, then a walk (R371, R372). -/
def translateVa (s : State) (core ctx va : Nat) : Except Kind Page :=
  match tlbFind (s.core core).tlb ctx va with
  | some p => .ok p
  | none =>
    match tlbFind (Tab.get [] s.clusterTlb (core / 4)) ctx va with
    | some p => .ok p
    | none => walk s ctx va

/-- A translation comes into the cache of a core, of 256 entries (R371). -/
def cacheCore (core : Nat) (e : TlbEntry) (s : State) : State :=
  let x := s.crowd 256 (e :: (s.core core).tlb)
  x.2.updCore core fun c => { c with tlb := x.1 }

/-- A translation comes into the cache of a cluster, of 4,096 entries (R371). -/
def cacheCluster (k : Nat) (e : TlbEntry) (s : State) : State :=
  let x := s.crowd 4096 (e :: Tab.get [] s.clusterTlb k)
  { x.2 with clusterTlb := Tab.put x.2.clusterTlb k x.1 }

/-- A translation that was used stays cached in the core and its cluster (R371). -/
def cacheTranslation (core ctx va : Nat) (p : Page) (s : State) : State :=
  let e : TlbEntry := { ctx := ctx, va := va / p.size * p.size, page := p }
  let s := if (tlbFind (s.core core).tlb ctx va).isSome then s else cacheCore core e s
  if (tlbFind (Tab.get [] s.clusterTlb (core / 4)) ctx va).isSome then s else cacheCluster (core / 4) e s

/-- What an access needs of the page (R370). -/
inductive Need where
  | read | write | both | fetch
  deriving DecidableEq, Repr

/-- The rights of R370. -/
def rightsOk (need : Need) (priv : Bool) (p : Page) : Bool :=
  (!p.priv || priv) &&
    (match need with
      | .read => p.r
      | .write => p.w
      | .both => p.r && p.w
      | .fetch => p.x)

/-- The cluster that owns an accord page (R288), whose lines its own slices serve (Table 15.1). -/
def accordOwner (pa : Nat) : Nat := pa / 2 ^ 16 % 56

/-- Live cores of a cluster, ascending (R287). -/
def liveCores (s : State) (k : Nat) : List Nat := ((List.range 4).map (4 * k + ·)).filter (coreLive s)

/-- The cluster that serves the accord pages of cluster `k`: itself, or the next one with a live core (R287). -/
def accordServer (s : State) (k : Nat) : Nat :=
  (((List.range 56).map fun i => (k + i) % 56).find? fun c => !(liveCores s c).isEmpty).getD k

/-- An agent that accesses memory: its core (or `noCore`), context, rights
and workgroup, and whether it is the resident combiner train. -/
structure Agent where
  core : Nat
  ctx : Nat
  priv : Bool
  wg : Nat
  combiner : Bool
  deriving DecidableEq, Repr, Inhabited

/-- The number that stands for the core of an agent that is no core's: the queue processor, the host, the fabric unit. It is
a requester on die 0 without caches of its own (R351). -/
def noCore : Nat := 224

/-- The die of an agent (R351). -/
def Agent.die (g : Agent) : Nat := if g.core < 224 then g.core / 56 else 0

/-- The agent that a train is. -/
def trainAgent (s : State) (tid : Nat) : Agent :=
  let t := s.train tid
  { core := tid / 32, ctx := t.ctx, priv := (s.launch t.launch).priv, wg := ((s.wg t.wg).region).getD t.wg,
    combiner := t.combiner }

/-- The place that a leaf names for a virtual address (R200, R369): a larger page of SPREAD 3 is served as spread 0, so that
spread 3 in a place names an accord page. -/
def pageLoc (p : Page) (va : Nat) : Loc :=
  if p.home == 2 && !isAccord p then
    .window p.slice (512 * 1024 - 64 * 1024 * (bits p.base 16 3 + 1) + va % 2 ^ 16)
  else .phys (p.base + va % p.size) p.home (if p.spread == 3 && !isAccord p then 0 else p.spread) p.slice p.cls

/-- AccessCheck of a global address (R6, R196, R197, R200, R370). An ACALL passes `accord`, for which accord pages are
open and R291 has checks of its own. -/
def checkGlobal (s : State) (g : Agent) (need : Need) (accord : Bool) (a size : Nat) : Except Kind Loc :=
  if (s.ctx g.ctx).physical then
    if 2 ^ 52 ≤ a || !populated s a then .error .aperture
    else if a % size != 0 then .error .misaligned
    else .ok (.phys a 0 0 0 0)
  else if 2 ^ 57 ≤ a then .error .aperture
  else
    match translateVa s g.core g.ctx a with
    | .error .aperture => .error .aperture
    | r =>
      if a % size != 0 then .error .misaligned
      else
        match r with
        | .error k => .error k
        | .ok p =>
          if !rightsOk need g.priv p then .error .protection
          else if isAccord p && !accord && !(g.combiner && accordServer s (accordOwner p.base) == g.core / 4) then .error .protection
          else .ok (pageLoc p a)

/-- AccessCheck of R196 and R197 in the space that SPACE selects. -/
def accessCheck (s : State) (g : Agent) (need : Need) (space a size : Nat) : Except Kind Loc :=
  match space with
  | 0 => checkGlobal s g need false a size
  | 1 =>
    if (s.wg g.wg).localSize ≤ a then .error .aperture
    else if a % size != 0 then .error .misaligned else .ok (.loc g.wg a)
  | _ =>
    if 12288 * (s.wg g.wg).tileCount ≤ a then .error .aperture
    else if a % size != 0 then .error .misaligned else .ok (.acc g.wg a)

/-- Caches the translation of an address that an access used. -/
def useTranslation (g : Agent) (a : Nat) (s : State) : State :=
  if (s.ctx g.ctx).physical || 2 ^ 57 ≤ a || noCore ≤ g.core then s
  else
    match translateVa s g.core g.ctx a with
    | .ok p => cacheTranslation g.core g.ctx a p s
    | .error _ => s

/-- The key of a line in the table of timestamps: global lines by line number, the others above them (R340). -/
def lineKey : Loc → Nat
  | .phys pa _ _ _ _ => pa / 128
  | .loc w o => 2 ^ 60 + w * 2 ^ 20 + o / 128
  | .acc w o => 2 ^ 61 + w * 2 ^ 20 + o / 128
  | .window c o => 2 ^ 59 + c * 2 ^ 20 + o / 128

/-- Bytes at a place. -/
def readLoc (s : State) (l : Loc) (n : Nat) : Nat :=
  match l with
  | .phys pa _ _ _ _ => s.mem.readLE pa n
  | .loc w o => (s.wg w).mem.readLE o n
  | .acc w o => (s.wg w).acc.readLE o n
  | .window c o => (s.core c).windows.readLE o n

/-- Writes bytes at a place (R1). -/
def writeLoc (l : Loc) (n x : Nat) (s : State) : State :=
  match l with
  | .phys pa _ _ _ _ => { s with mem := s.mem.writeLE pa n x }
  | .loc w o => s.updWg w fun g => { g with mem := g.mem.writeLE o n x }
  | .acc w o => s.updWg w fun g => { g with acc := g.acc.writeLE o n x }
  | .window c o => s.updCore c fun k => { k with windows := k.windows.writeLE o n x }

/-- The line hash of R310. -/
def lineHash (line : Nat) : Nat := Nat.xor (Nat.xor (bits line 0 16) (bits line 16 16)) (bits line 32 13)

/-- Live slices among the numbers `lo` to `lo + n - 1`, ascending (R310). -/
def liveSlices (s : State) (lo n : Nat) : List Nat :=
  ((List.range n).map (· + lo)).filter fun x => !s.retiredSlices.contains x

/-- Entry (h × n) >> 16 of a live list (R310). Of an empty list it is slice 0, which no rule chooses (DESIGN CHOICE, log 146). -/
def hashPick (line : Nat) (l : List Nat) : Nat := l.getD (lineHash line * l.length / 2 ^ 16) 0

/-- The slices of a cluster: those under its four cores (R307). -/
def clusterSlices (s : State) (k : Nat) : List Nat := liveSlices s (4 * k) 4

/-- The slice that serves a page of spread 2: a retired one is replaced by the next live slice of its die, wrapping (Table
0.4); where the die has none, as spread 0 chooses (DEDUCED, log 13). -/
def namedSlice (s : State) (line slice : Nat) : Nat :=
  match ((List.range 56).map fun i => slice / 56 * 56 + (slice + i) % 56).find? fun x => !s.retiredSlices.contains x with
  | some x => x
  | none => hashPick line (liveSlices s 0 224)

/-- The slice that serves a line for a requester's die (Table 15.1). -/
def sliceOf (s : State) (pa spread slice die : Nat) : Nat :=
  let line := pa / 128
  match spread with
  | 0 => hashPick line (liveSlices s 0 224)
  | 1 => hashPick line (liveSlices s (56 * die) 56)
  | 2 => namedSlice s line slice
  | _ =>
    let k := accordOwner pa
    let own := clusterSlices s k
    if !own.isEmpty then own.getD (line % own.length) 0
    else
      let d := liveSlices s (56 * (k / 14)) 56
      if !d.isEmpty then hashPick line d else hashPick line (liveSlices s 0 224)

/-- The set of a line in its slice (DESIGN CHOICE, log 7). -/
def setOf (line : Nat) : Nat := Config.l2Set line

/-- A resident line is pinned by LPIN or as home 1: one of the 12 ways of a set that Table 15.2 gives these pins. -/
def L2Line.pinned (l : L2Line) : Bool := l.pins.any (fun p => p.2 != 0) || l.home1.isSome

/-- A resident line is never evicted: it holds a pin of any kind or a held blend lane (R248, R313). -/
def State.lineKept (s : State) (line : Nat) (l : L2Line) : Bool :=
  l.pinned || l.fetch != 0 || s.blends.any fun b => lineKey b.2.loc == line

/-- The resident lines of a slice's set. -/
def setLines (s : State) (slice set : Nat) : List (Nat × L2Line) :=
  s.l2.filter fun x => x.2.slice == slice && setOf x.1 == set && !x.2.dropped

/-- The victim of R376 for a line of a class in a full set; none where nothing may be evicted. -/
def victim (s : State) (cls : Nat) (ways : List (Nat × L2Line)) : Option Nat :=
  let heldC := (ways.filter fun x => x.2.cls == cls).length
  let cand := ways.filter fun x => !s.lineKept x.1 x.2 &&
    (if heldC < Tab.get 16 s.cquota cls then decide (x.2.cls ≤ cls) else x.2.cls == cls)
  (leastBy (fun x => x.2.used) cand).map (·.1)

/-- A line leaves its slice, written back: an error of the copy that nothing has consumed goes with the copy, raises no fault and stays in no
memory (R404: data is not marked as poisoned). A tile fetch unit that has pinned it keeps its bytes in its staging buffer (R248). -/
def State.evict (s : State) (line : Nat) : State :=
  { s with l2 := Tab.del s.l2 line,
           bad := if Tab.find s.bad line == some 4 then Tab.del s.bad line else s.bad,
           mats := s.mats.map fun (k, o) => (k, { o with pins := o.pins.filter (· != line) }) }

/-- A line leaves its slice though it may be pinned: its home 1 pin is released, and the pins of LPIN outlive it (DEDUCED, log 68). -/
def State.dropLine (s : State) (line : Nat) (l : L2Line) : State :=
  let s := s.evict line
  let s := match l.home1 with
    | some c => s.updCtx c fun x => { x with pinuse := x.pinuse - 1 }
    | none => s
  if l.pins.isEmpty then s else { s with l2 := Tab.put s.l2 line { l with home1 := none, fetch := 0, dropped := true } }

/-- A way of the set of a line in a slice is made free for a line of a class; none where nothing may be evicted (R313, R376). -/
def freeWay (slice cls line : Nat) (s : State) : Option State :=
  let ways := setLines s slice (setOf line)
  if ways.length < 16 then some s else (victim s cls ways).map s.evict

/-- Ways of the set of a line in a slice that LPIN and home 1 pin, the line's own apart (Table 15.2). -/
def pinnedWays (s : State) (slice line : Nat) : Nat :=
  ((setLines s slice (setOf line)).filter fun x => x.2.pinned && x.1 != line).length

/-- The pins of LPIN that stand at a line that is not resident. -/
def outlived (s : State) (line : Nat) : Tab Nat := ((Tab.find s.l2 line).map (·.pins)).getD []

/-- A line that is not resident may stand in a slice: where pins of LPIN come back with it, its set has a pinned way left (Table 15.2). -/
def mayStand (s : State) (slice line : Nat) : Bool := (outlived s line).isEmpty || decide (pinnedWays s slice line < 12)

/-- A line that is not resident takes a place that has been made free: a home 1 line is pinned if the quota and the set allow (R374), pins of
LPIN that outlived an invalidation come back with it (R213, R373), and an error of its memory comes with its bytes (R404). Where LPIN brings the
line in, its home 1 pin is counted as of any allocation, after the quota check of LPIN (DESIGN CHOICE, log 138). -/
def placeLine (g : Agent) (line home : Nat) (x : L2Line) (s : State) : State :=
  let c := s.ctx g.ctx
  let pin := home == 1 && decide (c.pinuse + 1 ≤ c.pinq) && decide (pinnedWays s x.slice line < 12)
  let s := { s with l2 := Tab.put s.l2 line { x with used := s.cycle, pins := outlived s line, home1 := if pin then some g.ctx else none },
                    bad := Tab.upd s.bad line fun _ => 4 }
  if home == 1 then
    s.updCtx g.ctx fun c =>
      if pin then { c with pinuse := c.pinuse + 1 } else { c with pinmiss := min (c.pinmiss + 1) (2 ^ 32 - 1) }
  else s

/-- A line that is not resident is allocated in its slice for an access, where a way is free or may be freed (R376). Else the access is
served without it; so is one to a line whose standing pins of LPIN the set has no way for (DEDUCED, log 68). -/
def allocLine (g : Agent) (line home : Nat) (x : L2Line) (s : State) : State :=
  if !mayStand s x.slice line then s
  else
    match freeWay x.slice x.cls line s with
    | none => s
    | some s => placeLine g line home x s

/-- A line of home 0, home 1 or an accord page is used at its slice: it is allocated if it is not resident, and an unpinned
line of spread 1 leaves a slice of another die for one of the requester's (R311). -/
def touchLine (g : Agent) (pa home spread slice cls : Nat) (s : State) : State :=
  let line := pa / 128
  let sl := sliceOf s pa spread slice g.die
  let home := if spread == 3 then 0 else home
  let x : L2Line := { slice := sl, cls := cls, spread := spread, named := slice }
  match (Tab.find s.l2 line).filter fun l => !l.dropped with
  | none => allocLine g line home x s
  | some l =>
    if spread == 1 && l.slice != sl && !s.lineKept line l then allocLine g line home x (s.evict line)
    else { s with l2 := Tab.put s.l2 line { l with used := s.cycle } }

/-- The access of a place at its home: lines of home 0, home 1 and accord pages pass through their slice. -/
def touch (g : Agent) (l : Loc) (s : State) : State :=
  match l with
  | .phys pa home spread slice cls => if home == 3 && spread != 3 then s else touchLine g pa home spread slice cls s
  | _ => s

/-- wts and rts of a line. -/
def State.stamps (s : State) (key : Nat) : Nat × Nat := Tab.get (0, 0) s.lines key

/-- The lines of a place that L1 may keep: home 0 and home 1 (R200), accord pages as home 0 (R369). -/
def l1able : Loc → Option Nat
  | .phys pa home spread _ _ => if spread == 3 || home < 2 then some (pa / 128) else none
  | _ => none

/-- A load's timestamp at the home: the new rts of the line and the load's ts (R340). -/
def stampLoad (lease pts key : Nat) (s : State) : Nat × State :=
  let (w, r) := s.stamps key
  let ts := max pts w
  (ts, { s with lines := Tab.put s.lines key (w, max r (ts + lease)) })

/-- A store's or read-modify-write's timestamp at the home (R340). -/
def stampStore (pts key : Nat) (s : State) : Nat × State :=
  let (_, r) := s.stamps key
  let ts := max pts (r + 1)
  (ts, { s with lines := Tab.put s.lines key (ts, ts) })

/-- The copies of lines in the L1 of a core, or the box nodes in its node cache, of one line each (R269, R270). -/
def Core.copies (c : Core) (node : Bool) : Tab L1Line := if node then c.nodes else c.l1

/-- A core keeps a copy of a line (R340): in its L1 of 2,048 lines or its node cache of 256 (Table 0.1, R270). -/
def keepCopy (node : Bool) (core line : Nat) (c : L1Line) (s : State) : State :=
  let x := s.crowd (if node then 256 else 2048) (Tab.put ((s.core core).copies node) line c)
  x.2.updCore core fun co => if node then { co with nodes := x.1 } else { co with l1 := x.1 }

/-- The copy in the core's L1 or node cache that serves a train's load: one whose lease its pts has not passed (R340). -/
def servedBy (node : Bool) (s : State) (tid : Nat) (l : Loc) : Option L1Line :=
  (l1able l).bind fun line =>
    (Tab.find ((s.core (trainAgent s tid).core).copies node) line).filter fun c => decide ((s.train tid).pts ≤ c.rts)

/-- One load by a train through the L1 or the node cache of its core (R270, R337, R340): the value and the state; a valid copy
serves it, else the home. -/
def cachedLoad (node : Bool) (tid : Nat) (l : Loc) (n : Nat) (s : State) : Nat × State :=
  let g := trainAgent s tid
  let pts := (s.train tid).pts
  let setPts (p : Nat) (s : State) : State := s.updTrain tid fun t => { t with pts := p }
  let home (s : State) : Nat × State :=
    let v := readLoc s l n
    let (ts, s) := stampLoad (s.ctx g.ctx).lease pts (lineKey l) s
    let s := setPts ts (touch g l s)
    match l1able l with
    | some line =>
      let (w, r) := s.stamps line
      (v, keepCopy node g.core line { data := s.mem.readList (line * 128) 128, wts := w, rts := r } s)
    | none => (v, s)
  match l, servedBy node s tid l with
  | .phys pa _ _ _ _, some c => (leNat ((c.data.drop (pa % 128)).take n), setPts (max pts c.wts + 1) s)
  | _, _ => home s

/-- One load by a train through the L1 of its core (R337, R340). -/
def trainLoad (tid : Nat) (l : Loc) (n : Nat) (s : State) : Nat × State := cachedLoad false tid l n s

/-- The storing core's L1 copy takes the store (R340). -/
def updateL1 (core : Nat) (l : Loc) (ts : Nat) (s : State) : State :=
  match (if core < noCore then l1able l else none) with
  | some line =>
    s.updCore core fun c =>
      { c with l1 := Tab.upd c.l1 line fun _ => { data := s.mem.readList (line * 128) 128, wts := ts, rts := ts } }
  | none => s

/-- One store by a train (R337, R340). -/
def trainStore (tid : Nat) (l : Loc) (n x : Nat) (s : State) : State :=
  let g := trainAgent s tid
  let (ts, s) := stampStore (s.train tid).pts (lineKey l) s
  let s := touch g l (writeLoc l n x s)
  updateL1 g.core l ts (s.updTrain tid fun t => { t with pts := ts })

/-- A load by another agent, at the home: the value, its timestamp and the state (R340, R345). -/
def agentLoad (g : Agent) (pts : Nat) (l : Loc) (n : Nat) (s : State) : Nat × Nat × State :=
  let v := readLoc s l n
  let (ts, s) := stampLoad (s.ctx g.ctx).lease pts (lineKey l) s
  (v, ts, touch g l s)

/-- A store by another agent, at the home: its timestamp and the state (R340, R345). -/
def agentStore (g : Agent) (pts : Nat) (l : Loc) (n x : Nat) (s : State) : Nat × State :=
  let (ts, s) := stampStore pts (lineKey l) s
  (ts, updateL1 g.core l ts (touch g l (writeLoc l n x s)))

/-- The source of an uncorrectable error that a place holds (R404, Table 22.2). -/
def badSource (s : State) (l : Loc) : Option Nat :=
  match l with
  | .phys pa _ _ _ _ => badAt s pa
  | _ => Tab.find s.bad (lineKey l)

/-- The fault that a checked access meets in the data: MACHINE-CHECK with its source (R404). -/
def checkData (s : State) : Except Kind Loc → Except (Kind × Word) Loc
  | .error k => .error (k, if k == .machineCheck then 7 else 0)
  | .ok l =>
    match badSource s l with
    | some x => .error (.machineCheck, BitVec.ofNat 32 x)
    | none => .ok l

/-- The fault that a checked store meets at its frame: MACHINE-CHECK where the frame is gone (R365, R378, R446). -/
def checkStore (s : State) : Except Kind Loc → Except (Kind × Word) Loc
  | .error k => .error (k, if k == .machineCheck then 7 else 0)
  | .ok l =>
    match (match l with
      | .phys pa _ _ _ _ => deadFrame s pa
      | _ => none) with
    | some x => .error (.machineCheck, BitVec.ofNat 32 x)
    | none => .ok l

/-- The fault that a checked load of a train meets in what it would read (R404): an error of the copy that serves it, source 3, else
one at its home. A frame that is gone serves no copy. -/
def checkLoad (node : Bool) (s : State) (tid : Nat) (c : Except Kind Loc) : Except (Kind × Word) Loc :=
  match c with
  | .error _ => checkData s c
  | .ok l =>
    match servedBy node s tid l, checkStore s c with
    | some x, .ok l => if x.bad then .error (.machineCheck, 3) else .ok l
    | _, _ => checkData s c

end Sys2Proof.Machine
end

