-- ==== Sys2Proof/Machine/LoadStore.lean ====
section
/-! DEFINITION. Loads and stores (spec/09_core_memory_async.md R196 to R205), with the watched ranges of a context
(spec/25_package_debug_trace.md R432, R433). -/

namespace Sys2Proof.Machine

/-- Bytes of an access by SIZE (Table 4.2 of the M format): `.b8` to `.b128`, `.s8`, `.s16`. -/
def accessBytes (size : Nat) : Nat :=
  match size with
  | 0 => 1
  | 1 => 2
  | 2 => 4
  | 3 => 8
  | 4 => 16
  | 5 => 1
  | _ => 2

/-- Registers that a loaded or stored value takes. -/
def accessRegs (size : Nat) : Nat := if size == 3 then 2 else if size == 4 then 4 else 1

/-- The register value of a loaded number (R202): `.s8` and `.s16` are sign-extended. -/
def loadExtend (size x : Nat) : Nat :=
  if size == 5 then wrapInt (signed x 8) 32 else if size == 6 then wrapInt (signed x 16) 32 else x

/-- The issuer as operations remember it. -/
def Me.who (me : Me) (s : State) : Who := { tid := me.tid, gen := (me.train s).inc, sid := me.sid, wg := (me.train s).wg }

/-- The train still stands in its slot. -/
def State.present (s : State) (w : Who) : Bool := (s.train w.tid).inc == w.gen && (s.train w.tid).state != .free

/-- A completion writes a token of a train that is still there; the token carries the completion's timestamp (R63, R65, R349). -/
def State.deliver (s : State) (w : Who) (n : Nat) (v : Word) (ts : Nat) : State :=
  if s.present w && n != 0 then s.updTrain w.tid fun t => (t.token n v).carry [.s n] ts else s

/-- The first byte of an access that lies in a range. -/
def overlap (base len a n : Nat) : Option Nat :=
  if max base a < min (base + len) (a + n) then some (max base a) else none

/-- The watched ranges that watch an access, each with its lowest watched byte (R432): of the context itself or of its handler context;
`eng` for engines. A range w of a context o is named 4 * o + w. -/
def watchHits (s : State) (ctx : Nat) (eng rd wr : Bool) (a n : Nat) : List (Nat × Nat) :=
  ((s.ctxs.filter fun (o, _) => o == ctx || (s.ctx ctx).handlerCtx == some o).map fun (o, c) =>
    (List.range 4).filterMap fun w =>
      let ctl := Tab.get 0 c.wctl w
      if bits ctl 16 16 == ctx && (!eng || ctl.testBit 2) && ((rd && ctl.testBit 0) || (wr && ctl.testBit 1)) then
        (overlap (Tab.get 0 c.wbase w) (Tab.get 0 c.wlen w) a n).map fun b => (4 * o + w, b)
      else none).flatten

/-- The lowest watched byte of an access, with its range; of two ranges that watch it, the lower (R433). -/
def watchHit (s : State) (ctx : Nat) (eng rd wr : Bool) (a n : Nat) : Option (Nat × Nat) :=
  (leastBy (fun (w, b) => 4 * b + w % 4) (watchHits s ctx eng rd wr a n)).map fun (w, b) => (w % 4, b)

/-- INFO of a watch hit (Table 25.3). -/
def watchInfo (retired : Bool) (agent : Nat) (rd wr : Bool) (w : Nat) : Word :=
  BitVec.ofNat 32 (2 ^ 31 + 2 ^ 30 * retired.toNat + 2 ^ 28 * agent
    + 2 ^ 26 * (if rd && wr then 3 else if wr then 2 else 1) + w)

/-- The progress of an access instruction through its lanes. -/
structure Acc where
  s : State
  vals : Tab Nat := []
  faults : List (Nat × Kind × DWord × Word) := []
  /-- The watched range and byte of the lowest watched lane. -/
  hit : Option (Nat × Nat) := none

/-- Ends an access instruction of the issuer: lane faults park it with their pending mask, and a watch hit parks it
after its accesses (R205, R433); else the next word follows. -/
def finishAccess (me : Me) (size : Nat) (rd wr : Bool) (pending : LaneMask) (x : Acc) : State :=
  let recs := laneRecs me x.s size pending x.faults
  let brk := match x.hit with
    | some (w, b) => [({ kind := Kind.breakpoint.code, trainLevel := true, lane := 0, sid := me.sid,
                         offset := (me.split x.s).pc, pending := 0, addr := BitVec.ofNat 64 b, size := size,
                         info := watchInfo false 0 rd wr w } : FaultRec)]
    | none => []
  if (recs ++ brk).isEmpty then retire me x.s else faultWith x.s me (recs ++ brk)

/-- A matrix operation of the train has not completed (R199). -/
def matsPending (s : State) (tid : Nat) : Bool := s.mats.any fun m => m.2.tid == tid && m.2.gen == (s.train tid).inc

/-- A matrix operation of the train that a local access must wait for (R237): a store waits for every MMA, and a store
or a load for the MLDA or MSTA that reads or writes local memory. -/
def localBusy (s : State) (tid : Nat) (store : Bool) : Bool :=
  s.mats.any fun (_, m) =>
    m.tid == tid && m.gen == (s.train tid).inc &&
      ((store && m.kind == 0) || (store && m.kind == 2 && m.minor == 1) || (m.kind == 3 && m.minor == 1))

/-- Issues an ordinary access: it waits behind unsettled accesses of its train, in accumulator space behind the train's
matrix operations, and in local memory by R237 (R199, R339, R340). -/
def issueAccess (i : Instr) (space : Nat) (store : Bool) (s : State) (effect : Me → State → State) : Result :=
  issue i s fun me s =>
    if unsettled s me.tid || (space == 2 && matsPending s me.tid) || (space == 1 && localBusy s me.tid store) then
      stall 9 me s
    else effect me s

/-- One lane of a vector load. -/
def loadLane (me : Me) (f : FmtM) (x : Acc) (l : Nat) : Acc :=
  let s := x.s
  let g := trainAgent s me.tid
  let n := accessBytes f.size.toNat
  let ea := effAddr s (me.train s) me.sid f.base.toNat f.ofs.toNat l 20 f.disp.toNat
  match checkLoad false s me.tid (accessCheck s g .read f.space.toNat ea.toNat n) with
  | .error (k, info) => { x with faults := x.faults ++ [(l, k, ea, info)] }
  | .ok loc =>
    let (v, s) := trainLoad me.tid loc n (if f.space == 0 then useTranslation g ea.toNat s else s)
    let hit := if f.space == 0 then watchHit s g.ctx false true false ea.toNat n else none
    { x with s := s, vals := Tab.put x.vals l (loadExtend f.size.toNat v), hit := x.hit.orElse fun _ => hit }

/-- The mask of lanes that a list names. -/
def maskOfList (l : List Nat) : LaneMask := maskOf fun k => l.contains k

/-- Starts the delivery of loaded values: a register that a later run may read is busy until LOAD_VALUE_ARRIVAL; an
f-register, the mode register and the activity mask take the value at once. -/
def startLoad (me : Me) (scalar : Bool) (d regs : Nat) (vals : Tab Nat) (s : State) : State :=
  if vals.isEmpty then s
  else if !scalar && !isV d then
    s.updTrain me.tid fun t => writeDst t (maskOfList (vals.map (·.1))) d false fun l => Tab.get 0 vals l
  else if scalar && d + regs > 120 && d < 127 then
    s.updTrain me.tid fun t =>
      (List.range regs).foldl (fun t k => t.writeS me.sid (d + k) (BitVec.ofNat 32 (Tab.get 0 vals 0 / 2 ^ (32 * k)))) t
  else
    let (id, s) := s.fresh
    let op : LoadOp := { tid := me.tid, gen := (me.train s).inc, sid := me.sid, scalar := scalar, dest := d, regs := regs,
                         lanes := maskOfList (vals.map (·.1)), vals := vals }
    let s := { s with loads := Tab.put s.loads id op }
    s.updTrain me.tid fun t =>
      t.addBusy id 9 ((List.range regs).map fun k => if scalar then .s (d + k) else .v (d + k))

/-- LD (R202, R205): every active lane, helpers included; faulting lanes are pending. -/
def execLd (f : FmtM) (s : State) : Result :=
  issueAccess (.ld f) f.space.toNat false s fun me s =>
    let x := (lanesOf (me.active s)).foldl (loadLane me f) { s := s }
    let x := { x with s := startLoad me false f.d.toNat (accessRegs f.size.toNat) x.vals x.s }
    finishAccess me (accessBytes f.size.toNat) true false (maskOfList (x.faults.map (·.1))) x

/-- LOAD_VALUE_ARRIVAL: the loaded value reaches its registers (R86, R198). -/
def execLoadValueArrival (id : Nat) (s : State) : Result :=
  match Tab.find s.loads id with
  | none => .next s
  | some o =>
    let s := { s with loads := Tab.del s.loads id }
    if s.present { tid := o.tid, gen := o.gen, sid := o.sid } then
      .next (s.updTrain o.tid fun t =>
        let t := if o.scalar then
            (List.range o.regs).foldl
              (fun t k => t.writeS o.sid (o.dest + k) (BitVec.ofNat 32 (Tab.get 0 o.vals 0 / 2 ^ (32 * k)))) t
          else t.writeVN o.lanes o.dest (fun l => Tab.get 0 o.vals l) o.regs
        t.doneBusy id)
    else .next s

/-- The value of a register operand of 1, 2 or 4 registers in a lane, word 0 lowest (R203). -/
def storeValue (s : State) (t : Train) (sid d l : Nat) : Nat → Nat
  | 0 => 0
  | k + 1 => storeValue s t sid d l k + 2 ^ (32 * k) * (readWord s t sid (d + k) l).toNat

/-- One lane of a vector store. -/
def storeLane (me : Me) (f : FmtM) (x : Acc) (l : Nat) : Acc :=
  let s := x.s
  let g := trainAgent s me.tid
  let n := accessBytes f.size.toNat
  let t := me.train s
  let ea := effAddr s t me.sid f.base.toNat f.ofs.toNat l 20 f.disp.toNat
  match checkStore s (accessCheck s g .write f.space.toNat ea.toNat n) with
  | .error (k, info) => { x with faults := x.faults ++ [(l, k, ea, info)] }
  | .ok loc =>
    let v := storeValue s t me.sid f.d.toNat l (accessRegs f.size.toNat)
    let s := trainStore me.tid loc n (v % 2 ^ (8 * n)) (if f.space == 0 then useTranslation g ea.toNat s else s)
    let hit := if f.space == 0 then watchHit s g.ctx false false true ea.toNat n else none
    { x with s := s, hit := x.hit.orElse fun _ => hit }

/-- ST (R203, R205): active lanes but helpers, in ascending order; faulting lanes are pending. -/
def execSt (f : FmtM) (s : State) : Result :=
  issueAccess (.st f) f.space.toNat true s fun me s =>
    let x := (lanesOf (me.active s &&& ~~~(me.train s).helpers)).foldl (storeLane me f) { s := s }
    finishAccess me (accessBytes f.size.toNat) false true (maskOfList (x.faults.map (·.1))) x

/-- The effective address of a scalar memory instruction (R78, R204). -/
def scalarAddr (s : State) (me : Me) (base ofs w disp : Nat) : DWord :=
  effAddr s (me.train s) me.sid base ofs 0 w disp

/-- SLD (R204): once for the train; an address fault is train-level. -/
def execSld (f : FmtM) (s : State) : Result :=
  issueAccess (.sld f) f.space.toNat false s fun me s =>
    let g := trainAgent s me.tid
    let n := accessBytes f.size.toNat
    let ea := scalarAddr s me f.base.toNat f.ofs.toNat 20 f.disp.toNat
    match checkLoad false s me.tid (accessCheck s g .read f.space.toNat ea.toNat n) with
    | .error (k, info) => faultAt k ea n info me s
    | .ok loc =>
      let (v, s) := trainLoad me.tid loc n (if f.space == 0 then useTranslation g ea.toNat s else s)
      let s := startLoad me true (f.d.toNat - 0x100) (accessRegs f.size.toNat) [(0, loadExtend f.size.toNat v)] s
      let hit := if f.space == 0 then watchHit s g.ctx false true false ea.toNat n else none
      finishAccess me n true false 0 { s := s, hit := hit }

/-- SST (R204). -/
def execSst (f : FmtM) (s : State) : Result :=
  issueAccess (.sst f) f.space.toNat true s fun me s =>
    let g := trainAgent s me.tid
    let n := accessBytes f.size.toNat
    let ea := scalarAddr s me f.base.toNat f.ofs.toNat 20 f.disp.toNat
    match checkStore s (accessCheck s g .write f.space.toNat ea.toNat n) with
    | .error (k, info) => faultAt k ea n info me s
    | .ok loc =>
      let v := storeValue s (me.train s) me.sid f.d.toNat 0 (accessRegs f.size.toNat)
      let s := trainStore me.tid loc n (v % 2 ^ (8 * n)) (if f.space == 0 then useTranslation g ea.toNat s else s)
      let hit := if f.space == 0 then watchHit s g.ctx false false true ea.toNat n else none
      finishAccess me n false true 0 { s := s, hit := hit }

end Sys2Proof.Machine
end

