-- ==== Sys2Proof/Machine/Tasks.lean ====
section
/-! DEFINITION. Queue descriptors, task records and their ready lists (spec/21_queues_launch_preemption.md R379, R393, R394;
spec/07 R178). -/

namespace Sys2Proof.Machine

/-- A place `k` bytes further. -/
def Loc.plus (l : Loc) (k : Nat) : Loc :=
  match l with
  | .phys pa h sp sl c => .phys (pa + k) h sp sl c
  | .loc w o => .loc w (o + k)
  | .acc w o => .acc w (o + k)
  | .window c o => .window c (o + k)

/-- The queue processor sees a completion that carries a timestamp (R343). -/
def State.seen (s : State) (ts : Nat) : State := { s with qpTs := max s.qpTs ts }

/-- The physical address of a field of a queue descriptor (R379). -/
def qAddr (s : State) (q off : Nat) : Nat := s.qtable + 128 * q + off

/-- A field of a queue descriptor (Table 21.1). -/
def qGet (s : State) (q off n : Nat) : Nat := s.mem.readLE (qAddr s q off) n

/-- Writes a field of a queue descriptor; the write is a store at the home (R351). -/
def qSet (q off n x : Nat) (s : State) : State :=
  let pa := qAddr s q off
  (agentStore { core := noCore, ctx := 0, priv := true, wg := 0, combiner := false } 0 (.phys pa 0 0 0 0) n x s).2

/-- Fields of the queue descriptor (Table 21.1). -/
def qCtx (s : State) (q : Nat) : Nat := qGet s q 20 2
/-- CLASS of the queue. -/
def qClass (s : State) (q : Nat) : Nat := qGet s q 22 1 % 4
/-- ENABLE of the queue. -/
def qEnabled (s : State) (q : Nat) : Bool := (qGet s q 22 1).testBit 7
/-- QSTATE: 0 IDLE, 1 ACTIVE, 2 STOPPED, 3 PREEMPTED. -/
def qState (s : State) (q : Nat) : Nat := qGet s q 64 1
/-- READYHEAD of the queue. -/
def qReadyHead (s : State) (q : Nat) : Nat := qGet s q 48 8

/-- TASKERR of a queue counts one more, saturating (R178). -/
def taskErr (q : Nat) (s : State) : State := qSet q 76 4 (min (qGet s q 76 4 + 1) (2 ^ 32 - 1)) s

/-- The queue processor's agent for a context: a requester on die 0 (R351, R382). -/
def queueAgent (s : State) (ctx : Nat) : Agent :=
  { core := noCore, ctx := ctx, priv := (s.ctx ctx).priv, wg := 0, combiner := false }

/-- The context whose addresses a record on a queue's ready list is named in: the queue's own, but for a record of another
context (R394). -/
def recordCtx (s : State) (q va : Nat) : Nat :=
  match s.foreign.find? fun x => x.1 == q && x.2.1 == va with
  | some (_, _, c) => c
  | none => qCtx s q

/-- Appends a record to the ready list of a queue (R394): the record at the tail names it as NEXT. -/
def appendReady (q va ctx : Nat) (s : State) : State :=
  let tail := qGet s q 56 8
  let s := if ctx != qCtx s q then { s with foreign := s.foreign ++ [(q, va, ctx)] } else s
  if tail == 0 then qSet q 56 8 va (qSet q 48 8 va s)
  else
    let s := match checkStore s (checkGlobal s (queueAgent s (recordCtx s q tail)) .write false (tail + 16) 8) with
      | .ok l => (agentStore (queueAgent s (recordCtx s q tail)) 0 l 8 va s).2
      | .error _ => s
    qSet q 56 8 va s

/-- Makes the task of a record READY in its home slice, at timestamp `ts` (R394); `ctx` is the context that names it. -/
def makeReady (l : Loc) (va ctx ts : Nat) (s : State) : State :=
  let q := readLoc s (l.plus 4) 1
  let s := writeLoc (l.plus 5) 1 1 s
  let s := writeLoc (l.plus 16) 8 0 (writeLoc (l.plus 24) 8 ts s)
  appendReady q va ctx s

/-- What names a record in the table of clocks. -/
def recordKey : Loc → Nat
  | .phys pa _ _ _ _ => pa / 64
  | l => 2 ^ 62 + lineKey l

/-- A decrement carries its sender's Lamport clock to the task (R437). -/
def carryLam (l : Loc) (lam : Nat) (s : State) : State :=
  if lam == 0 then s else { s with taskLam := Tab.put s.taskLam (recordKey l) (max lam (Tab.get 0 s.taskLam (recordKey l))) }

/-- TDEC's decrement of a record (R178, R394): `errq` is the queue whose TASKERR counts an error, and whose context names
the record. -/
def taskDec (l : Loc) (va n errq ts lam : Nat) (s : State) : State :=
  let c := readLoc s l 4
  if c == 0 then taskErr errq s
  else
    let s := carryLam l lam s
    if n < c then writeLoc l 4 (c - n) s
    else
      let s := writeLoc l 4 0 s
      if 31 < readLoc s (l.plus 4) 1 then taskErr errq s else makeReady l va (qCtx s errq) ts s

/-- TINC's increment of a record (R178). -/
def taskInc (l : Loc) (n : Nat) (s : State) : State := writeLoc l 4 (min (readLoc s l 4 + n) (2 ^ 32 - 1)) s

/-- A decrement by the queue processor in a context, with TDEC's checks: the fault, or the state after it (R178,
R380). -/
def queueDec (ctx va n errq pts lam : Nat) (s : State) : Except Kind State :=
  match checkGlobal s (queueAgent s ctx) .both false va 64 with
  | .error k => .error k
  | .ok l =>
    if (badSource s l).isSome then .error .machineCheck
    else
      let (ts, s) := stampStore pts (lineKey l) s
      .ok (taskDec l va n errq ts lam (touch (queueAgent s ctx) l (s.seen ts)))

end Sys2Proof.Machine
end

