-- ==== Sys2Proof/Machine/Atomics.lean ====
section
/-! DEFINITION. Atomics and the slice arithmetic (spec/09_core_memory_async.md R206 to R210; spec/15 R314, R315; spec/17 R348),
with TDEC and TINC (spec/07 R178). -/

namespace Sys2Proof.Machine

/-- A floating operation of an atomic: nearest-even, subnormals kept, NaN canonical (R207). -/
def atomicFloat (wide : Bool) (op : FNum → FNum → FNum) (o v : Nat) : Nat :=
  let f := if wide then FloatFmt.f64 else FloatFmt.f32
  let r := op (decodeRaw f o) (decodeRaw f v)
  if r.isNan then f.qnan else (roundTo f .nearest r).1

/-- The new value of an atomic (Table 9.5): old value `o`, operand `v`, compare value `c`. -/
def atomicNew (code : Nat) (wide : Bool) (o v c : Nat) : Nat :=
  let w := if wide then 64 else 32
  match code with
  | 0 => (o + v) % 2 ^ w
  | 1 => (o + 2 ^ w - v) % 2 ^ w
  | 2 => if signed o w ≤ signed v w then o else v
  | 3 => if signed o w ≤ signed v w then v else o
  | 4 => Nat.land o v
  | 5 => Nat.lor o v
  | 6 => Nat.xor o v
  | 7 => v
  | 8 => if o == c then v else o
  | 9 => if v ≤ o then 0 else o + 1
  | 10 => atomicFloat wide (fun x y => (FNum.add false x y).1) o v
  | 11 => atomicFloat wide (fun x y => (FNum.pick false true x y).1) o v
  | 12 => atomicFloat wide (fun x y => (FNum.pick true true x y).1) o v
  | 13 => min o v
  | _ => max o v

/-- The result of one update of a context at a timestamp no lower than `pts`: its old value, its timestamp and the state. -/
def applyUpdate (u : Update) (pts errq ctx : Nat) (s : State) : Nat × Nat × State :=
  let (ts, s) := stampStore pts (lineKey u.loc) s
  let g := { trainAgent s u.tid with ctx := ctx }
  let s := touch g u.loc s
  let (old, s) :=
    if u.code == 15 then (0, taskDec u.loc u.va u.operand errq ts u.lam (s.seen ts))
    else if u.code == 16 then (0, taskInc u.loc u.operand s)
    else
      let n := if u.wide then 8 else 4
      let old := readLoc s u.loc n
      (old, writeLoc u.loc n (atomicNew u.code u.wide old u.operand u.compare) s)
  (old, ts, updateL1 g.core u.loc ts s)

/-- An operation ends or takes its place: arrivals that await it carry its timestamp (R350). -/
def HeldArrival.settle (id ts : Nat) (h : HeldArrival) : HeldArrival :=
  if h.ops.contains id then { h with ops := h.ops.filter (· != id), ts := max h.ts ts } else h

/-- An operation of a train ends or takes its place: the held arrivals that await it carry its timestamp (R350). -/
def Train.settleArrivals (t : Train) (id ts : Nat) : Train := { t with heldArr := t.heldArr.map (·.settle id ts) }

/-- The same for the arrivals that a train has left behind (R65). -/
def settleLate (id ts : Nat) (s : State) : State :=
  { s with wgs := s.wgs.map fun (w, g) =>
      (w, { g with late := g.late.map fun a => { a with arr := a.arr.map (·.settle id ts) } }) }

/-- A ray that awaits an access of its train carries the timestamp of the place that it takes (R345). -/
def Ray.settle (id ts : Nat) (r : Ray) : Ray :=
  if r.ops.contains id then { r with ops := r.ops.filter (· != id), ts := max r.ts ts } else r

/-- An access of a train has its place: the arrivals and the rays that await it carry its timestamp (R345, R350). -/
def settlePlace (who : Who) (id ts : Nat) (s : State) : State :=
  let s := { s with rays := s.rays.map fun (x : Nat × Ray) => (x.1, x.2.settle id ts) }
  if s.present who then s.updTrain who.tid fun t => t.settleArrivals id ts else settleLate id ts s

/-- An ATOM, SATOM, TDEC or TINC whose updates all have their places (R350). -/
def placedAll (id : Nat) (s : State) : State :=
  match Tab.find s.atoms id with
  | some o => if o.waiting == 0 then settlePlace { tid := o.tid, gen := o.gen, sid := o.sid } id o.ts s else s
  | none => s

/-- One update of a batch reaches its line: it is applied, after the lower lanes of its operation (R336), and its reply joins its
operation, or, at a line with an
uncorrectable error, it is not applied and its lane will fault (R314, R315). -/
def settleUpdate (s : State) (u : Update) : State :=
  let o := Tab.get { tid := 0, gen := 0, sid := 0, scalar := true, dest := 0, wide := false, lanes := 0, waiting := 0,
                     vals := [], ts := 0, queue := 0, pc := 0, size := 0 } s.atoms u.op
  match badSource s u.loc with
  | some x =>
    placedAll u.op { s with atoms := Tab.upd s.atoms u.op fun o =>
        { o with waiting := o.waiting - 1, failed := o.failed ++ [(u.lane, u.va, BitVec.ofNat 32 x)] } }
  | none =>
    let (old, ts, s) := applyUpdate u (max u.pts o.ts) o.queue o.ctx s
    placedAll u.op { s with atoms := Tab.upd s.atoms u.op fun o =>
        { o with waiting := o.waiting - 1, vals := Tab.put o.vals u.lane old, ts := max o.ts ts } }

/-- The waiting updates of a line, in order of arrival. -/
def lineUpdates (s : State) (key : Nat) : List Update := s.updates.filter fun u => lineKey u.loc == key

/-- An update may be applied: every lower lane of its instruction has its place (R336). -/
def Update.mayApply (s : State) (u : Update) : Bool := s.updates.all fun w => !(w.op == u.op && decide (w.lane < u.lane))

/-- Applies up to `n` of the updates that wait at a line, in order of arrival: the batch ends before one that a lower lane of its
instruction at another line still holds back (R314, R336). -/
def applyBatch (key : Nat) : Nat → State → State
  | 0, s => s
  | n + 1, s =>
    match (lineUpdates s key).head? with
    | none => s
    | some u => if u.mayApply s then applyBatch key n (settleUpdate { s with updates := s.updates.erase u } u) else s

/-- SLICE_BATCH_APPLY: one batch of up to 96 updates (R314). -/
def execSliceBatchApply (line : Nat) (s : State) : Result := .next (applyBatch line 96 s)

/-- Applies up to `n` of the updates that wait anywhere, oldest first, as long as `more` asks for it: an order that no line and no
instruction forbids. -/
def applyWhile (more : State → Bool) : Nat → State → State
  | 0, s => s
  | n + 1, s =>
    match (if more s then s.updates else []) with
    | [] => s
    | u :: us => applyWhile more n (settleUpdate { s with updates := us } u)

/-- Applies every waiting update of a line, and what has arrived anywhere before the last of them, so that a later arrival follows them
(R314). -/
def drainLine (key : Nat) (s : State) : State := applyWhile (fun s => !(lineUpdates s key).isEmpty) s.updates.length s

/-- Applies up to `n` of the updates that wait anywhere. -/
def applyAll (n : Nat) (s : State) : State := applyWhile (fun _ => true) n s

/-- The split of a train that now holds a lane; `n` where none does. -/
def Train.splitOf (t : Train) (lane n : Nat) : Nat :=
  ((List.range 4).find? fun k => (t.split k).valid && (t.split k).member.getLsbD lane).getD n

/-- The records of the lanes whose updates were not applied (R315, R404). -/
def failedRecs (o : AtomOp) (sid : Nat) : List FaultRec :=
  let pend := maskOfList (o.failed.map (·.1))
  (sortBy (·.1) o.failed).map fun (l, va, src) =>
    { kind := Kind.machineCheck.code, trainLevel := o.scalar, lane := if o.scalar then 0 else l, sid := sid, offset := o.pc,
      pending := if o.scalar then 0 else pend, addr := BitVec.ofNat 64 va, size := o.size, info := src }

/-- ATOMIC_REPLY: the replies of an operation whose updates are all settled reach D, and the train's timestamp follows
(R348). Lanes whose update was not applied keep D and fault; of a pair s0:s1 only s0 discards its word (R56). -/
def execAtomicReply (id : Nat) (s : State) : Result :=
  match Tab.find s.atoms id with
  | none => .next s
  | some o =>
    if o.waiting != 0 then .next s
    else
      let s := { s with atoms := Tab.del s.atoms id }.seen (if s.present { tid := o.tid, gen := o.gen, sid := o.sid } then 0 else o.ts)
      if s.present { tid := o.tid, gen := o.gen, sid := o.sid } then
        let lost := maskOfList (o.failed.map (·.1))
        let s := s.updTrain o.tid fun t =>
          let t := if o.scalar then
              (if o.failed.isEmpty then t.writeSN o.sid o.dest o.wide (Tab.get 0 o.vals 0) else t)
            else t.writeReplies (o.lanes &&& ~~~lost) o.dest o.wide fun l => Tab.get 0 o.vals l
          (t.doneBusy id).observe o.ts
        match o.failed with
        | [] => .next s
        | (l, _, _) :: _ =>
          let sid := if o.scalar then o.sid else (s.train o.tid).splitOf l o.sid
          .next (deferFault o.tid sid (failedRecs o sid) s)
      else .next s

/-- Puts updates at the end of the queues of their lines and records their operation (R208, R314). -/
def sendUpdates (me : Me) (o : AtomOp) (us : List Update) (regs : List Reg) (s : State) : State :=
  let (id, s) := s.fresh
  let us : List Update := us.map fun u => { u with op := id }
  let s := { s with atoms := Tab.put s.atoms id { o with ctx := (me.train s).ctx, wg := (me.train s).wg }, updates := s.updates ++ us }
  s.updTrain me.tid fun t => t.addBusy id 9 regs

/-- What one lane of an ATOM does while the lanes below it have passed their checks: its update, or the fault that stops
the checking (R209). -/
def atomLanes (me : Me) (f : FmtMA) (s : State) : List Nat → List Update × Option (Nat × Kind × DWord × Word)
  | [] => ([], none)
  | l :: ls =>
    let t := me.train s
    if t.helpers.getLsbD l then atomLanes me f s ls
    else
      let g := trainAgent s me.tid
      let wide := f.width == 1
      let n := if wide then 8 else 4
      let ea := effAddr s t me.sid f.base.toNat f.ofs.toNat l 11 f.disp.toNat
      match checkData s (accessCheck s g .both 0 ea.toNat n) with
      | .error (k, info) => ([], some (l, k, ea, info))
      | .ok loc =>
        let v := if isK f.src.toNat then wrapInt (constInt f.src.toNat) (8 * n) else readReg s t me.sid f.src.toNat wide l
        let u : Update := { op := 0, loc := loc, code := f.op.toNat, wide := wide, operand := v,
                            compare := readReg s t me.sid f.d.toNat wide l, lane := l, tid := me.tid, pts := t.pts,
                            va := ea.toNat }
        let (us, x) := atomLanes me f s ls
        (u :: us, x)

/-- The translations that the updates used stay cached (R371). -/
def useAll (g : Agent) (us : List Update) (s : State) : State := us.foldl (fun s u => useTranslation g u.va s) s

/-- An update that reaches local memory of the given core through a home 2 window (R237). -/
def Update.ownLocal (core : Nat) (u : Update) : Bool :=
  match u.loc with
  | .window c _ => c == core
  | _ => false

/-- ATOM (R207 to R209, R237): lanes below the first faulting lane are applied; that lane and the higher ones are pending. -/
def execAtom (f : FmtMA) (s : State) : Result :=
  issueAccess (.atom f) 0 true s fun me s =>
    let act := me.active s
    let n := if f.width == 1 then 8 else 4
    let (us, bad) := atomLanes me f s (lanesOf act)
    if localBusy s me.tid true && us.any (Update.ownLocal me.core) then stall 9 me s else
    let done := match bad with
      | some (l, _) => act &&& maskOf fun k => decide (k < l)
      | none => act
    let t := me.train s
    let g := trainAgent s me.tid
    let hit := (us.filterMap fun u => watchHit s g.ctx false true true u.va n).head?
    let o : AtomOp := { tid := me.tid, gen := t.inc, sid := me.sid, scalar := false, dest := f.d.toNat, wide := f.width == 1,
                        lanes := done, waiting := us.length, vals := [], ts := 0, queue := 0, pc := (me.split s).pc,
                        size := n, launch := t.launch }
    let s := if done == 0 then s else sendUpdates me o us (writesOf (.atom f)) (useAll g us s)
    let faults := match bad with
      | some x => [x]
      | none => []
    finishAccess me n true true (act &&& ~~~done) { s := s, faults := faults, hit := hit }

/-- SATOM (R210): one update for the train. -/
def execSatom (f : FmtMA) (s : State) : Result :=
  issueAccess (.satom f) 0 true s fun me s =>
    let t := me.train s
    let g := trainAgent s me.tid
    let wide := f.width == 1
    let n := if wide then 8 else 4
    let ea := scalarAddr s me f.base.toNat f.ofs.toNat 11 f.disp.toNat
    match checkData s (accessCheck s g .both 0 ea.toNat n) with
    | .error (k, info) => faultAt k ea n info me s
    | .ok loc =>
      let d := f.d.toNat - 0x100
      let u : Update := { op := 0, loc := loc, code := f.op.toNat, wide := wide,
                          operand := t.readSN me.sid (f.src.toNat - 0x100) wide, compare := t.readSN me.sid d wide,
                          lane := 0, tid := me.tid, pts := t.pts, va := ea.toNat }
      let o : AtomOp := { tid := me.tid, gen := t.inc, sid := me.sid, scalar := true, dest := d, wide := wide, lanes := 0,
                          waiting := 1, vals := [], ts := 0, queue := 0, pc := (me.split s).pc, size := n,
                          launch := t.launch }
      let s := sendUpdates me o [u] (if wide then [.s d, .s (d + 1)] else [.s d]) (useAll g [u] s)
      finishAccess me n true true 0 { s := s, hit := watchHit s g.ctx false true true ea.toNat n }

/-- TDEC and TINC: an update of the record's counter, once for the train (R178). The run of the control word ends. -/
def taskUpdate (i : Instr) (code : Nat) (f : FmtC) (s : State) : Result :=
  issueAccess i 0 true s fun me s =>
    let t := me.train s
    let g := trainAgent s me.tid
    let va := t.readSN me.sid f.sa.toNat true
    let ea := BitVec.ofNat 64 va
    let loc := match accessCheck s g .both 0 va 4 with
      | .error .aperture => .error .aperture
      | r => if va % 64 != 0 then .error .misaligned else r
    match checkData s loc with
    | .error (k, info) => faultAt k ea 4 info me s
    | .ok loc =>
      let u : Update := { op := 0, loc := loc, code := code, wide := false, operand := f.offset.toNat, compare := 0,
                          lane := 0, tid := me.tid, pts := t.pts, va := va, lam := t.lamport }
      let o : AtomOp := { tid := me.tid, gen := t.inc, sid := me.sid, scalar := true, dest := 0, wide := false, lanes := 0,
                          waiting := 1, vals := [], ts := 0, queue := (s.launch t.launch).queue, pc := (me.split s).pc,
                          size := 4, launch := t.launch }
      let hit := watchHit s g.ctx false true true va 4
      finishAccess me 4 true true 0 { s := sendUpdates me o [u] [] (useAll g [u] s), hit := hit }

/-- TDEC (R178). -/
def execTdec (f : FmtC) (s : State) : Result := taskUpdate (.tdec f) 15 f s

/-- TINC (R178). -/
def execTinc (f : FmtC) (s : State) : Result := taskUpdate (.tinc f) 16 f s

end Sys2Proof.Machine
end

