-- ==== Sys2Proof/Machine/Pins.lean ====
section
/-! DEFINITION. Prefetch and pinning (spec/09_core_memory_async.md R211 to R213; spec/15 R313; spec/20 R371, R374, R376). -/

namespace Sys2Proof.Machine

/-- The line addresses of an extent: 2^SIZE lines from the line that holds the address (R211), modulo 2^64. -/
def extentLines (ea size : Nat) : List Nat :=
  (List.range (2 ^ size)).map fun k => (ea / 128 * 128 + 128 * k) % 2 ^ 64

/-- A place that a prefetch fetches: home 0 or 1, no accord page (R211). -/
def prefetchable : Loc → Bool
  | .phys _ home spread _ _ => decide (home < 2) && spread != 3
  | _ => false

/-- Fetches one line by a prefetch (R211, R273): into its slice, and for `.l1` or a box node into a cache of the core under a
fresh lease. -/
def prefetchLine (g : Agent) (kept : PrefTo) (va : Nat) (s : State) : State :=
  match checkData s (checkGlobal s g .read false va 128) with
  | .error _ => s
  | .ok l =>
    if !prefetchable l then s
    else
      let s := touch g l (useTranslation g va s)
      match l with
      | .phys pa _ _ _ _ =>
        if kept == .l2 then s else
        let k := pa / 128
        let (w, r) := s.stamps k
        let r := max r (w + (s.ctx g.ctx).lease)
        let c : L1Line := { data := s.mem.readList (k * 128) 128, wts := w, rts := r }
        keepCopy (kept == .node) g.core k c { s with lines := Tab.put s.lines k (w, r) }
      | _ => s

/-- A translation is at hand without a walk. -/
def tlbHas (s : State) (g : Agent) (va : Nat) : Bool :=
  (s.ctx g.ctx).physical || (tlbFind (s.core g.core).tlb g.ctx va).isSome
    || (tlbFind (Tab.get [] s.clusterTlb (g.core / 4)) g.ctx va).isSome

/-- One line of a prefetch: fetched, or left to the walk of its page. -/
def prefetchOne (tid : Nat) (kept : PrefTo) (s : State) (va : Nat) : State :=
  let g := trainAgent s tid
  if 2 ^ 57 ≤ va then s
  else if tlbHas s g va then prefetchLine g kept va s
  else
    let (id, s) := s.fresh
    { s with walks := Tab.put s.walks id { core := g.core, ctx := g.ctx, tid := tid, va := va, kept := kept, priv := g.priv,
                                           ptbase := (s.ctx g.ctx).ptbase } }

/-- PREF (R211): a hint with no effect on values, faults or the global order. -/
def execPref (f : FmtM) (s : State) : Result :=
  issue (.pref f) s fun me s =>
    let ea := (scalarAddr s me f.base.toNat f.ofs.toNat 20 f.disp.toNat).toNat
    retire me ((extentLines ea f.size.toNat).foldl (prefetchOne me.tid (if f.minor == 0 then .l1 else .l2)) s)

/-- The leaf that a walk finds: it reads the tables that PTBASE named at its start (R368, R372). -/
def Walk.leaf (w : Walk) (s : State) : Except Kind Page := walkFrom s w.va 5 0 w.ptbase

/-- PAGE_WALK_COMPLETE: the walk of a prefetch, under the tables of its start, ends; its translation stays cached, and its line is
fetched (R368, R371, R372). -/
def execPageWalkComplete (id : Nat) (s : State) : Result :=
  match Tab.find s.walks id with
  | none => .next s
  | some w =>
    let s := { s with walks := Tab.del s.walks id }
    let g : Agent := { core := w.core, ctx := w.ctx, priv := w.priv, wg := 0, combiner := false }
    match w.leaf s with
    | .error _ => .next s
    | .ok p => .next (prefetchLine g w.kept w.va (cacheTranslation w.core w.ctx w.va p s))

/-- LPIN's kind of page: home 3 and accord pages are not pinned (R212). -/
def unpinnable : Loc → Bool
  | .phys _ home spread _ _ => home == 3 || spread == 3
  | _ => false

/-- A way of the set of a line is made free for LPIN. Fetch pins never make it fail: where nothing else may go, a fetch-pinned line goes,
whose bytes the tile fetch unit keeps in its staging buffer (R248). -/
def pinWay (slice cls line : Nat) (s : State) : Option State :=
  (freeWay slice cls line s).orElse fun _ =>
    let free := (setLines s slice (setOf line)).map fun x => (x.1, { x.2 with fetch := 0 })
    (victim s cls free).map s.evict

/-- Makes a line of a place resident without a pin of its own, if it is not, in a way that R376 frees. Where no way can be freed,
the line does not fit (DESIGN CHOICE, log 100). A home 2 line stands in no slice (number 1024): its pins are counted alone
(DEDUCED, log 15). -/
def residentLine (g : Agent) (l : Loc) (s : State) : Option State :=
  if isResident s (lineKey l) then some s
  else
    match l with
    | .phys pa home spread slice cls =>
      let x : L2Line := { slice := sliceOf s pa spread slice g.die, cls := cls, spread := spread, named := slice }
      if mayStand s x.slice (pa / 128) then (pinWay x.slice cls (pa / 128) s).map (placeLine g (pa / 128) home x) else none
    | _ => some { s with l2 := Tab.put s.l2 (lineKey l) { slice := 1024 } }

/-- Whether one more pin of a resident line fits: at most 12 pinned ways in its set, a count below 255 (R212). -/
def pinFits (s : State) (l : Loc) : Bool :=
  let x := Tab.get {} s.l2 (lineKey l)
  let ways := match l with
    | .phys pa _ _ _ _ => pinnedWays s x.slice (pa / 128)
    | _ => 0
  decide (ways < 12) && decide (x.pins.foldl (fun n p => n + p.2) 0 < 255)

/-- One more pin of a line by a context, if it fits. -/
def addPin (g : Agent) (l : Loc) (s : State) : Option State :=
  (residentLine g l s).bind fun s =>
    if pinFits s l then
      some { s with l2 := Tab.upd s.l2 (lineKey l) fun x => { x with pins := Tab.put x.pins g.ctx (Tab.get 0 x.pins g.ctx + 1) } }
    else none

/-- Pins an extent line by line, or none when one does not fit (R212 step 5). -/
def pinAll (g : Agent) : List Loc → State → Option State
  | [], s => some s
  | l :: ls, s => (addPin g l s).bind (pinAll g ls)

/-- The places of an extent, or the first address fault, which is that of a SATOM (R212 step 2): on an accord page a train that is not the
owning combiner meets ADDRESS-PROTECTION here, before step 4 (DESIGN CHOICE, log 131). -/
def extentLocs (s : State) (g : Agent) : List Nat → Except (Nat × Kind × Word) (List Loc)
  | [] => .ok []
  | va :: vs =>
    match checkStore s (checkGlobal s g .both false va 128) with
    | .error (k, info) => .error (va, k, info)
    | .ok l =>
      match extentLocs s g vs with
      | .error e => .error e
      | .ok ls => .ok (l :: ls)

/-- LPIN (R212): the steps in order; the status arrives as a token. -/
def execLpin (f : FmtM) (s : State) : Result :=
  issue (.lpin f) s fun me s =>
    let g := trainAgent s me.tid
    let ea := scalarAddr s me f.base.toNat f.ofs.toNat 20 f.disp.toNat
    let n := 2 ^ f.size.toNat
    let r := f.d.toNat - 0x100
    let done (v : Word) (s : State) : State := retire me (s.updTrain me.tid fun t => t.token r v)
    if ea.toNat % 128 != 0 then faultAt .misaligned ea 0 0 me s
    else
      match extentLocs s g (extentLines ea.toNat f.size.toNat) with
      | .error (va, k, info) => faultAt k (BitVec.ofNat 64 va) 0 info me s
      | .ok ls =>
        let s := (extentLines ea.toNat f.size.toNat).foldl (fun s va => useTranslation g va s) s
        let c := s.ctx g.ctx
        if c.pinq < c.pinuse + n then faultTrain .pinQuota 0 me s
        else if ls.any unpinnable then done 2 s
        else
          match pinAll g ls s with
          | none => done 1 s
          | some s => done 0 (s.updCtx g.ctx fun c => { c with pinuse := c.pinuse + n })

/-- One line of LUNPIN: the context's pin count of the line falls by one, if it has one (R213). -/
def dropPin (g : Agent) (s : State) (va : Nat) : State :=
  let loc := if (s.ctx g.ctx).physical then (if va < 2 ^ 52 then some (va / 128) else none)
    else if 2 ^ 57 ≤ va then none
    else match translateVa s g.core g.ctx va with
      | .ok p => some (lineKey (pageLoc p va))
      | .error _ => none
  match loc with
  | none => s
  | some key =>
    match Tab.find s.l2 key with
    | none => s
    | some x =>
      let c := Tab.get 0 x.pins g.ctx
      if c == 0 then s
      else
        let pins := if c == 1 then Tab.del x.pins g.ctx else Tab.put x.pins g.ctx (c - 1)
        let s := { s with l2 := Tab.put s.l2 key { x with pins := pins } }
        s.updCtx g.ctx fun c => { c with pinuse := c.pinuse - 1 }

/-- LUNPIN (R213). -/
def execLunpin (f : FmtM) (s : State) : Result :=
  issue (.lunpin f) s fun me s =>
    let g := trainAgent s me.tid
    let ea := scalarAddr s me f.base.toNat f.ofs.toNat 20 f.disp.toNat
    if ea.toNat % 128 != 0 then faultAt .misaligned ea 0 0 me s
    else retire me ((extentLines ea.toNat f.size.toNat).foldl (dropPin g) s)

/-- A context releases every pin it holds (R213, R399). -/
def releasePins (ctx : Nat) (s : State) : State :=
  let free (x : Nat × L2Line) : Nat × L2Line :=
    (x.1, { x.2 with pins := Tab.del x.2.pins ctx, home1 := if x.2.home1 == some ctx then none else x.2.home1 })
  let s := { s with l2 := s.l2.map free }
  s.updCtx ctx fun c => { c with pinuse := 0 }

end Sys2Proof.Machine
end

