-- ==== Sys2Proof/Machine/Barriers.lean ====
section
/-! DEFINITION. Named barriers (spec/09_core_memory_async.md R223 to R228; spec/17 R350; spec/22 R428). -/

namespace Sys2Proof.Machine

/-- Barrier `k` of a workgroup: at placement COUNT is the number of its trains (Table 9.9). -/
def State.bar (s : State) (w k : Nat) : NamedBar :=
  Tab.get { count := (s.wg w).trains } (s.wg w).bars k

/-- Replaces barrier `k` of a workgroup. -/
def State.setBar (s : State) (w k : Nat) (b : NamedBar) : State :=
  s.updWg w fun g => { g with bars := Tab.put g.bars k b }

/-- The token value of Table 9.10 (R223), also where R286 walks through a program as if it were 0 (DEDUCED, log 113). -/
def barToken (phase status : Nat) : Word := BitVec.ofNat 32 (256 * phase + status)

/-- The current phase completes (R223): its waiters are due their tokens in the next cycle. -/
def completePhase (w k : Nat) (b : NamedBar) (s : State) : State :=
  let due : List BarToken := b.waiters.map fun (who, tok) =>
    { who := who, tok := tok, val := barToken b.phase 0, ts := b.ts, lam := b.lam }
  (s.setBar w k { b with arrived := 0, phase := (b.phase + 1) % 256, waiters := [], ts := 0, lam := 0,
                         due := b.due ++ due }).later (.nbTokenRelease w k)

/-- One more discarded arrival in BARERR, saturating (Table 9.11). -/
def barErrUp (w : Nat) (s : State) : State := s.updWg w fun g => { g with barErr := min (g.barErr + 1) (2 ^ 32 - 1) }

/-- One arrival at a barrier, with the timestamp and clock that it carries (R223, R228, R350). -/
def arrive (w k ts lam : Nat) (s : State) : State :=
  if (Tab.find s.wgs w).isNone then s
  else
    let b := s.bar w k
    if !b.valid then barErrUp w s
    else
      let b := { b with arrived := b.arrived + 1, ts := max b.ts ts, lam := max b.lam lam }
      if b.count ≤ b.arrived then completePhase w k b s else s.setBar w k b

/-- Makes a register of a train a waiter of the current phase (R225, R226). -/
def addWaiter (w k : Nat) (who : Who) (tok : Nat) (s : State) : State :=
  if tok == 0 then s
  else
    let b := s.bar w k
    s.setBar w k { b with waiters := b.waiters ++ [(who, tok)] }

/-- The receiver's Lamport clock after it reads what carries `lam` (R437); no clock advances during a halt. -/
def State.hear (s : State) (tid lam : Nat) : State :=
  if s.halted then s else s.updTrain tid fun t => { t with lamport := max t.lamport lam + 1 }

/-- A token with a carried clock reaches a train (R63, R349, R437). -/
def State.deliverTok (s : State) (x : BarToken) : State :=
  let s := s.deliver x.who x.tok x.val x.ts
  if s.present x.who && x.tok != 0 then s.hear x.who.tid x.lam else s

/-- NB_TOKEN_RELEASE: the waiters of a completed phase receive their tokens (R223). -/
def execNbTokenRelease (wg bar : Nat) (s : State) : Result :=
  let b := s.bar wg bar
  if b.due.isEmpty then .next s
  else .next (b.due.foldl State.deliverTok (s.setBar wg bar { b with due := [] }))

/-- Operations of a train that an arrival awaits: its matrix operations to their ends, and its accesses to their places (R236, R350,
R353). -/
def arrivalOps (s : State) (tid : Nat) : List Nat :=
  ((s.mats.filter fun m => m.2.tid == tid && m.2.gen == (s.train tid).inc).map (·.1)) ++ placeOps s tid

/-- Counts an arrival of a train (R225, R228): at a barrier that has become invalid its token receives status 1. -/
def countArrival (tid : Nat) (h : HeldArrival) (s : State) : State :=
  let t := s.train tid
  let who : Who := { tid := tid, gen := t.inc, sid := h.sid }
  let b := s.bar t.wg h.bar
  if b.valid then arrive t.wg h.bar h.ts h.lam (addWaiter t.wg h.bar who h.tok s)
  else (barErrUp t.wg s).deliver who h.tok (barToken b.phase 1) 0

/-- Counts arrivals that a train has left behind, the oldest first, as far as what they await has ended; their tokens are discarded (R65,
R428): those that still wait, and the state. -/
def countLate (w : Nat) : List HeldArrival → State → List HeldArrival × State
  | [], s => ([], s)
  | h :: hs, s => if h.ops.all (opSettled s) then countLate w hs (arrive w h.bar h.ts h.lam s) else (h :: hs, s)

/-- The arrivals that trains have left behind in a workgroup count (R65). -/
def lateStep (w : Nat) (s : State) : State :=
  let l := (s.wg w).late
  let x := l.foldl (fun (x : List LateArrivals × State) a =>
    let (r, s) := countLate w a.arr x.2
    (if r.isEmpty then x.1 else x.1 ++ [{ a with arr := r }], s)) ([], s)
  x.2.updWg w fun g => { g with late := x.1 }

/-- The arrivals of trains that have ended count as soon as they may (R65, R350). -/
def lateArrivals (s : State) : State :=
  ((s.wgs.filter fun x => !x.2.late.isEmpty).map (·.1)).foldl (fun s w => lateStep w s) s

/-- NBARR (R225, R227, R236, R350, R428). -/
def execNbarr (f : FmtA) (s : State) : Result :=
  issue (.nbarr f) s fun me s =>
    let t := me.train s
    let k := f.nb.toNat
    if !(s.bar t.wg k).valid then faultTrain .badHandle 0 me s
    else
      let h : HeldArrival := { bar := k, tok := f.tok.toNat, sid := me.sid, ops := arrivalOps s me.tid,
                               ts := arrivalTs s me.tid, lam := t.lamport }
      let s := s.updTrain me.tid fun t => t.awaitToken h.tok 2
      if t.heldArr.isEmpty && h.ops.isEmpty then retire me (countArrival me.tid h s)
      else retire me (s.updTrain me.tid fun t => { t with heldArr := t.heldArr ++ [h] })

/-- NBARR_HELD_COUNT: the oldest held arrival of a train counts once what it awaits has ended (R350, R428). -/
def execNbarrHeldCount (core slot : Nat) (s : State) : Result :=
  let tid := core * 32 + slot % 32
  match (s.train tid).heldArr with
  | h :: rest =>
    if h.ops.all (opSettled s) then
      .next (countArrival tid h (s.updTrain tid fun t => { t with heldArr := rest }))
    else .next s
  | [] => .next s

/-- NBWAIT (R226, R227). -/
def execNbwait (f : FmtA) (s : State) : Result :=
  issue (.nbwait f) s fun me s =>
    let t := me.train s
    let k := f.nb.toNat
    if !(s.bar t.wg k).valid then faultTrain .badHandle 0 me s
    else
      let s := addWaiter t.wg k (me.who s) f.tok.toNat s
      retire me (s.updTrain me.tid fun t => t.awaitToken f.tok.toNat 2)

/-- NBINIT (R224). -/
def execNbinit (f : FmtA) (s : State) : Result :=
  issue (.nbinit f) s fun me s =>
    let t := me.train s
    let k := f.nb.toNat
    let b := s.bar t.wg k
    if !b.waiters.isEmpty then faultTrain .barrierBusy (BitVec.ofNat 32 k) me s
    else
      retire me (s.setBar t.wg k
        { b with valid := true, count := f.imm.toNat % 256, arrived := 0, phase := 0, ts := 0, lam := 0 })

/-- NBINV (R228): every waiter is released with status 1. -/
def execNbinv (f : FmtA) (s : State) : Result :=
  issue (.nbinv f) s fun me s =>
    let t := me.train s
    let k := f.nb.toNat
    let b := s.bar t.wg k
    if !b.valid then retire me s
    else
      let due : List BarToken := b.waiters.map fun (who, tok) =>
        { who := who, tok := tok, val := barToken b.phase 1, ts := 0, lam := 0 }
      retire me ((s.setBar t.wg k { b with valid := false, waiters := [], due := b.due ++ due }).later
        (.nbTokenRelease t.wg k))

/-- BARERR_CLEAR (Table 9.11). -/
def execBarerrClear (wg : Nat) (s : State) : Result := .next (s.updWg wg fun g => { g with barErr := 0 })

end Sys2Proof.Machine
end

