-- ==== Sys2Proof/Machine/Copy.lean ====
section
/-! DEFINITION. The copy engine (spec/09_core_memory_async.md R214 to R222; spec/17 R345, R346; spec/25 R434). -/

namespace Sys2Proof.Machine

/-- An engine fault goes to the event queue of its context (R221, R406). -/
def engineFault (ctx : Nat) (joined : DWord) (k : Kind) (addr size : Nat) (info : Word) (pos : Nat) (s : State) : State :=
  s.raiseEvent ctx (engineEvent s 1 joined pos (engineRec k.code addr size info))

/-- A signed 48-bit stride. -/
def stride48 (m : Bytes) (a : Nat) : Int := signed (m.readLE a 6) 48

/-- Reads a copy descriptor (Table 9.7). -/
def readDesc (m : Bytes) (a : Nat) : CopyDesc :=
  { src := m.readLE a 8, dst := m.readLE (a + 8) 8, idx := m.readLE (a + 16) 8, ctl := m.readLE (a + 24) 8,
    loops := (List.range 6).map fun j =>
      { count := m.readLE (a + 32 + 16 * j) 4, src := stride48 m (a + 36 + 16 * j), dst := stride48 m (a + 42 + 16 * j) } }

/-- ESIZE in bytes. -/
def CopyDesc.bytes (d : CopyDesc) : Nat := 2 ^ bits d.ctl 0 3
/-- Source space. -/
def CopyDesc.srcSpace (d : CopyDesc) : Nat := bits d.ctl 4 2
/-- Destination space. -/
def CopyDesc.dstSpace (d : CopyDesc) : Nat := bits d.ctl 6 2
/-- Index space. -/
def CopyDesc.idxSpace (d : CopyDesc) : Nat := bits d.ctl 8 2
/-- UNS. -/
def CopyDesc.uns (d : CopyDesc) : Bool := d.ctl.testBit 11
/-- Elements of one walk. -/
def CopyDesc.total (d : CopyDesc) : Nat := d.loops.foldl (fun n l => n * l.count) 1

/-- A descriptor within Table 9.7 for a copy of a kind and operation (R216, R218, R219, R220). -/
def descOk (kind op : Nat) (d : CopyDesc) : Bool :=
  decide (bits d.ctl 0 3 ≤ 4) && !d.ctl.testBit 3 && decide (d.srcSpace ≤ 1) && decide (d.dstSpace ≤ 1)
    && decide (d.idxSpace ≤ 1) && decide (d.ctl < 2 ^ 12) && (kind == 1 || kind == 2 || d.idx == 0)
    && decide (d.total * d.bytes ≤ 2 ^ 40)
    && (kind != 1 || (d.loops.drop 1).all fun l => l.src == 0)
    && (kind != 2 || (d.loops.drop 1).all fun l => l.dst == 0)
    && (!d.uns || (kind == 3 && (op == 2 || op == 3)))
    && (kind != 3 || (d.dstSpace == 0 && (bits d.ctl 0 3 == 2 || bits d.ctl 0 3 == 3)))
    && (kind != 4 || d.dstSpace == 1)
    && (kind != 5 || (d.srcSpace == 0 && d.dstSpace == 0 && d.idxSpace == 0))

/-- The loop indices of element `p` of a walk, loop 0 first. -/
def loopIndices : List CopyLoop → Nat → List Nat
  | [], _ => []
  | l :: ls, p => p % l.count :: loopIndices ls (p / l.count)

/-- The byte offset of a walk at indices: the sum of index times stride. -/
def walkOffset (stride : CopyLoop → Int) : List CopyLoop → List Nat → Int
  | l :: ls, i :: is => (i : Int) * stride l + walkOffset stride ls is
  | _, _ => 0

/-- An address of a walk modulo 2^64. -/
def walkAddr (base : Nat) (off : Int) : Nat := wrapInt ((base : Int) + off) 64

/-- The agent of a copy for a workgroup. -/
def CopyOp.agent (o : CopyOp) (w : Nat) : Agent :=
  { core := o.core, ctx := o.ctx, priv := o.priv, wg := w, combiner := false }

/-- The workgroup has left its core (R222). -/
def wgGone (s : State) (w : Nat) : Bool := (Tab.find s.wgs w).isNone

/-- A workgroup leaves its core with a save (R183): what its ended trains have under way for its local memory and barriers goes on
without a workgroup, also after a restore (R222, R230). Identifiers are never 0. -/
def leaveEngines (w : Nat) (s : State) : State :=
  let go (x : Nat) : Nat := if x == w then 0 else x
  { s with copyOps := s.copyOps.map fun (id, o) => (id, { o with wg := go o.wg, dests := o.dests.map go }),
           mdecs := s.mdecs.map fun (id, o) => (id, { o with wg := go o.wg }),
           mats := s.mats.map fun (id, o) => (id, { o with wg := go o.wg }) }

/-- The save or the discard of a workgroup begins: the CPYX copies that have yet to complete its walk skip it (R220). -/
def skipDest (w : Nat) (s : State) : State :=
  { s with copyOps := s.copyOps.map fun (id, o) =>
      let now := o.pos / max 1 o.desc.total
      match (o.dests.drop now).findIdx? (· == w) with
      | some k =>
        if o.kind == 4 then
          (id, { o with pos := if k == 0 then now * o.desc.total else o.pos, dests := o.dests.eraseIdx (now + k),
                        skipped := o.skipped + 1 })
        else (id, o)
      | none => (id, o) }

/-- Reads an element's bytes: the value or the fault. A local read of a workgroup that has left returns zero. -/
def copyRead (o : CopyOp) (space a n : Nat) (s : State) : Except (Kind × Nat × Word) (Nat × Nat × State) :=
  if space == 1 && wgGone s o.wg then .ok (0, o.ts, s)
  else
    let g := o.agent o.wg
    match checkData s (accessCheck s g .read space a n) with
    | .error (k, info) => .error (k, a, info)
    | .ok l => .ok (agentLoad g o.ts l n (if space == 0 then useTranslation g a s else s))

/-- Writes an element's bytes in a workgroup's or the global space, behind the updates that have reached the line before (R314, R352); a
local write of a workgroup that has left is discarded. -/
def copyWrite (o : CopyOp) (w space a n x : Nat) (s : State) : Except (Kind × Nat × Word) (Nat × State) :=
  if space == 1 && wgGone s w then .ok (o.ts, s)
  else
    let g := o.agent w
    match checkStore s (accessCheck s g .write space a n) with
    | .error (k, info) => .error (k, a, info)
    | .ok l => .ok (agentStore g o.ts l n x (drainLine (lineKey l) (if space == 0 then useTranslation g a s else s)))

/-- The operation code of a CPYR element: UNS makes minimum and maximum unsigned (R219). -/
def cpyrCode (op : Nat) (uns : Bool) : Nat := if uns && op == 2 then 13 else if uns && op == 3 then 14 else op

/-- Updates an element at its home (R219). -/
def copyUpdate (o : CopyOp) (a n x : Nat) (s : State) : Except (Kind × Nat × Word) (Nat × State) :=
  let g := o.agent o.wg
  match checkData s (accessCheck s g .both 0 a n) with
  | .error (k, info) => .error (k, a, info)
  | .ok l =>
    let s := drainLine (lineKey l) (useTranslation g a s)
    let new := atomicNew (cpyrCode o.op o.desc.uns) (n == 8) (readLoc s l n) x 0
    .ok (agentStore g o.ts l n new s)

/-- The issuing train of an operation has entered ENDING or FREE (R434). -/
def issuerGone (s : State) (who : Who) : Bool := !s.present who || (s.train who.tid).state == .ending

/-- The debug event of an engine's operation for a watched range (R434, Table 25.3). -/
def engEvent (ctx : Nat) (joined : DWord) (retired : Bool) (agent : Nat) (rd wr : Bool) (n pos w b : Nat) (s : State) : State :=
  s.raiseEvent ctx (engineEvent s 3 joined pos (engineRec Kind.breakpoint.code b n (watchInfo retired agent rd wr (w % 4))))

/-- The debug events of an engine's operation for the ranges that watch an access and for which it has raised none yet: the ranges that
have, and the state (R434). -/
def engWatch (ctx : Nat) (joined : DWord) (retired : Bool) (agent : Nat) (rd wr : Bool) (a n pos : Nat) (seen : List Nat)
    (s : State) : List Nat × State :=
  ((watchHits s ctx true rd wr a n).filter fun x => !seen.contains x.1).foldl (fun (seen, s) (w, b) =>
    (w :: seen, engEvent ctx joined retired agent rd wr n pos w b s)) (seen, s)

/-- A watched element of a copy (R434). A COPY packet has no issuing train that could have ended. -/
def copyWatch (o : CopyOp) (agent : Nat) (rd wr : Bool) (space a n pos : Nat) (s : State) : CopyOp × State :=
  if space == 0 then
    let (seen, s) := engWatch o.ctx o.joined (o.kind != 5 && issuerGone s o.who) agent rd wr a n pos o.seen s
    ({ o with seen := seen }, s)
  else (o, s)

/-- What stops a copy: the fault, and the copy and the state with what came before it. -/
abbrev CopyStop := (Kind × Nat × Word) × CopyOp × State

/-- The source and destination addresses of an element at given indices (R217, R218), or the fault of reading its index entry; the copy
and the state after that read, which may be watched (R434). An index entry is read again for every element of its row, also for those of
one value of m (DESIGN CHOICE, log 123). -/
def copyAddrs (o : CopyOp) (is : List Nat) (pos : Nat) (s : State) : Except CopyStop (Nat × Nat × CopyOp × State) :=
  let d := o.desc
  let src := walkAddr d.src (walkOffset (·.src) d.loops is)
  let dst := walkAddr d.dst (walkOffset (·.dst) d.loops is)
  if o.kind == 1 || o.kind == 2 then
    let m := ((d.loops.zip is).drop 1).foldr (fun (l, i) acc => i + l.count * acc) 0
    let n := if d.ctl.testBit 10 then 8 else 4
    let a := walkAddr d.idx ((m * n : Nat) : Int)
    match copyRead o d.idxSpace a n s with
    | .error e => .error (e, o, s)
    | .ok (x, ts, s) =>
      let (o, s) := copyWatch { o with ts := ts } 1 true false d.idxSpace a n pos s
      let off := signed x (8 * n)
      if o.kind == 1 then .ok (walkAddr src off, dst, o, s) else .ok (src, walkAddr dst off, o, s)
  else .ok (src, dst, o, s)

/-- One element of a copy: read, then written (R217). -/
def copyElement (o : CopyOp) (w pos : Nat) (s : State) : Except CopyStop (CopyOp × State) :=
  let d := o.desc
  let n := d.bytes
  match copyAddrs o (loopIndices d.loops pos) pos s with
  | .error e => .error e
  | .ok (src, dst, o, s) =>
    match copyRead o d.srcSpace src n s with
    | .error e => .error (e, o, s)
    | .ok (x, ts, s) =>
      let o := { o with ts := ts }
      let (o, s) := copyWatch o 1 true false d.srcSpace src n pos s
      match (if o.kind == 3 then copyUpdate o dst n x s else copyWrite o w d.dstSpace dst n x s) with
      | .error e => .error (e, o, s)
      | .ok (ts, s) =>
        let (o, s) := copyWatch { o with ts := ts } (if o.kind == 3 then 3 else 1) (o.kind == 3) true d.dstSpace dst n pos s
        .ok ({ o with pos := o.pos + 1 }, s)

/-- The counter of a copy's class (Table 4.13). -/
def copyCounter (kind : Nat) : Counter := if kind == 1 then .gather else if kind == 2 then .scatter else .copy

/-- A counter of a train falls by one. -/
def Train.countDown (t : Train) (c : Counter) : Train := t.setCount c (t.count c - 1)

/-- An operation of a train ends: its counter falls, a later WAIT observes it, and its token takes the value (R221, R349). -/
def endOperation (who : Who) (c : Option Counter) (tok : Nat) (v : Word) (ts : Nat) (s : State) : State :=
  let s := match c with
    | some c => if s.present who then s.updTrain who.tid fun t => { t.countDown c with ended := max t.ended ts } else s
    | none => if s.present who then s.updTrain who.tid fun t => { t with ended := max t.ended ts } else s
  (s.seen ts).deliver who tok v ts

/-- The arrivals that a copy's completion counts: of its issuer's workgroup, or for CPYX of each destination whose walk
had not completed before (R220, R221). -/
def copyArrivals (o : CopyOp) (from_ : Nat) (s : State) : State :=
  match o.arr with
  | none => s
  | some k =>
    if o.kind == 4 then
      (o.dests.drop from_).foldl (fun s w => arrive w k o.ts o.lam s) s
    else arrive o.wg k o.ts o.lam s

/-- COMPLETION of a copy (R221, Table 9.8): `stop` is the fault kind if it stopped. -/
def completeCopy (id : Nat) (o : CopyOp) (stop : Option Kind) (s : State) : State :=
  let s := { s with copyOps := Tab.del s.copyOps id }.seen o.ts
  let v := match stop with
    | some k => min o.skipped 65535 * 65536 + k.code * 256 + 1
    | none => min o.skipped 65535 * 65536
  let s := endOperation o.who (some (copyCounter o.kind)) o.tok (BitVec.ofNat 32 v) o.ts s
  let doneDests := if o.desc.total == 0 then 0 else o.pos / o.desc.total
  let s := if o.kind == 5 then
      { s with packets := Tab.upd s.packets o.packet fun p =>
          { p with finished := true, stopped := stop.map (·.code), ts := o.ts } }
    else s
  copyArrivals o doneDests s

/-- A member workgroup of a CPYX that has left, or whose save or discard has begun, is no destination at issue (R220). -/
def destSkipped (s : State) (w : Nat) : Bool :=
  wgGone s w || !((s.wg w).state == .placed || (s.wg w).state == .draining)

/-- Performs up to `n` elements: the copy as it then stands, the fault that stopped it, and the state. For CPYX the walk of
one destination follows another, and each counts its arrival as its walk ends. -/
def copyElements : Nat → CopyOp → State → CopyOp × Option (Kind × Nat × Word) × State
  | 0, o, s => (o, none, s)
  | n + 1, o, s =>
    let tot := o.desc.total
    let w := o.dests.getD (o.pos / tot) o.wg
    match copyElement o w (o.pos % tot) s with
    | .error (e, o, s) => (o, some e, s)
    | .ok (o, s) =>
      let s := match o.arr with
        | some k => if o.kind == 4 && o.pos % tot == 0 then arrive w k o.ts o.lam s else s
        | none => s
      copyElements n o s

/-- Advances a copy to element `upTo` of its destinations in turn (R217); one whose last element has been written completes
(R221), so that a kill in the cycle of that write still discards its token and its arrival (R230). -/
def advanceCopy (id upTo : Nat) (s : State) : State :=
  match Tab.find s.copyOps id with
  | none => s
  | some o =>
    let all := o.desc.total * o.dests.length
    if all ≤ o.pos then completeCopy id o none s
    else
      match copyElements (min upTo all - o.pos) o s with
      | (o, some (k, a, info), s) =>
        completeCopy id o (some k) (engineFault o.ctx o.joined k a o.desc.bytes info (o.pos % o.desc.total) s)
      | (o, none, s) => { s with copyOps := Tab.put s.copyOps id o }

/-- COPY_COMPLETION: the copy engine performs elements up to `upTo`, and a copy whose elements are all performed completes (R221). -/
def execCopyCompletion (id upTo : Nat) (s : State) : Result := .next (advanceCopy id upTo s)

/-- The train is the first of the role that carries PRODUCER (R214). -/
def isProducer (s : State) (t : Train) : Bool :=
  let roles := (s.launch t.launch).roles
  !t.combiner && (roles.getD t.role { entry := 0, granules := 0, trains := 0, producer := false, stream := false }).producer
    && t.ordinal == ((roles.take t.role).map (·.trains)).foldl (· + ·) 0

/-- The core of a workgroup's memory, for faults of a descriptor pair (R215 step 2): the fault, if any. -/
def descFault (s : State) (t : Train) (p : Nat) : Option Kind :=
  if 2 ^ 32 ≤ p || (s.wg t.wg).localSize ≤ p then some .aperture else if p % 128 != 0 then some .misaligned else none

/-- Destinations of a CPYX at issue: workgroups of the launch with a resident member of the set, ascending, and the number
of member workgroups that have none (R220). A member train counts from STARTING to ENDING (DESIGN CHOICE, log 139). -/
def cpyxDests (s : State) (t : Train) (set : Nat) : List Nat × Nat :=
  let members := Tab.get [] (s.launch t.launch).sets set
  let ords := (members.map (·.1)).eraseDups
  let resident (w : Nat) : Bool :=
    !destSkipped s w && s.trains.any fun (_, x) =>
      x.wg == w && x.state != .free && x.state != .saved && members.contains ((s.wg w).ordinal, x.ordinal)
  let ws := (s.wgs.filter fun (w, g) => g.launch == t.launch && ords.contains g.ordinal && resident w).map (·.1)
  (ws, ords.length - ws.length)

/-- Issues a copy (R215): the checks in order, then the counter, the token and the descriptor; a descriptor with an uncorrectable
error faults (R231). The read of the descriptor is an event of the operation (R345). -/
def issueCopy (i : Instr) (kind op : Nat) (f : FmtA) (s : State) : Result :=
  issueAsync i (counterFull (copyCounter kind)) s fun me s =>
    let t := me.train s
    let p := t.readSN me.sid f.desc.toNat true
    let arr := if f.arr == 1 then some f.nb.toNat else none
    if !isProducer s t then faultTrain .copyRights 0 me s
    else
      match (descFault s t p).map (·, 0) |>.orElse fun _ =>
          (badSource s (.loc t.wg p)).map fun x => (Kind.machineCheck, BitVec.ofNat 32 x) with
      | some (k, info) => faultAt k (BitVec.ofNat 64 p) 0 info me s
      | none =>
        let d := readDesc (s.wg t.wg).mem p
        if !descOk kind op d then faultTrain .badHandle 0 me s
        else if arr.isSome && kind != 4 && !(s.bar t.wg f.nb.toNat).valid then faultTrain .badHandle 0 me s
        else if counterFull (copyCounter kind) me s then stall 3 me s
        else
          let (dests, skipped) := if kind == 4 then cpyxDests s t (f.imm.toNat % 256) else ([t.wg], 0)
          let (_, ts, s) := agentLoad (trainAgent s me.tid) t.pts (.loc t.wg p) 128 s
          let (id, s) := s.fresh
          let o : CopyOp := { who := me.who s, joined := s.joined me.tid me.sid, ctx := t.ctx, core := me.core,
                              priv := (s.launch t.launch).priv, wg := t.wg, kind := kind, op := op, tok := f.tok.toNat,
                              arr := arr, desc := d, dests := dests, skipped := skipped, pos := 0, ts := ts,
                              lam := t.lamport, seen := [], packet := 0 }
          let s := { s with copyOps := Tab.put s.copyOps id o }
          let s := s.updTrain me.tid fun t =>
            (t.setCount (copyCounter kind) (t.count (copyCounter kind) + 1)).awaitToken f.tok.toNat 8
          retire me (if d.total * dests.length == 0 then advanceCopy id 0 s else s)

/-- CPY (R217). -/
def execCpy (f : FmtA) (s : State) : Result := issueCopy (.cpy f) 0 0 f s
/-- CPYG (R218). -/
def execCpyg (f : FmtA) (s : State) : Result := issueCopy (.cpyg f) 1 0 f s
/-- CPYS (R218). -/
def execCpys (f : FmtA) (s : State) : Result := issueCopy (.cpys f) 2 0 f s
/-- CPYR (R219). -/
def execCpyr (f : FmtA) (s : State) : Result := issueCopy (.cpyr f) 3 f.minor.toNat f s
/-- CPYX (R220). -/
def execCpyx (f : FmtA) (s : State) : Result := issueCopy (.cpyx f) 4 0 f s

end Sys2Proof.Machine
end

