-- ==== Sys2Proof/Machine/Matrix.lean ====
section
/-! DEFINITION. The matrix unit and the tile fetch unit (spec/10_core_matrix.md R232 to R254; spec/02 R42, R45, R46). -/

namespace Sys2Proof.Machine

/-- The format of a matrix format code (Table 10.4). -/
def matFmt (code : Nat) : FloatFmt :=
  match code with
  | 0 => .f32
  | 1 => .f16
  | 2 => .bf16
  | 3 => .f64
  | 4 => .e4m3
  | 5 => .e5m2
  | _ => .e2m1

/-- K of a format (Table 10.5). -/
def matK (code : Nat) : Nat :=
  match code with
  | 0 => 8
  | 1 => 16
  | 2 => 16
  | 3 => 4
  | 6 => 64
  | _ => 32

/-- Groups of a format (Table 2.7). -/
def matGroups (code : Nat) : Nat := if code == 0 || code == 3 then 1 else if code == 6 then 4 else 2

/-- Bytes of a row of A or a column of B (Table 10.5). -/
def matRowBytes (code : Nat) : Nat := if code == 6 then 40 else 32

/-- The exact values of a row of A or a column of B, from its bytes as a number and its scale byte (R33, R241, R243). -/
def matValues (code : Nat) (row : Nat) (scale : Option Nat) : List FNum :=
  if code == 6 then
    (List.range 64).map fun k => e2m1Value (bits row (80 * (k / 16)) 80) (k % 16)
  else
    let f := matFmt code
    (List.range (matK code)).map fun k =>
      let v := decodeRaw f (bits row (f.width * k) f.width)
      match scale with
      | none => v
      | some x => if x == 0xFF then .nan false else v.ldexp ((x : Int) - 127)

/-- The exact sum of a group of products (R45): zero only as IEEE 754 addition gives it. -/
def groupSum : List FNum → FNum
  | [] => .zero false
  | [p] => p
  | p :: ps => (FNum.add false p (groupSum ps)).1

/-- GroupDot (R45, R46): an accumulator code after the groups of one row and one column. -/
def groupDot (acc : FloatFmt) (groups : Nat) (a b : List FNum) (t : Nat) : Nat :=
  let ps := (a.zip b).map fun (x, y) => (FNum.mul x y).1
  let n := ps.length / groups
  (List.range groups).foldl (fun t g =>
    (roundTo acc .nearest (FNum.add false (decodeRaw acc t) (groupSum ((ps.drop (n * g)).take n))).1).1) t

/-- The agent of a matrix operation. -/
def MatOp.agent (o : MatOp) : Agent := { core := o.core, ctx := o.ctx, priv := o.priv, wg := o.wg, combiner := false }
/-- The train of a matrix operation. -/
def MatOp.who (o : MatOp) : Who := { tid := o.tid, gen := o.gen, sid := o.sid }

/-- The pieces of a range that lie in one line each: address and length. -/
def linePieces (a n : Nat) : List (Nat × Nat) :=
  let first := min n (128 - a % 128)
  if first == n then [(a, n)] else [(a, first), (a + first, n - first)]

/-- The checked places of a range, line by line (R246); the lines are translated as global accesses of them. -/
def pieceLocs (s : State) (g : Agent) (need : Need) : List (Nat × Nat) → Except (Kind × Nat × Word) (List (Loc × Nat))
  | [] => .ok []
  | (a, n) :: ps =>
    let a := a % 2 ^ 64
    let c := checkGlobal s g need false (a / 128 * 128) 128
    match (if need == .write then checkStore s c else checkData s c) with
    | .error (k, info) => .error (k, a, info)
    | .ok l =>
      match pieceLocs s g need ps with
      | .error e => .error e
      | .ok ls => .ok ((l.plus (a % 128), n) :: ls)

/-- Reads the bytes of checked pieces at their homes: the number, the timestamp and the state. -/
def readPieces (g : Agent) : List (Loc × Nat) → Nat → State → Nat × Nat × State
  | [], ts, s => (0, ts, s)
  | (l, n) :: ps, ts, s =>
    let (v, ts, s) := agentLoad g ts l n s
    let (w, ts, s) := readPieces g ps ts s
    (v + 2 ^ (8 * n) * w, ts, s)

/-- Writes a number into checked pieces at their homes. -/
def writePieces (g : Agent) : List (Loc × Nat) → Nat → Nat → State → Nat × State
  | [], _, ts, s => (ts, s)
  | (l, n) :: ps, x, ts, s =>
    let (ts, s) := agentStore g ts l n (x % 2 ^ (8 * n)) s
    writePieces g ps (x / 2 ^ (8 * n)) ts s

/-- Fields of the format block (Tables 10.2, 10.3). -/
def blockFmt (w : Word) : Nat := w.toNat % 16
/-- SCL of a control word. -/
def blockScl (w : Word) : Nat := bits w.toNat 8 2
/-- STRIDE of a control word: 0 means the row size. -/
def blockStride (w : Word) : Nat :=
  let x := bits w.toNat 12 20
  if x == 0 then matRowBytes (blockFmt w) else x
/-- A base address of a format block. -/
def blockBase (b : List Word) (k : Nat) : Nat := (b.getD k 0).toNat + 2 ^ 32 * (b.getD (k + 1) 0).toNat

/-- The address of row `i` of an MLDA or MSTA (R250). -/
def rowAddr (o : MatOp) (i : Nat) : Nat := walkAddr o.addr ((i : Int) * o.stride)

/-- What the tile fetch unit reads for an operation, in order (R246, R250): address, bytes and row. -/
def fetchRows (o : MatOp) : List (Nat × Nat × Nat) :=
  let rows (base stride n : Nat) (is : List Nat) : List (Nat × Nat × Nat) := is.map fun i => ((base + i * stride) % 2 ^ 64, n, i)
  if o.rows == 0 then []
  else match o.kind with
    | 0 =>
      let wa := o.block.getD 0 0
      let wb := o.block.getD 1 0
      (if o.minor.testBit 1 then rows (blockBase o.block 4) (blockStride wb) (matRowBytes (blockFmt wb)) (List.range 32) else [])
        ++ (if o.minor.testBit 0 then rows (blockBase o.block 2) (blockStride wa) (matRowBytes (blockFmt wa)) (lanesOf o.rows) else [])
    | 2 => if o.minor.testBit 0 then [] else (lanesOf o.rows).map fun i => (rowAddr o i, 128, i)
    | _ => []

/-- The lines that the tile fetch unit reads for an operation. -/
def fetchLines (o : MatOp) : List Nat :=
  ((fetchRows o).map fun (a, n, _) => (linePieces a n).map fun p => p.1 % 2 ^ 64 / 128).flatten

/-- The fetch of a line is watched (R434): a range raises its event with the line that holds the first byte of the operation's first
watched row. -/
def fetchWatch (o : MatOp) (line : Nat) (s : State) : MatOp × State :=
  let hits := ((fetchRows o).map fun (a, n, i) => (watchHits s o.ctx true true false a n).map fun (w, b) => (w, b, n, i)).flatten
  let due := ((hits.map (·.1)).eraseDups.filterMap fun w => hits.find? fun h => h.1 == w).filter fun h =>
    h.2.1 % 2 ^ 64 / 128 == line && !o.seen.contains h.1
  due.foldl (fun (o, s) (w, b, n, i) =>
    ({ o with seen := w :: o.seen }, engEvent o.ctx o.joined (issuerGone s o.who) 2 true false n i w b s)) (o, s)

/-- What an operation has of a line: what the tile fetch unit has read before, else the line as it stands at its home now, so that a
write between issue and completion is seen or not line by line (R246, R247). -/
def fetchLine (o : MatOp) (line : Nat) (s : State) : Except (Kind × Word) (Nat × MatOp × State) :=
  match Tab.find o.lines line with
  | some v => .ok (v, o, s)
  | none =>
    match checkData s (checkGlobal s o.agent .read false (128 * line) 128) with
    | .error e => .error e
    | .ok l =>
      let (v, ts, s) := agentLoad o.agent o.ts l 128 (useTranslation o.agent (128 * line) s)
      let (o, s) := fetchWatch o line s
      .ok (v, { o with ts := ts, lines := Tab.put o.lines line v }, s)

/-- The bytes of a global range from its lines. -/
def fetchPieces : List (Nat × Nat) → MatOp → State → Except (Kind × Nat × Word) (Nat × MatOp × State)
  | [], o, s => .ok (0, o, s)
  | (a, n) :: ps, o, s =>
    let a := a % 2 ^ 64
    match fetchLine o (a / 128) s with
    | .error (k, info) => .error (k, a, info)
    | .ok (v, o, s) =>
      match fetchPieces ps o s with
      | .error e => .error e
      | .ok (w, o, s) => .ok (bits v (8 * (a % 128)) (8 * n) + 2 ^ (8 * n) * w, o, s)

/-- The bytes of a global range by the tile fetch unit (R246, R247). -/
def fetchRow (o : MatOp) (a n : Nat) (s : State) : Except (Kind × Nat × Word) (Nat × MatOp × State) := fetchPieces (linePieces a n) o s

/-- A resident line takes a fetch pin of an operation; where its set holds two, the line has been copied into the staging buffer
instead (R248). -/
def pinLine (l : Loc) (o : MatOp) (s : State) : MatOp × State :=
  match l with
  | .phys pa _ _ _ _ =>
    match Tab.find s.l2 (pa / 128) with
    | some x =>
      if (setLines s x.slice (setOf (pa / 128))).foldl (fun n y => n + y.2.fetch) 0 < 2 then
        ({ o with pins := pa / 128 :: o.pins }, { s with l2 := Tab.put s.l2 (pa / 128) { x with fetch := x.fetch + 1 } })
      else (o, s)
    | none => (o, s)
  | _ => (o, s)

/-- The fetch pins of an operation end (R248). -/
def unpinLines (o : MatOp) (s : State) : State :=
  { s with l2 := o.pins.foldl (fun t k => Tab.upd t k fun l => { l with fetch := l.fetch - 1 }) s.l2 }

/-- The bytes of a range of the workgroup's memory or tiles, stamped as loads (R345); an uncorrectable error stops the operation
(R256). -/
def localRow (o : MatOp) (place : Nat → Loc) (a n : Nat) (s : State) : Except (Kind × Nat × Word) (Nat × MatOp × State) :=
  let ps := (linePieces a n).map fun (b, k) => (place b, k)
  match ps.findSome? fun p => badSource s p.1 with
  | some x => .error (.machineCheck, a, BitVec.ofNat 32 x)
  | none =>
    let (v, ts, s) := readPieces o.agent ps o.ts s
    .ok (v, { o with ts := ts }, s)

/-- Writes a global range by the matrix unit. -/
def storeRow (o : MatOp) (a n x pos : Nat) (s : State) : Except (Kind × Nat × Word) (MatOp × State) :=
  match pieceLocs s o.agent .write (linePieces a n) with
  | .error e => .error e
  | .ok ls =>
    let (ts, s) := writePieces o.agent ls x o.ts (useTranslation o.agent a s)
    let (seen, s) := engWatch o.ctx o.joined (issuerGone s o.who) 2 false true a n pos o.seen s
    .ok ({ o with ts := ts, seen := seen }, s)

/-- One row of an operand: from local memory, or by the tile fetch unit. -/
def operandRow (o : MatOp) (l2 : Bool) (base stride n i : Nat) (s : State) :
    Except (Kind × Nat × Word) (Nat × MatOp × State) :=
  let a := (base + i * stride) % 2 ^ 64
  if l2 then fetchRow o a n s else localRow o (.loc o.wg) a n s

/-- What stops the reads of an operation: the fault, and the operation and the state with what came before it (R434). -/
abbrev MatFault := (Kind × Nat × Word) × MatOp × State

/-- The rows of an operand in a list of row numbers: their bytes by row. -/
def operandRows (l2 : Bool) (base stride n : Nat) : List Nat → MatOp → State →
    Except MatFault (Tab Nat × MatOp × State)
  | [], o, s => .ok ([], o, s)
  | i :: is, o, s =>
    match operandRow o l2 base stride n i s with
    | .error e => .error (e, o, s)
    | .ok (v, o, s) =>
      match operandRows l2 base stride n is o s with
      | .error e => .error e
      | .ok (t, o, s) => .ok (Tab.put t i v, o, s)

/-- One control word within R240. -/
def controlOk (w : Word) : Bool :=
  let f := blockFmt w
  let c := blockScl w
  decide (f < 7) && bits w.toNat 4 4 == 0 && bits w.toNat 10 2 == 0 && c != 3
    && (c != 1 || f == 4 || f == 5) && ((c == 2) == (f == 6))

/-- The format block is legal for a tile (R240). -/
def blockOk (b : List Word) (tile tiles : Nat) : Bool :=
  let x := b.getD 0 0
  let y := b.getD 1 0
  let p := blockFmt x
  let q := blockFmt y
  controlOk x && controlOk y
    && (p == q || (p == 4 && q == 5) || (p == 5 && q == 4) || (p == 1 && q == 2) || (p == 2 && q == 1))
    && (p != 3 || (tile % 2 == 0 && decide (tile + 1 < tiles)))

/-- Tiles that an MMA writes. -/
def mmaTiles (o : MatOp) : List Nat := if blockFmt (o.block.getD 0 0) == 3 then [o.tile, o.tile + 1] else [o.tile]

/-- The byte offset of element (i, j) of an accumulator of a format (R199, R232). -/
def accOffset (wide : Bool) (tile i j : Nat) : Nat :=
  if wide then 12288 * (tile + j / 16) + 128 * i + 8 * (j % 16) else 12288 * tile + 128 * i + 4 * j

/-- An accumulator element. -/
def accGet (s : State) (w : Nat) (wide : Bool) (tile i j : Nat) : Nat :=
  (s.wg w).acc.readLE (accOffset wide tile i j) (if wide then 8 else 4)

/-- Writes an accumulator element; the bytes become visible with the operation's one-step write (R235). -/
def accSet (w : Nat) (wide : Bool) (tile i j x : Nat) (s : State) : State :=
  s.updWg w fun g => { g with acc := g.acc.writeLE (accOffset wide tile i j) (if wide then 8 else 4) x }

/-- Stamps the rows of a tile that an operation writes, as stores (R340, R345). -/
def stampRows (tile : Nat) (rows : List Nat) (o : MatOp) (s : State) : MatOp × State :=
  rows.foldl (fun (o, s) i =>
    let (ts, s) := stampStore o.ts (lineKey (.acc o.wg (12288 * tile + 128 * i))) s
    ({ o with ts := ts }, s)) (o, s)

/-- The scale byte of row `i` of an operand, if it is scaled (R241). -/
def scaleByte (o : MatOp) (s : State) (ctl reg i : Nat) : Option Nat :=
  if blockScl (o.block.getD ctl 0) == 1 then
    some ((s.wg o.wg).mem.readLE ((o.block.getD reg 0).toNat + i) 1)
  else none

/-- The reads of the scale bytes of some rows of a scaled operand (R241). -/
def readScales (o : MatOp) (ctl reg : Nat) : List Nat → MatOp → State → Except MatFault (MatOp × State)
  | [], x, s => .ok (x, s)
  | i :: is, x, s =>
    if blockScl (o.block.getD ctl 0) == 1 then
      match localRow x (.loc o.wg) ((o.block.getD reg 0).toNat + i) 1 s with
      | .error e => .error (e, x, s)
      | .ok (_, x, s) => readScales o ctl reg is x s
    else .ok (x, s)

/-- The reads of some rows of a tile; a row with an uncorrectable error comes with the fault (R256). -/
def readTile (tile : Nat) : List Nat → MatOp → State → Except ((Kind × Nat × Word) × Nat) (MatOp × State)
  | [], o, s => .ok (o, s)
  | i :: is, o, s =>
    match localRow o (.acc o.wg) (12288 * tile + 128 * i) 128 s with
    | .error e => .error (e, i)
    | .ok (_, o, s) => readTile tile is o s

/-- The reads of some rows of some tiles. -/
def readTiles (rows : List Nat) : List Nat → MatOp → State → Except ((Kind × Nat × Word) × Nat) (MatOp × State)
  | [], o, s => .ok (o, s)
  | t :: ts, o, s =>
    match readTile t rows o s with
    | .error e => .error e
    | .ok (o, s) => readTiles rows ts o s

/-- The result of an operation: its status, the fault that stopped it with its row, and the state. -/
abbrev MatResult := MatOp × Nat × Option (Kind × Nat × Word × Nat) × State

/-- A stop by a fault (R244, R246). -/
def matStop (o : MatOp) (e : Kind × Nat × Word) (pos : Nat) (s : State) : MatResult :=
  (o, 1, some (e.1, e.2.1, e.2.2, pos), s)

/-- Sets the ERR bits of tiles (R244). -/
def setErr (w : Nat) (tiles : List Nat) (s : State) : State :=
  s.updWg w fun g => { g with tileErr := tiles.foldl (fun l t => if l.contains t then l else t :: l) g.tileErr }

/-- Clears the ERR bit of a tile (R245). -/
def clearErr (w tile : Nat) (s : State) : State := s.updWg w fun g => { g with tileErr := g.tileErr.filter (· != tile) }

/-- Some of the tiles is in error (R245). -/
def anyErr (s : State) (w : Nat) (tiles : List Nat) : Bool := tiles.any fun t => (s.wg w).tileErr.contains t

/-- The reads of an MMA: the columns of B, the rows of A, the scales of both and the updating rows of the tile (R243). -/
def mmaReads (o : MatOp) (s : State) : Except MatFault (Tab Nat × Tab Nat × MatOp × State) := do
  let wa := o.block.getD 0 0
  let wb := o.block.getD 1 0
  let rows := lanesOf o.rows
  let (b, o, s) ← operandRows (o.minor.testBit 1) (blockBase o.block 4) (blockStride wb) (matRowBytes (blockFmt wb)) (List.range 32) o s
  let (a, o, s) ← operandRows (o.minor.testBit 0) (blockBase o.block 2) (blockStride wa) (matRowBytes (blockFmt wa)) rows o s
  let (o, s) ← readScales o 0 6 rows o s
  let (o, s) ← readScales o 1 7 (List.range 32) o s
  match readTiles rows (mmaTiles o) o s with
  | .error e => .error (e.1, o, s)
  | .ok (o, s) => .ok (a, b, o, s)

/-- MMA's multiplication and tile write (R243). Without rows it completes with status 0 on a tile with ERR too: the pseudocode of R243 returns before
the ERR check that R245 puts first (DEDUCED, log 46). -/
def runMma (o : MatOp) (s : State) : MatResult :=
  if o.rows == 0 then (o, 0, none, s)
  else if anyErr s o.wg (mmaTiles o) then (o, 2, none, s)
  else
    match mmaReads o s with
    | .error (e, o, s) => matStop o e 0 (setErr o.wg (mmaTiles o) s)
    | .ok (a, b, o, s) =>
      let fa := blockFmt (o.block.getD 0 0)
      let fb := blockFmt (o.block.getD 1 0)
      let rows := lanesOf o.rows
      let wide := fa == 3
      let acc := if wide then FloatFmt.f64 else FloatFmt.f32
      let cols := (List.range 32).map fun j => matValues fb (Tab.get 0 b j) (scaleByte o s 1 7 j)
      let s' := rows.foldl (fun s i =>
        let av := matValues fa (Tab.get 0 a i) (scaleByte o s 0 6 i)
        cols.zipIdx.foldl (fun s (bv, j) =>
          accSet o.wg wide o.tile i j (groupDot acc (matGroups fa) av bv (accGet s o.wg wide o.tile i j)) s) s) s
      let (o, s') := (mmaTiles o).foldl (fun (o, s) t => stampRows t rows o s) (o, s')
      (o, 0, none, s')

/-- MZERO (R249). -/
def runMzero (o : MatOp) (s : State) : MatResult :=
  let s := s.updWg o.wg fun g =>
    { g with acc := g.acc.filter fun c => !(decide (12288 * o.tile ≤ c.1) && decide (c.1 < 12288 * (o.tile + 1))) }
  let (o, s) := stampRows o.tile (List.range 96) o s
  (o, 0, none, clearErr o.wg o.tile s)

/-- MLDA's rows into the tile (R250). -/
def runMlda (o : MatOp) (s : State) : MatResult :=
  let rows := lanesOf o.rows
  let rec read : List Nat → MatOp → State → Except (MatFault × Nat) (Tab Nat × MatOp × State)
    | [], o, s => .ok ([], o, s)
    | i :: is, o, s =>
      let r := if o.minor.testBit 0 then localRow o (.loc o.wg) (rowAddr o i) 128 s else fetchRow o (rowAddr o i) 128 s
      match r with
      | .error e => .error ((e, o, s), i)
      | .ok (v, o, s) =>
        match read is o s with
        | .error e => .error e
        | .ok (t, o, s) => .ok (Tab.put t i v, o, s)
  match read rows o s with
  | .error ((e, o, s), i) => matStop o e i (setErr o.wg [o.tile] s)
  | .ok (t, o, s) =>
    let s := rows.foldl (fun s i => s.updWg o.wg fun g =>
      { g with acc := g.acc.writeLE (12288 * o.tile + 128 * i) 128 (Tab.get 0 t i) }) s
    let (o, s) := stampRows o.tile rows o s
    (o, 0, none, clearErr o.wg o.tile s)

/-- MSTA's rows in ascending order, up to a fault (R250). All take effect within the completion step (DESIGN CHOICE, log 132). -/
def storeRows : List Nat → MatOp → State → MatResult
  | [], o, s => (o, 0, none, s)
  | i :: is, o, s =>
    match localRow o (.acc o.wg) (12288 * o.tile + 128 * i) 128 s with
    | .error e => matStop o e i s
    | .ok (x, o, s) =>
      if o.minor.testBit 0 then
        let ls := (linePieces (rowAddr o i) 128).map fun (a, n) => (Loc.loc o.wg a, n)
        let (ts, s) := writePieces o.agent ls x o.ts s
        storeRows is { o with ts := ts } s
      else
        match storeRow o (rowAddr o i) 128 x i s with
        | .error e => matStop o e i s
        | .ok (o, s) => storeRows is o s

/-- MSTA (R250). Without rows it completes with status 0 on a tile with ERR too: the last sentence of R250 against R245 (DEDUCED, log 46). -/
def runMsta (o : MatOp) (s : State) : MatResult :=
  if o.rows == 0 then (o, 0, none, s)
  else if anyErr s o.wg [o.tile] then (o, 2, none, s)
  else storeRows (lanesOf o.rows) o s

/-- The rounding of the `k`-th rounding of lane `i` in an operation, from the generators at issue (R251, R253). -/
def MatOp.rounding (o : MatOp) (i k : Nat) : Rounding :=
  { rnd := o.rnd, sat := o.sat, draw := if o.rnd == 6 then genDraw (genSteps (o.gens.getD i 0) (k + 1)) else 0 }

/-- Tiles that an MCVT reads and writes (Table 10.8). -/
def mcvtTiles (o : MatOp) : List Nat × List Nat :=
  (if o.minor == 0 then [o.source, o.source + 1] else [o.source], if o.minor == 3 then [o.tile, o.tile + 1] else [o.tile])

/-- The destination elements of one row of an MCVT: code by element. -/
def mcvtRow (o : MatOp) (s : State) (i : Nat) : List Nat :=
  let src := if o.minor == 0 then FloatFmt.f64 else FloatFmt.f32
  let dst := matFmt o.minor
  (List.range 32).map fun j =>
    (roundTo dst (o.rounding i j) (decodeRaw src (accGet s o.wg (o.minor == 0) o.source i j))).1

/-- MCVT (R251): every source row is read before a destination row is written. A stop sets the ERR bits of the destination, as of
any tile that an operation writes (R244, DEDUCED, log 101). -/
def runMcvt (o : MatOp) (s : State) : MatResult :=
  let (src, dst) := mcvtTiles o
  let rows := lanesOf o.rows
  if anyErr s o.wg (src ++ dst) then (o, 2, none, s)
  else if o.rows == 0 then (o, 0, none, s)
  else
    match readTiles rows src o s with
    | .error (e, i) => matStop o e i (setErr o.wg dst s)
    | .ok (o, s) =>
    let vals := rows.map fun i => (i, mcvtRow o s i)
    let w := (matFmt o.minor).width
    let s := vals.foldl (fun s (i, v) =>
      if o.minor == 3 then v.zipIdx.foldl (fun s (x, j) => accSet o.wg true o.tile i j x s) s
      else s.updWg o.wg fun g => { g with acc := g.acc.writeLE (12288 * o.tile + 128 * i) 128 (packElems w v) }) s
    let (o, s) := dst.foldl (fun (o, s) t => stampRows t rows o s) (o, s)
    (o, 0, none, s)

/-- A block that MQNT rounds: all values finite, one of them not zero (R253). -/
def blockRounds (xs : List FNum) : Bool := xs.all (fun x => !x.isNan && !x.isInf) && xs.any fun x => !x.isZero

/-- The magnitude of a finite value. -/
def numAbs (x : FNum) : FNum :=
  match x with
  | .fin _ n d => .fin false n d
  | y => y

/-- The largest magnitude of finite values. -/
def maxAbs (xs : List FNum) : FNum := xs.foldl (fun m x => if FNum.lt m (numAbs x) then numAbs x else m) (.zero false)

/-- The distance of two finite values. -/
def distance (x y : FNum) : FNum := numAbs (FNum.add false x y.negate).1

/-- Quantises one block of MQNT (R253): codes, scale and spare; `k0` roundings of the lane came before. -/
def quantise (o : MatOp) (i k0 : Nat) (xs : List FNum) : List Nat × Nat × Nat :=
  let f := matFmt o.minor
  let emax : Int := if o.minor == 4 then 8 else if o.minor == 5 then 15 else 2
  if xs.any fun x => x.isNan || x.isInf then (xs.map fun _ => 0, 0xFF, 0)
  else
    match maxAbs xs with
    | .fin _ n d =>
      if n == 0 then (xs.map fun _ => 0, 0, 0)
      else
        let e := ilog2 n d - emax + 127
        let scale := if e < 0 then 0 else if 254 < e then 254 else e.toNat
        let ys := xs.map fun x => x.ldexp (127 - (scale : Int))
        let codes := ys.zipIdx.map fun (y, k) => (roundTo f (o.rounding i (k0 + k)) y).1
        if o.minor == 6 then
          let top := maxAbs ys
          let ym := (ys.find? fun y => FNum.eqv (numAbs y) top).getD (.zero false)
          let spare := (roundTo .e4m3 { o.rounding i (k0 + 16) with sat := true } ym).1
          let codes := (ys.zip codes).map fun (y, c) =>
            if FNum.lt (distance y (decodeRaw .e4m3 spare)) (distance y (decodeRaw .e2m1 c)) then 8 else c
          (codes, scale, spare)
        else (codes, scale, 0)
    | _ => (xs.map fun _ => 0, 0, 0)

/-- The ten bytes of an E2M1 block (R30, R31). -/
def packBlock (codes : List Nat) (scale spare : Nat) : Nat :=
  codes.zipIdx.foldl (fun n (c, k) => n + c * 2 ^ (4 * nibblePos k)) (scale * 2 ^ 64 + spare * 2 ^ 72)

/-- The values of a row of an FP32 tile. -/
def tileRow (s : State) (w tile i : Nat) : List FNum :=
  (List.range 32).map fun j => decodeRaw .f32 (accGet s w false tile i j)

/-- What MQNT writes for a row: (address, bytes, value) of the codes and, for FP8, of the scale (R252). -/
def quantRow (o : MatOp) (s : State) (i : Nat) : List (Nat × Nat × Nat) :=
  let xs := tileRow s o.wg o.tile i
  if o.minor == 6 then
    let lo := xs.take 16
    let hi := xs.drop 16
    let k := if blockRounds lo then 17 else 0
    let (c0, s0, p0) := quantise o i 0 lo
    let (c1, s1, p1) := quantise o i k hi
    [((o.addr + 40 * i) % 2 ^ 64, 20, packBlock c0 s0 p0 + 2 ^ 80 * packBlock c1 s1 p1)]
  else
    let (c, sc, _) := quantise o i 0 xs
    [((o.addr + 32 * i) % 2 ^ 64, 32, packElems 8 c), ((o.scale + i) % 2 ^ 64, 1, sc)]

/-- Roundings of a row of an MQNT under code 6 (R253). -/
def quantDraws (minor : Nat) (xs : List FNum) : Nat :=
  if minor == 6 then (if blockRounds (xs.take 16) then 17 else 0) + (if blockRounds (xs.drop 16) then 17 else 0)
  else if blockRounds xs then 32 else 0

/-- The first fault among the parts of a row. -/
def partsFault (s : State) (g : Agent) : List (Nat × Nat × Nat) → Option (Kind × Nat × Word)
  | [] => none
  | (a, n, _) :: ps =>
    match pieceLocs s g .write (linePieces a n) with
    | .error e => some e
    | .ok _ => partsFault s g ps

/-- Writes the parts of a row, all of which have been checked. -/
def quantStore (i : Nat) : List (Nat × Nat × Nat) → MatOp → State → Except (Kind × Nat × Word) (MatOp × State)
  | [], o, s => .ok (o, s)
  | (a, n, x) :: ps, o, s =>
    match storeRow o a n x i s with
    | .error e => .error e
    | .ok (o, s) => quantStore i ps o s

/-- MQNT's rows in ascending order, up to a fault (R252). -/
def quantRows : List Nat → MatOp → State → MatResult
  | [], o, s => (o, 0, none, s)
  | i :: is, o, s =>
    match readTile o.tile [i] o s with
    | .error (e, _) => matStop o e i s
    | .ok (o, s) =>
      match partsFault s o.agent (quantRow o s i) with
      | some e => matStop o e i s
      | none =>
        match quantStore i (quantRow o s i) o s with
        | .error e => matStop o e i s
        | .ok (o, s) => quantRows is o s

/-- MQNT (R252): the ERR check comes before every other outcome (R245). -/
def runMqnt (o : MatOp) (s : State) : MatResult :=
  if anyErr s o.wg [o.tile] then (o, 2, none, s)
  else if o.rows == 0 then (o, 0, none, s)
  else quantRows (lanesOf o.rows) o s

/-- The effect of a matrix operation (R243, R249 to R253). -/
def runMatOp (o : MatOp) (s : State) : MatResult :=
  match o.kind with
  | 0 => runMma o s
  | 1 => runMzero o s
  | 2 => runMlda o s
  | 3 => runMsta o s
  | 4 => runMcvt o s
  | _ => runMqnt o s

/-- Tiles that an operation writes. -/
def writtenTiles (o : MatOp) : List Nat :=
  match o.kind with
  | 0 => mmaTiles o
  | 4 => (mcvtTiles o).2
  | 3 => []
  | 5 => []
  | _ => [o.tile]

/-- An earlier operation must complete first: of the same train, or a write to the same tile (R234, R235). -/
def matBlocked (s : State) (id : Nat) (o : MatOp) : Bool :=
  s.mats.any fun (k, x) =>
    decide (k < id) && ((x.tid == o.tid && x.gen == o.gen) ||
      (x.wg == o.wg && (writtenTiles x).any fun t => (writtenTiles o).contains t))

/-- THE TILE FETCH UNIT reads one more line of an operation and holds it for the matrix unit (R247, R248); a line that may not be
read is met at the completion (DESIGN CHOICE, log 31). -/
def tileFetch (id : Nat) (s : State) : State :=
  match Tab.find s.mats id with
  | none => s
  | some o =>
    match (fetchLines o).find? fun k => (Tab.find o.lines k).isNone with
    | none => s
    | some k =>
      match checkGlobal s o.agent .read false (128 * k) 128, fetchLine o k s with
      | .ok l, .ok (_, o, s) =>
        let (o, s) := pinLine l o s
        { s with mats := Tab.put s.mats id o }
      | _, _ => s

/-- Completes a matrix operation (R234, R244): its effect, counter, token and arrival, or its fault in the engine log. Operations of
a context that is being killed have no effect (R254). -/
def completeMat (id : Nat) (o : MatOp) (s : State) : State :=
  let s := unpinLines o { s with mats := Tab.del s.mats id }
  if wgGone s o.wg || s.killed.contains o.ctx then s
  else
    let (o, status, stop, s) := runMatOp o s
    let s := match stop with
      | some (k, a, info, pos) => engineFault o.ctx o.joined k a 0 info pos s
      | none => s
    let kind := match stop with
      | some (k, _) => k.code
      | none => 0
    let s := endOperation o.who (if o.counted then some .tile else none) o.tok (BitVec.ofNat 32 (kind * 256 + status)) o.ts s
    -- the train's later arrivals cover the operation (R236, R353)
    let s := if s.present o.who then
        s.updTrain o.tid fun t => ({ t with matTs := max t.matTs o.ts } : Train).settleArrivals id o.ts
      else s
    match o.arr with
    | some k => arrive o.wg k o.ts o.lam s
    | none => s

/-- MATRIX_OP_COMPLETION: the operation completes unless an earlier one must come first (R234, R235). -/
def execMatrixOpCompletion (id : Nat) (s : State) : Result :=
  match Tab.find s.mats id with
  | none => .next s
  | some o => .next (if matBlocked s id o then s else completeMat id o s)

/-- Rows of the issuing split: active lanes without helpers (R49, R243). -/
def matRows (me : Me) (s : State) : LaneMask := me.active s &&& ~~~(me.train s).helpers

/-- What every matrix operation takes from its issuer. -/
def matBase (me : Me) (s : State) : MatOp :=
  let t := me.train s
  { tid := me.tid, gen := t.inc, sid := me.sid, joined := s.joined me.tid me.sid, ctx := t.ctx, core := me.core,
    priv := (s.launch t.launch).priv, wg := t.wg, rows := matRows me s, ts := t.pts, lam := t.lamport, gens := t.gens }

/-- Puts an operation in the unit's queue: the counter, the token, and the next word follow (R234). -/
def submitMat (o : MatOp) (me : Me) (s : State) : State :=
  if o.counted && counterFull .tile me s then stall 3 me s
  else
    let (id, s) := s.fresh
    let s := { s with mats := Tab.put s.mats id o }
    retire me (s.updTrain me.tid fun t =>
      ({ t with tile := if o.counted then t.tile + 1 else t.tile }).awaitToken o.tok 8)

/-- The first operand range of an MMA that leaves the local allotment (R242). -/
def mmaAperture (o : MatOp) (local_ : Nat) : Option Nat :=
  let wa := o.block.getD 0 0
  let wb := o.block.getD 1 0
  let rows := lanesOf o.rows
  let out (a n : Nat) : Option Nat := if a + n ≤ local_ then none else some a
  let rowsOut (l2 : Bool) (base stride n : Nat) (is : List Nat) : Option Nat :=
    if l2 then none else (is.filterMap fun i => out ((base + i * stride) % 2 ^ 64) n).head?
  let scales (w : Word) (reg : Nat) (is : List Nat) : Option Nat :=
    if blockScl w == 1 then (is.filterMap fun i => out ((o.block.getD reg 0).toNat + i) 1).head? else none
  ((rowsOut (o.minor.testBit 0) (blockBase o.block 2) (blockStride wa) (matRowBytes (blockFmt wa)) rows).orElse fun _ =>
    (rowsOut (o.minor.testBit 1) (blockBase o.block 4) (blockStride wb) (matRowBytes (blockFmt wb)) (List.range 32)).orElse
      fun _ => (scales wa 6 rows).orElse fun _ => scales wb 7 (List.range 32))

/-- MMA (R238 to R243): the checks at issue, in order. -/
def execMma (f : FmtA) (s : State) : Result :=
  issueAsync (.mma f) (fun me s => f.minor.toNat % 4 != 0 && counterFull .tile me s) s fun me s =>
    let t := me.train s
    let block := (List.range 8).map fun k => t.readS me.sid (f.desc.toNat + k)
    let o := { matBase me s with kind := 0, minor := f.minor.toNat, tile := bits f.imm.toNat 0 6, tok := f.tok.toNat,
                                 arr := if f.arr == 1 then some f.nb.toNat else none, block := block,
                                 counted := f.minor.toNat % 4 != 0 }
    let w := s.wg t.wg
    if !blockOk block o.tile w.tileCount then faultTrain .badHandle 0 me s
    else if o.rows == 0 then submitMat o me s
    else
      let bad := [blockBase block 2, blockBase block 4, bits (block.getD 0 0).toNat 12 20,
        bits (block.getD 1 0).toNat 12 20].find? fun a => a % 8 != 0
      match bad with
      | some a => faultAt .misaligned (BitVec.ofNat 64 a) 0 0 me s
      | none =>
        match mmaAperture o w.localSize with
        | some a => faultAt .aperture (BitVec.ofNat 64 a) 0 0 me s
        | none => submitMat o me s

/-- MZERO (R249). -/
def execMzero (f : FmtA) (s : State) : Result :=
  issueUncounted (.mzero f) s fun me s =>
    submitMat { matBase me s with kind := 1, tile := bits f.imm.toNat 0 6 } me s

/-- MLDA and MSTA: the checks at issue (R250). -/
def issueRows (i : Instr) (kind : Nat) (f : FmtA) (s : State) : Result :=
  issueAsync i (counterFull .tile) s fun me s =>
    let t := me.train s
    let o := { matBase me s with kind := kind, minor := f.minor.toNat, tile := bits f.imm.toNat 0 6, tok := f.tok.toNat,
                                 arr := if f.arr == 1 then some f.nb.toNat else none, counted := true,
                                 addr := t.readSN me.sid f.desc.toNat true,
                                 stride := (t.readS me.sid f.desc2.toNat).toInt }
    if o.rows == 0 then submitMat o me s
    else if o.addr % 16 != 0 || o.stride % 16 != 0 then faultAt .misaligned (BitVec.ofNat 64 o.addr) 0 0 me s
    else
      let size := (s.wg t.wg).localSize
      let bad := if f.minor == 1 then
          (lanesOf o.rows).find? fun i => decide (size < rowAddr o i + 128)
        else none
      match bad with
      | some i => faultAt .aperture (BitVec.ofNat 64 (rowAddr o i)) 0 0 me s
      | none => submitMat o me s

/-- MLDA (R250). -/
def execMlda (f : FmtA) (s : State) : Result := issueRows (.mlda f) 2 f s
/-- MSTA (R250). -/
def execMsta (f : FmtA) (s : State) : Result := issueRows (.msta f) 3 f s

/-- MCVT (R251): the generator values are drawn at issue. -/
def execMcvt (f : FmtA) (s : State) : Result :=
  issueUncounted (.mcvt f) s fun me s =>
    let r := effectiveRnd (me.train s).mode (bits f.imm.toNat 12 3)
    let o := { matBase me s with kind := 4, minor := f.minor.toNat, tile := bits f.imm.toNat 0 6,
                                 source := bits f.imm.toNat 6 6, rnd := r, sat := f.imm.toNat.testBit 15 }
    submitMat o me (s.updTrain me.tid fun t => t.advance r o.rows 32)

/-- MQNT (R252, R253): under code 6 the number of roundings hangs on the tile, so it waits for the train's earlier
operations before its values are drawn (DEDUCED, log 16). A generator advances at issue by what the tile's data asks for, also where the
tile turns out to be in error (DESIGN CHOICE, log 127). -/
def execMqnt (f : FmtA) (s : State) : Result :=
  issueAsync (.mqnt f) (counterFull .tile) s fun me s =>
    let t := me.train s
    let r := effectiveRnd t.mode (bits f.imm.toNat 12 3)
    let o := { matBase me s with kind := 5, minor := f.minor.toNat, tile := bits f.imm.toNat 0 6, tok := f.tok.toNat,
                                 arr := if f.arr == 1 then some f.nb.toNat else none, counted := true, rnd := r,
                                 sat := f.imm.toNat.testBit 15, addr := t.readSN me.sid f.desc.toNat true,
                                 scale := if f.minor == 6 then 0 else t.readSN me.sid f.desc2.toNat true }
    if o.rows == 0 then submitMat o me s
    else if o.addr % (if f.minor == 6 then 4 else 8) != 0 then faultAt .misaligned (BitVec.ofNat 64 o.addr) 0 0 me s
    else if counterFull .tile me s then stall 3 me s
    else if r == 6 && matsPending s me.tid then stall 9 me s
    else
      let draws (l : Nat) : Nat := quantDraws o.minor (tileRow s t.wg o.tile l)
      let s := if r == 6 then s.updTrain me.tid fun t =>
          { t with gens := updLanes o.rows t.gens fun l => genSteps (t.gens.getD l 0) (draws l) }
        else s
      submitMat o me s

end Sys2Proof.Machine
end

