-- ==== Sys2Proof/Machine/Meshlet.lean ====
section
/-! DEFINITION. The meshlet decompressor (spec/11_core_geometry_rays.md R257 to R260). -/

namespace Sys2Proof.Machine

/-- The agent of a decode. -/
def MdecOp.agent (o : MdecOp) : Agent := { core := o.core, ctx := o.ctx, priv := o.priv, wg := o.wg, combiner := false }

/-- What stops a decode: kind, address and INFO. -/
abbrev MdecStop := Kind × Nat × Word

/-- Bytes of the bitstream, read at their homes. -/
def mdecRead (a n pos : Nat) (o : MdecOp) (s : State) : Except MdecStop (Nat × MdecOp × State) :=
  match pieceLocs s o.agent .read (linePieces a n) with
  | .error e => .error e
  | .ok ls =>
    let (v, ts, s) := readPieces o.agent ls o.ts (useTranslation o.agent a s)
    let (seen, s) := engWatch o.ctx o.joined (issuerGone s o.who) 1 true false a n pos o.seen s
    .ok (v, { o with ts := ts, seen := seen }, s)

/-- Bits of the stream from bit `p` of the byte at `a` (R108, R258). -/
def mdecBits (a p n pos : Nat) (o : MdecOp) (s : State) : Except MdecStop (Nat × MdecOp × State) :=
  match mdecRead (a + p / 8) ((p % 8 + n + 7) / 8) pos o s with
  | .error e => .error e
  | .ok (v, o, s) => .ok (bits v (p % 8) n, o, s)

/-- Writes 4-byte words of the scratchpad upward from an offset; a word outside the allotment stops the decode, and a
workgroup that has left takes none (R222, R260). -/
def mdecWrite (off : Nat) : List Nat → MdecOp → State → Except (MdecStop × MdecOp × State) (MdecOp × State)
  | [], o, s => .ok (o, s)
  | w :: ws, o, s =>
    if wgGone s o.wg then .ok (o, s)
    else if (s.wg o.wg).localSize < off + 4 then .error ((.aperture, off, 0), o, s)
    else
      let (ts, s) := agentStore o.agent o.ts (.loc o.wg off) 4 w s
      mdecWrite (off + 4) ws { o with ts := ts } s

/-- The header (Table 11.1) from its 32 bytes. -/
structure MeshHeader where
  nv : Nat
  np : Nat
  qb : Nat
  origin : List Nat
  step : Nat

/-- Decodes the header; none on a breach. -/
def meshHeader (x : Nat) : Option MeshHeader :=
  let h : MeshHeader := { nv := bits x 0 16, np := bits x 16 16, qb := bits x 32 8,
                          origin := [bits x 64 32, bits x 96 32, bits x 128 32], step := bits x 160 32 }
  if 1 ≤ h.nv && h.nv ≤ 256 && h.np ≤ 512 && 1 ≤ h.qb && h.qb ≤ 16 && bits x 40 24 == 0 && bits x 192 64 == 0 then some h
  else none

/-- A position component (R258): origin + q times step, exact, rounded once. -/
def meshPos (origin step q : Nat) : Nat :=
  rne32 (FNum.add false (decodeRaw .f32 origin) (FNum.mul (FNum.ofInt (q : Int)) (decodeRaw .f32 step)).1).1

/-- The components of a vertex from stream bit `p`. -/
def meshVertex (h : MeshHeader) (a p pos : Nat) : List Nat → MdecOp → State → Except (MdecStop × MdecOp × State) (List Nat × MdecOp × State)
  | [], o, s => .ok ([], o, s)
  | org :: rest, o, s =>
    match mdecBits a p h.qb pos o s with
    | .error e => .error (e, o, s)
    | .ok (q, o, s) =>
      match meshVertex h a (p + h.qb) pos rest o s with
      | .error e => .error e
      | .ok (xs, o, s) => .ok (meshPos org h.step q :: xs, o, s)

/-- The vertex entries from vertex `v`, `n` of them. -/
def meshVertices (h : MeshHeader) (a : Nat) : Nat → Nat → MdecOp → State → Except (MdecStop × Nat × MdecOp × State) (MdecOp × State)
  | 0, _, o, s => .ok (o, s)
  | n + 1, v, o, s =>
    match meshVertex h a (3 * h.qb * v) v h.origin o s with
    | .error (e, o, s) => .error (e, v, o, s)
    | .ok (xs, o, s) =>
      match mdecWrite (o.dst + 16 + 16 * v) (xs ++ [0]) o s with
      | .error (e, o, s) => .error (e, v, o, s)
      | .ok (o, s) => meshVertices h a n (v + 1) o s

/-- The next primitive of the strip (Table 11.2): the triple and the bits used. -/
def meshPrim (h : MeshHeader) (a p pos : Nat) (prev : Option (Nat × Nat × Nat)) (o : MdecOp) (s : State) :
    Except (MdecStop × MdecOp × State) ((Nat × Nat × Nat) × Nat × MdecOp × State) :=
  match mdecBits a p 2 pos o s with
  | .error e => .error (e, o, s)
  | .ok (code, o, s) =>
    let breach : MdecStop := (.badHandle, a + p / 8, 0)
    match code, prev with
    | 0, _ =>
      match mdecBits a (p + 2) 24 pos o s with
      | .error e => .error (e, o, s)
      | .ok (x, o, s) =>
        let t := (bits x 0 8, bits x 8 8, bits x 16 8)
        if t.1 < h.nv && t.2.1 < h.nv && t.2.2 < h.nv then .ok (t, 26, o, s) else .error (breach, o, s)
    | 1, some (_, b, c) =>
      match mdecBits a (p + 2) 8 pos o s with
      | .error e => .error (e, o, s)
      | .ok (n, o, s) => if n < h.nv then .ok ((c, b, n), 10, o, s) else .error (breach, o, s)
    | 2, some (x, _, c) =>
      match mdecBits a (p + 2) 8 pos o s with
      | .error e => .error (e, o, s)
      | .ok (n, o, s) => if n < h.nv then .ok ((x, c, n), 10, o, s) else .error (breach, o, s)
    | _, _ => .error (breach, o, s)

/-- The index entries from primitive `k` at stream bit `p`, `n` of them. -/
def meshPrims (h : MeshHeader) (a : Nat) : Nat → Nat → Nat → Option (Nat × Nat × Nat) → MdecOp → State →
    Except (MdecStop × Nat × MdecOp × State) (MdecOp × State)
  | 0, _, _, _, o, s => .ok (o, s)
  | n + 1, k, p, prev, o, s =>
    match meshPrim h a p (h.nv + k) prev o s with
    | .error (e, o, s) => .error (e, h.nv + k, o, s)
    | .ok (t, used, o, s) =>
      match mdecWrite (o.dst + 16 + 16 * h.nv + 4 * k) [t.1 + 256 * t.2.1 + 65536 * t.2.2] o s with
      | .error (e, o, s) => .error (e, h.nv + k, o, s)
      | .ok (o, s) => meshPrims h a n (k + 1) (p + used) (some t) o s

/-- The whole decode (R260): the first 16 bytes are written last. -/
def runMdec (o : MdecOp) (s : State) : Except (MdecStop × Nat × MdecOp × State) (MdecOp × State) :=
  match mdecRead o.src 32 0 o s with
  | .error e => .error (e, 0, o, s)
  | .ok (x, o, s) =>
    match meshHeader x with
    | none => .error ((.badHandle, o.src, 0), 0, o, s)
    | some h =>
      match meshVertices h (o.src + 32) h.nv 0 o s with
      | .error e => .error e
      | .ok (o, s) =>
        match meshPrims h (o.src + 32 + (3 * h.nv * h.qb + 7) / 8) h.np 0 0 none o s with
        | .error e => .error e
        | .ok (o, s) =>
          match mdecWrite o.dst [h.nv, h.np, 0, 0] o s with
          | .error (e, o, s) => .error (e, h.nv + h.np, o, s)
          | .ok (o, s) => .ok (o, s)

/-- Ends a decode: counter, token and arrival (R260). -/
def endMdec (o : MdecOp) (v : Nat) (s : State) : State :=
  let s := endOperation o.who (some .copy) o.tok (BitVec.ofNat 32 v) o.ts s
  match o.arr with
  | some k => arrive o.wg k o.ts o.lam s
  | none => s

/-- MDEC_COMPLETION (R260). -/
def execMdecCompletion (id : Nat) (s : State) : Result :=
  match Tab.find s.mdecs id with
  | none => .next s
  | some o =>
    let s := { s with mdecs := Tab.del s.mdecs id }
    match runMdec o s with
    | .ok (o, s) => .next (endMdec o 0 s)
    | .error ((k, a, info), pos, o, s) =>
      .next (endMdec o (k.code * 256 + 1) (engineFault o.ctx o.joined k a 0 info pos s))

/-- MDEC (R259): the checks at issue, in order. -/
def execMdec (f : FmtA) (s : State) : Result :=
  issueAsync (.mdec f) (counterFull .copy) s fun me s =>
    let t := me.train s
    let src := t.readSN me.sid f.desc.toNat true
    let dst := t.readSN me.sid f.desc2.toNat true
    let arr := if f.arr == 1 then some f.nb.toNat else none
    if src % 16 != 0 then faultAt .misaligned (BitVec.ofNat 64 src) 0 0 me s
    else if dst % 16 != 0 then faultAt .misaligned (BitVec.ofNat 64 dst) 0 0 me s
    else if (s.wg t.wg).localSize ≤ dst then faultAt .aperture (BitVec.ofNat 64 dst) 0 0 me s
    else if arr.isSome && !(s.bar t.wg f.nb.toNat).valid then faultTrain .badHandle 0 me s
    else if counterFull .copy me s then stall 3 me s
    else
      let (id, s) := s.fresh
      let o : MdecOp := { who := me.who s, joined := s.joined me.tid me.sid, ctx := t.ctx, core := me.core,
                          priv := (s.launch t.launch).priv, wg := t.wg, src := src, dst := dst, tok := f.tok.toNat,
                          arr := arr, ts := t.pts, lam := t.lamport, seen := [] }
      let s := { s with mdecs := Tab.put s.mdecs id o }
      retire me (s.updTrain me.tid fun t => { t with copies := t.copies + 1 }.awaitToken f.tok.toNat 8)

end Sys2Proof.Machine
end

