-- ==== Sys2Proof/Machine/RayTest.lean ====
section
/-! DEFINITION. Box and triangle tests, traversal stacks and hit records (spec/11_core_geometry_rays.md R268 to R275). -/

namespace Sys2Proof.Machine

/-- Reads lines at their places for a train, one load each, a box node through the node cache (R270). -/
def loadLines (node : Bool) (tid : Nat) : List Loc → State → List Byte × State
  | [], s => ([], s)
  | l :: ls, s =>
    let (v, s) := cachedLoad node tid l 128 s
    let (rest, s) := loadLines node tid ls s
    (leBytes 128 v ++ rest, s)

/-- Checks the lines of a node or leaf as LD lanes are checked; the first that faults stops the lane (R270). -/
def checkLines (node : Bool) (s : State) (tid : Nat) : List Nat → Except (Nat × Kind × Word) (List Loc)
  | [] => .ok []
  | a :: as =>
    match checkLoad node s tid (checkGlobal s (trainAgent s tid) .read false a 128) with
    | .error (k, info) => .error (a, k, info)
    | .ok l =>
      match checkLines node s tid as with
      | .error e => .error e
      | .ok ls => .ok (l :: ls)

/-- Reads `n` bytes of the structure at `a` for a lane, of a box node or of a leaf (R270): the bytes, the first watched byte, and
the state. -/
def readStructure (node : Bool) (tid a n : Nat) (s : State) : Except (Nat × Kind × Word) (List Byte × Option (Nat × Nat) × State) :=
  let g := trainAgent s tid
  let as := (List.range ((n + 127) / 128)).map fun k => (a + 128 * k) % 2 ^ 64
  match checkLines node s tid as with
  | .error e => .error e
  | .ok ls =>
    let (bs, s) := loadLines node tid ls (as.foldl (fun s a => useTranslation g a s) s)
    .ok (bs.take n, watchHit s g.ctx false true false a n, s)

/-- OFFSET of a pointer word in bytes (Table 11.7). -/
def ptrOffset (p : Nat) : Nat := p / 16 * 128
/-- KIND of a pointer word (Table 11.7). -/
def ptrKind (p : Nat) : Nat := p % 16

/-- F32 codes rounded in a direction from an exact value (R269, R272). -/
def f32Dir (rnd : Nat) (x : FNum) : Nat := (roundTo .f32 { rnd := rnd } x).1

/-- The eight ray registers of a lane as F32 codes: origin, direction, tmin, tmax (R266). -/
def rayCodes (s : State) (t : Train) (sid a l : Nat) : List Nat :=
  (List.range 8).map fun k => (readWord s t sid (a + k) l).toNat

/-- The bounds of child `k` on axis `c` as F32 codes; none where its quantised bounds are inverted (R269). -/
def childBound (node : List Byte) (k c : Nat) : Option (Nat × Nat) :=
  let byte (i : Nat) : Nat := (node.getD i 0).toNat
  let qlo := byte (48 + 6 * k + c)
  let qhi := byte (51 + 6 * k + c)
  let e := signed (byte (12 + c)) 8
  let org := decodeRaw .f32 (leNat ((node.drop (4 * c)).take 4))
  let at_ (q : Nat) : FNum := (FNum.add false org ((FNum.ofInt (q : Int)).ldexp e)).1
  if qhi < qlo then none else some (f32Dir 4 (at_ qlo), f32Dir 3 (at_ qhi))

/-- The slab of one axis: near and far (R272). -/
def slab (lo hi o inv : Nat) : FNum × FNum :=
  let t (x : Nat) : FNum := (FNum.mul (FNum.add false (decodeRaw .f32 x) (decodeRaw .f32 o).negate).1 (decodeRaw .f32 inv)).1
  let t1 := t lo
  let t2 := t hi
  if t1.isNan || t2.isNan then (.inf true, .inf false)
  else
    (decodeRaw .f32 (f32Dir 4 (FNum.pick false false t1 t2).1), decodeRaw .f32 (f32Dir 3 (FNum.pick true false t1 t2).1))

/-- The test of a child against a ray: tn where it is hit (R272). -/
def boxChild (node : List Byte) (ray inv : List Nat) (k : Nat) : Option FNum :=
  let p := leNat ((node.drop (16 + 4 * k)).take 4)
  if ptrKind p == 0 then none
  else
    match childBound node k 0, childBound node k 1, childBound node k 2 with
    | some x, some y, some z =>
      let sl := [(x, 0), (y, 1), (z, 2)].map fun ((lo, hi), c) => slab lo hi (ray.getD c 0) (inv.getD c 0)
      let tn := sl.foldl (fun m x => (FNum.pick true false m x.1).1) (decodeRaw .f32 (ray.getD 6 0))
      let tf := sl.foldl (fun m x => (FNum.pick false false m x.2).1) (decodeRaw .f32 (ray.getD 7 0))
      if FNum.lt tn tf || FNum.eqv tn tf then some tn else none
    | _, _, _ => none

/-- Inserts a hit in order of (tn, k); hits come in rising k (R272). -/
def insertHit (h : FNum × Nat) : List (FNum × Nat) → List (FNum × Nat)
  | [] => [h]
  | x :: xs => if FNum.lt h.1 x.1 then h :: x :: xs else x :: insertHit h xs

/-- The hits of a box node in order: tn and child (R272). -/
def boxHits (node : List Byte) (ray : List Nat) : List (FNum × Nat) :=
  let inv := (List.range 3).map fun c => rne32 (FNum.div (FNum.ofInt 1) (decodeRaw .f32 (ray.getD (3 + c) 0))).1
  (List.range 8).foldl (fun acc k => match boxChild node ray inv k with
    | some tn => insertHit (tn, k) acc
    | none => acc) []

/-- Fills a list of words to a length. -/
def padWords (l : List Nat) (n fill : Nat) : List Nat := (l ++ List.replicate n fill).take n

/-- A number of 32-bit words, the first the lowest. -/
def packWords (l : List Nat) : Nat := packElems 32 l

/-- The 17 result words of BOXT for a node (R272), and the pointer words of the hit children. -/
def boxWords (node : List Byte) (ray : List Nat) : List Nat × List Nat :=
  let hits := boxHits node ray
  let mask := hits.foldl (fun m h => m + 2 ^ h.2) 0
  let ptrs := hits.map fun h => leNat ((node.drop (16 + 4 * h.2)).take 4)
  ((mask + 256 * hits.length) :: padWords ptrs 8 0 ++ padWords (hits.map fun h => rne32 h.1) 8 0x7F800000, ptrs)

/-- The result of BOXT where the pointer word names no box node (R272). -/
def boxMiss : List Nat := List.replicate 9 0 ++ List.replicate 8 0x7F800000

/-- The child-pointer prefetcher fetches a hit child (R273): a box node into the node cache, the lines of a leaf into L1. -/
def prefetchChild (tid root : Nat) (s : State) (p : Nat) : State :=
  let n := if ptrKind p == 1 then 1 else ((ptrKind p - 1) * 48 + 127) / 128
  ((List.range n).map fun k => (root + ptrOffset p + 128 * k) % 2 ^ 64).foldl
    (prefetchOne tid (if ptrKind p == 1 then .node else .l1)) s

/-- One lane of BOXT: its values, its fault, and what it prefetches. -/
def boxLane (me : Me) (f : FmtV3) (x : Acc × List (Nat × Nat)) (l : Nat) : Acc × List (Nat × Nat) :=
  let (x, pf) := x
  let s := x.s
  let t := me.train s
  let p := fltElem s t me.sid .f32 f.b.toNat l 0 false false
  let root := readReg s t me.sid f.c.toNat true l
  let done (ws : List Nat) (x : Acc) : Acc := { x with vals := Tab.put x.vals l (packWords ws) }
  if ptrKind p != 1 then (done boxMiss x, pf)
  else
    match readStructure true me.tid ((root + ptrOffset p) % 2 ^ 64) 128 s with
    | .error (a, k, info) => ({ x with faults := x.faults ++ [(l, k, BitVec.ofNat 64 a, info)] }, pf)
    | .ok (node, hit, s) =>
      let (ws, ptrs) := boxWords node (rayCodes s t me.sid f.a.toNat l)
      (done ws { x with s := s, hit := x.hit.orElse fun _ => hit }, pf ++ ptrs.map fun q => (root, q))

/-- BOXT (R270 to R273). -/
def execBoxt (f : FmtV3) (s : State) : Result :=
  issueAccess (.boxt f) 0 false s fun me s =>
    let (x, pf) := (lanesOf (me.active s)).foldl (boxLane me f) ({ s := s }, [])
    let s := pf.foldl (fun s (root, p) => prefetchChild me.tid root s p) x.s
    let x := { x with s := startLoad me false f.d.toNat 17 x.vals s }
    finishAccess me 16 true false (maskOfList (x.faults.map (·.1))) x

/-- The finite value of an F32 code in units of 2^-149; none for an infinity or a NaN. -/
def f32Int (code : Nat) : Option Int :=
  let e := bits code 23 8
  let m := bits code 0 23
  let v := if e == 0 then m else (2 ^ 23 + m) * 2 ^ (e - 1)
  if e == 255 then none else some (if code.testBit 31 then -(v : Int) else (v : Int))

/-- Three components. -/
abbrev V3i := Int × Int × Int
/-- Difference. -/
def V3i.sub (a b : V3i) : V3i := (a.1 - b.1, a.2.1 - b.2.1, a.2.2 - b.2.2)
/-- Cross product. -/
def V3i.cross (a b : V3i) : V3i :=
  (a.2.1 * b.2.2 - a.2.2 * b.2.1, a.2.2 * b.1 - a.1 * b.2.2, a.1 * b.2.1 - a.2.1 * b.1)
/-- Dot product. -/
def V3i.dot (a b : V3i) : Int := a.1 * b.1 + a.2.1 * b.2.1 + a.2.2 * b.2.2

/-- A vector of three F32 codes. -/
def vec3 (l : List Nat) : Option V3i :=
  match f32Int (l.getD 0 0), f32Int (l.getD 1 0), f32Int (l.getD 2 0) with
  | some x, some y, some z => some (x, y, z)
  | _, _, _ => none

/-- A quotient of integers as an exact value; the divisor is positive. -/
def FNum.quot (n d : Int) : FNum := .fin (decide (n < 0)) n.natAbs d.natAbs

/-- A hit of a triangle: T as a code, U, V, and BACK. -/
structure TriHit where
  t : Nat
  u : Nat
  v : Nat
  back : Bool
  deriving DecidableEq, Repr

/-- The exact test of one triangle (R274). -/
def triTest (o dir v0 v1 v2 : V3i) (tmin tmax : Nat) : Option TriHit :=
  let e1 := V3i.sub v1 v0
  let e2 := V3i.sub v2 v0
  let p := V3i.cross dir e2
  let det := V3i.dot p e1
  if det == 0 then none
  else
    let sg : Int := if det < 0 then -1 else 1
    let r := V3i.sub o v0
    let q := V3i.cross r e1
    let d := sg * det
    let u := sg * V3i.dot r p
    let v := sg * V3i.dot dir q
    let t := sg * V3i.dot e2 q
    let T := rne32 (FNum.quot t d)
    let le (x y : Nat) : Bool :=
      let a := decodeRaw .f32 x
      let b := decodeRaw .f32 y
      FNum.lt a b || FNum.eqv a b
    if 0 ≤ u && 0 ≤ v && u + v ≤ d && le tmin T && le T tmax then
      some { t := T, u := rne32 (FNum.quot u d), v := rne32 (FNum.quot v d), back := decide (0 < det) }
    else none

/-- The nearest hit among the triangles from `k` on (R274): none where a coordinate is not finite, for which the
specification gives no result (DESIGN CHOICE, log 17). -/
def triNearest (o dir : V3i) (tmin tmax : Nat) : Nat → List (List Nat) → Option (Option (Nat × TriHit × Nat × Nat))
  | _, [] => some none
  | k, r :: rs =>
    match vec3 r, vec3 (r.drop 3), vec3 (r.drop 6), triNearest o dir tmin tmax (k + 1) rs with
    | some v0, some v1, some v2, some best =>
      match triTest o dir v0 v1 v2 tmin tmax with
      | none => some best
      | some h =>
        let me := some (k, h, r.getD 9 0, r.getD 10 0 % 64)
        match best with
        | none => some me
        | some (_, b, _, _) => if FNum.lt (decodeRaw .f32 b.t) (decodeRaw .f32 h.t) then some best else some me
    | _, _, _, _ => none

/-- The result of TRIT where nothing is hit. -/
def triMiss : List Nat := [0, 0x7F800000, 0, 0, 0]

/-- The five result words of TRIT for the bytes of a leaf of `n` triangles; none where they are open (R274, DESIGN CHOICE, log 17). -/
def triWords (leaf : List Byte) (n : Nat) (ray : List Nat) : Option (List Nat) :=
  let recs := (List.range n).map fun k => (List.range 12).map fun j => leNat ((leaf.drop (48 * k + 4 * j)).take 4)
  match vec3 ray, vec3 (ray.drop 3) with
  | some o, some dir =>
    (triNearest o dir (ray.getD 6 0) (ray.getD 7 0) 0 recs).map fun h =>
      match h with
      | none => triMiss
      | some (k, h, prim, key) => [1 + 2 * h.back.toNat + 256 * key + 65536 * k, h.t, h.u, h.v, prim]
  | _, _ => none

/-- Five free words. -/
def freeWords : Nat → State → List Nat × State
  | 0, s => ([], s)
  | n + 1, s =>
    let (v, s) := s.freeValue
    let (vs, s) := freeWords n s
    (v.toNat % 2 ^ 32 :: vs, s)

/-- One lane of TRIT. -/
def triLane (me : Me) (f : FmtV3) (x : Acc) (l : Nat) : Acc :=
  let s := x.s
  let t := me.train s
  let p := fltElem s t me.sid .f32 f.b.toNat l 0 false false
  let root := readReg s t me.sid f.c.toNat true l
  let n := ptrKind p - 1
  let done (ws : List Nat) (x : Acc) : Acc := { x with vals := Tab.put x.vals l (packWords ws) }
  if n == 0 then done triMiss x
  else
    match readStructure false me.tid ((root + ptrOffset p) % 2 ^ 64) (48 * n) s with
    | .error (a, k, info) => { x with faults := x.faults ++ [(l, k, BitVec.ofNat 64 a, info)] }
    | .ok (leaf, hit, s) =>
      let x := { x with hit := x.hit.orElse fun _ => hit }
      match triWords leaf n (rayCodes s t me.sid f.a.toNat l) with
      | some ws => done ws { x with s := s }
      | none =>
        let (ws, s) := freeWords 5 s
        done ws { x with s := s }

/-- TRIT (R270, R271, R274). -/
def execTrit (f : FmtV3) (s : State) : Result :=
  issueAccess (.trit f) 0 false s fun me s =>
    let x := (lanesOf (me.active s)).foldl (triLane me f) { s := s }
    let x := { x with s := startLoad me false f.d.toNat 5 x.vals x.s }
    finishAccess me 16 true false (maskOfList (x.faults.map (·.1))) x

/-- The place of a lane's stack header, or its fault (R275). -/
def stackCheck (s : State) (g : Agent) (ea : Nat) : Except (Kind × Word) Loc := checkData s (accessCheck s g .both 1 ea 8)

/-- Entry `k` of a stack lies in the allotment (R275). -/
def entryFits (s : State) (g : Agent) (ea k n : Nat) : Bool := decide (ea + 8 + (k + 1) * n ≤ (s.wg g.wg).localSize)

/-- One lane of STKPSH. -/
def pushLane (me : Me) (f : FmtM) (x : Acc) (l : Nat) : Acc :=
  let s := x.s
  let g := trainAgent s me.tid
  let t := me.train s
  let n := accessBytes f.size.toNat
  let ea := effAddr s t me.sid f.base.toNat f.ofs.toNat l 20 f.disp.toNat
  let bad (k : Kind) (info : Word) : Acc := { x with faults := x.faults ++ [(l, k, ea, info)] }
  match stackCheck s g ea.toNat with
  | .error (k, info) => bad k info
  | .ok loc =>
    let (h, s) := trainLoad me.tid loc 8 s
    let depth := bits h 0 16
    if bits h 16 16 ≤ depth then bad .stackOverflow 0
    else if !entryFits s g ea.toNat depth n then bad .aperture 0
    else
      let v := storeValue s t me.sid f.d.toNat l (accessRegs f.size.toNat)
      { x with s := trainStore me.tid loc 2 (depth + 1) (trainStore me.tid (loc.plus (8 + depth * n)) n (v % 2 ^ (8 * n)) s) }

/-- STKPSH (R275): lanes in ascending order; overflowing lanes are not replayed. -/
def execStkpsh (f : FmtM) (s : State) : Result :=
  issueAccess (.stkpsh f) 1 true s fun me s =>
    let x := (lanesOf (me.active s)).foldl (pushLane me f) { s := s }
    let again := x.faults.filter fun q => q.2.1 != .stackOverflow
    finishAccess me (accessBytes f.size.toNat) false true (maskOfList (again.map (·.1))) x

/-- One lane of STKPOP. -/
def popLane (me : Me) (f : FmtM) (x : Acc) (l : Nat) : Acc :=
  let s := x.s
  let g := trainAgent s me.tid
  let t := me.train s
  let n := accessBytes f.size.toNat
  let ea := effAddr s t me.sid f.base.toNat f.ofs.toNat l 20 f.disp.toNat
  let bad (k : Kind) (info : Word) : Acc := { x with faults := x.faults ++ [(l, k, ea, info)] }
  match stackCheck s g ea.toNat with
  | .error (k, info) => bad k info
  | .ok loc =>
    let (h, s) := trainLoad me.tid loc 8 s
    let depth := bits h 0 16
    if depth == 0 then { x with s := s, vals := Tab.put x.vals l 0 }
    else if !entryFits s g ea.toNat (depth - 1) n then bad .aperture 0
    else
      let (v, s) := trainLoad me.tid (loc.plus (8 + (depth - 1) * n)) n s
      { x with s := trainStore me.tid loc 2 (depth - 1) s, vals := Tab.put x.vals l v }

/-- STKPOP (R275). -/
def execStkpop (f : FmtM) (s : State) : Result :=
  issueAccess (.stkpop f) 1 true s fun me s =>
    let x := (lanesOf (me.active s)).foldl (popLane me f) { s := s }
    let x := { x with s := startLoad me false f.d.toNat (accessRegs f.size.toNat) x.vals x.s }
    finishAccess me (accessBytes f.size.toNat) true true (maskOfList (x.faults.map (·.1))) x

/-- RHIT (R268): the records of the active lanes' rays are replaced. -/
def execRhit (f : FmtV3) (s : State) : Result :=
  issue (.rhit f) s fun me s =>
    let t := me.train s
    let rec_ (l : Nat) : List Word := (List.range 6).map fun k => readWord s t me.sid (f.a.toNat + k) l
    let rays := (lanesOf (me.active s)).foldl (fun rs l => match Tab.find t.elems l with
      | some e => Tab.upd rs e.parent fun r => { r with hit := rec_ l }
      | none => rs) s.rays
    retire me { s with rays := rays }

end Sys2Proof.Machine
end

