-- ==== Sys2Proof/Machine/Raster.lean ====
section
/-! DEFINITION. Coverage and plane equations (spec/11_core_geometry_rays.md R261 to R264), and VINTERP (spec/07 R176). All
arithmetic is exact: clip components and viewport are integers in units of 2^-149, vertex vectors in units of 2^-299. -/

namespace Sys2Proof.Machine

/-- Pixels per coarse pixel across and down (Table 11.4, CSIZE). -/
def Raster.cw (r : Raster) : Nat := if r.csize == 1 || r.csize == 3 then 2 else 1
/-- Pixels per coarse pixel down. -/
def Raster.ch (r : Raster) : Nat := if r.csize == 2 || r.csize == 3 then 2 else 1
/-- Samples per pixel (Table 11.4). -/
def Raster.samples (r : Raster) : Nat := 2 ^ r.spp

/-- The sample positions of a pixel in sixteenths (Table 11.5). -/
def samplePos (spp : Nat) : List (Nat × Nat) :=
  match spp with
  | 0 => [(8, 8)]
  | 1 => [(4, 4), (12, 12)]
  | 2 => [(6, 2), (14, 6), (2, 10), (10, 14)]
  | _ => [(9, 5), (7, 11), (13, 9), (5, 3), (3, 13), (1, 7), (11, 15), (15, 1)]

/-- The position of a sample `k` (its `%sample`) of a coarse pixel, in sixteenths of a pixel (R263). -/
def Raster.sampleAt (r : Raster) (cx cy k : Nat) : Nat × Nat :=
  let n := r.samples
  let p := k / n
  let o := (samplePos r.spp).getD (k % n) (8, 8)
  (16 * (cx * r.cw + p % r.cw) + o.1, 16 * (cy * r.ch + p / r.cw) + o.2)

/-- The centre of a coarse pixel in sixteenths (R264). -/
def Raster.centre (r : Raster) (cx cy : Nat) : Nat × Nat := (16 * cx * r.cw + 8 * r.cw, 16 * cy * r.ch + 8 * r.ch)

/-- A primitive set up for coverage: vertex vectors, depths in the units of the third component, inward edge vectors,
and the orientation S. -/
structure TriSetup where
  v0 : V3i
  v1 : V3i
  v2 : V3i
  z0 : Int
  z1 : Int
  z2 : Int
  e0 : V3i
  e1 : V3i
  e2 : V3i
  orient : Int

/-- A vertex's homogeneous screen vector and depth from its clip position (R262). -/
def screenVec (r : Raster) (x y z w : Nat) : Option (V3i × Int) :=
  match f32Int x, f32Int y, f32Int z, f32Int w, f32Int r.x0, f32Int r.y0, f32Int r.w, f32Int r.h with
  | some x, some y, some z, some w, some x0, some y0, some vw, some vh =>
    let k : Int := 2 * (2 ^ 149 : Nat)
    some (((2 * x0 + vw) * w + vw * x, (2 * y0 + vh) * w - vh * y, k * w), k * z)
  | _, _, _, _, _, _, _, _ => none

/-- A vector by a sign. -/
def V3i.scale (k : Int) (a : V3i) : V3i := (k * a.1, k * a.2.1, k * a.2.2)

/-- Sets up a primitive of a launch from f60 to f63 of its vertices (R262); none where a component is not finite. -/
def Launch.triSetup (l : Launch) (p : Prim) : Option TriSetup :=
  let f (v n : Nat) : Nat := (l.fixValue 3 v n).toNat
  let vec (v : Nat) : Option (V3i × Int) := screenVec l.raster (f v 60) (f v 61) (f v 62) (f v 63)
  match vec p.v0, vec p.v1, vec p.v2 with
  | some (a, za), some (b, zb), some (c, zc) =>
    let s := V3i.dot (V3i.cross a b) c
    let sg : Int := if s < 0 then -1 else 1
    some { v0 := a, v1 := b, v2 := c, z0 := za, z1 := zb, z2 := zc, e0 := V3i.scale sg (V3i.cross b c),
           e1 := V3i.scale sg (V3i.cross c a), e2 := V3i.scale sg (V3i.cross a b), orient := s }
  | _, _, _ => none

/-- Edge functions at a homogeneous point. -/
def TriSetup.edges (t : TriSetup) (p : V3i) : Int × Int × Int := (V3i.dot t.e0 p, V3i.dot t.e1 p, V3i.dot t.e2 p)

/-- An edge is a left or a top edge (R262). -/
def topLeft (e : V3i) : Bool := decide (0 < e.1) || (e.1 == 0 && decide (0 < e.2.1))

/-- A point in sixteenths is inside the viewport and the scissor (R262). -/
def Raster.inside (r : Raster) (x y : Nat) : Bool :=
  let k : Int := (2 ^ 145 : Nat)
  match f32Int r.x0, f32Int r.y0, f32Int r.w, f32Int r.h with
  | some x0, some y0, some w, some h =>
    decide (x0 ≤ x * k) && decide (x * k < x0 + w) && decide (y0 ≤ y * k) && decide (y * k < y0 + h)
      && decide (16 * r.sx0 ≤ x) && decide (x < 16 * r.sx1) && decide (16 * r.sy0 ≤ y) && decide (y < 16 * r.sy1)
  | _, _, _, _ => false

/-- A primitive covers a point, given in sixteenths of a pixel (R262). -/
def TriSetup.covers (t : TriSetup) (r : Raster) (x y : Nat) : Bool :=
  let (f0, f1, f2) := t.edges ((x : Int), (y : Int), 16)
  let ok (f : Int) (e : V3i) : Bool := decide (0 < f) || (f == 0 && topLeft e)
  let w := f0 * t.v0.2.2 + f1 * t.v1.2.2 + f2 * t.v2.2.2
  let z := f0 * t.z0 + f1 * t.z1 + f2 * t.z2
  ok f0 t.e0 && ok f1 t.e1 && ok f2 t.e2 && decide (0 < f0 + f1 + f2) && decide (0 ≤ z) && decide (z ≤ w) && r.inside x y

/-- The primitive is drawn at all: it has an area, and CULL keeps it (R262). -/
def TriSetup.drawn (t : TriSetup) (r : Raster) : Bool :=
  let front := if r.front == 0 then decide (t.orient < 0) else decide (0 < t.orient)
  t.orient != 0 && !(r.cull == 1 && !front) && !(r.cull == 2 && front)

/-- The screen-space barycentrics of v0, v1 and v2 at a homogeneous point, as F32 codes (R264). -/
def TriSetup.bary (t : TriSetup) (p : V3i) : Nat × Nat × Nat :=
  let (f0, f1, f2) := t.edges p
  let a := f0 * t.v0.2.2
  let b := f1 * t.v1.2.2
  let c := f2 * t.v2.2.2
  let d := a + b + c
  let q (x : Int) : Nat := if d < 0 then rne32 (FNum.quot (-x) (-d)) else rne32 (FNum.quot x d)
  (q a, q b, q c)

/-- The samples of a coarse pixel that a primitive covers, by `%sample`. -/
def TriSetup.coveredSamples (t : TriSetup) (r : Raster) (cx cy : Nat) : List Nat :=
  (List.range (r.cw * r.ch * r.samples)).filter fun k => let (x, y) := r.sampleAt cx cy k; t.covers r x y

/-- The least natural number at or above a value in units of 2^-149. -/
def ceilUnits (x : Int) : Nat := ((x + (2 ^ 149 : Nat) - 1) / ((2 ^ 149 : Nat) : Int)).toNat

/-- The quads that can be covered, in row-major order: those that meet the viewport and the scissor (R262, R264). -/
def Raster.quads (r : Raster) : List (Nat × Nat) :=
  match f32Int r.x0, f32Int r.y0, f32Int r.w, f32Int r.h with
  | some x0, some y0, some w, some h =>
    let hiX := min r.sx1 (ceilUnits (x0 + w))
    let hiY := min r.sy1 (ceilUnits (y0 + h))
    let qw := 2 * r.cw
    let qh := 2 * r.ch
    let loQX := r.sx0 / qw
    let loQY := r.sy0 / qh
    ((List.range ((hiY + qh - 1) / qh - loQY)).map fun j =>
      (List.range ((hiX + qw - 1) / qw - loQX)).map fun i => (loQX + i, loQY + j)).flatten
  | _, _, _, _ => []

/-- The position of a lane's element in sixteenths: the coarse-pixel centre, or the sample position (R264). -/
def Launch.lanePos (l : Launch) (rung : Nat) (e : LaneElem) : Nat × Nat :=
  let c := if rung == 4 then e.elem else e.parent
  match Tab.find l.coarse c with
  | some x => if rung == 4 then l.raster.centre x.cx x.cy else l.raster.sampleAt x.cx x.cy e.sample
  | none => (0, 0)

/-- An offset of VINTERP: clamped to [-8, 8], a NaN reads as 0; in units of 2^-149 (R176). -/
def offsetUnits (code : Nat) : Int :=
  let lim : Int := 8 * (2 ^ 149 : Nat)
  match decodeRaw .f32 code with
  | .nan _ => 0
  | .inf s => if s then -lim else lim
  | .fin _ _ _ => max (-lim) (min lim ((f32Int code).getD 0))

/-- fN at an offset from a lane's position (R176). -/
def interpAt (s : State) (t : Train) (l n dx dy : Nat) : Word :=
  let la := s.launch t.launch
  match Tab.find la.fix n, Tab.find t.elems l with
  | some (p, mode), some e =>
    if p == 3 && (mode == 1 || mode == 2) && !t.fxrel then
      match la.triSetup (Tab.get {} la.prims e.seq) with
      | some tri =>
        let (x, y) := la.lanePos t.rung e
        let k : Int := (2 ^ 145 : Nat)
        let (bi, bj, bk) := tri.bary (x * k + offsetUnits dx, y * k + offsetUnits dy, ((2 ^ 149 : Nat) : Int))
        la.interp mode e n bi bj bk
      | none => readFix s t l n
    else readFix s t l n
  | _, _ => 0

/-- VINTERP (R176). -/
def execVinterp (f : FmtV3) (s : State) : Result :=
  issueTrain (.vinterp f) s fun me s t =>
    let off (c l : Nat) : Nat := fltElem s t me.sid .f32 c l 0 false false
    writeDst t (me.active s) f.d.toNat false fun l =>
      (interpAt s t l (f.a.toNat - 0x180) (off f.b.toNat l) (off f.c.toNat l)).toNat

end Sys2Proof.Machine
end

