-- ==== Sys2Proof/Machine/Trains.lean ====
section
/-! DEFINITION. The life of trains and workgroups, the passes of the compute ladder, the rung sequencer and the fixative
store (spec/03_lane_train_state.md R51 to R56, R65, R67; spec/07 R169 to R174; spec/08 R181 to R184; spec/11 R264; spec/12
R283). -/

namespace Sys2Proof.Machine

/-- The combiner core of a cluster: its lowest-numbered live core (R287). -/
def combinerCore (s : State) (k : Nat) : Option Nat := (liveCores s k).head?

/-- Slots of a core that are set aside: the combiner's slot 31 and the ray reserves (R181, R265). -/
def reservedSlots (s : State) (core : Nat) : List Nat :=
  (if combinerCore s (core / 4) == some core then [31] else [])
    ++ (s.launches.map fun (_, l) => ((Tab.find l.rayReserve core).map (·.slots)).getD []).flatten

/-- The free slots of a core that a launch may take, ascending (R182). -/
def freeSlots (s : State) (core : Nat) : List Nat :=
  let r := reservedSlots s core
  (List.range 32).filter fun k => (s.train (core * 32 + k)).state == .free && !r.contains k

/-- A workgroup stands on a core and holds its allotments there. -/
def WgState.onCore : WgState → Bool
  | .saved | .waiting => false
  | _ => true

/-- The workgroups that hold allotments of a core. -/
def wgsOn (s : State) (core : Nat) : List (Nat × Workgroup) := s.wgs.filter fun x => x.2.core == core && x.2.state.onCore

/-- Free local memory of a core in bytes, below its home 2 windows (Table 8.1, R369). -/
def localFree (s : State) (core : Nat) : Nat :=
  512 * 1024 - 64 * 1024 * Tab.get 0 s.homewin core - (wgsOn s core).foldl (fun n x => n + x.2.localSize) 0

/-- Free accumulator tiles of a core (Table 8.1). -/
def tilesFree (s : State) (core : Nat) : Nat := 64 - (wgsOn s core).foldl (fun n x => n + x.2.tileCount) 0

/-- Trains with these granules, local memory and tiles fit a core (R182). -/
def fits (s : State) (core : Nat) (granules : List Nat) (localBytes tiles : Nat) : Bool :=
  decide (granules.length ≤ (freeSlots s core).length)
    && decide (granules.foldl (· + ·) 0 ≤ granulesFree s core)
    && decide (localBytes ≤ localFree s core) && decide (tiles ≤ tilesFree s core)

/-- The cores of the clusters of a mask that are live (R389). -/
def allowedCores (s : State) (cmask : Nat) : List Nat :=
  (List.range 224).filter fun c => cmask.testBit (c / 4) && corePlaceable s c

/-- The core of R389 step 3 among candidates: the most free slots, then the lowest number. -/
def bestCore (s : State) (cs : List Nat) : Option Nat := leastBy (fun c => 32 - (freeSlots s c).length) cs

/-! ### Fixative records -/

/-- f-registers declared at a rung (R22). -/
def Launch.declared (l : Launch) (rung : Nat) : Nat := (l.fix.filter fun x => x.2.1 == rung).length

/-- Bytes of a record of a rung (R169). -/
def Launch.recBytes (l : Launch) (rung : Nat) : Nat := 8 + 4 * l.declared rung

/-- A lane element of a train of rung `r` descends from element `x` of a coarser rung. -/
def Launch.descends (l : Launch) (r : Nat) (e : LaneElem) (rung x : Nat) : Bool :=
  decide (rung < r) && r != 6 &&
    (if l.graphics && rung == 3 then
      let p := Tab.get {} l.prims e.seq
      p.v0 == x || p.v1 == x || p.v2 == x
    else l.ancestor r e rung == x)

/-- A train has not started yet: it is STARTING, or has left STARTING before its pass; one that returns has started. -/
def Train.unstarted (t : Train) : Bool := (t.state == .starting && !t.returning && t.restOp.isNone) || t.waitsPass

/-- A lane of a train descends from an element of a coarser rung, a ray from what its spawner descends from (R169). -/
def laneHolds (s : State) (rung x : Nat) (t : Train) (e : LaneElem) : Bool :=
  if t.rung == 6 then (Tab.get {} s.rays e.parent).ancestors.contains (elemKey rung x)
  else (s.launch t.launch).descends t.rung e rung x

/-- A train stands for elements of a launch. -/
def Train.ofLaunch (t : Train) (lid : Nat) : Bool := t.launch == lid && t.state != .free && !t.combiner

/-- A train of a launch holds a lane that descends from an element of a coarser rung (R169, R170). -/
def holdsElem (s : State) (lid rung x : Nat) (t : Train) : Bool := t.ofLaunch lid && t.elems.any fun y => laneHolds s rung x t y.2

/-- A train counts as a reference to an element's record (R169). -/
def trainRefers (s : State) (lid rung x : Nat) (t : Train) : Bool := !t.fxrel && !t.unstarted && holdsElem s lid rung x t

/-- The reference count of an element's record (R169); a saved train keeps its references (R174). -/
def recCount (s : State) (lid rung x : Nat) : Nat :=
  (s.trains.filter fun t => trainRefers s lid rung x t.2).length

/-- The tiles of a workgroup that hold live elements: the first and the number (R53, R387). -/
def Launch.wgTiles (l : Launch) (w : Nat) : Nat × Nat :=
  let e0 := 96 * l.trainsPerWg * w
  (e0 / l.tileSize, (min (l.elems - e0) (96 * l.trainsPerWg) + l.tileSize - 1) / l.tileSize)

/-- The elements of a pass of train `t` of workgroup `w`, by lane (R53, Table 3.1). -/
def Launch.passElems (l : Launch) (w t rung : Nat) : Tab LaneElem :=
  match rung with
  | 0 => if w == 0 && t == 0 then [(0, { elem := 0 })] else []
  | 1 => if t == 0 then [(0, { elem := w })] else []
  | 2 =>
    let (first, n) := l.wgTiles w
    (List.range (min 96 (n - 96 * t))).map fun k => (k, { elem := first + 96 * t + k })
  | _ =>
    let base := 96 * (l.trainsPerWg * w + t)
    (List.range (min 96 (l.elems - base))).map fun k => (k, { elem := base + k })

/-- The element base s123 of a pass (Table 3.2, R387). -/
def Launch.passBase (l : Launch) (w t rung : Nat) : Nat :=
  if rung == 5 then 96 * (l.trainsPerWg * w + t) else (((l.passElems w t rung).head?).map (·.2.elem)).getD 0

/-- The passes that a train slot runs, in order (R53). -/
def Launch.passes (l : Launch) (w t : Nat) : List Nat :=
  [0, 1, 2, 5].filter fun r => Tab.get [] l.runMaps r != [] && (r == 5 || l.passElems w t r != [])

/-- The passes that a train slot of a placed or saved workgroup has yet to start. -/
def passesLeft (s : State) (l : Launch) (wid : Nat) (g : Workgroup) (t : Nat) : List Nat :=
  match s.trains.find? fun x => x.2.wg == wid && x.2.ordinal == t && x.2.state != .free with
  | some (_, x) => (l.passes g.ordinal t).filter fun r => decide (x.rung < r) || (x.unstarted && r == x.rung)
  | none => []

/-- A later pass of a launch holds a descendant of a compute element (R169, Closing). -/
def computeOpen (s : State) (lid : Nat) (l : Launch) (rung x : Nat) : Bool :=
  (rung == 0 && (decide (l.nextWg < l.wgCount) || !l.rerun.isEmpty)) ||
    s.wgs.any fun (wid, g) =>
      g.launch == lid && g.state != .waiting && ((List.range g.trains).any fun t =>
        (passesLeft s l wid g t).any fun r => (l.passElems g.ordinal t r).any fun (_, e) => l.descends r e rung x)

/-- The primitives of a launch that the raster unit has not processed (R166). -/
def Launch.unprocessed (l : Launch) : List Prim :=
  (l.emitted.map fun (c, ps) =>
    if c < l.rasterCluster then [] else if c == l.rasterCluster then ps.drop l.rasterIndex else ps).flatten

/-- A clusters-of-objects prefix sum: the first cluster of an object (R387). -/
def Launch.firstCluster (l : Launch) (o : Nat) : Nat := (l.clusters.take o).foldl (· + ·) 0

/-- The clusters of a draw. -/
def Launch.clusterTotal (l : Launch) : Nat := l.clusters.foldl (· + ·) 0

/-- The children of an ended graphics element (R164, R264, R387), and what its end records. A child's place is none
where any core will do (R170). -/
def Launch.children (l : Launch) (rung core : Nat) (e : LaneElem) : Launch × List PendElem :=
  match rung with
  | 0 => ({ l with parents := (List.range l.objects).foldl (fun p o => Tab.put p (elemKey 1 o) 0) l.parents },
      (List.range l.objects).map fun o => { rung := 1, core := none, elem := { elem := o } })
  | 1 =>
    let cs := (List.range (l.clusters.getD e.elem 0)).map (l.firstCluster e.elem + ·)
    ({ l with parents := cs.foldl (fun p c => Tab.put p (elemKey 2 c) e.elem) l.parents },
      cs.map fun c => { rung := 2, core := none, elem := { elem := c } })
  | 2 =>
    let vs := l.parents.filterMap fun (k, c) => if k / 2 ^ 32 == 3 && c == e.elem then some (k % 2 ^ 32) else none
    ({ l with clustersDone := Tab.put l.clustersDone e.elem core },
      vs.map fun v => { rung := 3, core := some core, elem := { elem := v } })
  | 3 => ({ l with vertsDone := Tab.put l.vertsDone e.elem core }, [])
  | 4 =>
    match Tab.find l.coarse e.elem with
    | none => (l, [])
    | some c =>
      let ks := if e.helper || l.killed.contains e.elem then [] else c.samples
      let elem (k n : Nat) : LaneElem :=
        let (x, y) := l.raster.sampleAt c.cx c.cy k
        let (bi, bj, bk) := match l.triSetup (Tab.get {} l.prims c.seq) with
          | some t => t.bary (x, y, 16)
          | none => (0, 0, 0)
        { elem := n, seq := c.seq, sample := k, bi := BitVec.ofNat 32 bi, bj := BitVec.ofNat 32 bj,
          bk := BitVec.ofNat 32 bk, parent := e.elem }
      ({ l with coarse := Tab.put l.coarse e.elem { c with ended := true, spawned := true, left := ks.length },
                nextSample := l.nextSample + ks.length },
        ks.zipIdx.map fun (k, i) => { rung := 5, core := some core, elem := elem k (l.nextSample + i) })
  | 5 =>
    ({ l with coarse := Tab.upd l.coarse e.parent fun c => { c with left := c.left - 1 } }, [])
  | _ => (l, [])

/-- A draw runs trains of a rung or of one below it: what waits there, or is spawned there, brings a train (R283). -/
def Launch.startsFrom (l : Launch) (rung : Nat) : Bool :=
  (List.range 6).any fun k => decide (rung ≤ k) && Tab.get [] l.runMaps k != []

/-- A lane of a train of a draw may still bring trains that descend from its element: by the children that the train's end spawns, or,
while a CLUSTER lane lives, by what it may emit (R164 to R166, R170). -/
def laneOpens (l : Launch) (t : Train) (lane : Nat) (e : LaneElem) : Bool :=
  (!(l.children t.rung 0 e).2.isEmpty && l.startsFrom (t.rung + 1)) || (t.rung == 2 && t.live.getLsbD lane && l.startsFrom 3)

/-- An element of a draw may still gain descendants in trains that are to be spawned (R169, Closing). -/
def graphicsOpen (s : State) (lid : Nat) (l : Launch) (rung x : Nat) : Bool :=
  (l.pend.any fun p => l.startsFrom p.rung && l.descends p.rung p.elem rung x)
    || (l.startsFrom 4 && l.unprocessed.any fun p =>
      if rung == 3 then p.v0 == x || p.v1 == x || p.v2 == x else decide (rung < 3) && l.climb rung 2 p.cluster == x)
    || (s.trains.any fun (_, t) =>
      t.ofLaunch lid && decide (t.rung < 5) && t.elems.any fun (k, e) => laneOpens l t k e && ((t.rung == rung && e.elem == x) || l.descends t.rung e rung x))

/-- The depth of the rays that a lane spawns (R265). -/
def spawnDepth (s : State) (t : Train) (l : Nat) : Nat :=
  if t.rung == 6 then (Tab.get {} s.rays (((Tab.find t.elems l).map (·.parent)).getD 0)).depth + 1 else 1

/-- A lane may spawn rays: it lives, is no helper, and has not reached the depth of its launch (R265, R266). -/
def maySpawn (s : State) (t : Train) (l : Nat) : Bool :=
  t.live.getLsbD l && !t.helpers.getLsbD l && decide (spawnDepth s t l ≤ (s.launch t.launch).nres)

/-- A RAY train that descends from an element is to start, or a lane that descends from it may still spawn one (R169, R265). -/
def raysOpen (s : State) (lid : Nat) (l : Launch) (rung x : Nat) : Bool :=
  (s.rays.any fun (_, y) => y.launch == lid && !y.started && !y.ended && y.ancestors.contains (elemKey rung x))
    || (Tab.get [] l.runMaps 6 != [] && s.trains.any fun (_, t) =>
      t.ofLaunch lid && t.elems.any fun (k, e) => laneHolds s rung x t e && maySpawn s t k)

/-- An element's record is closed (R169): it has ended, and no train that holds a descendant is to start any more, RAY trains
included. A lane that may still spawn what would descend from it keeps it open (DEDUCED, log 143). -/
def recClosed (s : State) (lid : Nat) (rung x : Nat) (r : FixRec) : Bool :=
  let l := s.launch lid
  r.ended && (l.dead || !(raysOpen s lid l rung x
    || (s.trains.any fun (_, t) => t.unstarted && holdsElem s lid rung x t)
    || (rung < 5 && (if l.graphics then graphicsOpen s lid l rung x else computeOpen s lid l rung x))))

/-- The store of a core holds a record, or a copy of it since the core runs a descendant (R170). -/
def recHere (s : State) (lid : Nat) (l : Launch) (core key : Nat) (r : FixRec) : Bool :=
  r.core == core || (copiedRung l (key / 2 ^ 32) && s.trains.any fun (tid, t) =>
    tid / 32 == core && t.state != .saved && !t.unstarted && holdsElem s lid (key / 2 ^ 32) (key % 2 ^ 32) t)

/-- Releases the records of a launch that are closed and that no train refers to (R169); a copy goes with the last descendant that its core
runs (R170). -/
def releaseRecs (lid : Nat) (s : State) : State :=
  let l := s.launch lid
  if l.recs.isEmpty then s
  else
    let keep (k : Nat) (r : FixRec) : Bool :=
      !(recClosed s lid (k / 2 ^ 32) (k % 2 ^ 32) r) || recCount s lid (k / 2 ^ 32) (k % 2 ^ 32) != 0
    let recs := (l.recs.filter fun x => keep x.1 x.2).map fun (k, r) =>
      (k, { r with copies := r.copies.filter fun c => recHere s lid l c.1 k r })
    s.updLaunch lid fun l => { l with recs := recs }

/-- Releases what may be released of every launch (R169). -/
def releaseAll (s : State) : State :=
  if s.launches.all fun x => x.2.recs.isEmpty then s else s.launches.foldl (fun s x => releaseRecs x.1 s) s

/-- Bytes of the fixative store of a core in use, what R265 sets aside apart (R169 to R171). -/
def storeUsed (s : State) (core : Nat) : Nat :=
  s.launches.foldl (fun n (lid, l) =>
    l.recs.foldl (fun n (k, r) =>
      if recHere s lid l core k r && (r.out core).isNone && !r.aside then n + l.recBytes (k / 2 ^ 32) else n) n) 0

/-- Bytes of the copies that come into the store of a core with trains of a launch that hold what `holds` says, for the elements of which
the core runs no descendant yet (R170, R171). -/
def copyBytes (s : State) (lid core : Nat) (holds : Nat → Nat → Bool) : Nat :=
  let l := s.launch lid
  l.recs.foldl (fun n (k, r) =>
    if copiedRung l (k / 2 ^ 32) && !recHere s lid l core k r && holds (k / 2 ^ 32) (k % 2 ^ 32) then n + l.recBytes (k / 2 ^ 32) else n) 0

/-- Bytes of the store that new records may take: 192 KiB less the refill reserve and what R265 sets aside (R171). -/
def storeRoom (s : State) (core : Nat) : Nat :=
  192 * 1024 - 8 * 1024 - s.launches.foldl (fun n (_, l) =>
    if (Tab.find l.rayReserve core).isSome && l.declared 6 != 0 then n + l.nres * 96 * l.recBytes 6 else n) 0

/-- The lowest place of the spill region where `b` bytes fit beside the records that stand there (R171, DESIGN CHOICE, log 48). -/
def Launch.spillPlace (l : Launch) (b : Nat) : Option Nat :=
  let used := (l.recs.map fun (k, r) => r.places.map fun a => (a, l.recBytes (k / 2 ^ 32))).flatten
  let free (a : Nat) : Bool :=
    decide (a + b ≤ l.spillBase + l.spillSize) && used.all fun (p, n) => decide (a + b ≤ p) || decide (p + n ≤ a)
  leastBy id ((l.spillBase :: used.map fun (p, n) => p + n).filter free)

/-- The record or copy of a core that is to be spilled next: closed, referred to, oldest (R171): launch and key. -/
def spillVictim (s : State) (core : Nat) : Option (Nat × Nat × FixRec) :=
  leastBy (fun (x : Nat × Nat × FixRec) => x.2.2.spillOrder core)
    ((s.launches.map fun (lid, l) =>
      l.recs.filterMap fun (k, r) =>
        let b := l.recBytes (k / 2 ^ 32)
        if recHere s lid l core k r && (r.out core).isNone && !l.spillStopped && (l.spillPlace b).isSome
            && recClosed s lid (k / 2 ^ 32) (k % 2 ^ 32) r && recCount s lid (k / 2 ^ 32) (k % 2 ^ 32) != 0 then
          some (lid, k, r)
        else none).flatten)

/-- The agent of the fixative store of a core for a launch. -/
def storeAgent (core : Nat) (l : Launch) : Agent := { core := core, ctx := l.ctx, priv := l.priv, wg := 0, combiner := false }

/-- Writes bytes whose values the specification leaves open, four at a time, in a context (R172): the fault of the first
word that may not be written. -/
def spillWrite (g : Agent) : Nat → Nat → State → Except (Kind × Nat) State
  | 0, _, s => .ok s
  | n + 1, va, s =>
    match checkStore s (accessCheck s g .write 0 va 4) with
    | .error (k, _) => .error (k, va)
    | .ok l =>
      let (v, s) := s.freeValue
      spillWrite g n (va + 4) (agentStore g 0 l 4 (v.toNat % 2 ^ 32) (useTranslation g va s)).2

/-- Spills one record, or stops the launch's spilling when the write faults (R171, R172). -/
def spillOne (core lid k : Nat) (r : FixRec) (s : State) : State :=
  let l := s.launch lid
  let b := l.recBytes (k / 2 ^ 32)
  let va := (l.spillPlace b).getD l.spillBase
  match spillWrite (storeAgent core l) (b / 4) va s with
  | .ok s => s.updLaunch lid fun l =>
      { l with recs := Tab.put l.recs k (r.setOut core (some va)) }
  | .error (_, a) =>
    let s := s.updLaunch lid fun l => { l with spillStopped := true }
    s.raiseEvent l.ctx (engineEvent s 2 r.joined 0 (engineRec Kind.fixativeSpill.code a 4 0))

/-- Spills records of a core until `need` bytes fit, at most `fuel` of them (R171). -/
def makeRoom (core need : Nat) : Nat → State → State
  | 0, s => s
  | n + 1, s =>
    if storeUsed s core + need ≤ storeRoom s core then s
    else
      match spillVictim s core with
      | some (lid, k, r) => makeRoom core need n (spillOne core lid k r s)
      | none => s

/-- Records of a core are spilled until `need` bytes fit, as far as that goes (R171). -/
def spillFor (core need : Nat) (s : State) : State :=
  if need == 0 then s else makeRoom core need ((s.launches.foldl (fun n x => n + x.2.recs.length) 0) + 1) s

/-- Space has returned to a core whose store holds back the starts of coarser rungs (R171). -/
def spaceBack (s : State) (core n : Nat) : Bool :=
  decide (storeUsed s core + n ≤ storeRoom s core) || (spillVictim s core).isSome

/-- New elements of a rung with `need` bytes of records are to start on a core (R171): whether they may, and the state after the spills
that this has caused. SAMPLE, LANE and RAY trains are never held: where nothing can be spilled their records exceed the room (DESIGN
CHOICE, log 137). One that does not fit when all is spilled holds back every rung coarser than SAMPLE or LANE, those without
records included, on that core until space returns (DEDUCED, log 119). -/
def roomFor (core rung need : Nat) (s : State) : Bool × State :=
  if 5 ≤ rung then (true, if rung == 5 then spillFor core need s else s)
  else
    match (s.core core).storeHeld.filter fun n => !spaceBack s core n with
    | some _ => (false, s)
    | none =>
      let s := spillFor core need s
      if need == 0 || storeUsed s core + need ≤ storeRoom s core then
        (true, if (s.core core).storeHeld.isNone then s else s.updCore core fun c => { c with storeHeld := none })
      else (false, s.updCore core fun c => { c with storeHeld := some need })

/-- The bytes of the records of a starting train, and of the copies that it brings to its core (R169, R170). -/
def startBytes (s : State) (core : Nat) (t : Train) : Nat :=
  let l := s.launch t.launch
  (if l.declared t.rung == 0 then 0 else t.elems.length * l.recBytes t.rung)
    + copyBytes s t.launch core fun rung x => holdsElem s t.launch rung x t

/-- Creates the records of a starting train, or answers none where it is held for want of room (R169, R171). -/
def createRecs (tid : Nat) (s : State) : Option State :=
  let t := s.train tid
  let l := s.launch t.launch
  if t.combiner then some s
  else
    let core := tid / 32
    let (ok, s) := roomFor core t.rung (startBytes s core t) s
    if !ok then none
    else if l.declared t.rung == 0 then some s
    else
      let j := s.joined tid 0
      let (s, recs) := t.elems.foldl (fun (x : State × Tab FixRec) (_, e) =>
        let (id, s) := x.1.fresh
        let r : FixRec := { core := core, order := id, joined := j, aside := t.rung == 6 && t.reserveSlot }
        (s, Tab.put x.2 (elemKey t.rung e.elem) r)) (s, (s.launch t.launch).recs)
      some (s.updLaunch t.launch fun l => { l with recs := recs })

/-! ### Starting trains -/

/-- The generators of a starting train (R37). -/
def seedGens (seed : Word) (base : Nat) : List Word :=
  (List.range numLanes).map fun k =>
    let g := seed ^^^ BitVec.ofNat 32 ((base + k) * 0x9E3779B9)
    if g == 0 then 1 else g

/-- The scalar registers of a starting train (Table 3.2). -/
def startSregs (arg ordinal wgOrd base : Nat) : Tab Word :=
  [(2, BitVec.ofNat 32 arg), (3, BitVec.ofNat 32 (arg / 2 ^ 32)), (120, 1), (121, BitVec.ofNat 32 ordinal),
    (122, BitVec.ofNat 32 wgOrd), (123, BitVec.ofNat 32 base)]

/-- A train as STARTING leaves it (R53 to R61, R66). -/
def startTrain (s : State) (tid lid wg role ordinal rung granules entry base wgOrd : Nat) (elems : Tab LaneElem) : Train :=
  let l := s.launch lid
  let live := maskOfList (elems.map (·.1))
  { state := .starting, gen := ((s.train tid).gen + 1) % 2 ^ 19, inc := s.nextId, age := s.cycle, ctx := l.ctx,
    launch := lid, wg := wg, role := role, ordinal := ordinal, rung := rung, granules := granules,
    sregs := startSregs l.argBlock ordinal wgOrd base, gens := seedGens l.seed base, elems := elems, live := live,
    lamport := if l.lam == 0 then (s.ctx l.ctx).trM else max ((s.ctx l.ctx).trM + 1) l.lam, splits := [{ valid := true, pc := entry, member := live, active := live }, {}, {}, {}], pts := l.ts }

/-- Puts a starting train into its slot. -/
def putTrain (tid : Nat) (t : Train) (s : State) : State := (s.fresh.2).setTrain tid t

/-- First run of a rung's run map (R53, R283). -/
def Launch.firstRun (l : Launch) (rung : Nat) : Nat := (((Tab.get [] l.runMaps rung).head?).map (·.start)).getD 0

/-- A role of a launch. -/
def Launch.role (l : Launch) (r : Nat) : Role :=
  l.roles.getD r { entry := 0, granules := 1, trains := 0, producer := false, stream := false }

/-- The roles of the trains of a workgroup, in order of train ordinal. -/
def Launch.trainRoles (l : Launch) : List Nat := (l.roles.zipIdx.map fun (r, k) => List.replicate r.trains k).flatten

/-- The granules of the trains of a workgroup, in order. -/
def Launch.trainGranules (l : Launch) : List Nat := l.trainRoles.map fun r => (l.role r).granules

/-- A pass of a compute train may start: every train that holds an ancestor has ended (R53, R170). -/
def passReady (s : State) (t : Train) : Bool :=
  let l := s.launch t.launch
  let g := s.wg t.wg
  let empty (r : Nat) : Bool := Tab.get [] l.runMaps r == []
  let top := l.launchEnded || empty 0
  let wgUp := g.wgEnded || empty 1
  let tiles := (List.range g.trains).all fun k => !(l.passes g.ordinal k).contains 2 || g.tileEnds.contains k
  match t.rung with
  | 0 => true
  | 1 => top
  | 2 => top && wgUp
  | _ => top && wgUp && tiles

/-- A train whose pass has not started, in STARTING or held after it. -/
def Train.mayOpen (t : Train) : Bool := (t.state == .starting && t.restOp.isNone) || (t.state == .resident && t.waitsPass)

/-- A STARTING train becomes RESIDENT when its pass may start and its records fit (R53, R171); one whose saved context has been
loaded becomes PARKED where a split of it is (Table 3.5). One that is to be saved, discarded or killed becomes RESIDENT first, since
Table 3.5 has no other way out of STARTING, and waits there for its pass without issuing (DEDUCED, log 102). -/
def openTrain (tid : Nat) (s : State) : State :=
  let t := s.train tid
  let held := (s.wg t.wg).state.held || t.killAtEnd
  if t.state == .starting && t.returning then
    s.updTrain tid fun t => { t with state := if t.anyParked then .parked else .resident, returning := false }
  else if held then (if t.state == .starting && t.restOp.isNone then s.updTrain tid fun t => { t with state := .resident, waitsPass := true } else s)
  else if t.mayOpen && (t.combiner || t.rung == 6 || (s.launch t.launch).graphics || passReady s t) then
    match createRecs tid s with
    | none => (roomFor (tid / 32) t.rung (startBytes s (tid / 32) t) s).2
    | some s => s.updTrain tid fun t => { t with state := .resident, waitsPass := false }
  else s

/-- Opens every STARTING train that may start. -/
def openAll (s : State) : State :=
  (s.trains.filter fun x => x.2.mayOpen).foldl (fun s x => openTrain x.1 s) s

/-- Prepares pass `rung` of train `t` of a compute workgroup in a slot. -/
def startPass (tid lid wid ordinal t rung : Nat) (s : State) : State :=
  let l := s.launch lid
  let role := l.trainRoles.getD t 0
  let entry := if rung == 5 then (l.role role).entry else l.firstRun rung
  putTrain tid (startTrain s tid lid wid role t rung (l.role role).granules entry (l.passBase ordinal t rung) ordinal
    (l.passElems ordinal t rung)) s

/-- The ray reserve of a launch fits a core beside `n` trains of its first workgroup (R265): the slots it takes. -/
def reserveFits (s : State) (l : Launch) (core : Nat) (granules : List Nat) (localBytes tiles : Nat) : Bool :=
  if (Tab.find l.rayReserve core).isSome then fits s core granules localBytes tiles
  else
    fits s core (granules ++ List.replicate l.nres l.rayGranules) (localBytes + 4096 * l.rlocal) tiles
      && (l.declared 6 == 0 || decide (storeUsed s core + l.nres * 96 * l.recBytes 6 ≤ storeRoom s core))

/-- What the first placement of a launch on a core sets aside of its fixative store (R171). -/
def newAside (l : Launch) (core : Nat) : Nat :=
  if (Tab.find l.rayReserve core).isSome || l.declared 6 == 0 then 0 else l.nres * 96 * l.recBytes 6

/-- Takes the ray reserve of a launch on a core at its first placement there (R265): the highest free slots (DESIGN CHOICE, log 18). -/
def takeReserve (lid core : Nat) (s : State) : State :=
  let l := s.launch lid
  if (Tab.find l.rayReserve core).isSome || (l.nres == 0 && l.rlocal == 0) then s
  else
    let slots := ((freeSlots s core).reverse.take l.nres).reverse
    let (id, s) := s.fresh
    let region : Workgroup := { core := core, launch := lid, ordinal := 0xFFFFFFFF, trains := 0, localSize := 4096 * l.rlocal }
    let s := { s with wgs := Tab.put s.wgs id region }
    s.updLaunch lid fun l => { l with rayReserve := Tab.put l.rayReserve core { slots := slots, region := id } }

/-- A workgroup has no train left. -/
def wgEmpty (s : State) (w : Nat) : Bool := !(s.trains.any fun x => x.2.wg == w && x.2.state != .free && x.2.state != .saved)

/-- The last workgroup of a launch on a core has left: its ray reserve goes (R265), unless a saved RAY train is to come back
to it (DESIGN CHOICE, log 25). -/
def dropReserve (lid core : Nat) (s : State) : State :=
  match Tab.find (s.launch lid).rayReserve core with
  | none => s
  | some r =>
    let savedRay (g : Workgroup) : Bool := g.core == core && g.region.isSome && g.state == .saved
    if ((wgsOn s core).any fun (w, g) => g.launch == lid && w != r.region)
        || (s.wgs.any fun (_, g) => g.launch == lid && savedRay g)
        || (!(s.launch lid).dead && s.rays.any fun (_, y) => y.launch == lid && y.core == core && !y.started && !y.ended) then s
    else
      let s := { s with wgs := Tab.del s.wgs r.region }
      s.updLaunch lid fun l => { l with rayReserve := Tab.del l.rayReserve core }

/-- A workgroup leaves its core when its last train is FREE (R183). -/
def leaveCore (w : Nat) (s : State) : State :=
  let g := s.wg w
  if (Tab.find s.wgs w).isSome && g.state.onCore && wgEmpty s w then
    -- what the trains that CTXSAVE has taken from it kept is discarded (R417)
    let s := { s with wgs := Tab.del s.wgs w, trains := s.trains.filter fun x => !(x.2.state == .saved && x.2.wg == w) }
    if g.combiner then s
    else
      let s := s.updLaunch g.launch fun l => if !l.graphics && g.region.isNone then { l with gone := l.gone + 1 } else l
      dropReserve g.launch g.core s
  else s

/-- Places a compute workgroup on a core (R182, R387): its trains take the lowest free slots. -/
def placeWorkgroup (lid ordinal core : Nat) (s : State) : State :=
  let s := takeReserve lid core s
  let l := s.launch lid
  let (wid, s) := s.fresh
  let g : Workgroup := { core := core, launch := lid, ordinal := ordinal, trains := l.trainsPerWg,
                         localSize := 4096 * l.localUnits, tileCount := l.tiles, since := s.timer }
  let s := { s with wgs := Tab.put s.wgs wid g }
  let slots := freeSlots s core
  let s := (List.range l.trainsPerWg).foldl (fun s t =>
    match l.passes ordinal t with
    | r :: _ => startPass (core * 32 + slots.getD t 0) lid wid ordinal t r s
    | [] => s) s
  leaveCore wid (openAll s)

/-! ### Claims on granules -/

/-- A train may leave ENDING: its matrix operations have completed (R65). -/
def mayLeave (s : State) (tid : Nat) : Bool :=
  (s.train tid).state == .ending && !(s.train tid).discarded && !matsPending s tid

/-- The arrivals of a train that leaves its slot stay behind in its workgroup, where they still count (R65). -/
def leaveArrivals (tid : Nat) (s : State) : State :=
  let t := s.train tid
  if t.heldArr.isEmpty then s
  else s.updWg t.wg fun g => { g with late := g.late ++ [{ who := { tid := tid, gen := t.inc }, arr := t.heldArr }] }

/-- The next pass of the slot of a compute train. -/
def nextPass (s : State) (t : Train) : Option Nat :=
  if (s.launch t.launch).dead || (s.launch t.launch).graphics || t.combiner || t.rung == 6 then none
  else ((s.launch t.launch).passes (s.wg t.wg).ordinal t.ordinal).find? fun r => decide (t.rung < r)

/-- A combiner train waits for granules of a core, which go to it first (R183). -/
def combinerWaits (s : State) (core : Nat) : Bool := s.combWait.contains core

/-- The granules that the next pass takes back from the pool are free (R53, R183). -/
def passGranules (s : State) (tid : Nat) : Bool :=
  let t := s.train tid
  let g := ((s.launch t.launch).role t.role).granules
  decide (g ≤ t.granules) || (!combinerWaits s (tid / 32) && decide (g - t.granules ≤ granulesFree s (tid / 32)))

/-- TRAIN_END is due: the train leaves ENDING. -/
def trainEndDue (s : State) (tid : Nat) : Bool :=
  mayLeave s tid && ((nextPass s (s.train tid)).isNone || passGranules s tid)

/-- A pass on a core waits to take back granules of its role (R183). -/
def passWaits (s : State) (core : Nat) : Bool :=
  s.trains.any fun (tid, t) => tid / 32 == core && mayLeave s tid && (nextPass s t).isSome && !passGranules s tid

/-- A waiting request that would lift its train above 16 granules, which has grown since the request was issued: it is refused
like one at issue (R54, R161, DEDUCED, log 98). -/
def overCap (s : State) (core : Nat) : Option (Nat × Nat × Nat × Nat × Nat) :=
  (growRequests s core).find? fun q => decide (16 < (s.train q.1).granules + q.2.2.2.1)

/-- The request that is granted next (R161): the oldest by issue cycle, if it fits the free granules and no earlier
claim of R183 waits. -/
def grantable (s : State) (core : Nat) : Option (Nat × Nat × Nat × Nat × Nat) :=
  match leastBy (fun (q : Nat × Nat × Nat × Nat × Nat) => q.2.2.1) (growRequests s core) with
  | some q => if q.2.2.2.1 ≤ granulesFree s core && !combinerWaits s core && !passWaits s core then some q else none
  | none => none

/-- The granules of a core that no earlier claim of R183 awaits count towards placements. -/
def coreOpen (s : State) (core : Nat) : Bool :=
  !combinerWaits s core && !passWaits s core && (grantable s core).isNone

/-! ### The rung sequencer -/

/-- Spawns elements of a rung: they wait for a train, or to end at once where the rung's run map is empty (R283). -/
def Launch.spawn (l : Launch) (es : List PendElem) : Launch := { l with pend := l.pend ++ es }

/-- Removes elements that a train has taken. -/
def Launch.dropPend (l : Launch) (es : List PendElem) : Launch := { l with pend := l.pend.filter fun p => !es.contains p }

/-- The rung of an element has no run map, so that no train runs it (R283). -/
def Launch.idleElem (l : Launch) (p : PendElem) : Bool := Tab.get [] l.runMaps p.rung == []

/-- An element that no train runs: its record is created with every value zero, like one of a starting train, or the element is held
for want of room; then it ends, and its children are spawned (R171, R283). Where no core is named, the store of core 0 holds the record
(DESIGN CHOICE, log 133). -/
def endIdle (lid : Nat) (p : PendElem) (s : State) : State :=
  let l := s.launch lid
  let core := p.core.getD 0
  let b := if l.declared p.rung == 0 then 0 else l.recBytes p.rung
  let (ok, s) := roomFor core p.rung b s
  if !ok then s
  else
    let (id, s) := s.fresh
    s.updLaunch lid fun l =>
      let l := if b == 0 then l
        else { l with recs := Tab.put l.recs (elemKey p.rung p.elem.elem) { core := core, ended := true, order := id } }
      let (l, kids) := (l.dropPend [p]).children p.rung core p.elem
      l.spawn kids

/-- The elements of the draws that no train runs end (R283). -/
def endIdles (s : State) : State :=
  s.launches.foldl (fun s (lid, l) =>
    match l.pend.filter l.idleElem with
    | [] => s
    | ps => releaseRecs lid (ps.foldl (fun s p => endIdle lid p s) s)) s

/-- The elements of a graphics train have ended: their children are spawned, in order of `%elem` (R170). -/
def Launch.trainEnded (l : Launch) (t : Train) (core : Nat) : Launch :=
  if l.dead then l else
  let (l, kids) := t.elems.foldl (fun (x : Launch × List PendElem) (_, e) =>
    let (l, ks) := if t.rung == 5 then (x.1, []) else x.1.children t.rung core e
    (l, x.2 ++ ks)) (l, [])
  l.spawn (sortBy (fun p => p.elem.elem) kids)

/-- The elements that the next train of a rung on a core takes (R264): up to 96, a COARSE train whole quads. -/
def Launch.nextElems (l : Launch) (s : State) (rung core : Nat) (anyCore : Bool) : List PendElem :=
  (l.pend.filter fun p => p.rung == rung && coreLive s core &&
    (match p.core with
      | some c => c == core
      | none => anyCore)).take 96

/-- The core that an element without a core of its own is placed on (R389). -/
def Launch.freeCore (l : Launch) (s : State) : Option Nat :=
  bestCore s ((allowedCores s l.cmask).filter fun c => coreOpen s c && reserveFits s l c [(l.role 0).granules] (4096 * l.localUnits) l.tiles)

/-- Word `k` of the code section of a launch as it stands now (R88), if it can be reached. -/
def codeNow (s : State) (l : Launch) (k : Nat) : Option DWord :=
  let va := l.codeBase + 8 * k
  let loc := if (s.ctx l.ctx).physical then some (Loc.phys va 0 0 0 0)
    else match translateVa s 0 l.ctx va with
      | .ok p => some (pageLoc p va)
      | .error _ => none
  loc.map fun x => BitVec.ofNat 64 (readLoc s x 8)

/-- Before the first train of a launch starts its code is fixed, and the instruction cache of a core that takes its first
train of the launch is invalidated (R88). -/
def enterCore (lid core : Nat) (s : State) : State :=
  let s := if (s.launch lid).code.isEmpty then s.updLaunch lid fun l => { l with code := (List.range l.codeWords).map (codeNow s l) } else s
  if (wgsOn s core).any fun x => x.2.launch == lid then s
  else s.updCore core fun c => { c with icache := [] }

/-- A queue places trains: its SHARE is not 0 (Table 21.1), and no request has pre-empted it since its last RESUME, be it STOPPED or not
(R397, R400, R401). -/
def queuePlaces (s : State) (q : Nat) : Bool := qState s q != 3 && !s.barred.contains q && qGet s q 23 1 != 0

/-- RUNG_SEQUENCER_SPAWN: a train of a rung starts on a core with waiting elements of a draw, if its queue places trains and it fits
what the claims of R183 leave (R264, R283, R389); the core's instruction cache is invalidated for the launch (R88, R388). -/
def spawnTrain (lid rung core : Nat) (s : State) : State :=
  let l := s.launch lid
  let any := l.freeCore s == some core
  let es := l.nextElems s rung core any
  let g := (l.role 0).granules
  if !l.graphics || es.any l.idleElem || es.isEmpty || !queuePlaces s l.queue || !coreOpen s core || !reserveFits s l core [g] (4096 * l.localUnits) l.tiles then s
  else
    let b := (if l.declared rung == 0 then 0 else es.length * l.recBytes rung)
      + copyBytes s lid core fun r x => es.any fun p => l.descends rung p.elem r x
    let (ok, s) := roomFor core rung (if b == 0 then 0 else b + newAside l core) s
    -- held by the store of R171: nothing starts
    if !ok then s
    else
    let s := takeReserve lid core (enterCore lid core s)
    let (wid, s) := s.fresh
    let ord := l.nextWg
    let w : Workgroup := { core := core, launch := lid, ordinal := ord, localSize := 4096 * l.localUnits, tileCount := l.tiles,
                           since := s.timer }
    let slot := (freeSlots s core).headD 0
    let elems : Tab LaneElem := es.zipIdx.map fun (p, k) => (k, p.elem)
    let entry := if rung == 0 then (l.role 0).entry else l.firstRun rung
    let tid := core * 32 + slot
    let t := startTrain s tid lid wid 0 0 rung g entry (((es.head?).map (·.elem.elem)).getD 0) ord elems
    let s' := { s with wgs := Tab.put s.wgs wid w }
    openTrain tid (putTrain tid t (s'.updLaunch lid fun l => { l.dropPend es with nextWg := ord + 1, waitSince := none }))

/-- A FRAME, LAUNCH or END record of a launch, where LREC asks for them (R436); its tag and value are open (DESIGN CHOICE, log 26). -/
def launchRecord (lid kind : Nat) (s : State) : State :=
  let l := s.launch lid
  if (s.ctx l.ctx).trCtl.testBit 3 then
    let (a, s) := s.freeValue
    let (b, s) := s.freeValue
    s.traceAdd l.ctx kind (BitVec.ofNat 64 (l.proc * 2 ^ 48 + l.thread * 2 ^ 32 + l.lslot * 2 ^ 24)) (a.toNat % 65536) b none
  else s

/-- RUNG_SEQUENCER_SPAWN (R264, R436). -/
def execRungSequencerSpawn (launch rung core : Nat) (s : State) : Result :=
  let s' := spawnTrain launch rung core s
  .next (if rung == 0 && (s'.launch launch).nextWg != (s.launch launch).nextWg then launchRecord launch 2 s' else s')

/-- Moves the raster unit past clusters whose primitives are all processed (R166). -/
def Launch.rasterAdvance (l : Launch) : Nat → Launch
  | 0 => l
  | n + 1 =>
    if (Tab.find l.clustersDone l.rasterCluster).isSome
        && decide ((Tab.get [] l.emitted l.rasterCluster).length ≤ l.rasterIndex) then
      Launch.rasterAdvance { l with rasterCluster := l.rasterCluster + 1, rasterIndex := 0 } n
    else l

/-- The primitive that the raster unit processes next, when its cluster and its vertices have ended: its core. -/
def Launch.nextPrim (l : Launch) : Option (Prim × Nat) :=
  match Tab.find l.clustersDone l.rasterCluster, (Tab.get [] l.emitted l.rasterCluster)[l.rasterIndex]? with
  | some core, some p =>
    let done (v : Nat) : Bool := (Tab.find l.vertsDone v).isSome
    if done p.v0 && done p.v1 && done p.v2 then some (p, core) else none
  | _, _ => none

/-- The raster unit has processed the last primitive of a draw (R388). -/
def Launch.registered (l : Launch) : Bool :=
  let a := l.rasterAdvance (l.clusterTotal + 1)
  decide (a.clusterTotal ≤ a.rasterCluster)

/-- The COARSE elements of a quad: coarse pixel and covered samples (R264). -/
def quadMembers (t : TriSetup) (r : Raster) (q : Nat × Nat) : List (Nat × Nat × List Nat) :=
  [(0, 0), (1, 0), (0, 1), (1, 1)].map fun (dx, dy) =>
    let cx := 2 * q.1 + dx
    let cy := 2 * q.2 + dy
    (cx, cy, t.coveredSamples r cx cy)

/-- The quads of a primitive with a covered sample, in order (R264). -/
def coveredQuads (t : TriSetup) (r : Raster) : List (List (Nat × Nat × List Nat)) :=
  (r.quads.map (quadMembers t r)).filter fun m => m.any fun x => !x.2.2.isEmpty

/-- The screen tiles in which a primitive covers a sample, each once (R279). -/
def coveredTiles (r : Raster) (qs : List (List (Nat × Nat × List Nat))) : List (Nat × Nat) :=
  ((qs.flatten.map fun (cx, cy, ks) =>
    ks.map fun k => let (x, y) := r.sampleAt cx cy k; (x / 128, y / 128)).flatten).eraseDups

/-- The raster unit processes one primitive: its sequence number, its registrations and its COARSE elements (R166, R264,
R279). -/
def Launch.rasterize (l : Launch) (p : Prim) (core : Nat) : Launch :=
  let seq := l.nextSeq
  let l := { l with prims := Tab.put l.prims seq p, nextSeq := seq + 1, rasterIndex := l.rasterIndex + 1 }
  match l.triSetup p with
  | none => l
  | some t =>
    if !t.drawn l.raster then l
    else
      let qs := coveredQuads t l.raster
      let regs : List Registration := (coveredTiles l.raster qs).map fun (x, y) => { seq := seq, tx := x, ty := y }
      let ms := qs.flatten.zipIdx
      let elem (i cx cy : Nat) (ks : List Nat) : LaneElem :=
        let (x, y) := l.raster.centre cx cy
        let (bi, bj, bk) := t.bary (x, y, 16)
        { elem := l.nextCoarse + i, helper := ks.isEmpty, seq := seq, bi := BitVec.ofNat 32 bi, bj := BitVec.ofNat 32 bj,
          bk := BitVec.ofNat 32 bk }
      let infos := ms.foldl (fun c ((cx, cy, ks), i) =>
        Tab.put c (l.nextCoarse + i) { seq := seq, cx := cx, cy := cy, samples := ks, helper := ks.isEmpty, left := 0 }) l.coarse
      let es : List PendElem := ms.map fun ((cx, cy, ks), i) => { rung := 4, core := some core, elem := elem i cx cy ks }
      { l with registrations := l.registrations ++ regs, coarse := infos, nextCoarse := l.nextCoarse + ms.length }.spawn es

/-- RASTER_PRIMITIVE (R166, R262, R264). -/
def execRasterPrimitive (launch : Nat) (s : State) : Result :=
  let l := (s.launch launch).rasterAdvance ((s.launch launch).clusterTotal + 1)
  match l.nextPrim with
  | some (p, core) => .next (releaseRecs launch (s.updLaunch launch fun _ => l.rasterize p core))
  | none => .next s

/-! ### Ends -/

/-- Empties a slot: its generation and incarnation stay (R67, R408). -/
def freeSlot (tid : Nat) (s : State) : State := s.updTrain tid fun t => { gen := t.gen, inc := t.inc }

/-- The end of a compute pass is noted (R53). -/
def notePass (t : Train) (s : State) : State :=
  match t.rung with
  | 0 => s.updLaunch t.launch fun l => { l with launchEnded := true }
  | 1 => s.updWg t.wg fun g => { g with wgEnded := true }
  | 2 => s.updWg t.wg fun g => { g with tileEnds := g.tileEnds ++ [t.ordinal] }
  | _ => s

/-- Resolves a request: the status word arrives and the hold ends (R161). -/
def resolveGrow (tid sid add r : Nat) (status : Word) (s : State) : State :=
  s.updTrain tid fun t =>
    let t := if add == 0 then t else { t.dropRegs (16 * t.granules) with granules := t.granules + add }
    (t.token r status).updSplit sid fun sp => { sp with hold := .free }

/-- REGGROW_GRANT (R161): the allotment grows by registers that read zero; a request above the cap is refused. -/
def execReggrowGrant (core : Nat) (s : State) : Result :=
  match overCap s core with
  | some (tid, sid, _, _, r) => .next (resolveGrow tid sid 0 r 2 s)
  | none =>
    match grantable s core with
    | some (tid, sid, _, n, r) => .next (resolveGrow tid sid n r 0 s)
    | none => .next s

/-- The starvation condition of R162: no train of the core is ENDING, every RESIDENT train has a split in REGGROW, and no
request of a RESIDENT train fits; PARKED trains count for nothing. -/
def starved (s : State) (core : Nat) : Bool :=
  let ts := s.trains.filter fun x => x.1 / 32 == core
  let rs := (growRequests s core).filter fun q => (s.train q.1).state == .resident
  !rs.isEmpty && ts.all (fun x => x.2.state != .ending)
    && ts.all (fun x => x.2.state != .resident || x.2.splits.any fun sp => (growOf sp).isSome)
    && rs.all fun q => decide (granulesFree s core < q.2.2.2.1)

/-- REGGROW_STARVATION: the youngest waiting train's request completes with status 1 (R162); of two splits of it that wait, the
lower SID's (DESIGN CHOICE, log 99). -/
def execReggrowStarvation (core : Nat) (s : State) : Result :=
  if starved s core then
    let rs := (growRequests s core).filter fun q => (s.train q.1).state == .resident
    let age (q : Nat × Nat × Nat × Nat × Nat) : Nat := (s.train q.1).age * 32 + q.1 % 32
    match leastBy (fun q => 2 ^ 70 - age q) rs with
    | some (tid, sid, _, _, r) => .next (resolveGrow tid sid 0 r 1 s)
    | none => .next s
  else .next s

/-- The train leaves ENDING: its slot goes to the next pass, or is FREE (R53, R65, R183). -/
def endTrain (tid : Nat) (s : State) : State :=
  let t := s.train tid
  let ord := (s.wg t.wg).ordinal
  let next := nextPass s t
  let s := leaveArrivals tid (s.seen (max t.pts (max t.ended t.matTs)))
  let s := if (s.launch t.launch).graphics || t.combiner || t.rung == 6 then s else notePass t s
  let s := if (s.launch t.launch).graphics && !t.combiner && t.rung != 6 then
      s.updLaunch t.launch fun l => l.trainEnded t (tid / 32)
    else s
  let s := match next with
    | some r => startPass tid t.launch t.wg ord t.ordinal r (freeSlot tid s)
    | none => leaveCore t.wg (freeSlot tid s)
  releaseRecs t.launch (openAll s)

/-- TRAIN_END (R65, Table 3.5). -/
def execTrainEnd (core slot : Nat) (s : State) : Result :=
  let tid := core * 32 + slot % 32
  if trainEndDue s tid then .next (endTrain tid s) else .next s

/-- COMPUTE_PASS_START: a pass in STARTING starts once every ancestor's train has ended (R53). -/
def execComputePassStart (core slot : Nat) (s : State) : Result := .next (openTrain (core * 32 + slot % 32) s)

/-! ### Refills -/

/-- A train reads a spilled record in the next run of a split: the f-registers of the run reach it (R171). -/
def readsRecord (s : State) (tid sid lid key : Nat) : Bool :=
  let t := s.train tid
  let sp := t.split sid
  let l := s.launch lid
  t.launch == lid && sp.valid && sp.state == .ready &&
    (match (runExtent s t sp).bind (cachedRun s tid) with
      | none => false
      | some ws =>
        (runReads (decodeRun ws) []).any fun r =>
          match r with
          | .f n => t.elems.any fun (_, e) => (l.recReads t e n).contains key
          | _ => false)

/-- The agent reads a spilled record: the fault of a word that may not be read. -/
def refillRead (s : State) (g : Agent) : Nat → Nat → Option (Kind × Nat)
  | 0, _ => none
  | n + 1, va =>
    match checkData s (accessCheck s g .read 0 va 4) with
    | .error (k, _) => some (k, va)
    | .ok _ => refillRead s g n (va + 4)

/-- FIXATIVE_REFILL_COMPLETE: a spilled record, or a core's copy of one, stands in the store again and is the first to be spilled, or
the splits that read it there fault with FIXATIVE-SPILL (R170 to R172). `rec` is launch * 2^40 + the record's key. -/
def execFixativeRefillComplete (core rec : Nat) (s : State) : Result :=
  let lid := rec / 2 ^ 40
  let key := rec % 2 ^ 40
  let l := s.launch lid
  match Tab.find l.recs key with
  | none => .next s
  | some r =>
    match r.out core with
    | none => .next s
    | some va =>
      match refillRead s (storeAgent core l) (l.recBytes (key / 2 ^ 32) / 4) va with
      | none => .next (s.updLaunch lid fun l => { l with recs := Tab.put l.recs key (r.setOut core none) })
      | some (_, a) =>
        let readers := ((s.trains.filter fun x => l.recHome key (x.1 / 32) r == core).map fun (tid, _) =>
          ((List.range 4).filter fun n => readsRecord s tid n lid key).map fun n => (tid, n)).flatten
        .next (readers.foldl (fun s (tid, n) =>
          let me : Me := { core := tid / 32, sched := (tid % 32 + n) % 4, slot := tid % 32, sid := n }
          let off := ((s.train tid).split n).pc
          parkSplit me [{ engineRec Kind.fixativeSpill.code a 4 0 with sid := n, offset := off }] s) s)

end Sys2Proof.Machine
end

