-- ==== Sys2Proof/Machine/Rungs.lean ====
section
/-! DEFINITION. The rung instructions that read a primitive list or release fixative records (spec/07_control_split_rung_instructions.md
R166, R169, R173). -/

namespace Sys2Proof.Machine

/-- Words of local memory in ascending order, each read as SLD.b32 would read it: the words, or the fault with its address (R166). -/
def listWords (me : Me) : Nat → Nat → State → Except (Kind × Nat × Word) (List Nat × State)
  | 0, _, s => .ok ([], s)
  | n + 1, a, s =>
    match checkLoad false s me.tid (accessCheck s (trainAgent s me.tid) .read 1 a 4) with
    | .error (k, info) => .error (k, a, info)
    | .ok l =>
      let (v, s) := trainLoad me.tid l 4 s
      match listWords me n (a + 4) s with
      | .error e => .error e
      | .ok (ws, s) => .ok (v :: ws, s)

/-- The entries of a primitive list (Table 7.5): parent lane and vertices. -/
def primEntries : List Nat → List (Nat × Prim)
  | l :: x :: y :: z :: ws => (l, { v0 := x, v1 := y, v2 := z }) :: primEntries ws
  | _ => []

/-- The entry names an active lane and vertices that its element has emitted (R166). -/
def entryNames (s : State) (me : Me) (x : Nat × Prim) : Bool :=
  let t := me.train s
  let owns (v : Nat) : Bool :=
    Tab.find (s.launch t.launch).parents (elemKey 3 v) == some (((Tab.find t.elems x.1).map (·.elem)).getD 0)
  (me.active s).getLsbD x.1 && owns x.2.v0 && owns x.2.v1 && owns x.2.v2

/-- Entries of a list are emitted, each behind those of its cluster element (R166). -/
def Launch.emit (l : Launch) (elem : Nat → Nat) (es : List (Nat × Prim)) : Launch :=
  { l with emitted := es.foldl (fun em (k, p) =>
      Tab.put em (elem k) (Tab.get [] em (elem k) ++ [{ p with cluster := elem k }])) l.emitted }

/-- EMITP: the primitives of a list in local memory (R166). -/
def execEmitp (f : FmtC) (s : State) : Result :=
  issueAccess (.emitp f) 1 false s fun me s =>
    let t := me.train s
    let a := (t.readS me.sid f.sa.toNat).toNat
    let bad (e : Kind × Nat × Word) (s : State) : State := faultAt e.1 (BitVec.ofNat 64 e.2.1) 4 e.2.2 me s
    if a % 16 != 0 then faultAt .misaligned (BitVec.ofNat 64 a) 4 0 me s
    else
      match listWords me 4 a s with
      | .error e => bad e s
      | .ok (hd, s) =>
        if 1024 < hd.headD 0 || (hd.drop 1).any fun w => w != 0 then faultTrain .illegalField 0 me s
        else
          match listWords me (4 * hd.headD 0) (a + 16) s with
          | .error e => bad e s
          | .ok (ws, s) =>
            if (primEntries ws).any fun x => !entryNames s me x then faultTrain .badHandle 0 me s
            else
              let elem (l : Nat) : Nat := ((Tab.find t.elems l).map (·.elem)).getD 0
              fallHeld .free me (s.updLaunch t.launch fun la => la.emit elem (primEntries ws))

/-- FXREL: drops the references to the records of ancestors, once; records that are closed and have no other go (R169, R173). -/
def execFxrel (f : FmtC) (s : State) : Result :=
  issue (.fxrel f) s fun me s =>
    releaseRecs (me.train s).launch (fallHeld .free me (s.updTrain me.tid fun t => { t with fxrel := true }))

end Sys2Proof.Machine
end

