-- ==== Sys2Proof/Machine/Rays.lean ====
section
/-! DEFINITION. Spawning, delivering and regrouping rays (spec/11_core_geometry_rays.md R265 to R268, R276). -/

namespace Sys2Proof.Machine

/-- The miss record with a payload and flags in word 0 (Table 11.6). -/
def missRecord (w0 payload : Word) : List Word := [w0, 0x7F800000, 0, 0, 0, payload]

/-- Keys of the fixative records that an element's train counts for: its own and its ancestors' (R169). -/
def ancestorKeys (s : State) (t : Train) (e : LaneElem) : List Nat :=
  let l := s.launch t.launch
  if t.rung == 6 then elemKey 6 e.elem :: (Tab.get {} s.rays e.parent).ancestors
  else
    elemKey t.rung e.elem ::
      (l.recs.filterMap fun (k, _) => if l.descends t.rung e (k / 2 ^ 32) (k % 2 ^ 32) then some k else none)

/-- Creates the ray of a lane (R265, R266): its registers, root and captured fixative values. Its `%elem` counts up over the launch in
the order of TRACE and lane (DESIGN CHOICE, log 147). -/
def spawnRay (me : Me) (trace root x l : Nat) (s : State) : State :=
  let t := me.train s
  let la := s.launch t.launch
  let ws := (List.range 9).map fun k => t.readV (x + k) l
  let e := (Tab.find t.elems l).getD { elem := 0 }
  let (id, s) := s.fresh
  let r : Ray := { launch := t.launch, core := me.core, elem := la.nextRay, depth := spawnDepth s t l, words := ws,
                   root := root, hit := missRecord 0 (ws.getD 8 0), trace := trace, lane := l, issued := t.pts,
                   captured := la.fix.map fun (n, _) => (n, readFix s t l n), ancestors := ancestorKeys s t e }
  let s := s.updLaunch t.launch fun la => { la with nextRay := la.nextRay + 1 }
  { s with rays := Tab.put s.rays id r }

/-- COMPLETION of a TRACE (R268): the hit registers of its lanes, its token and its counter. -/
def completeTrace (id : Nat) (s : State) : State :=
  match Tab.find s.traces id with
  | none => s
  | some o =>
    if o.left != 0 then s
    else
      let s := { s with traces := Tab.del s.traces id }
      let hits := (o.recs.filter fun (_, r) => (r.headD 0).getLsbD 0).length
      let s := if s.present o.who then s.updTrain o.who.tid fun t =>
          (t.writeVN o.lanes o.hitReg (fun l => packWords ((Tab.get [] o.recs l).map (·.toNat))) 6).carry
            ((List.range 6).map fun k => .v (o.hitReg + k)) o.ts
        else s
      endOperation o.who (some .gather) o.tok (BitVec.ofNat 32 (o.spawned * 65536 + hits)) o.ts s

/-- Rays that have delivered their records go with the last train that holds their elements, for which their ancestors count (R169). -/
def dropRays (s : State) : State :=
  if s.rays.all fun x => !x.2.delivered then s
  else { s with rays := s.rays.filter fun (id, r) => !r.delivered ||
    s.trains.any fun (_, t) => t.rung == 6 && t.launch == r.launch && t.state != .free && t.elems.any fun (_, e) => e.parent == id }

/-- One ray delivers its record to its TRACE (R268), once the accesses of its element have their places (R345). -/
def deliverRay (id : Nat) (s : State) : State :=
  match Tab.find s.rays id with
  | none => s
  | some r =>
    if !r.ended || r.delivered || !r.ops.all (opSettled s) then s
    else
      let s := { s with rays := Tab.put s.rays id { r with delivered := true },
                        traces := Tab.upd s.traces r.trace fun o =>
                          { o with recs := Tab.put o.recs r.lane r.hit, left := o.left - 1, ts := max o.ts r.ts } }
      completeTrace r.trace s

/-- RAY_RECORD_DELIVERY (R268). -/
def execRayRecordDelivery (id : Nat) (s : State) : Result := .next (deliverRay id s)

/-- TRACE (R266): a helper lane takes the miss record, a lane beyond the depth NRES the miss record with NOTRACED, and
every other active lane spawns a ray. An empty RAY run map delivers each ray at once (R283). -/
def execTrace (f : FmtA) (s : State) : Result :=
  issueCounted (.trace f) .gather s fun me s =>
    let t := me.train s
    let la := s.launch t.launch
    let x := bits f.imm.toNat 0 8
    let h := bits f.imm.toNat 8 8
    let root := t.readSN me.sid f.desc.toNat true
    let act := me.active s
    let (id, s) := s.fresh
    let pay (l : Nat) : Word := t.readV (x + 8) l
    let spawns (l : Nat) : Bool := !t.helpers.getLsbD l && decide (spawnDepth s t l ≤ la.nres)
    let ls := lanesOf act
    let rs := ls.filter spawns
    let recs : Tab (List Word) := (ls.filter fun l => !spawns l).map fun l =>
      (l, missRecord (if t.helpers.getLsbD l then 0 else 8) (pay l))
    let o : TraceOp := { who := me.who s, hitReg := h, lanes := act, recs := recs, left := rs.length, spawned := rs.length,
                         tok := f.tok.toNat, ts := t.pts }
    let s := { s with traces := Tab.put s.traces id o }
    let s := s.updTrain me.tid fun t => (t.setCount .gather (t.gather + 1)).awaitToken f.tok.toNat 8
    let first := s.nextId
    let s := rs.foldl (fun s l => spawnRay me id root x l s) s
    let s := if Tab.get [] la.runMaps 6 == [] then
        { s with rays := s.rays.map fun (k, r) => if first ≤ k && r.trace == id then (k, { r with ended := true, ts := t.pts }) else (k, r) }
      else s
    let s := if Tab.get [] la.runMaps 6 == [] then
        (s.rays.filter fun (k, r) => first ≤ k && r.trace == id).foldl (fun s (k, _) => deliverRay k s) s
      else s
    retire me (completeTrace id s)

/-- The waiting rays of a launch on a core at one depth, in order of spawn (R267). -/
def waitingRays (s : State) (lid core d : Nat) : List (Nat × Ray) :=
  s.rays.filter fun (_, r) => r.launch == lid && r.core == core && r.depth == d && !r.started && !r.ended

/-- Where a RAY train of a depth may start on a core (R171, R265): the slot, and whether it is of the reserve. Of the pool it takes only
what the claims of R183 leave. -/
def raySlot (s : State) (lid core d need : Nat) : Option (Nat × Bool) :=
  let l := s.launch lid
  let room := need == 0 || decide (storeUsed s core + need ≤ storeRoom s core)
  match (freeSlots s core).head? with
  | some k => if room && coreOpen s core && decide (l.rayGranules ≤ granulesFree s core) then some (k, false) else reserve l
  | none => reserve l
where
  /-- A free reserve slot k with k < d. -/
  reserve (l : Launch) : Option (Nat × Bool) :=
    (((((Tab.find l.rayReserve core).map (·.slots)).getD []).take d).find? fun k =>
      (s.train (core * 32 + k)).state == .free).map fun k => (k, true)

/-- The depths at which rays of a launch wait on a core, oldest ray first. -/
def waitingDepths (s : State) (lid core : Nat) : List Nat :=
  ((s.rays.filter fun (_, r) => r.launch == lid && r.core == core && !r.started && !r.ended).map (·.2.depth)).eraseDups

/-- The bytes of the records of the next RAY train of a depth (R171), and of the copies that its rays bring to a core. -/
def rayBytes (s : State) (lid core d : Nat) : Nat :=
  let l := s.launch lid
  let rs := (waitingRays s lid core d).take 96
  (if l.declared 6 == 0 then 0 else rs.length * l.recBytes 6)
    + copyBytes s lid core fun rung x => rs.any fun y => y.2.ancestors.contains (elemKey rung x)

/-- Closed records are spilled for the records of the RAY trains that a core could start outside the reserve (R171). -/
def spillForRays (s : State) (lid core : Nat) : State :=
  let l := s.launch lid
  let open_ := !(freeSlots s core).isEmpty && coreOpen s core && decide (l.rayGranules ≤ granulesFree s core)
  match (if open_ then (waitingDepths s lid core).head? else none) with
  | some d => spillFor core (rayBytes s lid core d) s
  | none => s

/-- The RAY train that starts next on a core (R265, R267): its depth, slot and reserve use. -/
def nextRayTrain (s : State) (lid core : Nat) : Option (Nat × Nat × Bool) :=
  ((waitingDepths s lid core).filterMap fun d =>
    (raySlot s lid core d (rayBytes s lid core d)).map fun (k, r) => (d, k, r)).head?

/-- The registers that a RAY lane starts with (R267). -/
def rayVregs (rs : List (Nat × Ray)) : Tab (List Word) :=
  let reg (f : Ray → Word) : List Word := (List.range numLanes).map fun l => ((rs[l]?).map fun x => f x.2).getD 0
  ((List.range 9).map fun k => (k + 1, reg fun r => r.words.getD k 0))
    ++ [(10, reg fun r => BitVec.ofNat 32 r.root), (11, reg fun r => BitVec.ofNat 32 (r.root / 2 ^ 32))]

/-- RAY_TRAIN_START (R265 to R267), on a core that is not retired (Table 0.4): up to 96 waiting rays of one depth start in a train of their own workgroup, at
timestamps not below those of their TRACEs' issue (R345). In a PREEMPTED queue the signal leaves for such a workgroup too (R397, R398). -/
def execRayTrainStart (core launch : Nat) (s : State) : Result :=
  let s := if coreLive s core then spillForRays s launch core else s
  match (if coreLive s core then nextRayTrain s launch core else none) with
  | none => .next s
  | some (d, slot, res) =>
    let l := s.launch launch
    let rs := (waitingRays s launch core d).take 96
    let tid := core * 32 + slot
    let (wid, s) := s.fresh
    let w : Workgroup := { core := core, launch := launch, ordinal := 0xFFFFFFFF,
                           region := (Tab.find l.rayReserve core).map (·.region), since := s.timer,
                           sigAt := if qState s l.queue == 3 && s.halt.phase == 0 then some (entryTick s.cycle + 22) else none }
    let elems : Tab LaneElem := rs.zipIdx.map fun ((id, r), k) => (k, { elem := r.elem, parent := id })
    let base := ((rs.head?).map (·.2.elem)).getD 0
    let t := startTrain s tid launch wid 99 0 6 l.rayGranules (l.firstRun 6) base 0xFFFFFFFF elems
    let t := { t with pts := rs.foldl (fun m x => max m x.2.issued) t.pts, vregs := rayVregs rs, rayDepth := d, reserveSlot := res }
    let s := { s with wgs := Tab.put s.wgs wid w,
                      rays := rs.foldl (fun tb (id, _) => Tab.upd tb id fun r => { r with started := true }) s.rays }
    .next (openTrain tid (putTrain tid t s))

/-! ### Regrouping -/

/-- The train may join a regrouping queue or the ring: its counters are zero and no scalar register of it is pending (R276). A lane
carries its vector registers with it, so a result that is still on its way into one is awaited too (DEDUCED, log 120). -/
def quiet (t : Train) : Bool := t.gather == 0 && t.scatter == 0 && t.copies == 0 && t.tile == 0 && t.pend == 0 && t.busy.isEmpty

/-- More than one valid split, or a deferral record (R276, R302). -/
def divided (t : Train) : Bool := (t.splits.filter (·.valid)).length != 1 || !t.stack.isEmpty

/-- REGRP (R276): the train waits in the core's regrouping queue. -/
def execRegrp (f : FmtA) (s : State) : Result :=
  issue (.regrp f) s fun me s =>
    if divided (me.train s) then faultTrain .badHandle 0 me s
    else
      let k := bits f.imm.toNat 0 8
      fallHeld (.regroup 0 k 0 none) me (s.updTrain me.tid fun t => { t with regrpKey := k })

/-- Waiters whose counters and pending bits have become clear join their queue at this cycle (R276, R302): a saved train's do when it
is back (R303). -/
def joinQueues (s : State) : State :=
  { s with trains := s.trains.map fun (tid, t) =>
      if t.state != .saved && t.splits.any (fun sp => match sp.hold with
          | .regroup _ _ _ none => true
          | _ => false) && quiet t then
        (tid, { t with splits := t.splits.map fun sp => match sp.hold with
          | .regroup k a r none => { sp with hold := .regroup k a r (some s.timer) }
          | _ => sp })
      else (tid, t) }

/-- A train that waits in a regrouping queue: its split, kind, argument, token and arrival. The wait goes on while the split is
PARKED (R298). -/
def queuedAs (t : Train) : Option (Nat × Nat × Nat × Nat × Nat) :=
  (t.splits.zipIdx.filterMap fun (sp, n) => match sp.hold with
    | .regroup k a r (some c) => if sp.valid && sp.state != .joinwait then some (n, k, a, r, c) else none
    | _ => none).head?

/-- The trains of a core that wait for a sort, oldest first (R184, R276). -/
def regrpWaiters (s : State) (core : Nat) : List (Nat × Nat) :=
  sortBy (fun x => (s.train x.1).age * 32 + x.1 % 32)
    ((s.trains.filter fun x => x.1 / 32 == core).filterMap fun (tid, t) =>
      match queuedAs t with
      | some (_, 0, _, _, c) => some (tid, c)
      | _ => none)

/-- The participants of the next sort of a core: the oldest waiter and the oldest further waiters of its launch and
allotment, four at most (R276). -/
def regrpParty (s : State) (core : Nat) : List (Nat × Nat) :=
  match regrpWaiters s core with
  | [] => []
  | x :: xs =>
    let a := s.train x.1
    (x :: xs.filter fun y => let b := s.train y.1; b.launch == a.launch && b.granules == a.granules).take 4

/-- No RAY train of the launch on the core but those that wait has a READY split (R276). -/
def noOtherReady (s : State) (core lid : Nat) : Bool :=
  let ws := (regrpWaiters s core).map (·.1)
  !(s.trains.any fun (tid, t) => tid / 32 == core && t.rung == 6 && t.launch == lid && !ws.contains tid
    && t.splits.any fun sp => sp.valid && sp.state == .ready)

/-- What a lane carries with it in a sort (R276). -/
structure Carried where
  key : Nat
  tid : Nat
  lane : Nat
  deriving DecidableEq, Repr, Inhabited

/-- The runs of equal keys of sorted lanes. -/
def keyRuns : List Carried → List (List Carried)
  | [] => []
  | c :: cs =>
    match keyRuns cs with
    | (d :: ds) :: rest => if c.key == d.key then (c :: d :: ds) :: rest else [c] :: (d :: ds) :: rest
    | _ => [[c]]

/-- Places a run of lanes from (t, pos) onward, 96 a train: the places and the position after it. -/
def placeRun (t pos : Nat) : List Carried → List (Nat × Nat × Carried) × Nat × Nat
  | [] => ([], t, pos)
  | c :: cs =>
    let (t, pos) := if pos == 96 then (t + 1, 0) else (t, pos)
    let (rest, t', pos') := placeRun t (pos + 1) cs
    ((t, pos, c) :: rest, t', pos')

/-- The placement of R276 for `g` trains: destination train, lane, and the lane that moves there. -/
def placeRuns (g : Nat) : Nat → Nat → List (List Carried) → List (Nat × Nat × Carried)
  | _, _, [] => []
  | t, pos, r :: rs =>
    let left := (r :: rs).foldl (fun n x => n + x.length) 0
    let fresh := decide (0 < pos) && decide ((left + 95) / 96 + t + 1 ≤ g)
    let (t, pos) := if fresh then (t + 1, 0) else (t, pos)
    let (here, t, pos) := placeRun t pos r
    here ++ placeRuns g t pos rs

/-- A train after a sort: lanes `moved` (its lane, the lane that moves there) with what they carry (R276). -/
def regroupedTrain (s : State) (tid : Nat) (moved : List (Nat × Carried)) (pts : Nat) : Train :=
  let t := s.train tid
  let at_ (l : Nat) : Option Carried := (moved.find? fun x => x.1 == l).map (·.2)
  let column (n : Nat) (get : Train → List Word) : List Word :=
    (List.range numLanes).map fun l => match at_ l with
      | some c => (get (s.train c.tid)).getD c.lane 0
      | none => (get t).getD l n
  let regs := (List.range (16 * t.granules)).drop 1
  let vregs : Tab (List Word) := regs.map fun n => (n, column 0 fun x => Tab.get [] x.vregs n)
  let live := maskOfList (moved.map (·.1))
  let fixs := (s.launch t.launch).fix.filter fun x => x.2.1 == 6
  { t with vregs := vregs, carried := [], gens := column 0 (·.gens), live := live, pts := pts,
           fix := fixs.map fun (n, _) => (n, column 0 fun x => Tab.get [] x.fix n),
           elems := (List.range numLanes).filterMap fun l => match at_ l with
             | some c => (Tab.find (s.train c.tid).elems c.lane).map fun e => (l, e)
             | none => (Tab.find t.elems l).bind fun e => if (t.live).getLsbD l then none else some (l, e),
           splits := t.splits.map fun sp =>
             if sp.valid then { sp with member := live, active := live, hold := .free } else sp }

/-- Sorts the rays of the participants of a core (R276): trains left without a live lane end. -/
def regroup (core : Nat) (s : State) : State :=
  let party := sortBy (fun x => x) ((regrpParty s core).map (·.1))
  let lanes := (party.map fun tid =>
    let t := s.train tid
    (lanesOf t.live).map fun l => ({ key := (t.readV t.regrpKey l).toNat % 64, tid := tid, lane := l } : Carried)).flatten
  let places : List (Nat × Nat × Carried) := placeRuns party.length 0 0 (keyRuns (sortBy (fun c => c.key) lanes))
  let pts := party.foldl (fun m tid => max m (s.train tid).absorb.pts) 0
  let ts := party.zipIdx.map fun (tid, k) =>
    (tid, regroupedTrain s tid ((places.filter fun (x : Nat × Nat × Carried) => x.1 == k).map fun (x : Nat × Nat × Carried) => (x.2.1, x.2.2)) pts)
  ts.foldl (fun s (tid, t) =>
    let t := if t.live == 0 then { t with splits := t.splits.map fun _ => {} } else t
    endIfEmpty tid (s.setTrain tid t)) s

/-- The conditions of a sort other than the wait limit (R276). -/
def regrpDue (s : State) (core : Nat) : Bool :=
  let p := regrpParty s core
  match p with
  | [] => false
  | (tid, _) :: _ => p.length == 4 || noOtherReady s core (s.train tid).launch

/-- The oldest waiter arrived 256 cycles ago (R276). -/
def regrpLimit (s : State) (core : Nat) : Bool :=
  match regrpParty s core with
  | [] => false
  | (_, c) :: _ => decide (c + 256 ≤ s.timer)

/-- REGRP_SORT (R276). -/
def execRegrpSort (core : Nat) (s : State) : Result := if regrpDue s core then .next (regroup core s) else .next s

/-- REGRP_WAIT_LIMIT (R276). -/
def execRegrpWaitLimit (core : Nat) (s : State) : Result := if regrpLimit s core then .next (regroup core s) else .next s

end Sys2Proof.Machine
end

