-- ==== Sys2Proof/Machine/Blends.lean ====
section
/-! DEFINITION. Ordered blending (spec/11_core_geometry_rays.md R277 to R280; spec/17 R339; spec/21 R388). -/

namespace Sys2Proof.Machine

/-- The pixel of an address in a render target whose element size is the access size (R277). -/
def targetPixel (n ea : Nat) (t : Target) : Option (Nat × Nat) :=
  let o := ea - t.base
  let spp := 2 ^ t.spp
  if t.base ≤ ea && t.pitch != 0 && t.es == n && decide (o / t.pitch < t.height) && decide (o % t.pitch < t.width * spp * t.es)
  then some (o % t.pitch / t.es / spp, o / t.pitch)
  else none

/-- The pixel that an address of a draw belongs to. -/
def Launch.pixelOf (l : Launch) (n ea : Nat) : Option (Nat × Nat) := (l.raster.targets.filterMap (targetPixel n ea)).head?

/-- One channel of `.over` on RGBA8 (Table 11.10). -/
def overByte (src dst srcA : Nat) : Nat := min 255 (src + (roundInt .nearest false (dst * (255 - srcA)) 255).1)

/-- One channel of `.over` on F16 (Table 11.10). -/
def overHalf (src dst srcA : Nat) : Nat :=
  let d := decodeRaw .f16
  let inv := (FNum.add false (FNum.ofInt 1) (d srcA).negate).1
  (roundTo .f16 .nearest (FNum.add false (d src) (FNum.mul (d dst) inv).1).1).1

/-- The new value of a blend (Table 11.10). -/
def blendNew (op : Nat) (wide : Bool) (src dst : Nat) : Nat :=
  match op with
  | 0 =>
    if wide then packElems 16 ((List.range 4).map fun k => overHalf (elemNat src 16 k) (elemNat dst 16 k) (elemNat src 16 3))
    else packElems 8 ((List.range 4).map fun k => overByte (elemNat src 8 k) (elemNat dst 8 k) (elemNat src 8 3))
  | 1 => if FNum.lt (decodeRaw .f32 (src % 2 ^ 32)) (decodeRaw .f32 (dst % 2 ^ 32)) then src else dst
  | _ => src

/-- What the lanes of a BLST do: the lanes held, and the faults. -/
structure BlendAcc where
  held : List Blend := []
  faults : List (Nat × Kind × DWord × Word) := []

/-- One lane of a BLST (R277). -/
def blendLane (me : Me) (f : FmtM) (s : State) (x : BlendAcc) (l : Nat) : BlendAcc :=
  let g := trainAgent s me.tid
  let t := me.train s
  let la := s.launch t.launch
  let n := accessBytes f.size.toNat
  let ea := effAddr s t me.sid f.base.toNat f.ofs.toNat l 20 f.disp.toNat
  let bad (k : Kind) : BlendAcc :=
    { x with faults := x.faults ++ [(l, k, ea, if k == .machineCheck then 7 else 0)] }
  match la.pixelOf n ea.toNat with
  | none => bad .aperture
  | some (px, py) =>
    match accessCheck s g .both 0 ea.toNat n with
    | .error k => bad k
    | .ok loc =>
      let e := (Tab.find t.elems l).getD { elem := 0 }
      let b : Blend := { who := me.who s, ctx := t.ctx, launch := t.launch, seq := e.seq, tx := px / 8, ty := py / 8,
                         loc := loc, op := f.minor.toNat, wide := f.size == 3,
                         src := storeValue s t me.sid f.d.toNat l (accessRegs f.size.toNat), pts := t.pts, lane := l,
                         pc := (me.split s).pc, va := ea.toNat }
      { x with held := x.held ++ [b] }

/-- The lowest open sequence number at a tile of a draw (R280). -/
def Launch.lowestOpen (l : Launch) (tx ty : Nat) : Option Nat :=
  (leastBy (fun (r : Registration) => r.seq) (l.registrations.filter fun r => r.isOpen && r.tx == tx && r.ty == ty)).map (·.seq)

/-- The slice that holds a lane: that of its line, as the lane's train reaches it. -/
def Blend.slice (b : Blend) (s : State) : Option Nat :=
  match b.loc with
  | .phys pa _ spread slice _ => some (sliceOf s pa spread slice (trainAgent s b.who.tid).die)
  | _ => none

/-- The slices have room for the lanes of a BLST: each holds up to 4,096 of a tile, but for the lowest open sequence number
(R280). -/
def blendRoom (s : State) (lid : Nat) (bs : List Blend) : Bool :=
  bs.all fun b =>
    let here (x : Blend) : Bool := x.launch == lid && x.tx == b.tx && x.ty == b.ty && x.slice s == b.slice s
    decide ((s.blends.filter fun x => here x.2).length + (bs.filter here).length ≤ 4096)
      || (s.launch lid).lowestOpen b.tx b.ty == some b.seq

/-- BLST (R277 to R280): the lanes are held at their slices. They are watched as they are applied (R433). -/
def execBlst (f : FmtM) (s : State) : Result :=
  issueAccess (.blst f) 0 true s fun me s =>
    let t := me.train s
    let x := (lanesOf (me.active s &&& ~~~t.helpers)).foldl (blendLane me f s) {}
    if !blendRoom s t.launch x.held then stall 9 me s
    else
      let g := trainAgent s me.tid
      let (instr, s) := s.fresh
      let s := x.held.foldl (fun s b =>
        let (id, s) := (useTranslation g b.va s).fresh
        { s with blends := Tab.put s.blends id { b with instr := instr } }) s
      finishAccess me (accessBytes f.size.toNat) true true (maskOfList (x.faults.map (·.1)))
        { s := s, faults := x.faults }

/-- Every earlier draw of a launch's queue has finished registering, and its registrations at a tile are closed and
applied (R388). -/
def earlierDrawsDone (s : State) (lid tx ty : Nat) : Bool :=
  let l := s.launch lid
  s.launches.all fun (k, m) =>
    !(k < lid && m.queue == l.queue && m.graphics) ||
      (m.registered && (m.registrations.all fun r => !(r.isOpen && r.tx == tx && r.ty == ty))
        && s.blends.all fun (_, b) => !(b.launch == k && b.tx == tx && b.ty == ty))

/-- Nothing in its tile holds a lane (R279, R388). -/
def blendFree (s : State) (id : Nat) (b : Blend) : Bool :=
  let l := s.launch b.launch
  (l.registrations.all fun r => !(r.isOpen && r.tx == b.tx && r.ty == b.ty && decide (r.seq < b.seq)))
    && (s.blends.all fun (k, x) =>
      !(x.launch == b.launch && x.tx == b.tx && x.ty == b.ty && (x.seq < b.seq || (x.seq == b.seq && k < id))))
    && earlierDrawsDone s b.launch b.tx b.ty

/-- A held lane may be applied (R279, R388): the lanes of one train are applied in program order, so that one which its tile still holds
holds back the later ones at other tiles too (R336, R337, R340; DEDUCED, log 117). -/
def blendDue (s : State) (id : Nat) (b : Blend) : Bool :=
  blendFree s id b && !(s.blends.any fun (k, x) => decide (k < id) && x.who.tid == b.who.tid && x.who.gen == b.who.gen)

/-- The place of a held lane under the leaf that its address has now: after an invalidation a lane meets its frame by the new attributes
(R373). A frame that the address names no more is served without a line of its own. -/
def leafNow (s : State) (g : Agent) (va : Nat) (l : Loc) : Loc :=
  match l with
  | .phys pa _ _ slice cls =>
    if (s.ctx g.ctx).physical then l
    else
      match (translateVa s g.core g.ctx va).map (pageLoc · va) with
      | .ok (.phys p h sp sl c) => if p == pa then .phys p h sp sl c else .phys pa 3 0 slice cls
      | _ => .phys pa 3 0 slice cls
  | l => l

/-- A lane of a BLST has been applied, or has faulted (`done` is false), and is gone from the table. The lanes of its instruction that
are left carry the lowest watched byte of those that were applied; the last of them parks the split by it (R433, DEDUCED, log 144). -/
def watchBlend (b : Blend) (done : Bool) (s : State) : State :=
  let n := if b.wide then 8 else 4
  let hit := b.hit.orElse fun _ => if done then watchHit s b.ctx false true true b.va n else none
  if s.blends.any fun x => x.2.instr == b.instr then
    { s with blends := s.blends.map fun (k, x) => (k, if x.instr == b.instr then { x with hit := hit } else x) }
  else match hit with
    | some (w, a) =>
      if !s.present b.who then s
      else
        let sid := (s.train b.who.tid).splitOf b.lane b.who.sid
        deferFault b.who.tid sid [{ engineRec Kind.breakpoint.code a n (watchInfo false 0 true true w) with
          sid := sid, offset := b.pc }] s
    | none => s

/-- Applies a held lane as one read-modify-write at its home (R278, R339), or faults its lane where the line holds an
uncorrectable error (R315, R404). -/
def applyBlend (id : Nat) (b : Blend) (s : State) : State :=
  let s := { s with blends := Tab.del s.blends id }
  let n := if b.wide then 8 else 4
  match badSource s b.loc with
  | some x =>
    watchBlend b false (if s.present b.who then
      let sid := (s.train b.who.tid).splitOf b.lane b.who.sid
      deferFault b.who.tid sid [{ kind := Kind.machineCheck.code, trainLevel := false, lane := b.lane, sid := sid,
                                  offset := b.pc, pending := maskOfList [b.lane], addr := BitVec.ofNat 64 b.va, size := n,
                                  info := BitVec.ofNat 32 x }] s
    else s)
  | none =>
    let g := trainAgent s b.who.tid
    let g := { g with ctx := b.ctx }
    let pts := if s.present b.who then max b.pts (s.train b.who.tid).pts else b.pts
    let new := blendNew b.op b.wide b.src (readLoc s b.loc n)
    let (ts, s) := agentStore g pts (leafNow s g b.va b.loc) n new s
    let s := if s.present b.who then s.updTrain b.who.tid fun t => t.observe ts else s.seen ts
    watchBlend b true (settlePlace b.who id ts s)

/-- BLEND_APPLY (R279). -/
def execBlendApply (id : Nat) (s : State) : Result :=
  match Tab.find s.blends id with
  | some b => if blendDue s id b then .next (applyBlend id b s) else .next s
  | none => .next s

/-- A COARSE element spawns no sample: it is a helper, covers none or was killed (R164, R264). -/
def Launch.spawnsNone (l : Launch) (k : Nat) (c : CoarseInfo) : Bool := c.helper || c.samples.isEmpty || l.killed.contains k

/-- Every COARSE and SAMPLE element of a primitive in a tile has ended, those included that are yet to be spawned (R279). -/
def Launch.tileDone (l : Launch) (seq tx ty : Nat) : Bool :=
  l.coarse.all fun (k, c) =>
    !(c.seq == seq && c.cx * l.raster.cw / 8 == tx && c.cy * l.raster.ch / 8 == ty)
      || (c.ended && (l.spawnsNone k c || (c.spawned && c.left == 0)))

/-- REGISTRATION_CLOSE (R279). -/
def execRegistrationClose (launch prim tx ty : Nat) (s : State) : Result :=
  if (s.launch launch).tileDone prim tx ty then
    .next (s.updLaunch launch fun l =>
      { l with registrations := l.registrations.map fun r =>
          if r.seq == prim && r.tx == tx && r.ty == ty then { r with isOpen := false } else r })
  else .next s

end Sys2Proof.Machine
end

