-- ==== Sys2Proof/Machine/Cluster.lean ====
section
/-! DEFINITION. Accord calls and their batches, the cross-cluster shuffle and the regrouping ring
(spec/14_cluster_accord_shuffle_ring.md R287 to R305). The combiner's start and passing stand with the saved contexts. -/

namespace Sys2Proof.Machine

/-! ### ACALL -/

/-- The launch whose combiner entry serves a context (R361, DEDUCED, log 19). -/
def combinerLaunch (s : State) (ctx : Nat) : Option Nat :=
  (s.launches.find? fun (_, l) => l.ctx == ctx && l.combine != 0xFFFFFFFF && !l.dead && l.lslot != 0xFF).map (·.1)

/-- The accord page of an address, or the fault of an ACALL lane (R291). -/
def accordCheck (s : State) (g : Agent) (ea n : Nat) : Except (Kind × Word) Page :=
  match checkGlobal s g .both true ea n with
  | .error k => .error (k, if k == .machineCheck then 7 else 0)
  | .ok _ =>
    if (s.ctx g.ctx).physical then .error (.badHandle, 0)
    else
      match translateVa s g.core g.ctx ea with
      | .ok p => if isAccord p then .ok p else .error (.badHandle, 0)
      | .error k => .error (k, 0)

/-- The lanes of an ACALL: page, virtual base, lane, argument and offset of each request, and the fault that stops the
checks (R291). -/
def acallLanes (me : Me) (f : FmtMA) (s : State) :
    List Nat → List (Nat × Nat × Nat × Nat × Nat) × Option (Nat × Kind × DWord × Word)
  | [] => ([], none)
  | l :: ls =>
    let t := me.train s
    if t.helpers.getLsbD l then acallLanes me f s ls
    else
      let g := trainAgent s me.tid
      let wide := f.width == 1
      let n := if wide then 8 else 4
      let ea := effAddr s t me.sid f.base.toNat f.ofs.toNat l 11 f.disp.toNat
      match accordCheck s g ea.toNat n with
      | .error (k, info) => ([], some (l, k, ea, info))
      | .ok p =>
        let v := if isK f.src.toNat then wrapInt (constInt f.src.toNat) (8 * n) else readReg s t me.sid f.src.toNat wide l
        let off := ea.toNat % 2 ^ 16
        let (rs, x) := acallLanes me f s ls
        ((p.base, ea.toNat - off, l, v, off) :: rs, x)

/-- Groups requests by physical page, keeping the order of their first lanes: the requests of one lane set to one page take consecutive
places by whatever virtual page they name it (R297). A group goes by the virtual base of its first lane. -/
def groupPages (rs : List (Nat × Nat × Nat × Nat × Nat)) : List (Nat × Nat × List (Nat × Nat × Nat)) :=
  (rs.map (·.1)).eraseDups.map fun p =>
    let mine := rs.filter fun r => r.1 == p
    (p, ((mine.head?).map (·.2.1)).getD 0, mine.map fun r => r.2.2)

/-- A failed request replies its code at once (R361). -/
def replyFailed (op lane : Nat) (code : Word) (s : State) : State :=
  let (id, s) := s.fresh
  { s with accReplies := Tab.put s.accReplies id { op := op, lane := lane, val := code.toNat, err := true, ts := 0, lam := 0 } }

/-- Sends the requests of an ACALL (R291): a context without a combiner entry fails them at once. -/
def sendAcall (me : Me) (f : FmtMA) (s : State) : State :=
  let t := me.train s
  let g := trainAgent s me.tid
  let act := me.active s
  let (rs, bad) := acallLanes me f s (lanesOf act)
  let done := match bad with
    | some (l, _) => act &&& maskOf fun k => decide (k < l)
    | none => act
  let (id, s) := s.fresh
  let hasEntry := (combinerLaunch s t.ctx).isSome
  let o : AccOp := { who := me.who s, joined := s.joined me.tid me.sid, ctx := t.ctx, dest := f.d.toNat,
                     wide := f.width == 1, sent := maskOfList (rs.map (·.2.2.1)), helpers := done &&& t.helpers,
                     fault := bad.map fun (l, k, a, i) => (l, k.code, a, i), pending := act &&& ~~~done,
                     unaccepted := if hasEntry then rs.length else 0, waiting := rs.length, vals := [], failed := [],
                     addrs := rs.foldl (fun m r => Tab.put m r.2.2.1 (r.2.1 + r.2.2.2.2)) [], ts := 0, lam := 0,
                     pc := (me.split s).pc, born := (me.split s).born }
  let s := { s with accOps := Tab.put s.accOps id o }
  let s := rs.foldl (fun s r => useTranslation g (r.2.1 + r.2.2.2.2) s) s
  let s := if hasEntry then
      (groupPages rs).foldl (fun s (p, va, reqs) =>
        let (gid, s) := s.fresh
        let x : AccGroup := { op := id, cluster := accordServer s (accordOwner p), ctx := t.ctx, launch := t.launch,
                              page := p, va := va, method := f.op.toNat, wide := f.width == 1, pts := t.pts,
                              lam := t.lamport, reqs := reqs }
        { s with accGroups := Tab.put s.accGroups gid x }) s
    else rs.foldl (fun s r => replyFailed id r.2.2.1 0xFFFFFFFF s) s
  let s := if rs.isEmpty then s
    else s.updTrain me.tid fun t => t.addBusy id 7 (writesOf (.acall f))
  s.updSplit me fun sp => { sp with sending := some id }

/-- The ACALLs of a train whose replies have not all arrived. -/
def acallsOf (s : State) (tid : Nat) : Nat :=
  (s.accOps.filter fun (_, o) => o.who.tid == tid && o.who.gen == (s.train tid).inc && o.waiting != 0).length

/-- The end of an ACALL's issue, once every request is accepted (R291): helpers take 0, and a faulting lane parks the
split with its pending lanes. -/
def finishAcall (me : Me) (id : Nat) (o : AccOp) (s : State) : State :=
  let s := s.updTrain me.tid fun t =>
    let t := t.writeReplies o.helpers o.dest o.wide fun _ => 0
    t.updSplit me.sid fun sp => { sp with sending := none }
  let s := if o.waiting == 0 then { s with accOps := Tab.del s.accOps id } else s
  let n := if o.wide then 8 else 4
  let recs : List FaultRec := match o.fault with
    | some (l, k, a, i) => [{ kind := k, trainLevel := false, lane := l, sid := me.sid, offset := o.pc, pending := o.pending,
                              addr := a, size := n, info := i }]
    | none => []
  if recs.isEmpty then retire me s else faultWith s me recs

/-- The ACALL that the issuing word is sending. -/
def sendingOp (s : State) : Option (Me × Nat × AccOp) :=
  match issuer s with
  | none => none
  | some me =>
    match (me.split s).sending with
    | none => none
    | some id => (Tab.find s.accOps id).map fun o => (me, id, o)

/-- ACALL (R290, R291): it holds its issue slot until every request it has sent is accepted. -/
def execAcall (f : FmtMA) (s : State) : Result :=
  match sendingOp s with
  | some (me, id, o) => .next (if o.unaccepted == 0 then finishAcall me id o s else stall 7 me s)
  | none =>
    issue (.acall f) s fun me s =>
      if (me.train s).combiner then faultTrain .badHandle 0 me s
      else if 4 ≤ acallsOf s me.tid then stall 7 me s
      else if unsettled s me.tid then stall 9 me s
      else
        let s := sendAcall me f s
        match sendingOp s with
        | some (me, id, o) => if o.unaccepted == 0 then finishAcall me id o s else stall 7 me s
        | none => s

/-! ### The accord queue -/

/-- The open batches of a cluster. -/
def State.accQueue (s : State) (k : Nat) : List AccBatch := Tab.get [] s.accQueues k

/-- A batch takes requests of a group. -/
def sameKey (b : AccBatch) (g : AccGroup) : Bool :=
  b.ctx == g.ctx && b.page == g.page && b.method == g.method && b.wide == g.wide && decide (b.reqs.length < 96)

/-- Adds a request to the first open batch of its key that has room. -/
def addReq (g : AccGroup) (r : AccReq) : List AccBatch → Option (List AccBatch)
  | [] => none
  | b :: bs =>
    if sameKey b g then some ({ b with reqs := b.reqs ++ [r] } :: bs) else (addReq g r bs).map fun x => b :: x

/-- Batches of retired clusters that are yet to come to the cluster which serves their pages (R287). -/
def comingBatches (s : State) (k : Nat) : List AccBatch :=
  (s.accQueues.map fun (j, bs) => if j != k && accordServer s j == k then bs else []).flatten

/-- One request arrives at the queue of its cluster: it joins the open batch of its key or opens one, or finds no room
(R289). Batches that the queue still has to take over come first. -/
def arriveReq (g : AccGroup) (q : Nat × Nat × Nat) (s : State) : Option State :=
  let bs := s.accQueue g.cluster
  let r : AccReq := { op := g.op, lane := q.1, arg := q.2.1, off := q.2.2, pts := g.pts, lam := g.lam }
  let total := bs.foldl (fun n b => n + b.reqs.length) 0
  if 1024 ≤ total || !(comingBatches s g.cluster).isEmpty then none
  else
    match addReq g r bs with
    | some bs => some { s with accQueues := Tab.put s.accQueues g.cluster bs }
    | none =>
      if 64 ≤ bs.length then none
      else
        let seq := Tab.get 0 s.accSeq (g.page / 2 ^ 16)
        let (id, s) := s.fresh
        let b : AccBatch := { ctx := g.ctx, launch := g.launch, page := g.page, va := g.va, method := g.method,
                              wide := g.wide, seq := seq, reqs := [r], opened := id }
        some { s with accQueues := Tab.put s.accQueues g.cluster (bs ++ [b]),
                      accSeq := Tab.put s.accSeq (g.page / 2 ^ 16) ((seq + 1) % 2 ^ 32) }

/-- The requests of a group arrive in lane order, as many as the queue accepts: those that it does not, and the state. -/
def arriveReqs (g : AccGroup) : List (Nat × Nat × Nat) → State → List (Nat × Nat × Nat) × State
  | [], s => ([], s)
  | q :: qs, s =>
    match arriveReq g q s with
    | none => (q :: qs, s)
    | some s =>
      let s := { s with accOps := Tab.upd s.accOps g.op fun o => { o with unaccepted := o.unaccepted - 1 } }
      arriveReqs g qs s

/-- The train whose ACALL sent a group. -/
def groupTrain (s : State) (g : AccGroup) : Option (Nat × Nat) := (Tab.find s.accOps g.op).map fun o => (o.who.tid, o.who.gen)

/-- The open batch that a group would join stands before a batch of its page that holds a request of its train, which is to come first
(R297). -/
def joinsTooEarly (s : State) (g : AccGroup) : Bool :=
  let mine (r : AccReq) : Bool := ((Tab.find s.accOps r.op).map fun o => (o.who.tid, o.who.gen)) == groupTrain s g
  match ((s.accQueue g.cluster).filter fun b => b.ctx == g.ctx && b.page == g.page).dropWhile fun b => !sameKey b g with
  | _ :: later => later.any fun b => b.reqs.any mine
  | [] => false

/-- A group waits for another one to its page: for the rest of one of its key that a full queue has cut, and for an earlier one of
its own train; and it does not arrive while it would join a batch that goes before an earlier request of its train (R297, DEDUCED, log 121). -/
def groupWaits (s : State) (id : Nat) (g : AccGroup) : Bool :=
  joinsTooEarly s g || s.accGroups.any fun (k, h) => k != id && h.page == g.page && h.ctx == g.ctx &&
    ((h.cut && h.method == g.method && h.wide == g.wide) || (decide (k < id) && groupTrain s h == groupTrain s g))

/-- ACCORD_REQUEST_ARRIVAL (R289, R297): the requests of one ACALL to one page take consecutive places. -/
def execAccordRequestArrival (id : Nat) (s : State) : Result :=
  match Tab.find s.accGroups id with
  | none => .next s
  | some g =>
    if groupWaits s id g then .next s
    else
      let (rest, s) := arriveReqs g g.reqs s
      if rest.isEmpty then .next { s with accGroups := Tab.del s.accGroups id }
      else .next { s with accGroups := Tab.put s.accGroups id
                            { g with reqs := rest, cut := g.cut || decide (rest.length < g.reqs.length) } }

/-- The resident combiner train of a cluster: slot 31 of its combiner core (R287). -/
def combinerTid (s : State) (k : Nat) : Option Nat :=
  match combinerCore s k with
  | some c => if (s.train (c * 32 + 31)).state != .free && (s.train (c * 32 + 31)).combiner then some (c * 32 + 31) else none
  | none => none

/-- The key of a delivered batch: the context and the cluster. -/
def outKey (ctx k : Nat) : Nat := ctx * 64 + k

/-- The delivered batch of a combiner train that has not been replied to (R294). -/
def outBatch (s : State) (tid : Nat) : Option AccBatch := Tab.find s.accOut (outKey (s.train tid).ctx (tid / 128))

/-- The one valid split of a train. -/
def Train.onlySplit (t : Train) : Nat := ((List.range 4).find? fun n => (t.split n).valid).getD 0

/-- The batch that ACCORD_BATCH_DELIVERY delivers at a cluster: the oldest open batch of the waiting train's context
(R289). -/
def deliverable (s : State) (k : Nat) : Option (Nat × AccBatch) :=
  match combinerTid s k with
  | none => none
  | some tid =>
    let t := s.train tid
    if t.arecv.isNone || (outBatch s tid).isSome then none
    else ((s.accQueue k).find? fun b => b.ctx == t.ctx).map fun b => (tid, b)

/-- The words of a batch header (Table 14.3). -/
def headerWords (b : AccBatch) : List Nat :=
  [b.reqs.length + 2 ^ 7 * b.wide.toNat + 2 ^ 8 * b.method, b.seq, b.va % 2 ^ 32, b.va / 2 ^ 32]

/-- Delivers a batch to a combiner train (R294). -/
def deliverBatch (k tid : Nat) (b : AccBatch) (s : State) : State :=
  let t := s.train tid
  let (h, v) := t.arecv.getD (4, 2)
  let n := b.reqs.length
  let m := maskOf fun l => decide (l < n)
  let req (l : Nat) : AccReq := b.reqs.getD l { op := 0, lane := 0, arg := 0, off := 0, pts := 0, lam := 0 }
  let ts := b.reqs.foldl (fun x r => max x r.pts) 0
  let lam := b.reqs.foldl (fun x r => max x r.lam) 0
  let s := { s with accQueues := Tab.put s.accQueues k ((s.accQueue k).erase b),
                    accOut := Tab.put s.accOut (outKey t.ctx k) b }
  let s := s.updTrain tid fun t =>
    let t := ((t.writeV m v fun l => BitVec.ofNat 32 (req l).arg).writeV m (v + 1) fun l =>
      BitVec.ofNat 32 ((req l).arg / 2 ^ 32)).writeV m (v + 2) fun l => BitVec.ofNat 32 (req l).off
    let sid := t.onlySplit
    let t := t.updSplit sid fun sp => { sp with active := m &&& (sp.member &&& ~~~(t.heldLanes sid)) }
    let t := (headerWords b).zipIdx.foldl (fun t (w, i) => t.token (h + i) (BitVec.ofNat 32 w)) t
    { t.observe ts with arecv := none }
  s.hear tid lam

/-- ACCORD_BATCH_DELIVERY (R289, R294). -/
def execAccordBatchDelivery (cluster : Nat) (s : State) : Result :=
  match deliverable s cluster with
  | some (tid, b) => .next (deliverBatch cluster tid b s)
  | none => .next s

/-- ARECV (R294). While an earlier one of the train waits, another is held, charged as a token (DESIGN CHOICE, log 134). -/
def execArecv (f : FmtA) (s : State) : Result :=
  issue (.arecv f) s fun me s =>
    let t := me.train s
    if !t.combiner || divided t || (outBatch s me.tid).isSome then faultTrain .badHandle 0 me s
    else if t.arecv.isSome then stall 8 me s
    else
      let h := f.desc.toNat
      retire me (s.updTrain me.tid fun t =>
        { (List.range 4).foldl (fun t i => t.awaitToken (h + i) 8) t with arecv := some (h, bits f.imm.toNat 0 8) })

/-- AFAIL (R295). -/
def execAfail (f : FmtA) (s : State) : Result :=
  issue (.afail f) s fun me s =>
    let t := me.train s
    match (if t.combiner then outBatch s me.tid else none) with
    | none => faultTrain .badHandle 0 me s
    | some b =>
      let m := t.readTriple me.sid f.desc.toNat
      let fails := (List.range b.reqs.length).foldl (fun x i =>
        if m.getLsbD i then Tab.put x i (t.readV (bits f.imm.toNat 0 8) i) else x) b.fails
      retire me { s with accOut := Tab.put s.accOut (outKey t.ctx (me.core / 4)) { b with fails := fails } }

/-- Sends the replies of a batch: request, value, and whether it failed. -/
def sendReplies (b : AccBatch) (val : Nat → Nat) (fail : Nat → Option Word) (ts lam : Nat) (s : State) : State :=
  b.reqs.zipIdx.foldl (fun s (r, i) =>
    let (id, s) := s.fresh
    let x : AccReply := match fail i with
      | some c => { op := r.op, lane := r.lane, val := c.toNat, err := true, ts := ts, lam := lam }
      | none => { op := r.op, lane := r.lane, val := val i, err := false, ts := ts, lam := lam }
    { s with accReplies := Tab.put s.accReplies id x }) s

/-- AREPLY (R296): it waits for the combiner's earlier accesses, and its replies leave. -/
def execAreply (f : FmtA) (s : State) : Result :=
  issue (.areply f) s fun me s =>
    let t := me.train s
    match (if t.combiner then outBatch s me.tid else none) with
    | none => faultTrain .badHandle 0 me s
    | some b =>
      let q := (List.range 4).map fun i => (t.readS me.sid (f.desc.toNat + i)).toNat
      let h := headerWords b
      let v := bits f.imm.toNat 0 8
      -- bits [31:13] of the first word name nothing
      if (q.getD 0 0) % 2 ^ 13 != (h.getD 0 0) || q.drop 1 != h.drop 1 then faultTrain .badHandle 0 me s
      else if unsettled s me.tid then stall 9 me s
      else
        let val (i : Nat) : Nat := (t.readV v i).toNat + (if b.wide then 2 ^ 32 * (t.readV (v + 1) i).toNat else 0)
        let s := { s with accOut := Tab.del s.accOut (outKey t.ctx (me.core / 4)) }
        retire me (sendReplies b val (fun i => Tab.find b.fails i) t.pts t.lamport s)

/-- The batch of a killed combiner train fails (Table 14.6). -/
def failOutstanding (ctx k : Nat) (s : State) : State :=
  match Tab.find s.accOut (outKey ctx k) with
  | none => s
  | some b =>
    sendReplies b (fun _ => 0) (fun _ => some 0xFFFFFFFF) 0 0 { s with accOut := Tab.del s.accOut (outKey ctx k) }

/-- The records of an ACALL's failed lanes (R298). -/
def accordRecs (o : AccOp) (sid : Nat) : List FaultRec :=
  (sortBy (·.1) o.failed).map fun (l, code) =>
    { kind := Kind.accordMethod.code, trainLevel := false, lane := l, sid := sid, offset := o.pc, pending := 0,
      addr := BitVec.ofNat 64 (Tab.get 0 o.addrs l), size := if o.wide then 8 else 4, info := code }

/-- The record of the lowest watched byte of the lanes of an ACALL whose methods have been performed: judged at its last reply, when
failed lanes are known (R433, DEDUCED, log 144). -/
def accordWatch (o : AccOp) (sid : Nat) (s : State) : List FaultRec :=
  let n := if o.wide then 8 else 4
  let done := (lanesOf o.sent).filter fun l => !(o.failed.any fun x => x.1 == l)
  match (done.filterMap fun l => (Tab.find o.addrs l).bind fun a => watchHit s o.ctx false true true a n).head? with
  | some (w, a) => [{ engineRec Kind.breakpoint.code a n (watchInfo false 0 true true w) with sid := sid, offset := o.pc }]
  | none => []

/-- The split that issued an operation still exists: the one of its number that was formed when it was (R298). -/
def sameSplit (s : State) (w : Who) (born : Nat) : Bool :=
  let sp := (s.train w.tid).split w.sid
  s.present w && sp.valid && sp.born == born

/-- The last reply of an ACALL has arrived: D is written in one step, and failed lanes fault (R291, R298). -/
def settleAcall (id : Nat) (o : AccOp) (s : State) : State :=
  let keep := s.present o.who && ((s.train o.who.tid).split o.who.sid).sending == some id
  let s := if keep then s else { s with accOps := Tab.del s.accOps id }
  if !s.present o.who then s
  else
    let s := s.updTrain o.who.tid fun t =>
      ((t.writeReplies o.sent o.dest o.wide fun l => Tab.get 0 o.vals l).doneBusy id).carry
        ((List.range (if o.wide then 2 else 1)).map fun k => .v (o.dest + k)) o.ts
    let s := s.hear o.who.tid o.lam
    let recs := accordRecs o o.who.sid
    if sameSplit s o.who o.born then
      let recs := recs ++ accordWatch o o.who.sid s
      if recs.isEmpty then s else deferFault o.who.tid o.who.sid recs s
    else
      recs.foldl (fun s r => s.raiseEvent o.ctx (engineEvent s 1 o.joined 0 r)) s

/-- ACCORD_REPLY_ARRIVAL (R291, R298). -/
def execAccordReplyArrival (id : Nat) (s : State) : Result :=
  match Tab.find s.accReplies id with
  | none => .next s
  | some r =>
    let s := { s with accReplies := Tab.del s.accReplies id,
                      accOps := Tab.upd s.accOps r.op fun o =>
                        { o with waiting := o.waiting - 1, vals := Tab.put o.vals r.lane r.val, ts := max o.ts r.ts,
                                 lam := max o.lam r.lam,
                                 failed := if r.err then o.failed ++ [(r.lane, BitVec.ofNat 32 r.val)] else o.failed } }
    match Tab.find s.accOps r.op with
    | some o => .next (if o.waiting == 0 then settleAcall r.op o s else s)
    | none => .next s

/-! ### The shuffle port -/

/-- The VXSHUFs that wait at a cluster's port. -/
def portWaiters (s : State) (k : Nat) : List (Nat × Shuffle) :=
  s.shuffles.filter fun x => x.2.core / 4 == k && x.2.pair.isNone

/-- Two waiting VXSHUFs may pair (R300). -/
def mayPair (x y : Shuffle) : Bool :=
  x.pair.isNone && y.pair.isNone && x.launch == y.launch && x.core / 4 != y.core / 4 && x.key == y.key && x.wide == y.wide

/-- The oldest waiter that an arriving VXSHUF pairs with (R300); identifiers rise in order of arrival. -/
def pairOf (s : State) (id : Nat) (x : Shuffle) : Option Nat :=
  (s.shuffles.find? fun (k, y) => decide (k < id) && mayPair x y).map (·.1)

/-- An arriving VXSHUF pairs with the oldest waiter that matches it, as the next event (R300). -/
def arriveShuffle (id : Nat) (x : Shuffle) (s : State) : State :=
  match pairOf s id x with
  | some k => s.later (.vxshufPairing k id)
  | none => s

/-- VXSHUF (R300): it arrives at its cluster's port, and pairs or waits there. -/
def execVxshuf (f : FmtV3) (s : State) : Result :=
  issue (.vxshuf f) s fun me s =>
    let t := me.train s
    let wide := f.ty == 6
    if 4 ≤ (portWaiters s (me.core / 4)).length then stall 9 me s
    else
      let (id, s) := s.fresh
      let x : Shuffle := { who := me.who s, core := me.core, launch := t.launch, key := singleSrc s t me.sid f.b.toNat 0,
                           wide := wide, dest := f.d.toNat, act := me.active s,
                           vals := (List.range numLanes).map fun l => intSrc s t me.sid f.ty.toNat f.a.toNat l,
                           issued := s.timer, ctx := t.ctx, joined := s.joined me.tid me.sid, born := (me.split s).born }
      let s := arriveShuffle id x { s with shuffles := Tab.put s.shuffles id x }
      retire me (s.updTrain me.tid fun t =>
        t.addBusy id 9 (if wide then [.v f.d.toNat, .v (f.d.toNat + 1)] else [.v f.d.toNat]))

/-- VXSHUF_PAIRING (R300): destinations are written 48 cycles later on one die, 96 cycles later across dies. -/
def execVxshufPairing (first second : Nat) (s : State) : Result :=
  match Tab.find s.shuffles first, Tab.find s.shuffles second with
  | some x, some y =>
    if pairOf s second y == some first then
      let due := s.cycle + (if x.core / 56 == y.core / 56 then 48 else 96)
      let t := Tab.put (Tab.put s.shuffles first { x with pair := some (second, due) }) second { y with pair := some (first, due) }
      .next { s with shuffles := t }
    else .next s
  | _, _ => .next s

/-- One train of a pair receives its partner's lanes (R300). -/
def receiveShuffle (id : Nat) (x y : Shuffle) (s : State) : State :=
  if s.present x.who then
    s.updTrain x.who.tid fun t =>
      (t.writeVN (x.act &&& y.act) x.dest (fun l => y.vals.getD l 0) (if x.wide then 2 else 1)).doneBusy id
  else s

/-- VXSHUF_DELIVERY (R300). -/
def execVxshufDelivery (id : Nat) (s : State) : Result :=
  match Tab.find s.shuffles id with
  | some x =>
    match x.pair with
    | some (k, due) =>
      match Tab.find s.shuffles k with
      | some y =>
        if due ≤ s.cycle then
          .next (receiveShuffle k y x (receiveShuffle id x y { s with shuffles := Tab.del (Tab.del s.shuffles id) k }))
        else .next s
      | none => .next s
    | none => .next s
  | none => .next s

/-- SHUFFLE_TIMEOUT (R301): where the issuing split is no more, the fault goes to the engine fault log (R298). -/
def execShuffleTimeout (id : Nat) (s : State) : Result :=
  match Tab.find s.shuffles id with
  | some x =>
    if x.pair.isNone && decide (x.issued + 4096 ≤ s.timer) then
      let s := { s with shuffles := Tab.del s.shuffles id }
      let s := if s.present x.who then s.updTrain x.who.tid fun t => t.doneBusy id else s
      let r := { engineRec Kind.shuffleTimeout.code 0 0 (BitVec.ofNat 32 x.key) with sid := x.who.sid }
      .next (if sameSplit s x.who x.born then deferFault x.who.tid x.who.sid [r] s
        else s.raiseEvent x.ctx (engineEvent s 1 x.joined 0 r))
    else .next s
  | none => .next s

/-! ### The regrouping ring -/

/-- The next live core of a core's ring (R287); the core itself where it is alone. -/
def nextInRing (s : State) (core : Nat) : Nat :=
  (((List.range 3).map fun i => core / 4 * 4 + (core + i + 1) % 4).find? (coreLive s)).getD core

/-- RINGOFF and RINGTAKE wait as REGRP does (R302). -/
def ringOp (i : Instr) (kind : Nat) (f : FmtA) (s : State) : Result :=
  issue i s fun me s =>
    if divided (me.train s) then faultTrain .badHandle 0 me s
    else fallHeld (.regroup kind (f.imm.toNat % 64) f.tok.toNat none) me s

/-- RINGOFF (R302, R303). -/
def execRingoff (f : FmtA) (s : State) : Result := ringOp (.ringoff f) 1 f s

/-- RINGTAKE (R302, R304). -/
def execRingtake (f : FmtA) (s : State) : Result := ringOp (.ringtake f) 2 f s

/-- The key of a live lane: bits [5:0] of the register that the train's last REGRP named (R303), which is v0 before the first (DESIGN CHOICE,
DESIGN CHOICE, log 140). -/
def laneKey (t : Train) (l : Nat) : Nat := (t.readV t.regrpKey l).toNat % 64

/-- Every live lane of a train has a key. -/
def allKeyed (t : Train) (key : Nat) : Bool := (lanesOf t.live).all fun l => laneKey t l == key

/-- A waiting ring operation ends with a token. -/
def endRing (tid sid tok : Nat) (v : Word) (s : State) : State :=
  s.updTrain tid fun t => (t.token tok v).updSplit sid fun sp => { sp with hold := .free }

/-- A train's offer stands somewhere. -/
def offerStands (s : State) (tid : Nat) : Bool :=
  s.cores.any fun (_, c) => match c.offer with
    | some o => o.who.tid == tid && o.who.gen == (s.train tid).inc
    | none => false

/-- A RINGOFF that has joined its queue: refused, standing, or waiting for the place of an offer (R303). -/
def tryOffer (tid sid key tok : Nat) (s : State) : State :=
  let t := s.train tid
  let next := nextInRing s (tid / 32)
  if offerStands s tid then s
  else if 48 ≤ (lanesOf t.live).length || !allKeyed t key || next == tid / 32 then endRing tid sid tok 2 s
  else if (s.core next).offer.isSome then s
  else s.updCore next fun c => { c with offer := some { who := { tid := tid, gen := t.inc, sid := sid }, since := s.timer } }

/-- The lanes of an offer move to the taker's lowest dead lanes (R304). -/
def takeLanes (tid from_ : Nat) (s : State) : State :=
  let t := s.train tid
  let o := s.train from_
  let places := (((List.range numLanes).filter fun l => !t.live.getLsbD l).zip (lanesOf o.live))
  let moved := (lanesOf t.live).map (fun l => (l, ({ key := 0, tid := tid, lane := l } : Carried)))
    ++ places.map fun (d, l) => (d, ({ key := 0, tid := from_, lane := l } : Carried))
  let keepActive := (t.split t.onlySplit).active ||| maskOfList (places.map (·.1))
  let u := regroupedTrain s tid moved (max t.absorb.pts o.absorb.pts)
  let u := u.updSplit u.onlySplit fun sp => { sp with active := keepActive }
  let s := s.setTrain tid u
  endIfEmpty from_ (s.updTrain from_ fun x => { x with live := 0, splits := x.splits.map fun _ => {} })

/-- A RINGTAKE that has joined its queue takes the offer at its core, if it matches (R304). -/
def tryTake (tid sid key tok : Nat) (s : State) : State :=
  let t := s.train tid
  let core := tid / 32
  match (s.core core).offer with
  | some o =>
    let x := s.train o.who.tid
    let n := (lanesOf x.live).length
    let match_ := s.present o.who && x.launch == t.launch && x.granules == t.granules && x.rayDepth == t.rayDepth
      && allKeyed x key && allKeyed t key && decide ((lanesOf t.live).length + n ≤ 96)
    if match_ then
      let s := s.updCore core fun c => { c with offer := none }
      endRing tid sid tok (BitVec.ofNat 32 (256 * n)) (takeLanes tid o.who.tid s)
    else endRing tid sid tok 0 s
  | none => endRing tid sid tok 0 s

/-- Ring operations that have joined their queues go on, in ascending slot order (R303, R304). -/
def ringStep (s : State) : State :=
  ((s.trains.filter fun x => x.2.state != .saved).map (·.1)).foldl (fun s tid =>
    match queuedAs (s.train tid) with
    | some (n, 1, key, tok, _) => tryOffer tid n key tok s
    | some (n, 2, key, tok, _) => tryTake tid n key tok s
    | _ => s) s

/-- An offer is withdrawn: status 1 (R303). -/
def withdrawOffer (core : Nat) (s : State) : State :=
  match (s.core core).offer with
  | none => s
  | some o =>
    let s := s.updCore core fun c => { c with offer := none }
    if s.present o.who then
      match ((s.train o.who.tid).split o.who.sid).hold with
      | .regroup 1 _ tok _ => endRing o.who.tid o.who.sid tok 1 s
      | _ => s
    else s

/-- RING_OFFER_WITHDRAWAL (R303): 512 cycles after it began to stand. -/
def execRingOfferWithdrawal (core : Nat) (s : State) : Result :=
  match (s.core core).offer with
  | some o => if o.since + 512 ≤ s.timer then .next (withdrawOffer core s) else .next s
  | none => .next s

end Sys2Proof.Machine
end

