-- ==== Sys2Proof/Machine/Escape.lean ====
section
/-! DEFINITION. The Escapement network: barrier slots, channels, their messages and the instructions that use them
(spec/15_die_escapement_mesh_slices.md R316 to R331). -/

namespace Sys2Proof.Machine

/-! ### Members -/

/-- The member index of a train in a list of members (R319). A combiner or RAY train is no member. -/
def memberOf (s : State) (tid : Nat) (members : List (Nat × Nat)) : Option Nat :=
  let t := s.train tid
  if t.combiner || t.rung == 6 then none
  else (members.zipIdx.find? fun (x : (Nat × Nat) × Nat) => x.1 == ((s.wg t.wg).ordinal, t.ordinal)).map (·.2)

/-- The train of a member, in its slot or saved. -/
def memberTid (s : State) (lid : Nat) (members : List (Nat × Nat)) (m : Nat) : Option Nat :=
  match members[m]? with
  | none => none
  | some (w, o) =>
    (s.trains.find? fun (_, t) =>
      t.launch == lid && !t.combiner && t.rung != 6 && t.ordinal == o && (s.wg t.wg).ordinal == w && t.state != .free).map (·.1)

/-- The number that a launch's bindings give a set: the module slot or channel (R317). -/
def boundTo (sets maps : Tab Nat) (set : Nat) : Option Nat :=
  match sets.find? fun x => x.2 == set with
  | some (k, _) => Tab.find maps k
  | none => none

/-- The checks of R323 for a barrier slot: its number, the slot and the member index, or the fault. -/
def slotFor (s : State) (tid set : Nat) : Except (Kind × Word) (Nat × EsSlot × Nat) :=
  let l := s.launch (s.train tid).launch
  match (boundTo l.slotSet l.slotMap set).bind fun n => (Tab.find s.esSlots n).map fun x => (n, x) with
  | none => .error (.unbound, BitVec.ofNat 32 set)
  | some (n, x) =>
    match memberOf s tid x.members with
    | none => .error (.badHandle, BitVec.ofNat 32 set)
    | some m => if x.broken then .error (.machineCheck, 8) else .ok (n, x, m)

/-- The checks of R323 for a channel. -/
def chanFor (s : State) (tid set : Nat) : Except (Kind × Word) (Nat × EsChan × Nat) :=
  let l := s.launch (s.train tid).launch
  match (boundTo l.chanSet l.chanMap set).bind fun n => (Tab.find s.esChans n).map fun x => (n, x) with
  | none => .error (.unbound, BitVec.ofNat 32 set)
  | some (n, x) =>
    match memberOf s tid x.members with
    | none => .error (.badHandle, BitVec.ofNat 32 set)
    | some m => if x.broken then .error (.machineCheck, 8) else .ok (n, x, m)

/-- Changes a barrier slot. -/
def State.updSlot (s : State) (n : Nat) (f : EsSlot → EsSlot) : State := { s with esSlots := Tab.upd s.esSlots n f }
/-- Changes a channel. -/
def State.updChan (s : State) (n : Nat) (f : EsChan → EsChan) : State := { s with esChans := Tab.upd s.esChans n f }

/-- A wait that stands for an arrival (Table 22.11). -/
def EsWait.isArrival (w : EsWait) : Bool := w.kind == 0 || w.kind == 1 || w.kind == 3

/-- The arrival of a member that awaits its release (R324). -/
def EsSlot.arrival (x : EsSlot) (m : Nat) : Option EsWait := x.waits.find? fun w => w.member == m && w.isArrival

/-- The word waits without holding an issue slot: the rest of the run is issued when the wait is over (R324, R328). -/
def suspend (me : Me) (s : State) : State :=
  let left := me.wordsLeft s
  let s := s.updSplit me fun sp =>
    { sp with hold := .escape, partialEnd := some (sp.pc + left - 1) }
  s.endRun me

/-- What a train was waiting for has come: its suspended splits go on. -/
def wake (tid : Nat) (s : State) : State :=
  s.updTrain tid fun t =>
    { t with splits := t.splits.map fun sp => if sp.hold == .escape then { sp with hold := .free } else sp }

/-! ### Deliveries -/

/-- The token of a released phase (Table 15.5). -/
def esToken (phase : Nat) (killed : Bool) : Word := BitVec.ofNat 32 (256 * phase + killed.toNat)

/-- Writes a pair that was pending (R320, R328). -/
def Train.tokenPair (t : Train) (n x : Nat) : Train :=
  (t.token n (BitVec.ofNat 32 x)).token (n + 1) (BitVec.ofNat 32 (x / 2 ^ 32))

/-- A wait of a member's train ends with a release or a value, which its register carries (R320, R328, R349, R437). -/
def endWait (tid : Nat) (w : EsWait) (killed : Bool) (v : EsValue) (s : State) : State :=
  let s := s.updTrain tid fun t =>
    match w.kind with
    | 0 => t
    | 3 | 4 => (t.tokenPair w.reg v.val).carry [.s w.reg, .s (w.reg + 1)] v.ts
    | _ => (t.token w.reg (esToken w.phase killed)).carry [.s w.reg] v.ts
  wake tid (if w.kind == 0 then s else s.hear tid v.lam)

/-- The record of a lost delivery (R330). -/
def lostRec (sid off : Nat) : FaultRec := { engineRec Kind.machineCheck.code 0 0 8 with sid := sid, offset := off }

/-- The delivery that a wait was due is lost: its destination keeps its value and is pending no more, and its split faults
(R330). -/
def loseWait (tid : Nat) (w : EsWait) (s : State) : State :=
  let s := s.updTrain tid fun t =>
    match w.kind with
    | 0 => t
    | 3 | 4 => (t.setPending w.reg false).setPending (w.reg + 1) false
    | _ => t.setPending w.reg false
  let t := s.train tid
  let sid := if (t.split w.sid).valid then w.sid else t.onlySplit
  let s := wake tid s
  if w.kind == 0 then s else deferFault tid sid [lostRec sid (t.split sid).pc] s

/-- Waits whose deliveries are lost together. -/
def loseWaits (ws : List (Nat × EsWait)) (s : State) : State := ws.foldl (fun s (tid, w) => loseWait tid w s) s

/-- The waits of a slot that await a phase, with their trains. -/
def phaseWaits (s : State) (x : EsSlot) (phase : Nat) : List (Nat × EsWait) :=
  (x.waits.filter fun w => w.phase == phase).filterMap fun w => (memberTid s x.launch x.members w.member).map fun tid => (tid, w)

/-- A release reaches every member (R320). -/
def deliverRelease (n phase : Nat) (killed : Bool) (v : EsValue) (s : State) : State :=
  match Tab.find s.esSlots n with
  | none => s
  | some x =>
    let ws := phaseWaits s x phase
    let s := s.updSlot n fun x => { x with waits := x.waits.filter fun w => w.phase != phase }
    ws.foldl (fun s (tid, w) => endWait tid w killed v s) s

/-- A value reaches every member of a channel that has not departed, the sender included (R327, R328). -/
def deliverValue (n : Nat) (v : EsValue) (s : State) : State :=
  match Tab.find s.esChans n with
  | none => s
  | some c =>
    (List.range c.members.length).foldl (fun s m =>
      if c.departed.contains m then s
      else
        match c.waits.find? fun w => w.member == m, memberTid s c.launch c.members m with
        | some w, some tid => endWait tid w false v (s.updChan n fun c => { c with waits := c.waits.filter fun w => w.member != m })
        | _, _ => s.updChan n fun c => { c with recv := Tab.put c.recv m (Tab.get [] c.recv m ++ [v]) }) s

/-- ESCAPEMENT_RELEASE_DELIVERY (R320, R330): a release takes effect in the cycle of its tick. -/
def execEscapementReleaseDelivery (id : Nat) (s : State) : Result :=
  match Tab.find s.esMsgs id with
  | some (.release n phase killed v due) =>
    if due ≤ s.tick then .next (deliverRelease n phase killed v { s with esMsgs := Tab.del s.esMsgs id }) else .next s
  | some (.lostRelease n phase due) =>
    if due ≤ s.tick then
      let s := { s with esMsgs := Tab.del s.esMsgs id }
      match Tab.find s.esSlots n with
      | none => .next s
      | some x =>
        let ws := phaseWaits s x phase
        let s := s.updSlot n fun x => { x with waits := x.waits.filter fun w => w.phase != phase }
        .next (loseWaits ws s)
    else .next s
  | _ => .next s

/-- ESCAPEMENT_BROADCAST_DELIVERY (R327, R330). -/
def execEscapementBroadcastDelivery (id : Nat) (s : State) : Result :=
  match Tab.find s.esMsgs id with
  | some (.broadcast n v due) =>
    if due ≤ s.tick then .next (deliverValue n v { s with esMsgs := Tab.del s.esMsgs id }) else .next s
  | some (.lostBroadcast n due) =>
    if due ≤ s.tick then
      let s := { s with esMsgs := Tab.del s.esMsgs id }
      match Tab.find s.esChans n with
      | none => .next s
      | some c =>
        let ws := c.waits.filterMap fun w => (memberTid s c.launch c.members w.member).map fun tid => (tid, w)
        -- a saved member meets the loss at its restore
        let away := (List.range c.members.length).filter fun m => !c.departed.contains m && !(c.waits.any fun w => w.member == m)
        let s := s.updChan n fun c =>
          { c with waits := [], recv := away.foldl (fun t m => Tab.put t m (Tab.get [] t m ++ [{ val := 0, ts := 0, lam := 0, lost := true }])) c.recv }
        .next (loseWaits ws s)
    else .next s
  | _ => .next s

/-! ### Entering -/

/-- One step of a reduction (Table 15.7). -/
def reduce2 (op a b : Nat) : Nat :=
  let f (g : FNum → FNum → FNum) : Nat := (roundTo .f64 .nearest (g (decodeRaw .f64 a) (decodeRaw .f64 b))).1
  match op with
  | 0 => (a + b) % 2 ^ 64
  | 1 => if signed a 64 ≤ signed b 64 then a else b
  | 2 => if signed a 64 ≤ signed b 64 then b else a
  | 3 => Nat.land a b
  | 4 => Nat.lor a b
  | 5 => Nat.xor a b
  | 6 => min a b
  | 7 => max a b
  | 9 => f fun x y => (FNum.pick false true x y).1
  | _ => f fun x y => (FNum.pick true true x y).1

/-- The reduction of the values of a phase (R325): `.fadd` sums exactly and rounds once. -/
def reduceAll (op : Nat) : List Nat → Nat
  | [] => 0
  | v :: vs =>
    if op == 8 then
      (roundTo .f64 .nearest (vs.foldl (fun x y => (FNum.add false x (decodeRaw .f64 y)).1) (decodeRaw .f64 v))).1
    else vs.foldl (reduce2 op) v

/-- The identity of an operation (Table 15.7). -/
def reduceIdentity (op : Nat) : Nat :=
  match op with
  | 1 => 2 ^ 63 - 1
  | 2 => 2 ^ 63
  | 3 | 6 => 2 ^ 64 - 1
  | 8 => 2 ^ 63
  | 9 => 0x7FF0000000000000
  | 10 => 0xFFF0000000000000
  | _ => 0

/-- Ticks from the last arrival's entry to its release (Table 15.3). -/
def releaseTicks (far : Bool) : Nat := if far then 44 else 18
/-- Ticks from a broadcast's entry to its delivery (Table 15.3). -/
def broadcastTicks (far : Bool) : Nat := if far then 22 else 9

/-- The phase completes if ARRIVED has reached COUNT (R320, R321): its release leaves. -/
def completeSlot (n tick : Nat) (s : State) : State :=
  match Tab.find s.esSlots n with
  | none => s
  | some x =>
    if x.arrived.isEmpty || x.arrived.length < x.count then s
    else
      let r := match x.op with
        | some op => reduceAll op x.vals
        | none => 0
      let (id, s) := s.fresh
      let msg := EsMsg.release n x.phase x.killed { val := r, ts := x.ts, lam := x.lam } (tick + releaseTicks x.far)
      let s := { s with esMsgs := Tab.put s.esMsgs id msg }
      s.updSlot n fun x =>
        { x with count := x.count - x.leaving.length, departed := x.departed ++ x.leaving, leaving := [], arrived := [],
                 phase := (x.phase + 1) % 2 ^ 16, op := none, vals := [], killed := false, result := r,
                 lastKilled := x.killed, ts := 0, lam := 0, lastTs := x.ts, lastLam := x.lam }

/-- An arrival enters at a tick (R319, R325). -/
def enterArrival (n m tick : Nat) (op : Option Nat) (v : EsValue) (s : State) : State :=
  let s := s.updSlot n fun x =>
    let vals := match op, x.op with
      | some _, _ => x.vals ++ [v.val]
      | none, some o => x.vals ++ [reduceIdentity o]
      | none, none => x.vals
    { x with arrived := x.arrived ++ [m], op := x.op.orElse fun _ => op, vals := vals, ts := max x.ts v.ts,
             lam := max x.lam v.lam }
  completeSlot n tick s

/-- What orders the entries of a slot or a channel: the tick, then the member index (R325, R327). -/
def entryKey : EsMsg → Option (Bool × Nat × Nat)
  | .arrival n m _ _ c => some (false, n, entryTick c * 2 ^ 20 + m)
  | .entering n m _ c => some (true, n, entryTick c * 2 ^ 20 + m)
  | _ => none

/-- No message for the same slot or channel enters before this one. -/
def entersFirst (s : State) (k : EsMsg) : Bool :=
  match entryKey k with
  | none => false
  | some (b, n, key) => s.esMsgs.all fun (_, x) => match entryKey x with
    | some (b', n', key') => !(b == b' && n == n' && decide (key' < key))
    | none => true

/-- A message enters the network. -/
def enterMsg (id : Nat) (k : EsMsg) (s : State) : State :=
  let s := { s with esMsgs := Tab.del s.esMsgs id }
  match k with
  | .arrival n m op v c => enterArrival n m (entryTick c) op v s
  | .entering n _ v c =>
    match Tab.find s.esChans n with
    | none => s
    | some x =>
      let (id, s) := s.fresh
      { s with esMsgs := Tab.put s.esMsgs id (.broadcast n v (entryTick c + broadcastTicks x.far)) }
  | _ => s

/-- The issue cycle of a message that has not entered. -/
def issuedAt : EsMsg → Option Nat
  | .arrival _ _ _ _ c => some c
  | .entering _ _ _ c => some c
  | _ => none

/-- A message may enter now. -/
def entryDue (s : State) (k : EsMsg) : Bool :=
  match issuedAt k with
  | some c => decide (entryTick c ≤ s.tick) && entersFirst s k
  | none => false

/-- ESCAPEMENT_ENTRY (R316, R325 to R327). -/
def execEscapementEntry (id : Nat) (s : State) : Result :=
  match Tab.find s.esMsgs id with
  | some k => if entryDue s k then .next (enterMsg id k s) else .next s
  | none => .next s

/-- Every message of a slot that is due at this tick enters, for what follows them in the tick (Table 15.10). -/
def enterDue (n : Nat) : Nat → State → State
  | 0, s => s
  | k + 1, s =>
    match s.esMsgs.find? fun (_, x) => (match entryKey x with
        | some (false, n', _) => n' == n
        | _ => false) && entryDue s x with
    | some (id, x) => enterDue n k (enterMsg id x s)
    | none => s

/-! ### Departures -/

/-- A member leaves a slot (R321): at once, or, if it has arrived in the current phase, when that phase completes. It has arrived once its arrival
has issued, though that has not entered the network yet (DESIGN CHOICE, log 141). -/
def departSlot (n m : Nat) (killed : Bool) (s : State) : State :=
  let s := enterDue n s.esMsgs.length s
  match Tab.find s.esSlots n with
  | none => s
  | some x =>
    if x.departed.contains m || x.leaving.contains m then s
    else
      let coming := s.esMsgs.any fun (_, k) => match k with
        | .arrival n' m' _ _ _ => n' == n && m' == m
        | _ => false
      let s := s.updSlot n fun x =>
        let x := { x with killed := x.killed || killed, waits := x.waits.filter fun w => w.member != m }
        if x.arrived.contains m || coming then { x with leaving := x.leaving ++ [m] }
        else { x with count := x.count - 1, departed := x.departed ++ [m] }
      completeSlot n s.tick s

/-- A member leaves a channel: its values are discarded (R328). -/
def departChan (n m : Nat) (s : State) : State :=
  s.updChan n fun c =>
    if c.departed.contains m then c
    else { c with departed := c.departed ++ [m], recv := Tab.del c.recv m, waits := c.waits.filter fun w => w.member != m }

/-- A train leaves every bound set it belongs to (R321). -/
def departTrain (killed : Bool) (tid : Nat) (s : State) : State :=
  let lid := (s.train tid).launch
  let s := s.esSlots.foldl (fun s (n, x) =>
    match (if x.launch == lid then memberOf s tid x.members else none) with
    | some m => departSlot n m killed s
    | none => s) s
  s.esChans.foldl (fun s (n, c) =>
    match (if c.launch == lid then memberOf s tid c.members else none) with
    | some m => departChan n m s
    | none => s) s

/-- Trains that have reached ENDING for the last time depart (R321, DEDUCED, log 22). -/
def departures (s : State) : State :=
  if s.esSlots.isEmpty && s.esChans.isEmpty then s
  else
    (s.trains.filter fun (_, t) => t.state == .ending && (nextPass s t).isNone).foldl (fun s (tid, _) => departTrain false tid s) s

/-! ### The instructions -/

/-- A message of the issuing member. -/
def sendMsg (k : EsMsg) (s : State) : State :=
  let (id, s) := s.fresh
  { s with esMsgs := Tab.put s.esMsgs id k }

/-- A wait of the issuing member on a slot. -/
def addWait (n : Nat) (w : EsWait) (s : State) : State :=
  let (id, s) := s.fresh
  s.updSlot n fun x => { x with waits := x.waits ++ [{ w with seq := id }] }

/-- ESARR, ESBAR and ESRED (R324, R326): the train arrives in the current phase. `kind` and `reg` are of Table 22.11. -/
def arriveEs (i : Instr) (set kind reg : Nat) (op : Option Nat) (src : Nat) (s : State) : Result :=
  issue i s fun me s =>
    match slotFor s me.tid set with
    | .error (k, info) => faultTrain k info me s
    | .ok (n, x, m) =>
      if (x.arrival m).isSome then suspend me s
      else if !(placeOps s me.tid).isEmpty || matsPending s me.tid then stall 9 me s
      else
        let t := me.train s
        let v : EsValue := { val := if op.isSome then t.readSN me.sid src true else 0, ts := arrivalTs s me.tid,
                             lam := t.lamport }
        let s := sendMsg (.arrival n m op v s.cycle) s
        let s := addWait n { member := m, kind := kind, reg := reg, phase := x.phase, sid := me.sid, seq := 0 } s
        retire me (s.updTrain me.tid fun t =>
          match kind with
          | 0 => t
          | 3 => (t.awaitToken reg 6).awaitToken (reg + 1) 6
          | _ => t.awaitToken reg 6)

/-- ESARR (R324). -/
def execEsarr (f : FmtSI) (s : State) : Result := arriveEs (.esarr f) (f.imm.toNat % 256) 0 0 none 0 s

/-- ESBAR (R324): with s0 it acts as ESARR. -/
def execEsbar (f : FmtSI) (s : State) : Result :=
  arriveEs (.esbar f) (f.imm.toNat % 256) (if f.d == 0 then 0 else 1) f.d.toNat none 0 s

/-- ESRED (R324, R325). -/
def execEsred (f : FmtSI) (s : State) : Result :=
  arriveEs (.esred f) (f.imm.toNat % 256) 3 f.d.toNat (some f.minor.toNat) f.a.toNat s

/-- ESWAIT (R324). -/
def execEswait (f : FmtSI) (s : State) : Result :=
  issue (.eswait f) s fun me s =>
    match slotFor s me.tid (f.imm.toNat % 256) with
    | .error (k, info) => faultTrain k info me s
    | .ok (n, x, m) =>
      if x.waits.any fun w => w.member == m && w.kind == 2 then suspend me s
      else
        let phase := ((x.arrival m).map (·.phase)).getD x.phase
        let s := addWait n { member := m, kind := 2, reg := f.d.toNat, phase := phase, sid := me.sid, seq := 0 } s
        retire me (s.updTrain me.tid fun t => t.awaitToken f.d.toNat 6)

/-- Values on a channel that have not reached their receivers (R327). -/
def chanLoad (s : State) (n : Nat) : Nat :=
  (s.esMsgs.filter fun (_, k) => match k with
    | .entering n' _ _ _ => n' == n
    | .broadcast n' _ _ => n' == n
    | _ => false).length

/-- ESBCST (R326, R327). -/
def execEsbcst (f : FmtSI) (s : State) : Result :=
  issue (.esbcst f) s fun me s =>
    match chanFor s me.tid (f.imm.toNat % 256) with
    | .error (k, info) => faultTrain k info me s
    | .ok (n, _, m) =>
      if 8 ≤ chanLoad s n then stall 6 me s
      else if !(placeOps s me.tid).isEmpty || matsPending s me.tid then stall 9 me s
      else
        let t := me.train s
        let v : EsValue := { val := t.readSN me.sid f.a.toNat true, ts := arrivalTs s me.tid, lam := t.lamport }
        retire me (sendMsg (.entering n m v s.cycle) s)

/-- ESRECV (R328): the oldest value that the train has received, or the next one. -/
def execEsrecv (f : FmtSI) (s : State) : Result :=
  issue (.esrecv f) s fun me s =>
    let d := f.d.toNat
    match chanFor s me.tid (f.imm.toNat % 256) with
    | .error (k, info) => faultTrain k info me s
    | .ok (n, c, m) =>
      if c.waits.any fun w => w.member == m then suspend me s
      else
        match Tab.get [] c.recv m with
        | v :: vs =>
          let s := s.updChan n fun c => { c with recv := if vs.isEmpty then Tab.del c.recv m else Tab.put c.recv m vs }
          let s := s.updTrain me.tid fun t => (t.tokenPair d v.val).carry [.s d, .s (d + 1)] v.ts
          retire me (s.hear me.tid v.lam)
        | [] =>
          let (id, s) := s.fresh
          let w : EsWait := { member := m, kind := 4, reg := d, phase := 0, sid := me.sid, seq := id }
          let s := s.updChan n fun c => { c with waits := c.waits ++ [w] }
          retire me (s.updTrain me.tid fun t => (t.awaitToken d 6).awaitToken (d + 1) 6)

/-- ESTICK (R329). -/
def execEstick (f : FmtSI) (s : State) : Result :=
  issueTrain (.estick f) s fun me s t => t.writeSN me.sid f.d.toNat true s.tick

/-! ### Errors -/

/-- The ticks at which a lost message's delivery was due. -/
def loseMsg (k : EsMsg) (s : State) : State :=
  let s := { s with replaceReq := true }
  match k with
  | .arrival n _ _ _ c =>
    match Tab.find s.esSlots n with
    | none => s
    | some x =>
      -- the phase cannot complete: what awaits it faults when its release would have been due (DEDUCED, log 23)
      sendMsg (.lostRelease n x.phase (entryTick c + releaseTicks x.far)) (s.updSlot n fun x => { x with broken := true })
  | .release n phase _ _ due => sendMsg (.lostRelease n phase due) (s.updSlot n fun x => { x with broken := true })
  | .entering n _ _ c =>
    match Tab.find s.esChans n with
    | none => s
    | some x => sendMsg (.lostBroadcast n (entryTick c + broadcastTicks x.far)) (s.updChan n fun x => { x with broken := true })
  | .broadcast n _ due => sendMsg (.lostBroadcast n due) (s.updChan n fun x => { x with broken := true })
  | k => sendMsg k s

/-- ESCAPEMENT_UNCORRECTABLE_ERROR (R330): a message is lost, its slot or channel breaks, and REPLACE-REQUESTED is set. -/
def execEscapementUncorrectableError (id : Nat) (s : State) : Result :=
  match Tab.find s.esMsgs id with
  | some k => .next (loseMsg k { s with esMsgs := Tab.del s.esMsgs id })
  | none => .next s

/-- ESCAPEMENT_SIGNAL_REPEAT (R330): a lost pre-emption signal of workgroup `id`, or for `id` 0 a lost halt broadcast, is
repeated 22 ticks later. -/
def execEscapementSignalRepeat (id : Nat) (s : State) : Result :=
  if id == 0 then
    .next (if s.halt.phase == 1 then { s with halt := { s.halt with due := s.halt.due + 22 } } else s)
  else .next { s with wgs := Tab.upd s.wgs id fun g => { g with sigAt := g.sigAt.map (· + 22) } }

end Sys2Proof.Machine
end

