-- ==== Sys2Proof/Machine/System.lean ====
section
/-! DEFINITION. The system registers, the trace instructions, the traps and the handler (spec/22_package_faults_traps_dumps.md
R407 to R415; spec/25_package_debug_trace.md R435 to R439). -/

namespace Sys2Proof.Machine

/-! ### Trace -/

/-- TREC (R437, R439): with a session on, the train's clock rises and a record is to be appended. -/
def execTrec (f : FmtSI) (s : State) : Result :=
  issue (.trec f) s fun me s =>
    let t := me.train s
    if !(s.ctx t.ctx).tracing then retire me s
    else
      let s := if s.halted then s else s.updTrain me.tid fun t => { t with lamport := t.lamport + 1 }
      let v := t.readSN me.sid f.a.toNat true
      retire me (s.traceAdd t.ctx 1 (s.joined me.tid me.sid) (f.imm.toNat % 65536) (BitVec.ofNat 64 v)
        (some (s.train me.tid).lamport) me.tid)

/-- CLKRD (R439): the cycle of issue. -/
def execClkrd (f : FmtSI) (s : State) : Result :=
  issueTrain (.clkrd f) s fun me s t => t.writeSN me.sid f.d.toNat true s.cycle

/-- TRPOS_CLEAR (Table 25.4). -/
def execTrposClear (ctx : Nat) (s : State) : Result := .next (s.updCtx ctx fun c => { c with trPos := 0 })
/-- TRLOST_CLEAR (Table 25.4). -/
def execTrlostClear (ctx : Nat) (s : State) : Result := .next (s.updCtx ctx fun c => { c with trLost := 0 })

/-- The bytes of a delta that name its width, or 0 for a full timestamp (R438). -/
def deltaBytes (d : Nat) : Nat := if d < 2 ^ 8 then 1 else if d < 2 ^ 16 then 2 else if d < 2 ^ 24 then 3 else 0

/-- The bytes of a record (R437, R438). -/
def traceBytes (c : Ctx) (r : TraceRec) (cycle : Nat) : List Byte :=
  if c.trCtl % 4 == 1 then
    leBytes 8 (r.lam % 2 ^ 64) ++ leBytes 8 r.joined.toNat ++ leBytes 2 r.tag ++ leBytes 6 r.kind ++ leBytes 8 r.value.toNat
  else
    let full := c.trFull || r.kind == 6 || r.kind == 2
    let dw := if full then 0 else deltaBytes (cycle - c.trPrev)
    leBytes 1 (64 * dw + r.kind) ++ (if dw == 0 then leBytes 8 cycle else leBytes dw (cycle - c.trPrev))
      ++ leBytes 2 r.tag ++ leBytes 8 r.joined.toNat ++ leBytes 8 r.value.toNat

/-- The first byte of an extent that an agent may not write. -/
def firstUnwritable (s : State) (g : Agent) : Nat → Nat → Option ((Kind × Word) × Nat)
  | 0, _ => none
  | n + 1, va =>
    match checkStore s (checkGlobal s g .write false va 1) with
    | .error e => some (e, va)
    | .ok _ => firstUnwritable s g n (va + 1)

/-- An agent stores bytes that it may write (R435). -/
def agentBytes (g : Agent) : List Byte → Nat → State → State
  | [], _, s => s
  | b :: bs, va, s =>
    match checkStore s (checkGlobal s g .write false va 1) with
    | .error _ => agentBytes g bs (va + 1) s
    | .ok l => agentBytes g bs (va + 1) (agentStore g 0 l 1 b.toNat (useTranslation g va s)).2

/-- The trace unit of die 0 (R435). -/
def traceAgent (s : State) (ctx : Nat) : Agent :=
  { core := noCore, ctx := ctx, priv := (s.ctx ctx).priv, wg := 0, combiner := false }

/-- Appends the oldest record of a session (R435). -/
def traceAppend (ctx : Nat) (s : State) : State :=
  let c := s.ctx ctx
  match c.trQueue with
  | [] => s
  | r :: rest =>
    let s := s.updCtx ctx fun c => { c with trQueue := rest }
    if !c.tracing then s
    else
      let bs := traceBytes c r s.cycle
      if c.trLen < c.trPos + bs.length then s.updCtx ctx fun c => { c with trLost := min (c.trLost + 1) (2 ^ 32 - 1) }
      else
        let va := c.trBase + c.trPos
        match firstUnwritable s (traceAgent s ctx) bs.length va with
        | some ((k, info), a) =>
          engineFault ctx r.joined k a 1 info 0
            (s.updCtx ctx fun c => { c with trCtl := c.trCtl - 4 })
        | none =>
          (agentBytes (traceAgent s ctx) bs va s).updCtx ctx fun c =>
            { c with trPos := c.trPos + bs.length, trPrev := s.cycle, trFull := false }

/-- The oldest `n` records are appended in one cycle, in ascending module core, then slot (R436). -/
def traceMany (ctx n : Nat) (s : State) : State :=
  (List.range n).foldl (fun s _ => traceAppend ctx s)
    (s.updCtx ctx fun c => { c with trQueue := sortBy (·.tid) (c.trQueue.take n) ++ c.trQueue.drop n })

/-- The records that wait are appended, or dropped where the session is off (R435, R436). -/
def traceFlush (ctx : Nat) (s : State) : State := traceMany ctx (s.ctx ctx).trQueue.length s

/-- A record is appended at most 64 cycles after its cause (R436). -/
def traceLate (s : State) : State :=
  s.ctxs.foldl (fun s (ctx, c) => traceMany ctx (c.trQueue.takeWhile fun r => decide (r.since + 64 ≤ s.cycle)).length s) s

/-- A write of 0x474 (R435): MODE is stored with EN 0 or as EN becomes 1, and EN's first setting appends START. A record whose cause came
while EN was 1 is appended before EN changes, under the mode of its cause (R436). A privileged train of a context that handles this one
reaches it by the events TRACE_ENABLE, TRPOS_CLEAR and TRLOST_CLEAR: its own MTSR acts on its own session (DEDUCED, log 124). -/
def traceControl (ctx v : Nat) (s : State) : State :=
  let on := v.testBit 2
  let s := if on == (s.ctx ctx).trCtl.testBit 2 then s else traceFlush ctx s
  let old := (s.ctx ctx).trCtl
  let mode := if !on || !old.testBit 2 then (if v % 4 == 3 then 0 else v % 4) else old % 4
  let s := s.updCtx ctx fun c => { c with trCtl := mode + 4 * on.toNat + 8 * (v.testBit 3).toNat }
  if on && !old.testBit 2 then
    (s.updCtx ctx fun c => { c with trFull := true }).traceAdd ctx 6 0 0 0 none
  else s

/-- TRACE_ENABLE: a write of the trace control (R435). -/
def execTraceEnable (ctx : Nat) (v : BitVec 32) (s : State) : Result := .next (traceControl ctx v.toNat s)

/-- TRACE_RECORD_APPEND (R435, R436). -/
def execTraceRecordAppend (ctx : Nat) (s : State) : Result := .next (traceAppend ctx s)

/-! ### Traps and calls -/

/-- BRK (R410). -/
def execBrk (f : FmtSI) (s : State) : Result :=
  issue (.brk f) s fun me s => faultTrain .breakpoint (BitVec.ofNat 32 (f.imm.toNat % 65536)) me s

/-- TRAP (R410). -/
def execTrap (f : FmtX) (s : State) : Result :=
  issue (.trap f) s fun me s => faultTrain .softwareTrap (BitVec.ofNat 32 (f.imm.toNat % 65536)) me s

/-- SYSCALL (R411): the request leaves with s8 to s15, and s8 and s9 await the reply. A fabric operation waits for the places of its
train's earlier accesses, as every asynchronous operation does (R345). -/
def execSyscall (f : FmtX) (s : State) : Result :=
  issue (.syscall f) s fun me s =>
    let t := me.train s
    if unsettled s me.tid && decide (0xF000 ≤ f.imm.toNat % 65536) && decide (f.imm.toNat % 65536 ≤ 0xF002) then stall 9 me s else
    let (id, s) := s.fresh
    let x : SysCall := { who := me.who s, ctx := t.ctx, joined := s.joined me.tid me.sid, code := f.imm.toNat % 65536,
                         args := (List.range 8).map fun k => t.readS me.sid (8 + k), lam := t.lamport, ts := t.pts }
    let s := { s with syscalls := Tab.put s.syscalls id x }
    retire me (s.updTrain me.tid fun t => (t.awaitToken 8 8).awaitToken 9 8)

/-- A call of the fabric service (R448). -/
def SysCall.fabric (x : SysCall) : Bool := decide (0xF000 ≤ x.code) && decide (x.code ≤ 0xF002)

/-- The reply of a call reaches s8 and s9. -/
def replyCall (id : Nat) (x : SysCall) (reply : BitVec 64) (s : State) : State :=
  let s := { s with syscalls := Tab.del s.syscalls id }.seen x.ts
  (s.deliver x.who 8 (reply.setWidth 32) x.ts).deliver x.who 9 ((reply >>> 32).setWidth 32) x.ts

/-- SYSCALL_REPLY (R411): the system cores answer a call that is none of the fabric's. -/
def execSyscallReply (id : Nat) (reply : BitVec 64) (s : State) : Result :=
  match Tab.find s.syscalls id with
  | some x => .next (if x.fabric then s else replyCall id x reply s)
  | none => .next s

/-! ### System registers -/

/-- The RAS status word (0x458, Table 22.6). -/
def rasWord (s : State) : Nat :=
  let die (d : Nat) : Nat := (s.retiredCores.filter fun c => c / 56 == d).length % 8
  die 0 + 8 * die 1 + 64 * die 2 + 512 * die 3 + 2 ^ 12 * (s.retiredHbm.length % 16)
    + 2 ^ 16 * (s.retiredSlices.length % 256) + 2 ^ 31 * s.replaceReq.toNat

/-- Early service is complete (R450). -/
def fullService (s : State) : Bool := s.hbmReady && (List.range 5).all fun k => s.boot.tests.contains k

/-- SVC (Table 26.3). -/
def svcWord (s : State) : Nat :=
  ((List.range 5).foldl (fun n k => n + 2 ^ k * (s.boot.tests.contains k).toNat) 0) + 32 * s.hbmReady.toNat
    + 64 * (fullService s).toNat

/-- The contexts that a context handles (R407). -/
def handledBy (s : State) (h : Nat) : List (Nat × Ctx) := s.ctxs.filter fun x => x.2.handlerCtx == some h

/-! ### The handler -/

/-- The long-lived reference names this train. -/
def Who.names (w : Who) (s : State) (tid : Nat) : Bool := w.tid == tid && w.gen == (s.train tid).inc

/-- The handler train of a context that still stands (R407). -/
def handlerOf (s : State) (h : Nat) : Option Handler := (Tab.find s.handlers h).filter fun x => s.present x.who

/-- The current event of a train, if it is a handler that holds one (R407). -/
def currentEvent (s : State) (tid : Nat) : Option Event :=
  ((s.handlers.find? fun (_, h) => h.who.names s tid).bind fun x => x.2.current).map (·.2)

/-- FLTRD (R414). -/
def execFltrd (f : FmtX) (s : State) : Result :=
  issueTrain (.fltrd f) s fun me s t =>
    let k := (t.readS me.sid f.sb.toNat).toNat
    let v : DWord := match currentEvent s me.tid with
      | some e => e.words.getD k 0
      | none => 0
    t.writeSN me.sid f.sa.toNat true v.toNat

/-- One store of a train to a global address: the state, or the fault. -/
def storeGlobal (tid va n x : Nat) (s : State) : Except (Kind × Word) State :=
  match checkStore s (accessCheck s (trainAgent s tid) .write 0 va n) with
  | .error e => .error e
  | .ok l => .ok (trainStore tid l n x (useTranslation (trainAgent s tid) va s))

/-- The open dump is this train's (R420). -/
def ownsDump (s : State) (tid : Nat) : Bool := (s.dump.map fun d => d.who.names s tid).getD false

/-- The issuing train becomes the handler and waits for an event (R413). -/
def becomeHandler (me : Me) (s : State) : State :=
  let c := (me.train s).ctx
  let s := { s with handlers := Tab.put s.handlers c { who := me.who s, current := none, waiting := true } }
  let s := s.updTrain me.tid fun t => (List.range 8).foldl (fun t k => t.awaitToken (8 + k) 8) t
  fallHeld .handler me s

/-- A CTXSAVE or TSNAP of the split is under way. -/
def ownSnap (s : State) (sp : Split) : Bool :=
  sp.sysOps.any fun id => match Tab.find s.sysOps id with
    | some (.save _ _ _ _) | some (.snap _ _ _) => true
    | _ => false

/-- ERET (R413, R420): it names s8 to s15 as tokens, and waits for one that is pending (R63). The event does not end before the stores
of its handler's TSNAP and CTXSAVE: a fault that they, or anything else, have left for the split parks it here, nested in the event
(R421, R427; DEDUCED, log 145). -/
def execEret (f : FmtX) (s : State) : Result :=
  issue (.eret f) s fun me s =>
    let c := (me.train s).ctx
    if !(me.split s).deferred.isEmpty then (parkDeferred me s).endRun me
    else if (List.range 8).any fun k => (me.train s).pending (8 + k) then stall 8 me s
    else if ownSnap s (me.split s) then stall 9 me s else
    let other := match handlerOf s c with
      | some h => !h.who.names s me.tid
      | none => false
    if (handledBy s c).isEmpty || other then faultTrain .badHandle 0 me s
    else if ownsDump s me.tid then
      let base := (s.dump.map (·.base)).getD 0
      match storeGlobal me.tid (base + 4) 4 3 s with
      | .error (k, info) => faultAt k (BitVec.ofNat 64 (base + 4)) 4 info me s
      | .ok s => becomeHandler me { s with dump := none }
    else becomeHandler me s

/-- The event that is delivered next to a handler context: the oldest among its handled contexts (R406). -/
def nextEventFor (s : State) (h : Nat) : Option (Nat × Event) :=
  leastBy (fun (x : Nat × Event) => x.2.seq)
    ((handledBy s h).filterMap fun (c, x) => (x.events.head?).map fun e => (c, e))

/-- The split of a handler that waits in ERET. -/
def handlerSplit (t : Train) : Option Nat :=
  (List.range 4).find? fun n => (t.split n).valid && (t.split n).hold == .handler

/-- An event may be delivered to the handler of a context: the handler, its split and the event (R413). -/
def deliverable? (s : State) (h : Nat) : Option (Handler × Nat × Nat × Event) :=
  match handlerOf s h with
  | none => none
  | some x =>
    let t := s.train x.who.tid
    if x.current.isSome || !x.waiting || t.state == .saved || t.state == .starting then none
    else
      match handlerSplit t, nextEventFor s h with
      | some n, some (c, e) => some (x, n, c, e)
      | _, _ => none

/-- An event leaves the queue of its context, and one that waited for space enters (R406). -/
def popEvent (c : Nat) (s : State) : State :=
  s.updCtx c fun x => { x with events := x.events.drop 1 ++ x.waiting.take 1, waiting := x.waiting.drop 1 }

/-- EVENT_DELIVERY (R413). -/
def execEventDelivery (ctx : Nat) (s : State) : Result :=
  match deliverable? s ctx with
  | none => .next s
  | some (h, n, c, e) =>
    let s := popEvent c s
    let s := { s with handlers := Tab.put s.handlers ctx { h with current := some (c, e), waiting := false } }
    .next (s.updTrain h.who.tid fun t =>
      let t := (List.range 4).foldl (fun t k => t.tokenPair (8 + 2 * k) (e.words.getD k 0).toNat) t
      t.updSplit n fun sp => { sp with hold := .free, pc := (s.ctx ctx).hentry, replay := none, partialEnd := none })

/-! ### Trains by handle -/

/-- The train that a handle names for a context (R408); none where the instruction faults with BAD-HANDLE. -/
def handleTarget (s : State) (ctx : Nat) (h : Word) : Option Nat :=
  let x := h.toNat
  let tid := x % 256 * 32 + bits x 8 5
  let t := s.train tid
  if x % 256 < 224 && t.state != .free && t.gen == bits x 13 19
      && (t.ctx == ctx || (s.ctx t.ctx).handlerCtx == some ctx) then some tid
  else none

/-- Issues a system instruction that names a train by a handle (R408). -/
def issueHandle (i : Instr) (reg : Nat) (s : State) (effect : Me → Nat → State → State) : Result :=
  issue i s fun me s =>
    let t := me.train s
    match handleTarget s t.ctx (t.readS me.sid reg) with
    | some tid => effect me tid s
    | none => faultTrain .badHandle 0 me s

/-- TRESUME (R415). -/
def execTresume (f : FmtX) (s : State) : Result :=
  issueHandle (.tresume f) f.sa.toNat s fun me tid s => retire me (s.updTrain tid Train.resume)

/-- Runs of a train that its schedulers have in issue. -/
def runsOf (s : State) (tid : Nat) : List (Nat × RunInIssue) :=
  (List.range 4).filterMap fun k =>
    match ((s.core (tid / 32)).sched k).run with
    | some r => if r.slot == tid % 32 then some (k, r) else none
    | none => none

/-- Abandons the runs of a train that are stalled while they hold their issue slots (R190). -/
def dropRuns (tid : Nat) (s : State) : State :=
  ((runsOf s tid).filter fun x => x.2.stall.isSome).foldl (fun s (k, _) =>
    let s := s.updSched (tid / 32) k fun sc => { sc with run := none }
    if s.cur == some (tid / 32 * 4 + k) then { s with cur := none } else s) s

/-- The rays of a RAY train deliver with ABORTED set (R268, R415). -/
def abortRays (tid : Nat) (s : State) : State :=
  let t := s.train tid
  if t.rung != 6 then s
  else
    let ids := (lanesOf t.live).filterMap fun l => (Tab.find t.elems l).map (·.parent)
    { s with rays := ids.foldl (fun rs id => Tab.upd rs id fun r =>
        { r with hit := match r.hit with
            | w :: ws => (w ||| 4) :: ws
            | [] => [] }) s.rays }

/-- The issuer of a system operation. -/
def SysOp.issuer : SysOp → Who
  | .save w _ _ _ => w
  | .snap w _ _ => w
  | .inv w _ _ _ => w
  | .halt w => w

/-- The train of a system operation that is saved. -/
def SysOp.saves : SysOp → Option Who
  | .save _ w _ _ => some w
  | _ => none

/-- The oldest CTXSAVE that is still to save a train (R416). -/
def nextSave (s : State) (w : Who) : Option Nat :=
  (s.sysOps.find? fun (_, o) => (o.saves.map fun x => x.tid == w.tid && x.gen == w.gen).getD false).map (·.1)

/-- System operations that a train has issued, and saves of it, are given up. -/
def dropSysOps (tid : Nat) (s : State) : State :=
  let mine (o : SysOp) : Bool := o.issuer.names s tid || ((o.saves.map fun w => w.names s tid).getD false)
  (s.sysOps.filter fun x => mine x.2).foldl (fun s (id, o) =>
    let s := { s with sysOps := Tab.del s.sysOps id }
    match o.saves with
    | some w => if w.names s w.tid then s.updTrain w.tid fun t => { t with saveOp := nextSave s w } else s
    | none => s) s

/-- THE KILL OF A TRAIN (R415): its memberships depart, its offer and its waiting exchanges leave, an outstanding batch
fails, its elements end, and it is ENDING. -/
def killTrain (tid : Nat) (s : State) : State :=
  let s := departTrain true tid s
  let t := s.train tid
  let s := (s.cores.filter fun (_, c) => match c.offer with
    | some o => o.who.names s tid
    | none => false).foldl (fun s (c, _) => withdrawOffer c s) s
  let s := { s with shuffles := s.shuffles.filter fun (_, x) => !(x.who.names s tid && x.pair.isNone),
                    handlers := s.handlers.filter fun (_, h) => !h.who.names s tid }
  let s := if t.combiner then failOutstanding t.ctx (tid / 128) s else s
  let s := dropSysOps tid (abortRays tid s)
  let s := endLanes t.live true tid s
  let s := { s with rests := s.rests.filter fun (_, r) => r.tid != tid }
  let s := s.updTrain tid fun t =>
    { t with splits := [{}, {}, {}, {}], stack := [], fxrel := true, arecv := none, killAtEnd := false, restOp := none,
             state := .ending }
  releaseRecs t.launch s

/-- A kill may take effect: no run of the train is in issue (R190), and the train has left STARTING (Table 3.5). -/
def killReady (s : State) (tid : Nat) : Bool := (runsOf s tid).isEmpty && (s.train tid).state != .starting

/-- The kill that a train awaits takes effect if it may. -/
def killDue (tid : Nat) (s : State) : State := if killReady s tid then killTrain tid s else s

/-- A kill reaches a train: its stalled runs are abandoned, and it takes effect at once or at the end of the runs that are not
stalled (R190). -/
def requestKill (tid : Nat) (s : State) : State :=
  if (s.train tid).state == .ending then s
  else killDue tid (openTrain tid ((dropRuns tid s).updTrain tid fun t => { t with killAtEnd := true }))

/-- A train of a killed context that goes on to the end of its runs waits for nothing that the kill has discarded: a wait for such a
value ends with the register as it stands (R190, R399, DESIGN CHOICE, log 110). -/
def Train.unwait (t : Train) (s : State) : Train :=
  { t with pend := 0, pendWhy := [], gather := 0, scatter := 0, copies := 0, tile := 0, arecv := none,
           busy := t.busy.filter fun b => (Tab.find s.loads b.op).isSome || (Tab.find s.atoms b.op).isSome }

/-- Kills take effect whose trains have come to the end of their runs (R190). -/
def killStep (s : State) : State :=
  (s.trains.filter fun (_, t) => t.killAtEnd).foldl (fun s (tid, t) =>
    killDue tid (if s.killed.contains t.ctx then s.updTrain tid fun t => t.unwait s else s)) s

/-- TKILL (R415). -/
def execTkill (f : FmtX) (s : State) : Result :=
  issueHandle (.tkill f) f.sa.toNat s fun me tid s => retire me (requestKill tid s)

end Sys2Proof.Machine
end

