-- ==== Sys2Proof/Machine/Saves.lean ====
section
/-! DEFINITION. Saved contexts, core dumps, the debug halt, and the invalidation of translations
(spec/22_package_faults_traps_dumps.md R416 to R421, R454; spec/24_program_core_dump.md R427; spec/20 R372, R373). -/

namespace Sys2Proof.Machine

/-! ### Images -/

/-- A list of exactly `n` words: zeros follow a short one. -/
def padTo (n : Nat) (l : List Nat) : List Nat := (l ++ List.replicate n 0).take n

/-- 64-bit words as 32-bit ones. -/
def halves (l : List DWord) : List Nat := (l.map fun w => [w.toNat % 2 ^ 32, w.toNat / 2 ^ 32]).flatten

/-- The launch's number of a bound module number (R317). -/
def boundAs (maps : Tab Nat) (n : Nat) : Nat := ((maps.find? fun x => x.2 == n).map (·.1)).getD 0

/-- The Escapement waits of a train (R454): kind, the launch's slot or channel, register and phase, in order of issue. -/
def imageWaits (s : State) (tid : Nat) : List (Nat × Nat × Nat × Nat) :=
  let lid := (s.train tid).launch
  let l := s.launch lid
  let of (maps : Tab Nat) (n : Nat) (members : List (Nat × Nat)) (ws : List EsWait) : List (EsWait × Nat) :=
    match memberOf s tid members with
    | some m => (ws.filter fun w => w.member == m).map fun w => (w, boundAs maps n)
    | none => []
  let a := (s.esSlots.filter fun x => x.2.launch == lid).map fun (n, x) => of l.slotMap n x.members x.waits
  let b := (s.esChans.filter fun x => x.2.launch == lid).map fun (n, x) => of l.chanMap n x.members x.waits
  (sortBy (fun x => x.1.seq) (a ++ b).flatten).map fun (w, n) => (w.kind, n, w.reg, w.phase)

/-- A wait entry as four words (Table 22.11). -/
def waitWords (e : Nat × Nat × Nat × Nat) : List Nat := [e.1 + 2 ^ 8 * e.2.1 + 2 ^ 16 * e.2.2.1, e.2.2.2, 0, 0]

/-- The union of the ACTIVE fields of the valid splits (R68). -/
def Train.activeUnion (t : Train) : LaneMask :=
  t.splits.foldl (fun m sp => if sp.valid then m ||| sp.active else m) 0

/-- s0 to s127 as an image holds them (Table 22.7). -/
def imageScalars (t : Train) : List Nat :=
  (List.range 128).map fun n =>
    if 124 ≤ n && n ≤ 126 then (maskWord t.activeUnion (n - 124)).toNat else (t.readS 0 n).toNat

/-- The fault records of the PARKED splits, in SID order. -/
def parkedRecs (t : Train) : List FaultRec :=
  (t.splits.map fun sp => if sp.valid && sp.state == .parked then sp.recs else []).flatten

/-- The words of an image (Table 22.7): 2,048 of state, then the registers. -/
def imageWords (s : State) (tid : Nat) : List Nat :=
  let t := s.train tid
  let recs := parkedRecs t
  let waits := imageWaits s tid
  let joined := (s.joined tid 0).toNat
  padTo 16 ([1, t.granules + 2 ^ 8 * t.role + 2 ^ 16 * t.ordinal, joined % 2 ^ 32, joined / 2 ^ 32, t.absorb.pts % 2 ^ 32,
      t.absorb.pts / 2 ^ 32 % 2 ^ 32] ++ (List.range 4).map (fun k => bits t.pend.toNat (32 * k) 32) ++ [waits.length])
    ++ imageScalars t ++ padTo 32 (halves t.tableWords) ++ padTo 32 (halves t.stackWords)
    ++ padTo 96 (t.gens.map (·.toNat)) ++ padTo 16 [recs.length] ++ padTo 832 (halves (recs.map recWords).flatten)
    ++ padTo 896 (waits.map waitWords).flatten
    ++ ((List.range (16 * t.granules)).map fun r => padTo 96 ((if r == 0 then [] else Tab.get [] t.vregs r).map (·.toNat))).flatten

/-- Words by fours, as 16-byte stores take them. -/
def quads : List Nat → List Nat
  | a :: b :: c :: d :: r => (a + 2 ^ 32 * b + 2 ^ 64 * c + 2 ^ 96 * d) :: quads r
  | _ => []

/-- Ascending 16-byte stores of a train: the state, or the fault, its address and the state so far (R416, R427). -/
def storeQuads (tid : Nat) : List Nat → Nat → State → Except ((Kind × Word) × Nat × State) State
  | [], _, s => .ok s
  | q :: qs, va, s =>
    match storeGlobal tid va 16 q s with
    | .error e => .error (e, va, s)
    | .ok s => storeQuads tid qs (va + 16) s

/-- The record of a store of a system instruction that faults (R416, R427). -/
def storeRec (k : Kind × Word) (va sid pc : Nat) : FaultRec :=
  { engineRec k.1.code va 16 k.2 with sid := sid, offset := pc }

/-! ### CTXSAVE -/

/-- A reference to a train that has moved. -/
def Who.moved (a b inc : Nat) (w : Who) : Who := if w.tid == a && w.gen == inc then { w with tid := b } else w

/-- A system operation whose train has moved. -/
def SysOp.moved (a b inc : Nat) : SysOp → SysOp
  | .save w x y z => .save (w.moved a b inc) (x.moved a b inc) y z
  | .snap w x y => .snap (w.moved a b inc) (x.moved a b inc) y
  | .inv w x y z => .inv (w.moved a b inc) x y z
  | .halt w => .halt (w.moved a b inc)

/-- A barrier one of whose waiters has moved (R417). -/
def NamedBar.moved (a b inc : Nat) (x : NamedBar) : NamedBar :=
  { x with waiters := x.waiters.map fun (w, r) => (w.moved a b inc, r),
           due := x.due.map fun d => { d with who := d.who.moved a b inc } }

/-- What refers to a train follows it from one place of the table to another (R417). -/
def followTrain (a b : Nat) (s : State) : State :=
  let inc := (s.train a).inc
  let mv (w : Who) : Who := w.moved a b inc
  { s with
    wgs := s.wgs.map fun (n, g) => (n, { g with bars := g.bars.map fun (k, x) => (k, x.moved a b inc) }),
    syscalls := s.syscalls.map fun (n, x) => (n, { x with who := mv x.who }),
    rests := s.rests.map fun (n, x) => (n, { x with who := mv x.who }),
    handlers := s.handlers.map fun (n, x) => (n, { x with who := mv x.who }),
    sysOps := s.sysOps.map fun (n, x) => (n, x.moved a b inc),
    halt := { s.halt with who := s.halt.who.map mv },
    dump := s.dump.map fun d => { d with who := mv d.who } }

/-- A split that is saved while it waits in REGGROW stands at that word again, with its token clear (Table 7.8). -/
def Train.rewindGrow (t : Train) : Train :=
  t.splits.zipIdx.foldl (fun t (sp, n) =>
    match growOf sp with
    | some (_, _, r) =>
      (t.setPending r false).updSplit n fun sp =>
        { sp with pc := sp.pc - 1, partialEnd := some (sp.pc - 1), hold := .free }
    | none => t) t

/-- An ACALL of the train awaits replies, or a VXSHUF of it its exchange (Table 14.6). -/
def exchanging (s : State) (tid : Nat) : Bool :=
  let mine (w : Who) : Bool := w.tid == tid && w.gen == (s.train tid).inc
  (s.accOps.any fun (_, o) => mine o.who && o.waiting != 0) || s.shuffles.any fun (_, x) => mine x.who

/-- A fabric operation of the train has not been answered (R345, R448). -/
def fabricPending (s : State) (tid : Nat) : Bool := s.syscalls.any fun (_, x) => x.fabric && x.who.names s tid

/-- Nothing of a train is in issue, outstanding or unsettled, and no fault waits to park a split that is READY (R69, R416, Table 14.6,
R352). -/
def saveReady (s : State) (tid : Nat) : Bool :=
  let t := s.train tid
  (t.state == .resident || t.state == .parked) && (List.range 4).all (betweenRuns s tid) && t.gather == 0
    && t.scatter == 0 && t.copies == 0 && t.tile == 0 && t.busy.isEmpty && t.heldArr.isEmpty && !unsettled s tid
    && !exchanging s tid && !matsPending s tid && !(t.splits.any fun sp => sp.valid && sp.state == .ready && !sp.deferred.isEmpty)

/-- The offers of a train are withdrawn before it is saved (Table 14.6). -/
def withdrawOffers (tid : Nat) (s : State) : State :=
  (s.cores.filter fun (_, c) => match c.offer with
    | some o => o.who.names s tid
    | none => false).foldl (fun s (c, _) => withdrawOffer c s) s

/-- A train leaves its slot for the table of saved trains: its waits on the Escapement network are recorded in its image
alone (R67, R417, R454). `image` says that only a CTXREST of the image brings it back. -/
def takeOut (image : Bool) (tid : Nat) (s : State) : State :=
  let t := s.train tid
  let s0 := s
  let (id, s) := s.fresh
  let s := { s with
    esSlots := s.esSlots.map fun (n, x) =>
      match (if x.launch == t.launch then memberOf s tid x.members else none) with
      | some m => (n, { x with waits := x.waits.filter fun w => w.member != m })
      | none => (n, x),
    esChans := s.esChans.map fun (n, x) =>
      match (if x.launch == t.launch then memberOf s tid x.members else none) with
      | some m => (n, { x with waits := x.waits.filter fun w => w.member != m })
      | none => (n, x) }
  let s := followTrain tid (8192 + id) s
  let t := { t with state := .saved, saveOp := none, imageOnly := image,
                    esWaits := imageWaits s0 tid, splits := t.splits.map fun sp =>
    match sp.hold with
    | .regroup k a r (some _) => { sp with hold := .regroup k a r none }
    | _ => sp }
  freeSlot tid (s.setTrain (8192 + id) t)

/-- The end of a system operation, with records for its issuer where it has faulted. -/
def endSysOp (id : Nat) (by_ : Who) (recs : List FaultRec) (s : State) : State :=
  let s := { s with sysOps := Tab.del s.sysOps id }
  if recs.isEmpty || !s.present by_ then s else deferFault by_.tid by_.sid recs s

/-- THE SAVE OF A TRAIN (R416): the issuer's stores write the image, and the target's slot is released; a store that faults
leaves the target as it was. -/
def saveTrain (id : Nat) (by_ target : Who) (addr pc : Nat) (s : State) : State :=
  let tid := target.tid
  let s := s.updTrain tid Train.rewindGrow
  match storeQuads by_.tid (quads (imageWords s tid)) addr s with
  | .error (k, va, s) =>
    let s := endSysOp id by_ [storeRec k va by_.sid pc] s
    s.updTrain tid fun t => { t with saveOp := nextSave s target }
  | .ok s =>
    let w := (s.train tid).wg
    let lid := (s.train tid).launch
    let s := takeOut true tid { s with sysOps := Tab.del s.sysOps id }
    releaseRecs lid (openAll (leaveCore w s))

/-- CONTEXT_SAVE_EFFECT: the save of the train in a slot takes effect (R416). -/
def execContextSaveEffect (core slot : Nat) (s : State) : Result :=
  let tid := core * 32 + slot % 32
  let s' := withdrawOffers tid s
  match (s.train tid).saveOp with
  | none => .next s
  | some id =>
    match Tab.find s.sysOps id with
    | some (.save by_ target addr pc) => .next (if saveReady s' tid then saveTrain id by_ target addr pc s' else s')
    | _ => .next s

/-- The issuing word's operation holds the split's next run. -/
def addSysOp (o : SysOp) (me : Me) (s : State) : Nat × State :=
  let (id, s) := s.fresh
  (id, { s with sysOps := Tab.put s.sysOps id o }.updSplit me fun sp => { sp with sysOps := sp.sysOps ++ [id] })

/-- CTXSAVE (R416). -/
def execCtxsave (f : FmtX) (s : State) : Result :=
  issue (.ctxsave f) s fun me s =>
    let t := me.train s
    let a := t.readSN me.sid f.sa.toNat true
    if a % 4096 != 0 then faultAt .misaligned (BitVec.ofNat 64 a) 0 0 me s
    else
      match handleTarget s t.ctx (t.readS me.sid f.sb.toNat) with
      | none => faultTrain .badHandle 0 me s
      | some tid =>
        let target : Who := { tid := tid, gen := (s.train tid).inc, sid := 0 }
        let (id, s) := addSysOp (.save (me.who s) target a (me.split s).pc) me s
        retire me (s.updTrain tid fun t => { t with saveOp := t.saveOp.orElse fun _ => some id })

/-- A later CTXSAVE of a train that an earlier one has saved names a FREE slot (R408). -/
def staleSaves (s : State) : State :=
  s.sysOps.foldl (fun s (id, o) =>
    match o with
    | .save by_ target _ pc =>
      if s.present target && (s.train target.tid).state != .saved then s
      else endSysOp id by_ [{ engineRec Kind.badHandle.code 0 0 0 with sid := by_.sid, offset := pc }] s
    | _ => s) s

/-! ### CTXREST -/

/-- Ascending 16-byte loads of a train: the words, and the state. -/
def loadQuads (tid : Nat) : Nat → Nat → State → Except (Kind × Nat × Word) (List Nat × State)
  | 0, _, s => .ok ([], s)
  | n + 1, va, s =>
    let g := trainAgent s tid
    match checkLoad false s tid (accessCheck s g .read 0 va 16) with
    | .error (k, info) => .error (k, va, info)
    | .ok l =>
      let (v, s) := trainLoad tid l 16 (useTranslation g va s)
      match loadQuads tid n (va + 16) s with
      | .error e => .error e
      | .ok (ws, s) => .ok ([bits v 0 32, bits v 32 32, bits v 64 32, bits v 96 32] ++ ws, s)

/-- Words from `k` on as one number. -/
def wordsAt (ws : List Nat) (k n : Nat) : Nat := packWords ((ws.drop k).take n)

/-- A fault record of an image. -/
def imageRec (x : Nat) : FaultRec :=
  { kind := bits x 192 8, trainLevel := x.testBit 207, lane := bits x 200 7, sid := bits x 187 2, offset := bits x 160 27,
    pending := BitVec.ofNat 96 (bits x 64 96), addr := BitVec.ofNat 64 (bits x 0 64), size := bits x 208 5,
    info := BitVec.ofNat 32 (bits x 224 32) }

/-- The records of an image. -/
def imageRecs (ws : List Nat) : List FaultRec :=
  (List.range (min 100 (ws.getD 304 0))).map fun i => imageRec (wordsAt ws (320 + 8 * i) 8)

/-- The last word of the run inside which a word lies; none where a run starts there (R62). -/
def restOfRun (runs : List RunEntry) (pc : Nat) : Option Nat :=
  if runs.any fun e => e.start == pc then none
  else (runs.find? fun e => decide (e.start < pc) && decide (pc < e.start + e.len)).map fun e => e.start + e.len - 1

/-- A split of an image. `kept` is what the module remembers of the split; of one that it knows nothing of, the next run is the
rest of the run inside which its PC lies (R62). -/
def imageSplit (runs : List RunEntry) (ws : List Nat) (recs : List FaultRec) (kept : Split) (n : Nat) : Split :=
  let x := wordsAt ws (144 + 8 * n) 8
  if !x.testBit 36 then {}
  else
    let rs := recs.filter fun r => r.sid == n
    let st := match bits x 32 2 with
      | 1 => SplitState.joinwait
      | 2 => .parked
      | _ => .ready
    let pc := bits x 0 27
    let same := kept.valid && kept.pc == pc
    let replay := (rs.find? fun r => !r.trainLevel && resumeOf r.kind r.trainLevel == .replay).map (·.pending)
    { valid := true, state := st, pc := pc, member := BitVec.ofNat 96 (bits x 64 96), active := BitVec.ofNat 96 (bits x 160 96),
      recs := if st == .parked then rs else [], replay := if same then kept.replay else replay,
      partialEnd := if same then kept.partialEnd else restOfRun runs pc, born := kept.born, hold := if same then kept.hold else .free,
      deferred := if same then kept.deferred else [], back := if same then kept.back else none }

/-- The deferral records of an image. -/
def imageStack (ws : List Nat) : List DeferRec :=
  (List.range 8).filterMap fun n =>
    let x := wordsAt ws (176 + 4 * n) 4
    if x.testBit 31 then
      some { join := x.testBit 30, sid := bits x 27 2, pc := bits x 0 27, lanes := BitVec.ofNat 96 (bits x 32 96) }
    else none

/-- The wait entries of an image: kind, slot, register, phase. -/
def imageEntries (ws : List Nat) : List (Nat × Nat × Nat × Nat) :=
  (List.range (ws.getD 10 0 % 256)).map fun i =>
    let w := ws.getD (1152 + 4 * i) 0
    (w % 256, bits w 8 8, bits w 16 8, ws.getD (1153 + 4 * i) 0 % 65536)

/-- A wait entry within Table 22.11. -/
def entryOk (ws : List Nat) (i : Nat) : Bool :=
  let w := ws.getD (1152 + 4 * i) 0
  let k := w % 256
  let slot := bits w 8 8
  let d := bits w 16 8
  let p := ws.getD (1153 + 4 * i) 0
  decide (k ≤ 4) && decide (slot < (if k == 4 then 16 else 64))
    && (match k with
      | 0 => d == 0
      | 1 | 2 => decide (1 ≤ d) && decide (d < 128)
      | _ => decide (2 ≤ d) && decide (d < 128) && d % 2 == 0)
    && w < 2 ^ 24 && decide (p < (if k == 4 then 1 else 65536)) && ws.getD (1154 + 4 * i) 0 == 0
    && ws.getD (1155 + 4 * i) 0 == 0

/-- The image may be restored as far as its own contents go (R418, R454). -/
def imageOk (ws : List Nat) : Bool :=
  let m := ws.getD 10 0 % 256
  decide (m ≤ 12) && (List.range m).all (entryOk ws)

/-- The resident workgroup that an image names (R418). -/
def imageWg (s : State) (ws : List Nat) : Option Nat :=
  let j := wordsAt ws 2 2
  (s.wgs.find? fun (_, g) =>
    (g.state == .placed || g.state == .draining) && !g.combiner && (s.launch g.launch).lslot == bits j 24 8
      && g.ordinal % 65536 == bits j 8 16).map (·.1)

/-- The kept part of a saved train of a workgroup. -/
def keptTrain (s : State) (w ordinal : Nat) : Option (Nat × Train) :=
  s.trains.find? fun (_, t) => t.state == .saved && t.wg == w && t.ordinal == ordinal

/-- A train that stands in for one of which nothing is kept (DEDUCED, log 24): that of the LANE pass. -/
def blankTrain (s : State) (tid w ordinal role g : Nat) : Train :=
  let lid := (s.wg w).launch
  let l := s.launch lid
  startTrain s tid lid w role ordinal 5 g 0 (l.passBase (s.wg w).ordinal ordinal 5) (s.wg w).ordinal
    (l.passElems (s.wg w).ordinal ordinal 5)

/-- A scalar register of a restored train: a register whose value came while the train was saved takes it (R417). -/
def restoredScalar (ws : List Nat) (kept : Option Train) (n : Nat) : Word × Bool :=
  let img := BitVec.ofNat 32 (ws.getD (16 + n) 0)
  if !(wordsAt ws 6 4).testBit n then (img, false)
  else
    match kept with
    | some k => if k.pending n then (img, true) else (Tab.get 0 k.sregs n, false)
    | none => (img, true)

/-- The train of an image, STARTING in a slot (R417, R418); the image's s120 is written as R40 writes it. -/
def restoredTrain (s : State) (tid w op : Nat) (ws : List Nat) (kept : Option Train) : Train :=
  let g := ws.getD 1 0 % 256
  let role := bits (ws.getD 1 0) 8 8
  let ordinal := bits (ws.getD 1 0) 16 8
  let o := kept.getD (blankTrain s tid w ordinal role g)
  let recs := imageRecs ws
  let splits := (List.range 4).map fun n => imageSplit (runMap s o) ws recs (o.split n) n
  let rs := (List.range 128).map fun n => (n, restoredScalar ws kept n)
  let live := splits.foldl (fun m sp => m ||| sp.member) (0 : LaneMask)
  { o with
    state := .starting, gen := ((s.train tid).gen + 1) % 2 ^ 19, age := s.cycle, granules := g, role := role,
    ordinal := ordinal, live := live, splits := splits, stack := imageStack ws,
    sregs := rs.foldl (fun t (n, v, _) => if n == 0 || (124 ≤ n && n ≤ 126) then t else Tab.put t n (if n == 120 then modeWrite v else v)) [],
    pend := BitVec.ofNat 128 (rs.foldl (fun x (n, _, p) => if p && n != 0 then x + 2 ^ n else x) 0),
    gens := (List.range 96).map fun l => BitVec.ofNat 32 (ws.getD (208 + l) 0),
    vregs := ((List.range (16 * g)).drop 1).map fun r =>
      (r, ((ws.drop (2048 + 96 * r)).take 96).map fun v => BitVec.ofNat 32 v),
    pts := max (wordsAt ws 4 2) (if kept.isSome then o.pts else 0), lamport := (s.ctx o.ctx).trM, saveOp := none,
    restOp := some op, killAtEnd := false, broken := [], waitsPass := false, imageOnly := false, esWaits := [] }

/-- The loss of the release of a slot's phase is still to be met by those that wait for it (R330). -/
def lossDue (s : State) (n phase : Nat) : Bool :=
  s.esMsgs.any fun (_, k) => match k with
    | .lostRelease n' p _ => n' == n && p == phase
    | _ => false

/-- A wait of a restored train goes on, or is over at once (Table 15.10): also where the release of the phase that has completed was lost
while the train was saved (R331 before R330, DEDUCED, log 142). One whose delivery was lost meanwhile otherwise faults now (R330). -/
def restoreWait (tid : Nat) (e : Nat × Nat × Nat × Nat) (s : State) : State :=
  let t := s.train tid
  let l := s.launch t.launch
  let (kind, slot, reg, phase) := e
  let (id, s) := s.fresh
  if kind == 4 then
    match (Tab.find l.chanMap slot).bind fun n => (Tab.find s.esChans n).map fun c => (n, c) with
    | none => s
    | some (n, c) =>
      match memberOf s tid c.members with
      | none => s
      | some m =>
        let w : EsWait := { member := m, kind := 4, reg := reg, phase := 0, sid := t.onlySplit, seq := id }
        match Tab.get [] c.recv m with
        | v :: vs =>
          let s := s.updChan n fun c => { c with recv := if vs.isEmpty then Tab.del c.recv m else Tab.put c.recv m vs }
          if v.lost then loseWait tid w s else endWait tid w false v s
        | [] => s.updChan n fun c => { c with waits := c.waits ++ [w] }
  else
    match (Tab.find l.slotMap slot).bind fun n => (Tab.find s.esSlots n).map fun x => (n, x) with
    | none => s
    | some (n, x) =>
      match memberOf s tid x.members with
      | none => s
      | some m =>
        let w : EsWait := { member := m, kind := kind, reg := reg, phase := phase, sid := t.onlySplit, seq := id }
        if x.phase == phase then
          if x.broken && !lossDue s n phase then loseWait tid w s else s.updSlot n fun x => { x with waits := x.waits ++ [w] }
        else endWait tid w x.lastKilled { val := x.result, ts := x.lastTs, lam := x.lastLam } s

/-- THE RESTORE OF A TRAIN into a slot (R417, R418): it is STARTING, and what referred to it refers to its new place. -/
def restoreTrain (tid w : Nat) (op : Nat) (ws : List Nat) (s : State) : State :=
  let kept := keptTrain s w (bits (ws.getD 1 0) 16 8)
  let t := restoredTrain s tid w op ws (kept.map (·.2))
  let s := match kept with
    | some (k, _) => let s := followTrain k tid s
      { s with trains := Tab.del s.trains k }
    | none => s.fresh.2
  (imageEntries ws).foldl (fun s e => restoreWait tid e s) (s.setTrain tid t)

/-- CTXREST (R418): granules that an earlier claim of R183 awaits are not free. -/
def execCtxrest (f : FmtX) (s : State) : Result :=
  issue (.ctxrest f) s fun me s =>
    let t := me.train s
    let a := t.readSN me.sid f.sa.toNat true
    let r := f.sb.toNat
    let refuse (s : State) : State := retire me (s.updTrain me.tid fun t => t.token r 0xFFFFFFFF)
    let bad (e : Kind × Nat × Word) : State := faultAt e.1 (BitVec.ofNat 64 e.2.1) 16 e.2.2 me s
    match loadQuads me.tid 1 a s with
    | .error e => bad e
    | .ok (hd, s1) =>
      let g := hd.getD 1 0 % 256
      if hd.getD 0 0 != 1 || g == 0 || 16 < g then refuse s1
      else
        match loadQuads me.tid (511 + 384 * g) (a + 16) s1 with
        | .error e => bad e
        | .ok (tl, s) =>
          let ws := hd ++ tl
          match (if imageOk ws then imageWg s ws else none) with
          | none => refuse s
          | some w =>
            let core := (s.wg w).core
            match freeSlots s core with
            | k :: _ =>
              if granulesFree s core < g || !coreOpen s core then refuse s
              else
                let (id, s) := s.fresh
                let s := restoreTrain (core * 32 + k) w id ws s
                let s := { s with rests := Tab.put s.rests id { who := me.who s, tok := r, tid := core * 32 + k } }
                retire me (s.updTrain me.tid fun t => t.awaitToken r 8)
            | [] => refuse s

/-- CTXREST_LOAD_COMPLETE: the restored train is RESIDENT or PARKED, and its handle arrives (R418). -/
def execCtxrestLoadComplete (id : Nat) (s : State) : Result :=
  match Tab.find s.rests id with
  | none => .next s
  | some r =>
    let s := { s with rests := Tab.del s.rests id }
    let s := s.updTrain r.tid fun t =>
      { t with state := if t.anyParked then .parked else .resident, restOp := none }
    .next (s.deliver r.who r.tok (s.handle r.tid) 0)

end Sys2Proof.Machine
end

