-- ==== Sys2Proof/Machine/Dumps.lean ====
section
/-! DEFINITION. Core dumps, the debug halt, the pre-emption signal of ESPRE and the invalidation of translations
(spec/22_package_faults_traps_dumps.md R419 to R421; spec/24_program_core_dump.md R427; spec/20 R372, R373). -/

namespace Sys2Proof.Machine

/-! ### The tick of a halt's broadcast -/

/-- A halt's broadcast holds the pre-emption requests that arrived in its own tick before it (R7, Table 0.4): QSTATE is as it was and
the signal does not leave; the requests of ESPRE, and the automatic ones, are held for their workgroups. -/
def holdTick (s : State) : State :=
  let at_ := entryTick s.cycle
  let taken := s.asked.filter fun (q, t, _) => t == at_ && qState s q == 3
  let sent := s.wgs.filter fun (_, g) => g.sigAt == some (at_ + 22)
  let mine (g : Workgroup) : Bool := taken.any fun x => x.1 == (s.launch g.launch).queue
  let held := (sent.filter fun (_, g) => !mine g).map (·.1)
  let s := taken.foldl (fun s (q, _, old) => qSet q 64 1 old s) s
  { sent.foldl (fun s (w, _) => s.updWg w fun g => { g with sigAt := none }) s with
    asked := [], barred := s.barred.filter fun q => !(taken.any fun x => x.1 == q && x.2.2 != 3), preempting := s.preempting ++ (taken.map (·.1)).filter fun q => !s.preempting.contains q,
    espreHeld := s.espreHeld ++ held.filter fun w => !s.espreHeld.contains w }

/-! ### Sections -/

/-- The header of a dump section (Table 22.9): kind, length and joined name. -/
def sectionHead (kind len : Nat) (joined : Nat) : List Nat := [kind, len, joined % 2 ^ 32, joined / 2 ^ 32]

/-- A section: its header and its body. -/
def section_ (kind joined : Nat) (body : List Nat) : List Nat := sectionHead kind (16 + 4 * body.length) joined ++ body

/-- The words of `n` bytes. -/
def byteWords (m : Bytes) (n : Nat) : List Nat := (List.range (n / 4)).map fun k => m.readLE (4 * k) 4

/-- The barrier-state body of a workgroup (Table 22.9). -/
def barrierWords (s : State) (w : Nat) : List Nat :=
  let g := s.wg w
  let bar (k : Nat) : List Nat :=
    let b := s.bar w k
    [b.valid.toNat + 2 ^ 8 * b.count + 2 ^ 16 * b.arrived + 2 ^ 24 * b.phase, b.waiters.length % 65536]
  let errs := g.tileErr.foldl (fun x t => x + 2 ^ t) 0
  ((List.range 16).map bar).flatten ++ [errs % 2 ^ 32, errs / 2 ^ 32, g.barErr, 0]

/-- The joined name with its train and split fields 0 (R427). -/
def wgName (s : State) (tid : Nat) : Nat := (s.joined tid 0).toNat / 2 ^ 8 * 2 ^ 8

/-- The sections of a TSNAP (R419): the train's, and its workgroup's unless they stand in the dump already. -/
def snapSections (s : State) (d : Dump) (tid : Nat) : List (List Nat) :=
  let w := (s.train tid).wg
  section_ 1 (s.joined tid 0).toNat (imageWords s tid) ::
    (if d.wgs.contains w then []
     else [section_ 2 (wgName s tid) (byteWords (s.wg w).mem (s.wg w).localSize), section_ 3 (wgName s tid) (barrierWords s w)])

/-- The length of the open dump changes, and DUMPLEN with it. -/
def setDump (d : Dump) (s : State) : State :=
  { s with dump := some d }.updCtx d.ctx fun c => { c with dumpLen := d.len }

/-- Writes sections at the end of the open dump, each counted once it stands (R427). -/
def writeSections (tid : Nat) : List (List Nat) → Dump → State → Except ((Kind × Word) × Nat × State) (Dump × State)
  | [], d, s => .ok (d, s)
  | x :: xs, d, s =>
    match storeQuads tid (quads x) (d.base + d.len) s with
    | .error e => .error e
    | .ok s =>
      let d := { d with sections := d.sections + 1, len := d.len + 4 * x.length }
      writeSections tid xs d (setDump d s)

/-- Rewrites the section count and the length of the dump header (R427). -/
def writeCounts (tid : Nat) (d : Dump) (s : State) : Except ((Kind × Word) × Nat × State) State :=
  match storeGlobal tid (d.base + 24) 4 d.sections s with
  | .error e => .error (e, d.base + 24, s)
  | .ok s =>
    match storeGlobal tid (d.base + 32) 4 d.len s with
    | .error e => .error (e, d.base + 32, s)
    | .ok s => .ok s

/-- The sections of a TSNAP are written, between two runs of its target, at DUMPBASE of its issuer's context as it stands (R419, R427). -/
def writeSnap (id : Nat) (by_ target : Who) (pc : Nat) (s : State) : State :=
  match s.dump with
  | none => endSysOp id by_ [] s
  | some d =>
    let c := (s.train by_.tid).ctx
    let d := { d with base := (s.ctx c).dumpBase, baseCtx := if c == d.ctx then none else some c }
    match writeSections by_.tid (snapSections s d target.tid) d (setDump d s) with
    | .error (k, va, s) => endSysOp id by_ [storeRec k va by_.sid pc] s
    | .ok (d, s) =>
      let s := setDump { d with wgs := ((s.train target.tid).wg :: d.wgs).eraseDups } s
      match writeCounts by_.tid d s with
      | .error (k, va, s) => endSysOp id by_ [storeRec k va by_.sid pc] s
      | .ok s => endSysOp id by_ [] s

/-- The target of a TSNAP is between two runs. -/
def snapReady (s : State) (target : Who) : Bool := (List.range 4).all (betweenRuns s target.tid)

/-- The TSNAPs whose targets stand between two runs are done, in order of issue; one whose target or issuer has gone is
over. -/
def snapStep (s : State) : State :=
  s.sysOps.foldl (fun s (id, o) =>
    match o with
    | .snap by_ target pc =>
      if !s.present by_ || !s.present target then endSysOp id by_ [] s
      else if snapReady s target then writeSnap id by_ target pc s else s
    | _ => s) s

/-- TSNAP (R419, R427). -/
def execTsnap (f : FmtX) (s : State) : Result :=
  issueHandle (.tsnap f) f.sa.toNat s fun me tid s =>
    if s.dump.isNone then faultTrain .badHandle 0 me s
    else
      let target : Who := { tid := tid, gen := (s.train tid).inc, sid := 0 }
      retire me (addSysOp (.snap (me.who s) target (me.split s).pc) me s).2

/-! ### The halt -/

/-- The dump header that HALTALL writes (Table 22.8). -/
def dumpHeader (e : Option Event) : List Nat :=
  let j := (e.map fun e => (e.words.getD 0 0).toNat).getD 0
  let k := (e.map fun e => bits (e.words.getD 1 0).toNat 48 8).getD 0
  [1, 2, j % 2 ^ 32, j / 2 ^ 32, 0, 0, 0, k, 64, 0, 0, 0, 0, 0, 0, 0]

/-- HALTALL (R420): it opens a dump and sends the halt broadcast. -/
def execHaltall (f : FmtX) (s : State) : Result :=
  issue (.haltall f) s fun me s =>
    if s.dump.isSome || s.halt.phase != 0 then retire me s
    else
      let c := (me.train s).ctx
      let base := (s.ctx c).dumpBase
      match storeQuads me.tid (quads (dumpHeader (currentEvent s me.tid))) base s with
      | .error ((k, info), va, s) => faultAt k (BitVec.ofNat 64 va) 16 info me s
      | .ok s =>
        let s := setDump { who := me.who s, ctx := c, base := base } s
        let s := { holdTick s with halt := { phase := 1, due := entryTick s.cycle + 22, who := some (me.who s), thermal := false } }
        retire me (addSysOp (.halt (me.who s)) me s).2

/-- HALT_BROADCAST_ARRIVAL: the broadcast reaches every core at its tick (R420). -/
def execHaltBroadcastArrival (s : State) : Result :=
  .next (if s.halt.phase == 1 && decide (s.halt.due ≤ s.tick) then { s with halt := { s.halt with phase := 2 } } else s)

/-- Every train that the halt stops has ended its run, and the operations that the halt awaits have completed (R420). -/
def haltDone (s : State) : Bool :=
  s.halt.phase == 2 && s.copyOps.isEmpty && s.mdecs.isEmpty && (s.mats.all fun (_, m) => m.kind != 3 && m.kind != 5)
    && s.cores.all fun (c, co) => (List.range 4).all fun k =>
      match (co.sched k).run with
      | some r => haltExempt s (c * 32 + r.slot)
      | none => true

/-- The system cores as they write into an open dump, in the context of its area: their accesses are made from die 0 (R310). -/
def Dump.agent (d : Dump) : Agent := { core := noCore, ctx := d.baseCtx.getD d.ctx, priv := true, wg := 0, combiner := false }

/-- The tick at which HALTED became 1 is written into the header of the open dump (Table 22.8), in the context that
opened it. -/
def writeHaltTick (s : State) : State :=
  match s.dump with
  | none => s
  | some d =>
    let g := d.agent
    match checkStore s (checkGlobal s g .write false (d.base + 16) 8) with
    | .ok l => (agentStore g 0 l 8 (s.tick % 2 ^ 64) s).2
    | .error _ => s

/-- HALT_COMPLETE: HALTED becomes 1, and the issuer's next run is free (R420, R452). -/
def execHaltComplete (s : State) : Result :=
  if haltDone s then
    let s := writeHaltTick { s with halt := { s.halt with phase := 3 } }
    let s := { s with sysOps := s.sysOps.filter fun (_, o) => match o with
      | .halt _ => false
      | _ => true }
    .next (if s.halt.thermal then { s with boot := { s.boot with off := true } } else s)
  else .next s

/-- RELEASE (Table 22.6, Table 0.4): trains issue again, timers go on, and the sessions' next records carry full
timestamps. -/
def releaseHalt (s : State) : State :=
  if s.halted then
    { s with halt := {}, ctxs := s.ctxs.map fun (n, c) => (n, { c with trFull := true }) }
  else s

/-- HALT_RELEASE: accepted from the resident kernel's context only (Table 22.6). -/
def execHaltRelease (ctx : Nat) (s : State) : Result := .next (if ctx == 0 then releaseHalt s else s)

/-- The system cores' stores into the dump area. -/
def dumpStores (g : Agent) : List Nat → Nat → State → Option State
  | [], _, s => some s
  | q :: qs, va, s =>
    match checkStore s (checkGlobal s g .write false va 16) with
    | .error _ => none
    | .ok l => dumpStores g qs (va + 16) (agentStore g 0 l 16 q s).2

/-- One word of the dump header. -/
def dumpWord (g : Agent) (va x : Nat) (s : State) : State :=
  match checkStore s (checkGlobal s g .write false va 4) with
  | .error _ => s
  | .ok l => (agentStore g 0 l 4 x s).2

/-- The system cores finish a dump as a truncated one (R421, R427). -/
def closeTruncated (d : Dump) (joined : DWord) (r : FaultRec) (s : State) : State :=
  let g := d.agent
  let sec := section_ 4 joined.toNat (halves (recWords r))
  let (d, s) := match dumpStores g (quads sec) (d.base + d.len) s with
    | some s => ({ d with sections := d.sections + 1, len := d.len + 48 }, s)
    | none => (d, s)
  let s := dumpWord g (d.base + 32) d.len (dumpWord g (d.base + 24) d.sections (dumpWord g (d.base + 4) 7 s))
  { setDump d s with dump := none }

/-- TRUNCATED_DUMP_CLOSE (R421, R427): of the dump that a context has opened. -/
def execTruncatedDumpClose (ctx : Nat) (s : State) : Result :=
  match s.dump with
  | some d =>
    match d.nested with
    | some (j, r) => .next (if d.ctx == ctx then closeTruncated d j r s else s)
    | none => .next s
  | none => .next s

/-! ### ESPRE -/

/-- The resident workgroups of a launch with a member in a list. -/
def memberWgs (s : State) (lid : Nat) (members : List (Nat × Nat)) : List Nat :=
  (s.wgs.filter fun (_, g) => g.launch == lid && g.state == .placed && !g.combiner && members.any fun x => x.1 == g.ordinal).map (·.1)

/-- The pre-emption signal leaves for workgroups (R398, R419): it arrives 22 ticks after its entry. -/
def signalWgs (ws : List Nat) (s : State) : State :=
  ws.foldl (fun s w => s.updWg w fun g =>
    { g with sigAt := g.sigAt.orElse fun _ => some (entryTick s.cycle + 22) }) s

/-- ESPRE asks for the pre-emption of workgroups: a request that arrives during a halt is held (R419, Table 0.4). -/
def askSignals (ws : List Nat) (s : State) : State :=
  if s.halt.phase != 0 then { s with espreHeld := s.espreHeld ++ ws.filter fun w => !s.espreHeld.contains w } else signalWgs ws s

/-- ESPRE (R419). -/
def execEspre (f : FmtX) (s : State) : Result :=
  issue (.espre f) s fun me s =>
    let t := me.train s
    let set := (t.readS me.sid f.sa.toNat).toNat
    let l := s.launch t.launch
    match (boundTo l.slotSet l.slotMap set).bind (Tab.find s.esSlots) with
    | none => faultTrain .unbound (BitVec.ofNat 32 set) me s
    | some x => retire me (askSignals (memberWgs s t.launch x.members) s)

/-! ### TLBINV -/

/-- TLBINV (R419): the issuer's next run waits for the invalidation. It waits for the train's updates that have no place in the global
order yet, which precede it (R337, R372). -/
def execTlbinv (f : FmtX) (s : State) : Result :=
  issueUncounted (.tlbinv f) s fun me s =>
    let t := me.train s
    let a := t.readSN me.sid f.sa.toNat true
    let scope := f.imm.toNat % 4
    let ctx := if scope == 2 then a % 65536 else t.ctx
    retire me (addSysOp (.inv (me.who s) scope ctx a) me s).2

/-- A cached translation that an invalidation names (R372, R419). -/
def invMatches (scope ctx a : Nat) (e : TlbEntry) : Bool :=
  scope == 3 || (e.ctx == ctx && (scope != 0 || (decide (e.va ≤ a) && decide (a < e.va + e.page.size))))

/-- The frames that an invalidation of a page names: those of its cached translations and of its leaf. A home 2 leaf names a
window and no frame (R369). -/
def invFrames (s : State) (ctx a : Nat) : List Page :=
  let cached := (s.cores.map fun (_, c) => c.tlb).flatten ++ (s.clusterTlb.map (·.2)).flatten
  let ps := (cached.filter (invMatches 0 ctx a)).map (·.page)
  (match walk s ctx a with
    | .ok p => p :: ps
    | .error _ => ps).filter fun p => p.home != 2 || isAccord p

/-- Lines are dropped from their slices, and their home 1 pins are released (R373). Atomic updates that wait at it are applied first, with what they wait for at other lines (Table 20.8). -/
def dropLines (drop : Nat → Bool) (s : State) : State :=
  let s := if s.updates.any fun u => drop (lineKey u.loc) then applyAll s.updates.length s else s
  (s.l2.filter fun x => drop x.1 && x.2.slice != 1024 && !x.2.dropped).foldl (fun s (n, l) => s.dropLine n l) s

/-- An invalidation takes effect: the cached translations go, and the lines of their frames, of every slice for scopes 1 to 3
(R372, R373, R419). -/
def invalidate (scope ctx a : Nat) (s : State) : State :=
  let frames := if scope == 0 then invFrames s ctx a else []
  let keep (l : List TlbEntry) : List TlbEntry := l.filter fun e => !invMatches scope ctx a e
  let s := { s with cores := s.cores.map fun (n, c) => (n, { c with tlb := keep c.tlb }),
                    clusterTlb := s.clusterTlb.map fun (n, l) => (n, keep l) }
  dropLines (fun line => scope != 0 ||
    frames.any fun p => decide (p.base ≤ line * 128) && decide (line * 128 < p.base + p.size)) s

/-- TLB_INVALIDATION_COMPLETE: once no walk begun before it is in flight (R372). -/
def execTlbInvalidationComplete (id : Nat) (s : State) : Result :=
  match Tab.find s.sysOps id with
  | some (.inv _ scope ctx a) =>
    .next (if s.walks.any fun (k, _) => decide (k < id) then s
      else invalidate scope ctx a { s with sysOps := Tab.del s.sysOps id })
  | _ => .next s

end Sys2Proof.Machine
end

