-- ==== Sys2Proof/Machine/Launch.lean ====
section
/-! DEFINITION. What the queue processor reads for a launch, its limits, its bindings and its end
(spec/21_queues_launch_preemption.md R384 to R388; spec/01 R21 to R24; spec/07 R171; spec/12 R283; spec/15 R317). -/

namespace Sys2Proof.Machine

/-! ### Reading -/

/-- Reads items of `step` bytes each, in ascending order, as ordinary accesses of the queue processor (R382): the items, or
the kind of the fault. -/
def readItems (g : Agent) (step : Nat) : Nat → Nat → State → Except Kind (List Nat × State)
  | 0, _, s => .ok ([], s)
  | n + 1, va, s =>
    match checkData s (checkGlobal s g .read false va step) with
    | .error (k, _) => .error k
    | .ok l =>
      let (v, ts, s) := agentLoad g s.qpTs l step (useTranslation g va s)
      match readItems g step n (va + step) (s.seen ts) with
      | .error k => .error k
      | .ok (vs, s) => .ok (v :: vs, s)

/-- A field of a packet, a header or a block: `n` bytes from byte `off`. -/
def field (x off n : Nat) : Nat := bits x (8 * off) (8 * n)

/-- A field of a packet. -/
def Packet.u (p : Packet) (off n : Nat) : Nat := field p.data off n

/-- A value between limits. -/
def inLimits (lo x hi : Nat) : Bool := decide (lo ≤ x) && decide (x ≤ hi)

/-- No value stands twice. -/
def noRepeat : List Nat → Bool
  | [] => true
  | x :: xs => !xs.contains x && noRepeat xs

/-! ### The header -/

/-- Roles of a header (Table 21.4). -/
def headerRoles (h : Nat) : List Nat := (List.range (bits (field h 44 4) 2 2 + 1)).map fun r => 64 + 16 * r

/-- A role entry (Table 21.4). -/
def headerRole (h r : Nat) : Role :=
  { entry := field h r 4, granules := field h (r + 4) 1, trains := field h (r + 5) 1, producer := (field h (r + 6) 1).testBit 0,
    stream := (field h (r + 6) 1).testBit 1 }

/-- The limits of the role entries (Table 21.4, R21, R283); what stands in the places beyond the role count is not looked at (DESIGN
CHOICE, log 106). -/
def rolesOk (h : Nat) : Bool :=
  let rs := headerRoles h
  let roles := rs.map (headerRole h)
  (rs.all fun r =>
    inLimits 1 (field h (r + 4) 1) 16 && inLimits 1 (field h (r + 5) 1) 16 && decide (field h (r + 6) 1 < 4) && field h (r + 7) 9 == 0)
    && decide ((roles.map (·.trains)).foldl (· + ·) 0 ≤ 16)
    && decide ((roles.filter (·.producer)).length ≤ 1) && decide ((roles.filter (·.stream)).length ≤ 1)
    && (!(field h 44 4).testBit 0 || roles.map (·.trains) == [1])

/-- Declarations of f-registers: number, rung and mode (Table 21.4). The rung and mode bits of a byte whose declared bit is 0 are not
looked at (DESIGN CHOICE, log 126). -/
def headerFix (h : Nat) : Tab (Nat × Nat) :=
  (List.range 64).filterMap fun n =>
    let b := field h (128 + n) 1
    if b.testBit 0 then some (n, (bits b 1 3, bits b 4 2)) else none

/-- The limits of the f-register bytes (Table 21.4, R22): linear and persp want VERTEX, a rung of the graphics ladder alone (R15).
Rung code 7 is refused, and a flat declaration may name rung 3 or 4 in a compute header (DESIGN CHOICE, log 125). -/
def fixOk (h : Nat) : Bool :=
  let d := headerFix h
  ((List.range 64).all fun n => decide (field h (128 + n) 1 < 64)) &&
    d.all fun (_, p, m) =>
      decide (p < 7) && decide (m ≤ 2) && (m == 0 || (p == 3 && (field h 44 4).testBit 0)) && (m != 2 || (Tab.find d 63).map (·.1) == some 3)

/-- Bindings of a header: the launch's number and the set, of `n` halfwords from byte `off` (Table 21.4). -/
def headerBinds (h off n : Nat) : Tab Nat :=
  (List.range n).filterMap fun k =>
    let w := field h (off + 2 * k) 2
    if w.testBit 15 then some (k, w % 256) else none

/-- The limits of the bindings (Table 21.4, R23). The set index of a binding whose valid bit is 0 is not looked at (DESIGN CHOICE, log 126). -/
def bindsOk (h off n : Nat) : Bool :=
  ((List.range n).all fun k => bits (field h (off + 2 * k) 2) 8 7 == 0) && noRepeat ((headerBinds h off n).map (·.2))

/-- A `.tile` size (Table 1.6). -/
def tileOk (n : Nat) : Bool := [1, 2, 3, 4, 6, 8, 12, 16, 24, 32, 48, 96].contains n

/-- The limits of CTRL (Table 21.4, R265). A graphics header's TILE is not looked at (DESIGN CHOICE, log 106). -/
def headerControlOk (c : Nat) : Bool :=
  decide (c < 2 ^ 26) && (c.testBit 0 || tileOk (bits c 4 7)) && decide (bits c 11 4 ≤ 8) && inLimits 1 (bits c 15 5) 16
    && decide (bits c 20 6 ≤ 32)

/-- Bytes of fixative store that the ray trains of a core have set aside (R171). -/
def rayRoom (h : Nat) : Nat :=
  let r := ((headerFix h).filter fun x => x.2.1 == 6).length
  if r == 0 then 0 else bits (field h 44 4) 11 4 * 96 * (8 + 4 * r)

/-- A header within Table 21.4, R21, R22, R23, R171, R265 and R283 (R385). -/
def headerOk (h : Nat) : Bool :=
  field h 0 8 % 8 == 0 && field h 8 8 % 4 == 0 && ((List.range 7).all fun k => decide (field h (16 + 4 * k) 4 ≤ 2 ^ 27))
    && headerControlOk (field h 44 4) && decide (field h 52 4 ≤ 128) && decide (field h 56 4 ≤ 64) && rolesOk h && fixOk h
    && field h 192 8 % 4096 == 0 && field h 200 8 % 4096 == 0
    && (if (field h 44 4).testBit 0 then field h 208 8 % 8 == 0 else field h 208 8 == 0)
    && bindsOk h 216 64 && bindsOk h 344 16 && inLimits 1 (field h 376 4) (2 ^ 27) && field h 380 132 == 0
    && decide (rayRoom h ≤ 96 * 1024)

/-- A raster block of 288 bytes (Table 21.5). -/
def blockRaster (b : Nat) : Raster :=
  { x0 := field b 0 4, y0 := field b 4 4, w := field b 8 4, h := field b 12 4, sx0 := field b 16 2, sy0 := field b 18 2,
    sx1 := field b 20 2, sy1 := field b 22 2, csize := field b 24 1, spp := field b 25 1, cull := field b 26 1,
    front := field b 27 1,
    targets := (List.range (field b 28 1)).map fun t =>
      let o := 32 + 24 * t
      { base := field b o 8, pitch := field b (o + 8) 4, es := field b (o + 12) 1, spp := field b (o + 13) 1,
        width := field b (o + 16) 4, height := field b (o + 20) 4 } }

/-- The viewport lies within the limits of Table 11.4. -/
def viewportOk (r : Raster) : Bool :=
  let k : Int := (2 ^ 149 : Nat)
  match f32Int r.x0, f32Int r.y0, f32Int r.w, f32Int r.h with
  | some x, some y, some w, some h =>
    decide (k ≤ w) && decide (w ≤ 16384 * k) && decide (k ≤ h) && decide (h ≤ 16384 * k) && decide (0 ≤ x) && decide (0 ≤ y)
      && decide (x + w ≤ 16384 * k) && decide (y + h ≤ 16384 * k)
  | _, _, _, _ => false

/-- A raster block within Tables 11.4 and 21.5. -/
def rasterBlockOk (b : Nat) : Bool :=
  let r := blockRaster b
  viewportOk r && decide (r.csize ≤ 3) && decide (r.spp ≤ 3) && decide (r.cull ≤ 2) && decide (r.front ≤ 1)
    && inLimits 1 (field b 28 1) 8 && field b 29 3 == 0
    && (List.range (field b 28 1)).all (fun t => field b (32 + 24 * t + 14) 2 == 0)
    && r.targets.all fun t =>
      t.base % 128 == 0 && t.pitch % 128 == 0 && (t.es == 4 || t.es == 8) && decide (t.spp ≤ 3)

/-- What a header says of a launch (Table 21.4). -/
def headerLaunch (h : Nat) : Launch :=
  let c := field h 44 4
  let roles := (headerRoles h).map (headerRole h)
  { graphics := c.testBit 0, idemp := c.testBit 1, tileSize := if c.testBit 0 then 96 else bits c 4 7, nres := bits c 11 4,
    rayGranules := bits c 15 5, rlocal := bits c 20 6, codeBase := field h 0 8, seed := BitVec.ofNat 32 (field h 48 4),
    localUnits := field h 52 4, tiles := field h 56 4, combine := field h 60 4, roles := roles,
    trainsPerWg := (roles.map (·.trains)).foldl (· + ·) 0, fix := headerFix h, spillBase := field h 192 8,
    spillSize := field h 200 8, slotSet := headerBinds h 216 64, chanSet := headerBinds h 344 16, codeWords := field h 376 4 }

/-- A run map entry (R24). A length field of 24 to 31, outside the stated 0 to 23, is taken as it stands (DESIGN CHOICE, log 105). -/
def mapEntry (w : Nat) : RunEntry := { start := w % 2 ^ 27, len := w / 2 ^ 27 + 1 }

/-- The run maps of a launch from the entries, in RATE order, and their counts. -/
def splitMaps (counts : List Nat) (es : List Nat) : Tab (List RunEntry) :=
  (counts.zipIdx.foldl (fun (x : List Nat × Tab (List RunEntry)) (n, r) =>
    (x.1.drop n, if n == 0 then x.2 else Tab.put x.2 r ((x.1.take n).map mapEntry))) (es, [])).2

/-! ### Sets -/

/-- Set-table entries within R386: address, count. -/
def setEntryOk (e : Nat) : Bool := field e 0 8 % 4 == 0 && decide (field e 8 4 ≤ 65536) && field e 12 4 == 0

/-- Reads the member lists of the entries of a set-table image, set by set. -/
def readSets (g : Agent) : List (Nat × Nat) → State → Except Kind (Tab (List (Nat × Nat)) × State)
  | [], s => .ok ([], s)
  | (e, k) :: es, s =>
    match readItems g 4 (field e 8 4) (field e 0 8) s with
    | .error x => .error x
    | .ok (ws, s) =>
      match readSets g es s with
      | .error x => .error x
      | .ok (t, s) => .ok (if ws.isEmpty then (t, s) else (Tab.put t k (ws.map fun w => (w / 16, w % 16)), s))

/-- A member as one number. -/
def memberKey (m : Nat × Nat) : Nat := m.1 * 16 + m.2

/-- No train belongs to more than four sets (R386). -/
def fourSets (sets : Tab (List (Nat × Nat))) : Bool :=
  let all := (sets.map fun x => x.2.map memberKey).flatten
  all.eraseDups.all fun m => decide (all.count m ≤ 4)

/-- The sets of a launch within R386. -/
def setsOk (l : Launch) : Bool :=
  (l.sets.all fun (_, ms) =>
    (ms.all fun m => decide (m.1 < l.wgCount) && decide (m.2 < l.trainsPerWg)) && noRepeat (ms.map memberKey))
    && fourSets l.sets && (l.slotSet ++ l.chanSet).all fun (_, k) => Tab.get [] l.sets k != []

/-- The bound sets of a launch, as lists of members. -/
def Launch.boundSets (l : Launch) : List (List (Nat × Nat)) :=
  ((l.slotSet ++ l.chanSet).map (·.2)).eraseDups.map fun k => Tab.get [] l.sets k

/-- One closing of a list of ordinals under the bound sets. -/
def joinSets (sets : List (List (Nat × Nat))) (ws : List Nat) : List Nat :=
  (ws ++ (sets.filter fun ms => ms.any fun m => ws.contains m.1).flatten.map (·.1)).eraseDups

/-- The placement group of a workgroup, ascending (R389): the workgroups joined to it through bound sets. -/
def Launch.group (l : Launch) (w : Nat) : List Nat :=
  let sets := l.boundSets
  sortBy (fun x => x) ((List.range sets.length).foldl (fun ws _ => joinSets sets ws) [w])

/-- A core that is empty holds trains of a launch with these granules, local memory and tiles, beside its ray reserve (R182, R265,
R389). -/
def emptyHolds (s : State) (l : Launch) (core : Nat) (granules : List Nat) (localBytes tiles : Nat) : Bool :=
  decide (granules.length + l.nres + (combinerCore s (core / 4) == some core).toNat ≤ 32)
    && decide (granules.foldl (· + ·) 0 + l.nres * l.rayGranules ≤ 128)
    && decide (localBytes + 4096 * l.rlocal + 64 * 1024 * Tab.get 0 s.homewin core ≤ 512 * 1024) && decide (tiles ≤ 64)

/-- Workgroups of a launch that an empty core holds (R182, R265, R389). -/
def emptyRoom (s : State) (l : Launch) (core : Nat) : Nat :=
  let n := l.trainsPerWg
  let g := l.trainGranules.foldl (· + ·) 0
  let slots := 32 - (if combinerCore s (core / 4) == some core then 1 else 0) - l.nres
  let local_ := 512 * 1024 - 64 * 1024 * Tab.get 0 s.homewin core - 4096 * l.rlocal
  let per (have_ need : Nat) : Nat := if need == 0 then 32 else have_ / need
  min (min (slots / n) ((128 - l.nres * l.rayGranules) / g)) (min (per local_ (4096 * l.localUnits)) (per 64 l.tiles))

/-- The workgroups of a launch that the empty live cores of its clusters hold (R386, R389). -/
def totalRoom (s : State) (l : Launch) : Nat :=
  (((List.range 224).filter fun c => l.cmask.testBit (c / 4) && coreLive s c).map (emptyRoom s l)).foldl (· + ·) 0

/-- Every bound set could be resident together (R386). -/
def setsFit (s : State) (l : Launch) : Bool :=
  l.boundSets.all fun ms => match ms with
    | [] => true
    | (w, _) :: _ => decide ((l.group w).length ≤ totalRoom s l)

/-! ### Starting -/

/-- Status codes of Table 21.9. -/
inductive Status where
  | badPacket | badHeader | badSets | noFit | prologueFault | prologueWatchdog | prologueExit | address | waitTimeout | killed
  deriving DecidableEq, Repr

/-- The code of a status (Table 21.9). -/
def Status.code : Status → Nat
  | .badPacket => 1 | .badHeader => 2 | .badSets => 3 | .noFit => 4 | .prologueFault => 5 | .prologueWatchdog => 6
  | .prologueExit => 7 | .address => 8 | .waitTimeout => 9 | .killed => 10

/-- A status, and the kind of a fault or 0. -/
abbrev Failure := Status × Nat

/-- The operands of a launch: header, arguments, count, elements, cluster array and set-table image (Table 21.3). -/
structure LaunchArgs where
  header : Nat
  args : Nat
  count : Nat
  elems : Nat
  clusters : Nat
  image : Nat
  deriving DecidableEq, Repr

/-- The operands in a packet (Table 21.3). -/
def Packet.launchArgs (p : Packet) : LaunchArgs :=
  { header := p.u 8 8, args := p.u 16 8, count := p.u 24 4, elems := p.u 28 4, clusters := p.u 32 8, image := p.u 40 8 }

/-- The operands within Table 21.3, for the ladder of the header. -/
def argsOk (a : LaunchArgs) (graphics : Bool) : Bool :=
  a.header % 64 == 0 &&
    (if graphics then inLimits 1 a.count 65535 && a.elems == 0 else decide (1 ≤ a.count) && decide (1 ≤ a.elems) && a.clusters == 0)

/-- Reads with a failure of status ADDRESS. -/
def readOr (r : Except Kind (List Nat × State)) : Except Failure (List Nat × State) :=
  match r with
  | .error k => .error (.address, k.code)
  | .ok x => .ok x

/-- The parts of a launch that the graphics ladder adds: the raster block and the clusters of the objects. -/
def readGraphics (g : Agent) (h : Nat) (a : LaunchArgs) (l : Launch) (s : State) : Except Failure (Launch × State) :=
  match readOr (readItems g 8 36 (field h 208 8) s) with
  | .error e => .error e
  | .ok (bs, s) =>
    let b := packElems 64 bs
    if !rasterBlockOk b || a.image != 0 then .error (.badHeader, 0)
    else
      match readOr (readItems g 4 a.count a.clusters s) with
      | .error e => .error e
      | .ok (cs, s) =>
        if cs.any fun c => !inLimits 1 c 65535 then .error (.badPacket, 0)
        else .ok ({ l with raster := blockRaster b, objects := a.count, clusters := cs }, s)

/-- The parts of a launch that the compute ladder adds: its sets (R386). -/
def readCompute (g : Agent) (a : LaunchArgs) (l : Launch) (s : State) : Except Failure (Launch × State) :=
  let l := { l with wgCount := a.count, elems := a.elems }
  let done (l : Launch) (s : State) : Except Failure (Launch × State) :=
    if !setsFit s l then .error (.noFit, 0) else .ok (l, s)
  if a.image == 0 then done l s
  else
    match readOr (readItems g 4 1024 a.image s) with
    | .error e => .error e
    | .ok (ws, s) =>
      let es := (List.range 256).map fun k => packElems 32 ((ws.drop (4 * k)).take 4)
      if es.any fun e => !setEntryOk e then .error (.badSets, 0)
      else
        match readSets g es.zipIdx s with
        | .error k => .error (.address, k.code)
        | .ok (t, s) =>
          let l := { l with sets := t }
          if !setsOk l then .error (.badSets, 0) else done l s

/-- Reads and checks the launch header at an address (R384, R385): the header, or the failure of its packet. -/
def readHeader (g : Agent) (a : Nat) (s : State) : Except Failure (Nat × State) :=
  if a % 64 != 0 then .error (.badPacket, 0)
  else
    match readOr (readItems g 64 8 a s) with
    | .error e => .error e
    | .ok (hs, s) => if headerOk (packElems 512 hs) then .ok (packElems 512 hs, s) else .error (.badHeader, 0)

/-- Reads and checks a launch (R384 to R387): the launch, or the failure of its packet. A header that the packet has read at its start
is not read again. -/
def readLaunch (q : Nat) (header : Option Nat) (a : LaunchArgs) (s : State) : Except Failure (Launch × State) :=
  let ctx := qCtx s q
  let g := queueAgent s ctx
  match (match header with
    | some h => .ok (h, s)
    | none => readHeader g a.header s : Except Failure (Nat × State)) with
  | .error e => .error e
  | .ok (h, s) =>
      if !argsOk a ((field h 44 4).testBit 0) then .error (.badPacket, 0)
      else
        let counts := (List.range 7).map fun k => field h (16 + 4 * k) 4
        match readOr (readItems g 4 (counts.foldl (· + ·) 0) (field h 8 8) s) with
        | .error e => .error e
        | .ok (es, s) =>
          let c := s.ctx ctx
          let l := { headerLaunch h with
            ctx := ctx, proc := c.proc, thread := c.thread, queue := q, klass := qClass s q, priv := c.priv,
            runMaps := splitMaps counts es, cmask := qGet s q 24 8, argBlock := a.args }
          let r := if l.graphics then readGraphics g h a l s else readCompute g a l s
          match r with
          | .error e => .error e
          | .ok (l, s) => if totalRoom s l == 0 then .error (.noFit, 0) else .ok (l, s)

/-- Free module barrier slots and channels, and launch slots, ascending (R317, R431). -/
def freeSlotNumbers (s : State) : List Nat := (List.range 256).filter fun n => (Tab.find s.esSlots n).isNone
/-- Free channels. -/
def freeChanNumbers (s : State) : List Nat := (List.range 64).filter fun n => (Tab.find s.esChans n).isNone
/-- Free launch slots. -/
def freeLaunchSlots (s : State) : List Nat :=
  (List.range 0xFE).filter fun n => !(s.launches.any fun x => x.2.lslot == n)

/-- The bindings of a launch fit (R388). -/
def bindingsFit (s : State) (l : Launch) : Bool :=
  decide (l.slotSet.length ≤ (freeSlotNumbers s).length) && decide (l.chanSet.length ≤ (freeChanNumbers s).length)
    && !(freeLaunchSlots s).isEmpty

/-- Binds the sets of a launch and starts it (R317, R319, R387, R388). -/
def bindLaunch (lid : Nat) (l : Launch) (s : State) : State :=
  let slots := (l.slotSet.map (·.1)).zip (freeSlotNumbers s)
  let chans := (l.chanSet.map (·.1)).zip (freeChanNumbers s)
  let members (sets : Tab Nat) (k : Nat) : List (Nat × Nat) := Tab.get [] l.sets (Tab.get 0 sets k)
  let s := { s with
    esSlots := slots.foldl (fun t (k, n) =>
      Tab.put t n { launch := lid, set := Tab.get 0 l.slotSet k, members := members l.slotSet k,
                    count := (members l.slotSet k).length, far := true }) s.esSlots,
    esChans := chans.foldl (fun t (k, n) =>
      Tab.put t n { launch := lid, set := Tab.get 0 l.chanSet k, members := members l.chanSet k, far := true }) s.esChans }
  let l := { l with slotMap := slots, chanMap := chans, lslot := (freeLaunchSlots s).headD 0, ts := s.qpTs,
                    since := s.timer }
  let l := if l.graphics then l.spawn [{ rung := 0, core := none, elem := { elem := 0 } }] else l
  launchRecord lid 3 { s with launches := Tab.put s.launches lid l }

/-! ### The end of a launch -/

/-- A joined name carries a launch slot. -/
def namesSlot (joined : DWord) (l : Launch) : Bool := bits joined.toNat 24 8 == l.lslot && bits joined.toNat 48 16 == l.proc

/-- An asynchronous operation of a launch's trains has not completed (Table 21.2). -/
def launchBusy (s : State) (lid : Nat) : Bool :=
  let l := s.launch lid
  (s.copyOps.any fun (_, o) => o.kind != 5 && namesSlot o.joined l) || (s.mdecs.any fun (_, o) => namesSlot o.joined l)
    || (s.mats.any fun (_, o) => namesSlot o.joined l) || (s.rays.any fun (_, r) => r.launch == lid)
    || (s.blends.any fun (_, b) => b.launch == lid) || (s.accOps.any fun (_, o) => o.waiting != 0 && namesSlot o.joined l)
    || (s.shuffles.any fun (_, x) => x.launch == lid)
    || (s.syscalls.any fun (_, x) => x.fabric && namesSlot x.joined l) || s.atoms.any fun a => a.2.launch == lid

/-- A launch has ended: every workgroup has been placed and has left, and nothing of it is outstanding (Table 21.2). -/
def launchOver (s : State) (lid : Nat) : Bool :=
  let l := s.launch lid
  let unplaced := if l.dead then false else if l.graphics then !l.pend.isEmpty || !l.registered
    else decide (l.nextWg < l.wgCount) || !l.rerun.isEmpty
  !unplaced && !(s.wgs.any fun (_, g) => g.launch == lid && !g.combiner)
    && !(s.trains.any fun (_, t) => t.launch == lid && !t.combiner && t.state != .free) && !launchBusy s lid

/-- A combiner train, resident or saved, runs the code of a launch. -/
def combinerUses (s : State) (lid : Nat) : Bool :=
  s.trains.any fun (_, t) => t.launch == lid && t.combiner && t.state != .free

/-- The bindings of a launch are released (R317). -/
def releaseBindings (lid : Nat) (s : State) : State :=
  let slot (n : Nat) : Bool := ((Tab.find s.esSlots n).map (·.launch)) == some lid
  let chan (n : Nat) : Bool := ((Tab.find s.esChans n).map (·.launch)) == some lid
  { s with
    esMsgs := s.esMsgs.filter fun (_, k) => match k with
      | .arrival n _ _ _ _ => !slot n
      | .release n _ _ _ _ => !slot n
      | .lostRelease n _ _ => !slot n
      | .entering n _ _ _ => !chan n
      | .broadcast n _ _ => !chan n
      | .lostBroadcast n _ => !chan n,
    esSlots := s.esSlots.filter fun x => x.2.launch != lid,
    esChans := s.esChans.filter fun x => x.2.launch != lid }

/-- A launch ends, by itself or with a packet that failed: its bindings are released; its code stays while a combiner train runs it. -/
def endLaunch (lid : Nat) (s : State) : State :=
  let s := releaseBindings lid s
  if combinerUses s lid then
    s.updLaunch lid fun l => { l with lslot := 0xFE, packet := 0, slotMap := [], chanMap := [] }
  else { s with launches := Tab.del s.launches lid }

/-- A launch without a packet is forgotten: one whose packet failed once its workgroups have left, and one that has ended
once no combiner train runs its code. -/
def sweepLaunches (s : State) : State :=
  s.launches.foldl (fun s (lid, l) =>
    if l.lslot == 0xFE then (if combinerUses s lid then s else { s with launches := Tab.del s.launches lid })
    else if (Tab.find s.packets l.packet).isSome then s
    else if l.lslot == 0xFF then { s with launches := Tab.del s.launches lid }
    else if launchOver s lid then endLaunch lid s else s) s

end Sys2Proof.Machine
end

