-- ==== Sys2Proof/Machine/Scalar.lean ====
section
/-! DEFINITION. The scalar majors 0x30 to 0x46 (spec/05_integer_bit_instructions.md R89, R113 to R116). Each has its
effect on a train once; the prologue of an indirect launch uses the same effects (spec/21 R391). -/

namespace Sys2Proof.Machine

/-- A scalar operation of the registers A, B and C (R113): pairs by TYPE. -/
def scalarInt (f : FmtS3) (op : Nat → Nat → Nat → Nat) (sid : Nat) (t : Train) : Train :=
  let w := intWide f.ty.toNat
  t.writeSN sid f.d.toNat w
    (op (t.readSN sid f.a.toNat w) (t.readSN sid f.b.toNat w) (t.readSN sid f.c.toNat w))

/-- An arithmetic scalar operation, fitted by SAT (R113, Table 5.3). -/
def scalarArith (f : FmtS3) (op : Int → Int → Int) (sid : Nat) (t : Train) : Train :=
  scalarInt f (fun a b c => intOp (fun x y _ => op x y) f.ty.toNat (f.sat == 1) a b c) sid t

/-- SADD, as VADD (Table 5.10). -/
def saddOn (f : FmtS3) (sid : Nat) (t : Train) : Train :=
  scalarArith f (fun x y => x + y) sid t

/-- SADD in a run. -/
def execSadd (f : FmtS3) (s : State) : Result :=
  issueTrain (.sadd f) s fun me _ t => saddOn f me.sid t

/-- SSUB, as VSUB (Table 5.10). -/
def ssubOn (f : FmtS3) (sid : Nat) (t : Train) : Train :=
  scalarArith f (fun x y => x - y) sid t

/-- SSUB in a run. -/
def execSsub (f : FmtS3) (s : State) : Result :=
  issueTrain (.ssub f) s fun me _ t => ssubOn f me.sid t

/-- SMUL, as VMUL (Table 5.10). -/
def smulOn (f : FmtS3) (sid : Nat) (t : Train) : Train :=
  scalarArith f (fun x y => x * y) sid t

/-- SMUL in a run. -/
def execSmul (f : FmtS3) (s : State) : Result :=
  issueTrain (.smul f) s fun me _ t => smulOn f me.sid t

/-- SMIN, as VMIN (Table 5.10). -/
def sminOn (f : FmtS3) (sid : Nat) (t : Train) : Train :=
  scalarArith f (fun x y => min x y) sid t

/-- SMIN in a run. -/
def execSmin (f : FmtS3) (s : State) : Result :=
  issueTrain (.smin f) s fun me _ t => sminOn f me.sid t

/-- SMAX, as VMAX (Table 5.10). -/
def smaxOn (f : FmtS3) (sid : Nat) (t : Train) : Train :=
  scalarArith f (fun x y => max x y) sid t

/-- SMAX in a run. -/
def execSmax (f : FmtS3) (s : State) : Result :=
  issueTrain (.smax f) s fun me _ t => smaxOn f me.sid t

/-- SMULHI, as VMULHI (Table 5.10). -/
def smulhiOn (f : FmtS3) (sid : Nat) (t : Train) : Train :=
  scalarArith f (fun x y => mulhi (intWidth f.ty.toNat) x y) sid t

/-- SMULHI in a run. -/
def execSmulhi (f : FmtS3) (s : State) : Result :=
  issueTrain (.smulhi f) s fun me _ t => smulhiOn f me.sid t

/-- SAND (Table 5.10). -/
def sandOn (f : FmtS3) (sid : Nat) (t : Train) : Train :=
  scalarInt f (fun a b _ => Nat.land a b) sid t

/-- SAND in a run. -/
def execSand (f : FmtS3) (s : State) : Result :=
  issueTrain (.sand f) s fun me _ t => sandOn f me.sid t

/-- SOR (Table 5.10). -/
def sorOn (f : FmtS3) (sid : Nat) (t : Train) : Train :=
  scalarInt f (fun a b _ => Nat.lor a b) sid t

/-- SOR in a run. -/
def execSor (f : FmtS3) (s : State) : Result :=
  issueTrain (.sor f) s fun me _ t => sorOn f me.sid t

/-- SXOR (Table 5.10). -/
def sxorOn (f : FmtS3) (sid : Nat) (t : Train) : Train :=
  scalarInt f (fun a b _ => Nat.xor a b) sid t

/-- SXOR in a run. -/
def execSxor (f : FmtS3) (s : State) : Result :=
  issueTrain (.sxor f) s fun me _ t => sxorOn f me.sid t

/-- SSHL, as VSHL (Table 5.10). -/
def sshlOn (f : FmtS3) (sid : Nat) (t : Train) : Train :=
  scalarInt f (fun a b _ => shlOp f.ty.toNat a b) sid t

/-- SSHL in a run. -/
def execSshl (f : FmtS3) (s : State) : Result :=
  issueTrain (.sshl f) s fun me _ t => sshlOn f me.sid t

/-- SSHR, as VSHR (Table 5.10). -/
def sshrOn (f : FmtS3) (sid : Nat) (t : Train) : Train :=
  scalarInt f (fun a b _ => shrOp f.ty.toNat a b) sid t

/-- SSHR in a run. -/
def execSshr (f : FmtS3) (s : State) : Result :=
  issueTrain (.sshr f) s fun me _ t => sshrOn f me.sid t

/-- SBFX, as VBFX (Table 5.10). -/
def sbfxOn (f : FmtS3) (sid : Nat) (t : Train) : Train :=
  scalarInt f (fun a b c => bfxOp f.ty.toNat a b c) sid t

/-- SBFX in a run. -/
def execSbfx (f : FmtS3) (s : State) : Result :=
  issueTrain (.sbfx f) s fun me _ t => sbfxOn f me.sid t

/-- SBFI, as VBFI (Table 5.10). -/
def sbfiOn (f : FmtS3) (sid : Nat) (t : Train) : Train :=
  scalarInt f (fun a b c => bfiOp f.ty.toNat a b c) sid t

/-- SBFI in a run. -/
def execSbfi (f : FmtS3) (s : State) : Result :=
  issueTrain (.sbfi f) s fun me _ t => sbfiOn f me.sid t

/-- SCLZ (Table 5.10). -/
def sclzOn (f : FmtS3) (sid : Nat) (t : Train) : Train :=
  scalarInt f (fun a _ _ => bitOp clz f.ty.toNat a) sid t

/-- SCLZ in a run. -/
def execSclz (f : FmtS3) (s : State) : Result :=
  issueTrain (.sclz f) s fun me _ t => sclzOn f me.sid t

/-- SPOPC (Table 5.10). -/
def spopcOn (f : FmtS3) (sid : Nat) (t : Train) : Train :=
  scalarInt f (fun a _ _ => bitOp popc f.ty.toNat a) sid t

/-- SPOPC in a run. -/
def execSpopc (f : FmtS3) (s : State) : Result :=
  issueTrain (.spopc f) s fun me _ t => spopcOn f me.sid t

/-- SFFS (Table 5.10). -/
def sffsOn (f : FmtS3) (sid : Nat) (t : Train) : Train :=
  scalarInt f (fun a _ _ => bitOp ffs f.ty.toNat a) sid t

/-- SFFS in a run. -/
def execSffs (f : FmtS3) (s : State) : Result :=
  issueTrain (.sffs f) s fun me _ t => sffsOn f me.sid t

/-- SMOV (Table 5.10). -/
def smovOn (f : FmtS3) (sid : Nat) (t : Train) : Train :=
  scalarInt f (fun a _ _ => a) sid t

/-- SMOV in a run. -/
def execSmov (f : FmtS3) (s : State) : Result :=
  issueTrain (.smov f) s fun me _ t => smovOn f me.sid t

/-- SCMP: 1 or 0 into the single register D (R114). -/
def scmpOn (f : FmtS3) (sid : Nat) (t : Train) : Train :=
  let w := intWide f.ty.toNat
  t.writeS sid f.d.toNat (BitVec.ofNat 32
    (cmpOp f.minor.toNat f.ty.toNat (t.readSN sid f.a.toNat w) (t.readSN sid f.b.toNat w)).toNat)

/-- SCMP in a run. -/
def execScmp (f : FmtS3) (s : State) : Result :=
  issueTrain (.scmp f) s fun me _ t => scmpOn f me.sid t

/-- SSEL: A when the single register C is not 0, else B (R114). -/
def sselOn (f : FmtS3) (sid : Nat) (t : Train) : Train :=
  let w := intWide f.ty.toNat
  t.writeSN sid f.d.toNat w
    (if t.readS sid f.c.toNat == 0 then t.readSN sid f.b.toNat w else t.readSN sid f.a.toNat w)

/-- SSEL in a run. -/
def execSsel (f : FmtS3) (s : State) : Result :=
  issueTrain (.ssel f) s fun me _ t => sselOn f me.sid t

/-- SMOVI: `.lo` writes IMM to D, `.hi` to the odd register of the pair (R115). -/
def smoviOn (f : FmtSI) (sid : Nat) (t : Train) : Train :=
  t.writeS sid (if f.minor == 0 then f.d.toNat else f.d.toNat + 1) f.imm

/-- SMOVI in a run. -/
def execSmovi (f : FmtSI) (s : State) : Result :=
  issueTrain (.smovi f) s fun me _ t => smoviOn f me.sid t

/-- SADDI (R115). -/
def saddiOn (f : FmtSI) (sid : Nat) (t : Train) : Train :=
  t.writeS sid f.d.toNat (t.readS sid f.a.toNat + f.imm)

/-- SADDI in a run. -/
def execSaddi (f : FmtSI) (s : State) : Result :=
  issueTrain (.saddi f) s fun me _ t => saddiOn f me.sid t

/-- SMCNT: the number of 1 bits of the triple (R116). -/
def smcntOn (f : FmtS3) (sid : Nat) (t : Train) : Train :=
  t.writeS sid f.d.toNat (BitVec.ofNat 32 (popc 96 (t.readTriple sid f.a.toNat).toNat))

/-- SMCNT in a run. -/
def execSmcnt (f : FmtS3) (s : State) : Result :=
  issueTrain (.smcnt f) s fun me _ t => smcntOn f me.sid t

/-- SMFIRST: the lowest 1 bit of the triple, 96 when there is none (R116). -/
def smfirstOn (f : FmtS3) (sid : Nat) (t : Train) : Train :=
  t.writeS sid f.d.toNat (BitVec.ofNat 32 (ctz 96 (t.readTriple sid f.a.toNat).toNat))

/-- SMFIRST in a run. -/
def execSmfirst (f : FmtS3) (s : State) : Result :=
  issueTrain (.smfirst f) s fun me _ t => smfirstOn f me.sid t

/-- The effect of a scalar major on a train; none for any other instruction (used by prologues, R391). -/
def scalarOn (i : Instr) (sid : Nat) (t : Train) : Option Train :=
  match i with
  | .sadd f => some (saddOn f sid t)
  | .ssub f => some (ssubOn f sid t)
  | .smul f => some (smulOn f sid t)
  | .smin f => some (sminOn f sid t)
  | .smax f => some (smaxOn f sid t)
  | .smulhi f => some (smulhiOn f sid t)
  | .sand f => some (sandOn f sid t)
  | .sor f => some (sorOn f sid t)
  | .sxor f => some (sxorOn f sid t)
  | .sshl f => some (sshlOn f sid t)
  | .sshr f => some (sshrOn f sid t)
  | .sbfx f => some (sbfxOn f sid t)
  | .sbfi f => some (sbfiOn f sid t)
  | .sclz f => some (sclzOn f sid t)
  | .spopc f => some (spopcOn f sid t)
  | .sffs f => some (sffsOn f sid t)
  | .smov f => some (smovOn f sid t)
  | .scmp f => some (scmpOn f sid t)
  | .ssel f => some (sselOn f sid t)
  | .smovi f => some (smoviOn f sid t)
  | .saddi f => some (saddiOn f sid t)
  | .smcnt f => some (smcntOn f sid t)
  | .smfirst f => some (smfirstOn f sid t)
  | _ => none

end Sys2Proof.Machine
end

