-- ==== Sys2Proof/Machine/Queues.lean ====
section
/-! DEFINITION. The queue processor: what its lanes offer, the start, completion and failure of packets, the packets of
Table 21.2, and the prologue of an indirect launch (spec/21_package_queues_launch_preemption.md R379 to R383, R391 to
R395, R401). -/

namespace Sys2Proof.Machine

/-! ### Offers -/

/-- An item that a lane offers: the task's record, if it is a task, the packet's address, and its opcode and ORDERED; opcode
0 stands for a packet that cannot be read. -/
structure Offer where
  record : Option Nat
  /-- The packet's address, or the kind of the fault that leading to it met. -/
  packet : Except Kind Nat
  op : Nat
  ordered : Bool

/-- Packets of a queue that have started and have not completed. -/
def queuePackets (s : State) (q : Nat) : List (Nat × Packet) := s.packets.filter fun x => x.2.queue == q

/-- A value of `n` bytes that the queue processor could read now, or the kind of the fault. -/
def peek (s : State) (ctx va n : Nat) : Except Kind Nat :=
  match checkData s (checkGlobal s (queueAgent s ctx) .read false va n) with
  | .error (k, _) => .error k
  | .ok l => .ok (readLoc s l n)

/-- An offer of the packet at an address. -/
def offerAt (s : State) (q : Nat) (record : Option Nat) (packet : Except Kind Nat) : Offer :=
  match packet with
  | .error k => { record := record, packet := .error k, op := 0, ordered := false }
  | .ok a =>
    match peek s (qCtx s q) a 8 with
    | .ok w => { record := record, packet := .ok a, op := w % 256, ordered := record.isNone && w.testBit 8 }
    | .error _ => { record := record, packet := .ok a, op := 0, ordered := false }

/-- The address of the packet that a task record names, for a queue (R394): a record of another context's queue fails its
task with ADDRESS-PROTECTION. -/
def taskPacketAt (s : State) (q r : Nat) : Except Kind Nat :=
  if recordCtx s q r != qCtx s q then .error .protection else peek s (qCtx s q) (r + 8) 8

/-- RSIZE and WIDX lie within Table 21.1. -/
def ringOk (s : State) (q : Nat) : Bool :=
  let n := qGet s q 8 4
  decide (16 ≤ n) && decide (n ≤ 65536) && n == 2 ^ n.log2
    && decide ((Tab.get 0 s.widx q + 2 ^ 32 - qGet s q 12 4) % 2 ^ 32 ≤ n)

/-- The item next in a lane: the task at READYHEAD, else the packet at RIDX (R382). -/
def laneItem (s : State) (q : Nat) : Option Offer :=
  let head := qReadyHead s q
  let ridx := qGet s q 12 4
  if head != 0 then some (offerAt s q (some head) (taskPacketAt s q head))
  else if ringOk s q && ridx != Tab.get 0 s.widx q then
    some (offerAt s q none (.ok (qGet s q 0 8 + 64 * (ridx % qGet s q 8 4))))
  else none

/-- The packet waits for every earlier packet of its queue: ORDERED, and HANDOVER (R382, R395). -/
def Offer.waitsAll (o : Offer) : Bool := o.ordered || (o.op == 2 && o.record.isNone)

/-- The queue processor starts items: the compute dies are released, and the halt has not arrived (R420, R449). -/
def queuesRun (s : State) : Bool := decide (5 ≤ s.boot.step) && decide (s.halt.phase < 2) && !s.boot.off

/-- What a lane offers in a step (R382). -/
def laneOffer (s : State) (q : Nat) : Option Offer :=
  let ps := queuePackets s q
  if decide (q < 32) && queuesRun s && qEnabled s q && decide (qState s q < 2) && decide (ps.length < 8) then
    (laneItem s q).filter fun o => !o.waitsAll || ps.isEmpty
  else none

/-- The lanes that a step serves: those that offer the lowest opcode, one outside Table 21.2 among them (R382). -/
def servedLanes (s : State) : List Nat :=
  let os := (List.range 32).filterMap fun q => (laneOffer s q).map fun o => (q, o)
  match leastBy (fun (x : Nat × Offer) => x.2.op) os with
  | none => []
  | some (_, b) => (os.filter fun x => x.2.op == b.op).map (·.1)

/-! ### Starting, completing and failing -/

/-- The place of STATE of a task record for the queue processor, or the kind of the fault that the access meets (R365, R378). -/
def recordState (s : State) (ctx r : Nat) : Except Kind Loc :=
  match checkStore s (checkGlobal s (queueAgent s ctx) .write false (r + 5) 1) with
  | .ok l => .ok l
  | .error (k, _) => .error k

/-- Writes STATE of a task record, unless the access faults; its timestamp is one of the packet's events (R343, R382). -/
def setRecord (ctx r x : Nat) (s : State) : Except Kind State :=
  match recordState s ctx r with
  | .ok l => let (ts, s) := agentStore (queueAgent s ctx) s.qpTs l 1 x s; .ok (s.seen ts)
  | .error k => .error k

/-- The task at the head of a ready list leaves it, and its STATE becomes RUNNING (R394): one more than the clock that it carries, the state, and the kind of the fault
that an access to the record meets, which fails the packet with ADDRESS (Table 21.9). -/
def popTask (q r : Nat) (s : State) : Nat × Option Kind × State :=
  let c := recordCtx s q r
  let (ws, bad, s) := match readItems (queueAgent s c) 8 2 (r + 16) s with
    | .ok (ws, s) => (ws, none, s)
    | .error k => ([], some k, s)
  let next := ws.getD 0 0
  let key := match checkGlobal s (queueAgent s c) .read false r 8 with
    | .ok l => some (recordKey l)
    | .error _ => none
  let lam := (key.map fun k => Tab.get 0 s.taskLam k).getD 0
  let s := { s with foreign := s.foreign.filter fun x => !(x.1 == q && x.2.1 == r),
                    taskLam := (key.map fun k => Tab.del s.taskLam k).getD s.taskLam }
  let s := qSet q 48 8 next s
  let s := if next == 0 then qSet q 56 8 0 s else s
  match bad, setRecord c r 2 (s.seen (ws.getD 1 0)) with
  | some k, _ => (lam + 1, some k, s)
  | none, .error k => (lam + 1, some k, s)
  | none, .ok s => (lam + 1, none, s)

/-- The queue's item starts: the packet's identifier and the state, or the kind of a fault in reading it (R382, R394). -/
def takeItem (q : Nat) (o : Offer) (s : State) : Nat × Option Kind × State :=
  let ctx := qCtx s q
  let (id, s) := s.fresh
  let idx := qGet s q 12 4
  let (lam, bad, s) := match o.record with
    | some r => popTask q r s
    | none => (0, none, qSet q 12 4 ((idx + 1) % 2 ^ 32) s)
  let s := qSet q 64 1 1 s
  let p : Packet := { queue := q, ctx := ctx, op := o.op, index := idx, record := o.record, since := s.timer, lam := lam,
                      started := true }
  match (bad.map Except.error).getD o.packet with
  | .error k => (id, some k, { s with packets := Tab.put s.packets id p })
  | .ok a =>
    match readItems (queueAgent s ctx) 8 8 a s with
    | .error k => (id, some k, { s with packets := Tab.put s.packets id p })
    | .ok (ws, s) =>
      let d := packElems 64 ws
      (id, none, { s with packets := Tab.put s.packets id { p with data := d, completion := field d 56 8, ts := s.qpTs } })

/-- A started packet. -/
def State.packet (s : State) (id : Nat) : Packet := Tab.get { queue := 0, ctx := 0, op := 0 } s.packets id

/-- Changes a started packet. -/
def State.updPacket (s : State) (id : Nat) (f : Packet → Packet) : State := { s with packets := Tab.upd s.packets id f }

/-- The queue is IDLE once it has nothing started and nothing to start. -/
def settleQueue (q : Nat) (s : State) : State :=
  if qState s q == 1 && (queuePackets s q).isEmpty && qReadyHead s q == 0 && qGet s q 12 4 == Tab.get 0 s.widx q then
    qSet q 64 1 0 s
  else s

/-- Writes a queue's error fields and stops it (R401). -/
def stopQueue (q : Nat) (f : Failure) (index : Nat) (record : Nat) (s : State) : State :=
  qSet q 80 8 record (qSet q 72 4 index (qSet q 68 4 (f.1.code + 2 ^ 8 * f.2) (qSet q 64 1 2 s)))

/-- Nothing more of a launch is placed: its packet has failed. -/
def abandonLaunch (lid : Nat) (s : State) : State :=
  s.updLaunch lid fun l => { l with nextWg := l.wgCount, rerun := [], ahead := [], pend := [], dead := l.dead || l.graphics }

/-- A packet fails (R401). -/
def failPacket (id : Nat) (f : Failure) (s : State) : State :=
  let p := s.packet id
  let s := { s with packets := Tab.del s.packets id }
  let s := match p.launch with
    | some lid => abandonLaunch lid s
    | none => s
  stopQueue p.queue f (if p.record.isSome then 0xFFFFFFFF else p.index) (p.record.getD 0) s

/-- At a PREEMPT-POINT a pre-emption of its queue that is pending takes effect, with nothing placed (R397, R400): not in a halt, after
whose release it applies (R7), and not in a queue that has STOPPED (R401). -/
def pointPassed (q : Nat) (s : State) : State :=
  if s.preempting.contains q && s.halt.phase == 0 && qState s q != 2 then
    qSet q 64 1 3 { s with preempting := s.preempting.filter fun x => x != q,
                           barred := if s.barred.contains q then s.barred else s.barred ++ [q] }
  else s

/-- The clock that a packet carries as a sender: M + 1, or past what its task's start has carried to it (R437,
DEDUCED, log 122). -/
def packetLam (s : State) (p : Packet) : Nat := max ((s.ctx p.ctx).trM + 1) p.lam

/-- The decrement of a packet's completion record, or the kind of the fault that the access to it or to the packet's own record meets (R380). -/
def completion (id : Nat) (s : State) : Except Kind State :=
  let p := s.packet id
  match p.record.map (recordState s p.ctx) with
  | some (.error k) => .error k
  | _ => if p.completion == 0 then .ok s else queueDec p.ctx p.completion 1 p.queue s.qpTs (packetLam s p) s

/-- A packet completes: its completion record is decremented, and its task is DONE (R380, R394). Where its record cannot be reached it fails
instead (Table 21.9). -/
def completePacket (id : Nat) (s : State) : State :=
  let p := s.packet id
  match completion id s with
  | .error k => failPacket id (.address, k.code) s
  | .ok s =>
    let s := { s with packets := Tab.del s.packets id }
    let s := if p.op == 1 then pointPassed p.queue s else s
    settleQueue p.queue (match p.record.map fun r => setRecord p.ctx r 3 s with
      | some (Except.ok s) => s
      | _ => s)

/-- Bytes `a` to `b - 1` of a packet are zero. -/
def Packet.zero (p : Packet) (a b : Nat) : Bool := p.u a (b - a) == 0

/-- The header's reserved bits are zero and the completion record is aligned (R380). -/
def Packet.formOk (p : Packet) : Bool := bits p.data 9 55 == 0 && p.completion % 64 == 0

/-- The work of the item that a lane has started, if its opcode is the given one (R382). -/
def serve (q op : Nat) (s : State) (body : Nat → Packet → State → State) : Result :=
  match s.serving.find? fun x => x.1 == q with
  | none => .next s
  | some (_, id) =>
    match Tab.find s.packets id with
    | none => .next { s with serving := s.serving.erase (q, id) }
    | some p =>
      if p.op != op then .next s
      else
        let s := { s with serving := s.serving.erase (q, id) }
        .next (if p.formOk then body id p s else failPacket id (.badPacket, 0) s)

/-- The event that serves an opcode for a lane. -/
def packetEvent (op q : Nat) : Option Instr :=
  match op with
  | 1 => some (.preemptPoint q)
  | 2 => some (.handoverPacket q)
  | 3 => some (.tdecPacket q)
  | 4 => some (.signalPacket q)
  | 6 => some (.copyPacket q)
  | 7 => some (.taskPacket q)
  | 8 => some (.launchIndirect q)
  | 9 => some (.launchPacket q)
  | _ => none

/-- Starts a WAIT-MEMORY packet: it polls from now on (R383). -/
def startWait (id : Nat) (p : Packet) (s : State) : State :=
  if p.u 8 8 % 4 == 0 && decide (p.u 24 1 ≤ 2) && p.zero 25 28 && p.zero 32 56 then s
  else failPacket id (.badPacket, 0) s

/-- An offered item starts (R382): its work follows; WAIT-MEMORY polls from now on; an opcode outside Table 21.2 fails (R381). -/
def startItem (q : Nat) (o : Offer) (s : State) : State :=
  let (id, bad, s) := takeItem q o s
  let p := s.packet id
  match bad, packetEvent o.op q with
  | some k, _ => failPacket id (.address, k.code) s
  | none, some e => { s with serving := s.serving ++ [(q, id)] }.later e
  | none, none => if o.op == 5 && p.formOk then startWait id p s else failPacket id (.badPacket, 0) s

/-- QUEUE_PROCESSOR_STEP (R382): every item that is served starts in the step. -/
def execQueueProcessorStep (s : State) : Result :=
  .next ((servedLanes s).foldl (fun u q =>
    match laneOffer s q with
    | none => u
    | some o => startItem q o u) { s with serving := [] })

/-! ### Packets -/

/-- TDEC (Table 21.3). -/
def execTdecPacket (q : Nat) (s : State) : Result :=
  serve q 3 s fun id p s =>
    let n := p.u 16 4
    if !inLimits 1 n 65535 || !p.zero 20 56 then failPacket id (.badPacket, 0) s
    else
      match queueDec p.ctx (p.u 8 8) n q s.qpTs (packetLam s p) s with
      | .error k => failPacket id (.address, k.code) s
      | .ok s => completePacket id s

/-- SIGNAL: the store, then the interrupts (R383). -/
def execSignalPacket (q : Nat) (s : State) : Result :=
  serve q 4 s fun id p s =>
    let a := p.u 8 8
    let toWhom := p.u 24 1
    if a % 8 != 0 || 3 < toWhom || !p.zero 25 28 || !p.zero 32 56 then failPacket id (.badPacket, 0) s
    else
      let g := queueAgent s p.ctx
      match checkStore s (checkGlobal s g .write false a 8) with
      | .error (k, _) => failPacket id (.address, k.code) s
      | .ok l =>
        let (ts, s) := agentStore g s.qpTs l 8 (p.u 16 8) s
        let s := s.seen ts
        let s := if toWhom == 0 then s
          else { s with interrupts := s.interrupts ++ [.signal (toWhom.testBit 0) (toWhom.testBit 1) (p.u 28 4) (packetLam s p)] }
        completePacket id s

/-- The condition of a WAIT-MEMORY packet on the word that it polls (Table 21.3). -/
def Packet.condition (p : Packet) (w : Nat) : Bool :=
  let x := Nat.land w (p.u 16 4)
  match p.u 24 1 with
  | 0 => x == p.u 20 4
  | 1 => x != p.u 20 4
  | _ => decide (p.u 20 4 ≤ x)

/-- WAIT_MEMORY: the packet polls its word, and completes once its condition holds (R383). -/
def execWaitMemory (id : Nat) (s : State) : Result :=
  match Tab.find s.packets id with
  | none => .next s
  | some p =>
    if p.op != 5 then .next s
    else
      match readItems (queueAgent s p.ctx) 4 1 (p.u 8 8) s with
      | .error k => .next (failPacket id (.address, k.code) s)
      | .ok (ws, s) => .next (if p.condition (ws.headD 0) then completePacket id s else s)

/-- The timeout of a WAIT-MEMORY packet has passed (R383). -/
def waitOver (s : State) (p : Packet) : Bool :=
  p.op == 5 && p.u 28 4 != 0 && decide (p.since + 1024 * p.u 28 4 ≤ s.timer)

/-- WAIT_MEMORY_TIMEOUT (R383). -/
def execWaitMemoryTimeout (id : Nat) (s : State) : Result :=
  match Tab.find s.packets id with
  | none => .next s
  | some p => .next (if waitOver s p then failPacket id (.waitTimeout, 0) s else s)

/-- The core whose copy engine performs COPY packets (R383). -/
def packetCore (s : State) : Nat :=
  (((List.range 56).find? (corePlaceable s)).orElse fun _ => (List.range 224).find? (corePlaceable s)).getD 0

/-- The joined name of what the queue processor does for a queue (DEDUCED, log 27). -/
def queueName (s : State) (q : Nat) : DWord :=
  let c := s.ctx (qCtx s q)
  BitVec.ofNat 64 (c.proc * 2 ^ 48 + c.thread * 2 ^ 32 + 0xFF * 2 ^ 24 + q * 2 ^ 8)

/-- COPY (R383). -/
def execCopyPacket (q : Nat) (s : State) : Result :=
  serve q 6 s fun id p s =>
    if !p.zero 16 56 then failPacket id (.badPacket, 0) s
    else
      match readItems (queueAgent s p.ctx) 8 16 (p.u 8 8) s with
      | .error k => failPacket id (.address, k.code) s
      | .ok (ws, s) =>
        let d := readDesc (Bytes.writeLE [] 0 128 (packElems 64 ws)) 0
        if !descOk 5 0 d then failPacket id (.badPacket, 0) s
        else
          let (op, s) := s.fresh
          let o : CopyOp := { who := {}, joined := queueName s q, ctx := p.ctx, core := packetCore s,
                              priv := (s.ctx p.ctx).priv, wg := 0, kind := 5, op := 0, tok := 0, arr := none, desc := d,
                              dests := [0], skipped := 0, pos := 0, ts := s.qpTs, lam := p.lam, seen := [], packet := id }
          let s := { s with copyOps := Tab.put s.copyOps op o }
          if d.total == 0 then advanceCopy op 0 s else s

/-- Writes a new task record (R383, Table 21.6): its PACKET stays as it is. The timestamps of both stores are those of the packet's events (R343). -/
def writeTask (g : Agent) (l : Loc) (count queue : Nat) (s : State) : State :=
  let (ts, s) := agentStore g s.qpTs l 8 (count + 2 ^ 32 * queue) s
  let s := s.seen ts
  let (ts, s) := agentStore g s.qpTs (l.plus 16) 16 0 s
  s.seen ts

/-- TASK (R383, R394). -/
def execTaskPacket (q : Nat) (s : State) : Result :=
  serve q 7 s fun id p s =>
    let a := p.u 8 8
    if a % 64 != 0 || 31 < p.u 20 1 || !p.zero 21 56 then failPacket id (.badPacket, 0) s
    else
      let g := queueAgent s p.ctx
      match checkStore s (checkGlobal s g .write false a 64) with
      | .error (k, _) => failPacket id (.address, k.code) s
      | .ok l =>
        let s := carryLam l (packetLam s p) (writeTask g l (p.u 16 4) (p.u 20 1) s)
        completePacket id (if p.u 16 4 == 0 then makeReady l a p.ctx s.qpTs s else s)

/-- The frames of a range of 64 KiB pages, or the kind of the fault of an unmapped one (R395). -/
def rangeFrames (s : State) (ctx : Nat) : Nat → Nat → Except Kind (List Nat)
  | 0, _ => .ok []
  | n + 1, va =>
    let here : Except Kind (List Nat) :=
      if (s.ctx ctx).physical then (if va < 2 ^ 52 && populated s va then .ok [va] else .error .aperture)
      else if 2 ^ 57 ≤ va then .error .aperture
      else match translateVa s noCore ctx va with
        | .error k => .error k
        | .ok p => .ok (match pageLoc p va with
          | .phys pa _ _ _ _ => [pa]
          | _ => [])
    match here with
    | .error k => .error k
    | .ok x =>
      match rangeFrames s ctx n (va + 2 ^ 16) with
      | .error k => .error k
      | .ok xs => .ok (x ++ xs)

/-- The resident lines of frames take a class (R395). -/
def setClass (frames : List Nat) (cls : Nat) (s : State) : State :=
  { s with l2 := s.l2.map fun (n, l) => (n, if frames.contains (n * 128 / 2 ^ 16 * 2 ^ 16) then { l with cls := cls } else l) }

/-- HANDOVER (R395). -/
def execHandoverPacket (q : Nat) (s : State) : Result :=
  serve q 2 s fun id p s =>
    let base := p.u 8 8
    let len := p.u 16 8
    if base % 2 ^ 16 != 0 || len % 2 ^ 16 != 0 || 2 ^ 40 < len || 3 < p.u 24 1 || 31 < p.u 25 1 || !p.zero 26 32
        || !p.zero 40 56 then failPacket id (.badPacket, 0) s
    else
      match rangeFrames s p.ctx (len / 2 ^ 16) base with
      | .error k => failPacket id (.address, k.code) s
      | .ok fs =>
        let s := setClass fs (p.u 24 1) s
        match queueDec p.ctx (p.u 32 8) 1 q s.qpTs (packetLam s p) s with
        | .error k => failPacket id (.address, k.code) s
        | .ok s => completePacket id s

/-- PREEMPT-POINT: it completes when every earlier packet has (Table 21.2). -/
def execPreemptPoint (q : Nat) (s : State) : Result :=
  serve q 1 s fun id p s =>
    if !p.zero 8 56 then failPacket id (.badPacket, 0) s
    else if (queuePackets s q).all fun x => x.1 == id then completePacket id s
    else s

/-! ### Launches -/

/-- Starts the launch of a packet: it is bound, or waits for its bindings (R388). -/
def startLaunch (id : Nat) (p : Packet) (s : State) : State :=
  match readLaunch p.queue p.header p.launchArgs s with
  | .error f => failPacket id f s
  | .ok (l, s) =>
    let (lid, s) := s.fresh
    let l := { l with packet := id, lam := p.lam }
    let fit := bindingsFit s l
    let s := s.updPacket id fun p => { p with launch := some lid, started := fit }
    if fit then bindLaunch lid l s else { s with launches := Tab.put s.launches lid { l with lslot := 0xFF } }

/-- LAUNCH (R384 to R388). -/
def execLaunchPacket (q : Nat) (s : State) : Result :=
  serve q 9 s fun id p s =>
    if p.zero 48 56 then startLaunch id p s else failPacket id (.badPacket, 0) s

/-- PACKET_BINDINGS_FIT: a launch that waited for its bindings starts (R388). -/
def execPacketBindingsFit (id : Nat) (s : State) : Result :=
  match Tab.find s.packets id with
  | none => .next s
  | some p =>
    match (if p.started then none else p.launch) with
    | none => .next s
    | some lid =>
      let l := s.launch lid
      .next (if bindingsFit s l then bindLaunch lid l (s.updPacket id fun p => { p with started := true }) else s)

/-- How a run of a prologue goes. -/
inductive Prologue where
  /-- EXIT, with its registers. -/
  | exit (t : Train)
  /-- A fault. -/
  | fault (k : Kind)
  /-- It has not ended within its limit. -/
  | runsOn
  deriving Repr

/-- The operand positions of a prologue word: s121 to s126 may be destinations, and ignore what is written (R391). -/
def prologuePos (p : Pos) (c : Nat) : Bool :=
  match p with
  | .scalarD n => isS c && aligned (c - 0x100) n
  | .scalarHigh => isS c && aligned (c - 0x100) 2
  | _ => p.ok c

/-- Registers of a prologue after an instruction: s121 to s126 keep reading 0. -/
def prologueRegs (t : Train) : Train := { t with sregs := t.sregs.filter fun x => x.1 < 121 || x.1 == 127 }

/-- The instruction may stand in a prologue (R391). -/
def prologueMajor (i : Instr) : Bool :=
  (scalarOn i 0 {}).isSome ||
    (match i with
      | .sld _ | .sst _ | .br _ | .brs _ | .exit _ => true
      | _ => false)

/-- The fault of a prologue word (R391, R85). -/
def prologueCheck (h : Head) (i : Instr) : Option Kind :=
  let spaceOk := match i with
    | .sld f => f.space == 0
    | .sst f => f.space == 0
    | _ => true
  if !prologueMajor i then some .illegalOpcode
  else if h.rate != 7 then some .illegalRate
  else if !spaceOk || !((shape i).all fun pc => prologuePos pc.1 pc.2) || !rest i then some .illegalField
  else none

/-- The address of a prologue's scalar access (R78). -/
def prologueAddr (s : State) (t : Train) (f : FmtM) : Nat :=
  (effAddr s t 0 f.base.toNat f.ofs.toNat 0 20 f.disp.toNat).toNat

/-- A scalar load of a prologue. -/
def prologueLoad (g : Agent) (f : FmtM) (t : Train) (s : State) : Except Kind (Train × State) :=
  let n := accessBytes f.size.toNat
  match readItems g n 1 (prologueAddr s t f) s with
  | .error k => .error k
  | .ok (ws, s) =>
    let v := loadExtend f.size.toNat (ws.headD 0)
    .ok ((List.range (accessRegs f.size.toNat)).foldl (fun t k =>
      t.writeS 0 (f.d.toNat - 0x100 + k) (BitVec.ofNat 32 (v / 2 ^ (32 * k)))) t, s)

/-- A scalar store of a prologue. -/
def prologueStore (g : Agent) (f : FmtM) (t : Train) (s : State) : Except Kind State :=
  let n := accessBytes f.size.toNat
  match checkStore s (checkGlobal s g .write false (prologueAddr s t f) n) with
  | .error (k, _) => .error k
  | .ok l =>
    let v := storeValue s t 0 f.d.toNat 0 (accessRegs f.size.toNat)
    let (ts, s) := agentStore g s.qpTs l n (v % 2 ^ (8 * n)) s
    .ok (s.seen ts)

/-- Runs a prologue from a word, for at most `n` instructions (R391). -/
def runPrologue (g : Agent) (base : Nat) : Nat → Int → Train → State → Prologue × State
  | 0, _, _, s => (.runsOn, s)
  | n + 1, pc, t, s =>
    let a := wrapInt (base + 8 * pc) 64
    match checkData s (checkGlobal s g .fetch false a 8) with
    | .error (k, _) => (.fault k, s)
    | .ok l =>
      let (w, ts, s) := agentLoad g s.qpTs l 8 s
      let s := s.seen ts
      match decodeWord (BitVec.ofNat 64 w) with
      | .error _ => (.fault .illegalOpcode, s)
      | .ok (h, i) =>
        match prologueCheck h i with
        | some k => (.fault k, s)
        | none =>
          match i with
          | .exit _ => (.exit t, s)
          | .br f => runPrologue g base n (pc + f.offset.toInt) t s
          | .brs f =>
            runPrologue g base n (if brsTaken f.cond.toNat (t.readS 0 f.sa.toNat) then pc + f.offset.toInt else pc + 1) t s
          | .sld f =>
            match prologueLoad g f t s with
            | .error k => (.fault k, s)
            | .ok (t, s) => runPrologue g base n (pc + 1) (prologueRegs t) s
          | .sst f =>
            match prologueStore g f t s with
            | .error k => (.fault k, s)
            | .ok s => runPrologue g base n (pc + 1) t s
          | _ =>
            match scalarOn i 0 t with
            | some t => runPrologue g base n (pc + 1) (prologueRegs t) s
            | none => (.fault .illegalOpcode, s)

/-- The registers that a run of a prologue starts with (R391). -/
def prologueStart (p : Packet) : Train :=
  let a := p.launchArgs
  let w (x : Nat) : Word := BitVec.ofNat 32 x
  { sregs := [(2, w a.args), (3, w (a.args / 2 ^ 32)), (4, w a.count), (5, w a.elems), (6, w a.clusters),
              (7, w (a.clusters / 2 ^ 32)), (8, w p.iter), (120, 1)] }

/-- Replaces a field of a packet. -/
def Packet.set (p : Packet) (off n x : Nat) : Packet :=
  { p with data := p.data - p.u off n * 2 ^ (8 * off) + x % 2 ^ (8 * n) * 2 ^ (8 * off) }

/-- The packet's fields after a prologue (R392). -/
def Packet.replaced (p : Packet) (t : Train) : Packet :=
  (((p.set 16 8 (t.readSN 0 2 true)).set 24 4 (t.readS 0 4).toNat).set 28 4 (t.readS 0 5).toNat).set 32 8 (t.readSN 0 6 true)

/-- Runs the prologue of a packet once and acts on its exit code (R391, R392). -/
def prologueRun (id : Nat) (p : Packet) (s : State) : State :=
  match runPrologue (queueAgent s p.ctx) (p.u 48 8) 65536 0 (prologueStart p) s with
  | (.fault k, s) => failPacket id (.prologueFault, k.code) s
  | (.runsOn, s) => s.updPacket id fun p => { p with prologue := true, finished := true }
  | (.exit t, s) =>
    match (t.readS 0 1).toNat with
    | 1 => completePacket id s
    | 0 | 2 =>
      let p := { p.replaced t with again := (t.readS 0 1).toNat == 2, prologue := false }
      startLaunch id p { s with packets := Tab.put s.packets id p }
    | _ => failPacket id (.prologueExit, 0) s

/-- LAUNCH-INDIRECT (R384, R391): its header is read once, when it starts, before its prologue first runs. -/
def execLaunchIndirect (q : Nat) (s : State) : Result :=
  serve q 8 s fun id p s =>
    if p.u 48 8 % 8 != 0 then failPacket id (.badPacket, 0) s
    else
      match readHeader (queueAgent s p.ctx) (p.u 8 8) s with
      | .error f => failPacket id f s
      | .ok (h, s) => prologueRun id { p with header := some h } (s.updPacket id fun p => { p with header := some h })

/-- PROLOGUE_RERUN: the launch of an exit with code 2 has completed (R392). -/
def execPrologueRerun (id : Nat) (s : State) : Result :=
  match Tab.find s.packets id with
  | none => .next s
  | some p => .next (if p.prologue && !p.finished then prologueRun id p s else s)

/-- PROLOGUE_WATCHDOG: the run has gone beyond 65,536 instructions (R391). -/
def execPrologueWatchdog (id : Nat) (s : State) : Result :=
  match Tab.find s.packets id with
  | none => .next s
  | some p => .next (if p.prologue && p.finished then failPacket id (.prologueWatchdog, 0) s else s)

/-- A packet's own work is done (Table 21.2). -/
def packetDone (s : State) (id : Nat) (p : Packet) : Bool :=
  match p.op with
  | 1 => (queuePackets s p.queue).all fun x => decide (id ≤ x.1)
  | 6 => p.finished
  | 8 | 9 => p.started && (p.launch.map (launchOver s)).getD false
  | _ => false

/-- PACKET_COMPLETION (R380, R383, R392, Table 21.2). A packet that fails at its completion leaves no END record (R436). -/
def execPacketCompletion (id : Nat) (s : State) : Result :=
  match Tab.find s.packets id with
  | none => .next s
  | some p =>
    if !packetDone s id p then .next s
    else
      match p.launch, p.stopped with
      | some lid, _ =>
        let ends := p.again || (completion id s).isOk
        let s := (endLaunch lid (if ends then launchRecord lid 4 s else s)).updPacket id fun p => { p with launch := none }
        .next (if p.again then
            s.updPacket id fun p => { p with again := false, prologue := true, iter := p.iter + 1 }
          else completePacket id s)
      | none, some k => .next (failPacket id (.address, k) s)
      | none, none => .next (completePacket id s)

/-! ### Doorbells -/

/-- The queue processor reads WIDX of a queue again (R444). -/
def readWidx (q : Nat) (s : State) : State :=
  { s with widx := Tab.put s.widx q (qGet s q 16 4), bells := s.bells.filter fun x => x != q }

/-- A doorbell rings: it takes effect at once, or is remembered until ENABLE is set (R444). -/
def ringBell (q : Nat) (s : State) : State :=
  if qEnabled s q then readWidx q s else { s with bells := if s.bells.contains q then s.bells else s.bells ++ [q] }

/-- DOORBELL (R444). -/
def execDoorbell (q : Nat) (s : State) : Result := .next (if q < 32 then ringBell q s else s)

end Sys2Proof.Machine
end

