-- ==== Sys2Proof/Machine/Placement.lean ====
section
/-! DEFINITION. The placement of workgroups and the restore of saved ones (spec/21_package_queues_launch_preemption.md R387,
R389, R398; spec/15 R318; spec/08 R182, R183). -/

namespace Sys2Proof.Machine

/-! ### The choice -/

/-- Train slots that a queue holds (R389). -/
def slotsHeld (s : State) (q : Nat) : Nat :=
  (s.trains.filter fun (tid, t) =>
    decide (tid < 224 * 32) && t.state != .free && !t.combiner && (s.launch t.launch).queue == q).length

/-- Compute workgroups of a launch wait that have never been placed, or that were discarded. -/
def Launch.unplaced (l : Launch) : Bool := decide (l.nextWg < l.wgCount) || !l.rerun.isEmpty

/-- A launch is under way: it is bound and not dead. -/
def launchRuns (s : State) (l : Launch) : Bool := !l.dead && decide (l.lslot < 0xFE) && (Tab.find s.packets l.packet).isSome

/-- The saved workgroups of a queue. -/
def savedWgs (s : State) (q : Nat) : List (Nat × Workgroup) :=
  s.wgs.filter fun (_, g) => g.state == .saved && !g.combiner && (s.launch g.launch).queue == q && !(s.launch g.launch).dead

/-- The launches of a queue with workgroups that wait to be placed. -/
def waitingLaunches (s : State) (q : Nat) : List (Nat × Launch) :=
  s.launches.filter fun (_, l) => l.queue == q && !l.graphics && launchRuns s l && l.unplaced

/-- A queue takes part in placement: it has a workgroup waiting, its SHARE places something, and it is not PREEMPTED (R389,
R397). -/
def queueWaits (s : State) (q : Nat) : Bool :=
  queuePlaces s q && (!(savedWgs s q).isEmpty || !(waitingLaunches s q).isEmpty)

/-- Queue `a` is served before queue `b` (R389 step 1). -/
def queueBefore (s : State) (a b : Nat) : Bool :=
  let x := slotsHeld s a * 256 * qGet s b 23 1
  let y := slotsHeld s b * 256 * qGet s a 23 1
  if qClass s a != qClass s b then decide (qClass s b < qClass s a) else if x != y then decide (x < y) else decide (a < b)

/-- The queue whose workgroup is placed next (R389 step 1). -/
def placingQueue (s : State) : Option Nat :=
  ((List.range 32).filter (queueWaits s)).foldl (fun best q =>
    match best with
    | none => some q
    | some b => if queueBefore s q b then some q else some b) none

/-- What is placed next of a queue: a saved workgroup, or an ordinal of a launch (R389 step 2). -/
inductive Waiting where
  | saved (wid : Nat)
  | fresh (lid ordinal : Nat)
  deriving DecidableEq, Repr

/-- The lowest waiting ordinal of a launch. -/
def Launch.lowestWaiting (l : Launch) : Nat :=
  let r := l.rerun.map (·.1)
  r.foldl min (if l.nextWg < l.wgCount then l.nextWg else r.headD 0)

/-- The workgroup of a queue that is placed next (R389 step 2). -/
def nextWaiting (s : State) (q : Nat) : Option Waiting :=
  let age (lid : Nat) : Nat := (s.launch lid).packet
  match leastBy (fun (x : Nat × Workgroup) => age x.2.launch * 2 ^ 40 + x.2.ordinal) (savedWgs s q) with
  | some (w, _) => some (.saved w)
  | none =>
    (leastBy (fun (x : Nat × Launch) => x.2.packet) (waitingLaunches s q)).map fun (lid, l) => .fresh lid l.lowestWaiting

/-- The core that a compute workgroup of a launch takes (R182, R389 step 3). -/
def coreFor (s : State) (l : Launch) : Option Nat :=
  bestCore s ((allowedCores s l.cmask).filter fun c =>
    coreOpen s c && reserveFits s l c l.trainGranules (4096 * l.localUnits) l.tiles)

/-! ### Placing -/

/-- The ordinals of a launch that have been placed move its next ordinal on. -/
def Launch.advance (l : Launch) : Nat → Launch
  | 0 => l
  | n + 1 =>
    if l.ahead.contains l.nextWg then Launch.advance { l with nextWg := l.nextWg + 1, ahead := l.ahead.erase l.nextWg } n else l

/-- An ordinal of a launch has been placed. -/
def Launch.placed (l : Launch) (o : Nat) : Launch :=
  if l.rerun.any fun x => x.1 == o then { l with rerun := l.rerun.filter fun x => x.1 != o }
  else ({ l with ahead := l.ahead ++ [o] }).advance (l.ahead.length + 1)

/-- Places the workgroups of a group in ascending ordinal, all of them or none (R318, R389). -/
def placeGroup (lid : Nat) : List Nat → State → Option State
  | [], s => some s
  | o :: os, s =>
    match coreFor s (s.launch lid) with
    | none => none
    | some c =>
      let s := enterCore lid c s
      let s := placeWorkgroup lid o c s
      placeGroup lid os (s.updLaunch lid fun l => l.placed o)

/-- The die of a member's workgroup. -/
def memberDie (s : State) (lid w : Nat) : Option Nat :=
  (s.wgs.find? fun (_, g) => g.launch == lid && g.ordinal == w && !g.combiner && g.region.isNone).map fun x => x.2.core / 56

/-- The members of a set stand on more than one die (R318). -/
def farSet (s : State) (lid : Nat) (members : List (Nat × Nat)) : Bool :=
  decide (1 < ((members.map fun m => memberDie s lid m.1).eraseDups).length)

/-- The scope of the sets of a group that has been placed is fixed (R318). -/
def fixScope (lid : Nat) (group : List Nat) (s : State) : State :=
  let mine (l : Nat) (ms : List (Nat × Nat)) : Bool := l == lid && ms.any fun m => group.contains m.1
  { s with
    esSlots := s.esSlots.map fun (n, x) => (n, if mine x.launch x.members then { x with far := farSet s lid x.members } else x),
    esChans := s.esChans.map fun (n, x) => (n, if mine x.launch x.members then { x with far := farSet s lid x.members } else x) }

/-! ### Restoring -/

/-- The trains that come back with a saved workgroup, by train ordinal: not one that CTXSAVE has taken out of it (R417, R418). -/
def savedTrains (s : State) (w : Nat) : List (Nat × Train) :=
  sortBy (fun x => x.2.ordinal) (s.trains.filter fun (_, t) => t.state == .saved && t.wg == w && !t.imageOnly)

/-- The number that stands for the core of the fixative records in a workgroup's save record. -/
def savedCore (w : Nat) : Nat := 4096 + w

/-- Bytes of the fixative records that return with a workgroup. -/
def savedRecBytes (l : Launch) (w : Nat) : Nat :=
  l.recs.foldl (fun n (k, r) => if r.core == savedCore w && !r.spilled then n + l.recBytes (k / 2 ^ 32) else n) 0

/-- Bytes that a saved workgroup brings into the store of a core: its own records, and copies of others (R170, R171). -/
def restoreBytes (s : State) (w core : Nat) : Nat :=
  let lid := (s.wg w).launch
  savedRecBytes (s.launch lid) w
    + copyBytes s lid core fun rung x => (savedTrains s w).any fun (_, t) => !t.unstarted && holdsElem s lid rung x t

/-- A saved workgroup fits a core (R182, R398). A RAY workgroup takes its launch's ray reserve there, where the core does not hold it
already. -/
def restoreFits (s : State) (w core : Nat) : Bool :=
  let g := s.wg w
  let l := s.launch g.launch
  let ts := savedTrains s w
  if g.region.isSome then
    if (Tab.find l.rayReserve core).isSome then ts.all fun (_, t) => (raySlot s g.launch core t.rayDepth (restoreBytes s w core)).isSome
    else reserveFits s l core [] 0 0
  else
    reserveFits s l core (ts.map (·.2.granules)) g.localSize g.tileCount
      && decide (storeUsed s core + restoreBytes s w core ≤ storeRoom s core)

/-- A saved train returns to a slot, STARTING (R67, R398, R417); the records of a RAY train stand where its slot lets them (R171). -/
def returnTrain (core w : Nat) (k : Nat) (t : Train) (s : State) : State :=
  let lid := (s.wg w).launch
  let (slot, res) := if t.rung == 6 then (raySlot s lid core t.rayDepth 0).getD (0, false) else ((freeSlots s core).headD 0, false)
  let tid := core * 32 + slot
  let s := followTrain k tid s
  let u := { t with state := .starting, returning := true, gen := ((s.train tid).gen + 1) % 2 ^ 19, age := s.cycle,
                    lamport := (s.ctx t.ctx).trM, reserveSlot := res, esWaits := [] }
  let own (r : Nat) : Bool := t.rung == 6 && t.elems.any fun (_, e) => elemKey 6 e.elem == r
  let s := s.updLaunch lid fun l => { l with recs := l.recs.map fun (r, x) => (r, if own r then { x with aside := res } else x) }
  t.esWaits.foldl (fun s e => restoreWait tid e s) ({ s with trains := Tab.del s.trains k }.setTrain tid u)

/-- A RAY workgroup that returns to a core addresses the ray local region there. A region that no other train uses yet takes what
its own held when it was saved; where others use it, its old contents stay behind, as they do in the ring (R265, DESIGN
CHOICE, log 25). -/
def returnRegion (w core : Nat) (s : State) : State :=
  let g := s.wg w
  match g.region, (Tab.find (s.launch g.launch).rayReserve core).map (·.region) with
  | some a, some b =>
    let used := s.wgs.any fun (v, x) => v != w && x.region == some b && x.state.onCore
    let s := if used then s else s.updWg b fun x => { x with mem := (s.wg a).mem }
    s.updWg w fun g => { g with region := some b }
  | _, _ => s

/-- A saved workgroup is restored on a core (R398). -/
def restoreWg (w core : Nat) (s : State) : State :=
  let lid := (s.wg w).launch
  let s := enterCore lid core s
  let old := (s.wg w).core
  let s := returnRegion w core (takeReserve lid core s)
  let s := s.updWg w fun g =>
    { g with core := core, state := .placed, since := s.timer, saveSlot := 0, sigAt := none, drainEnd := none }
  let s := dropReserve lid old s
  let s := s.updLaunch lid fun l =>
    { l with recs := l.recs.map fun (k, r) => (k, if r.core == savedCore w then { r with core := core, aside := false } else r) }
  openAll ((savedTrains s w).foldl (fun s (k, t) => returnTrain core w k t s) s)

/-- The cores that a saved workgroup may return to. -/
def restoreCores (s : State) (w : Nat) : List Nat :=
  (allowedCores s (s.launch (s.wg w).launch).cmask).filter fun c => coreOpen s c && restoreFits s w c

/-- Some allowed live core could hold a saved workgroup, were it empty (R389). -/
def savedHolds (s : State) (w : Nat) : Bool :=
  let g := s.wg w
  let l := s.launch g.launch
  (List.range 224).any fun c => l.cmask.testBit (c / 4) && coreLive s c &&
    (if g.region.isSome then emptyHolds s l c [] 0 0
      else emptyHolds s l c ((savedTrains s w).map (·.2.granules)) g.localSize g.tileCount)

/-- The saved workgroups of a launch are given up with its packet. -/
def giveUpSaved (lid : Nat) (s : State) : State :=
  let mine (g : Workgroup) : Bool := g.state == .saved && g.launch == lid && !g.combiner
  let gone := s.wgs.filter fun (_, g) => mine g
  let s := { s with trains := s.trains.filter fun x => !(x.2.state == .saved && gone.any fun y => y.1 == x.2.wg),
                    wgs := s.wgs.filter fun (_, g) => !mine g }
  releaseRecs lid (gone.foldl (fun s (_, g) => dropReserve lid g.core s) s)

/-- A draw under way whose elements wait for a train that no allowed live core could hold, were it empty, fails its packet (R389). -/
def drawNoFit (s : State) : Option State :=
  (s.launches.find? fun (_, l) => l.graphics && launchRuns s l && !l.pend.isEmpty && totalRoom s l == 0).map fun (_, l) =>
    failPacket l.packet (.noFit, 0) s

/-- The placement of a compute or saved workgroup, if there is one; one that no allowed core could hold fails its packet (R389). -/
def placeWaiting (s : State) : Option State :=
    match (placingQueue s).bind (nextWaiting s) with
    | none => none
    | some (.saved w) =>
      let lid := (s.wg w).launch
      if savedHolds s w then (bestCore s (restoreCores s w)).map fun c => restoreWg w c s
      else some (giveUpSaved lid (failPacket (s.launch lid).packet (.noFit, 0) s))
    | some (.fresh lid o) =>
      let l := s.launch lid
      if totalRoom s l == 0 then some (failPacket l.packet (.noFit, 0) s)
      else
        let group := l.group o
        (placeGroup lid group s).map fun s => fixScope lid group s

/-- What the queue processor does in a cycle for what waits for a core (R389). -/
def placeNext (s : State) : Option State := if queuesRun s then (placeWaiting s).orElse fun _ => drawNoFit s else none

/-- WORKGROUP_PLACEMENT (R389). -/
def execWorkgroupPlacement (s : State) : Result := .next ((placeNext s).getD s)

end Sys2Proof.Machine
end

