-- ==== Sys2Proof/Machine/Preempt.lean ====
section
/-! DEFINITION. Pre-emption and kill (spec/21_package_queues_launch_preemption.md R396 to R400; spec/00 Table 0.4; spec/20
R374). -/

namespace Sys2Proof.Machine

/-! ### Requests -/

/-- The workgroup is the ray local region of a launch, and no workgroup of trains (R265). -/
def isRegion (s : State) (w : Nat) : Bool := s.launches.any fun (_, l) => l.rayReserve.any fun x => x.2.region == w

/-- The workgroups of trains that a queue has placed and that no signal is on its way to. -/
def signallable (s : State) (q : Nat) : List (Nat × Workgroup) :=
  s.wgs.filter fun (w, g) =>
    g.state == .placed && g.sigAt.isNone && !g.combiner && (s.launch g.launch).queue == q && !isRegion s w

/-- A requested pre-emption takes effect: the queue starts nothing, and the signal leaves for its workgroups (R397,
R398). -/
def applyPreempt (q : Nat) (s : State) : State :=
  let at_ := entryTick s.cycle
  let asked := (s.asked.filter fun x => x.2.1 == at_ && x.1 != q) ++ [(s.asked.find? fun x => x.1 == q && x.2.1 == at_).getD (q, at_, qState s q)]
  let s := { (if qState s q == 2 then s else qSet q 64 1 3 s) with
    asked := asked, barred := if s.barred.contains q then s.barred else s.barred ++ [q] }
  signalWgs ((signallable s q).map (·.1)) s

/-- A request to pre-empt a queue: one that arrives during a halt is held (R397, Table 0.4). A halt lasts, for a request, from the issue
of its HALTALL, 22 ticks before the cores stop (DESIGN CHOICE, log 103). -/
def requestPreempt (q : Nat) (s : State) : State :=
  if s.halt.phase != 0 then { s with preempting := if s.preempting.contains q then s.preempting else s.preempting ++ [q] }
  else applyPreempt q { s with resuming := s.resuming.filter fun x => x != q }

/-- The held requests of ESPRE apply to the workgroups that still run. -/
def heldSignals (s : State) : State :=
  let runs (w : Nat) : Bool := match Tab.find s.wgs w with
    | some g => g.state == .placed && !g.combiner
    | none => false
  signalWgs (s.espreHeld.filter runs) { s with espreHeld := [] }

/-- Requests that a halt has held apply after its release (Table 0.4). -/
def heldRequests (s : State) : State :=
  if s.halt.phase != 0 then s else heldSignals (s.preempting.foldl (fun s q => applyPreempt q s) { s with preempting := [] })

/-- A pre-emption of a workgroup of the queue is under way. -/
def preemptionRuns (s : State) (q : Nat) : Bool :=
  s.wgs.any fun (_, g) => (s.launch g.launch).queue == q && !g.combiner &&
    (g.sigAt.isSome || g.state == .draining || g.state == .holding || g.state == .discarding)

/-- A queue is pre-empted no more: it is ACTIVE, unless it is STOPPED (R397, R401). -/
def endPreemption (q : Nat) (s : State) : State :=
  let s := { s with barred := s.barred.filter fun x => x != q }
  if qState s q == 3 then qSet q 64 1 1 s else s

/-- RESUME: the queue is ACTIVE again once its drains and saves are complete (R397, R400). -/
def resumeQueue (q : Nat) (s : State) : State :=
  if s.preempting.contains q || ((qState s q == 3 || s.barred.contains q) && preemptionRuns s q) then
    { s with resuming := if s.resuming.contains q then s.resuming else s.resuming ++ [q] }
  else endPreemption q s

/-- RESUMEs whose queues have completed their drains and saves (R400). -/
def heldResumes (s : State) : State :=
  (s.resuming.filter fun q => !s.preempting.contains q && !preemptionRuns s q).foldl (fun s q =>
    endPreemption q { s with resuming := s.resuming.filter fun x => x != q }) s

/-- PREEMPT_QUEUE (R397). -/
def execPreemptQueue (q : Nat) (s : State) : Result := .next (if q < 32 then requestPreempt q s else s)

/-- RESUME_QUEUE (R397). -/
def execResumeQueue (q : Nat) (s : State) : Result := .next (if q < 32 then resumeQueue q s else s)

/-! ### Automatic pre-emption -/

/-- The timer since which a workgroup has waited for placement (R397). -/
def waitingSince (s : State) : Waiting → Nat
  | .saved w => (s.wg w).since
  | .fresh lid o =>
    let l := s.launch lid
    match l.rerun.find? fun x => x.1 == o with
    | some (_, t) => t
    | none => l.since

/-- The cores on which what waits may be placed. -/
def waitingCores (s : State) : Waiting → List Nat
  | .saved w => allowedCores s (s.launch (s.wg w).launch).cmask
  | .fresh lid _ => allowedCores s (s.launch lid).cmask

/-- What waits fits a core now. -/
def waitingFits (s : State) : Waiting → Bool
  | .saved w => !(restoreCores s w).isEmpty
  | .fresh lid o => (placeGroup lid ((s.launch lid).group o) s).isSome

/-- The workgroups of lower classes on cores. -/
def lowerWgs (s : State) (cls : Nat) (cores : List Nat) : List (Nat × Workgroup) :=
  s.wgs.filter fun (w, g) =>
    cores.contains g.core && g.state.onCore && !g.combiner && !isRegion s w
      && decide (qClass s (s.launch g.launch).queue < cls)

/-- A pre-emption of the workgroup is under way. -/
def Workgroup.leaving (g : Workgroup) : Bool :=
  g.sigAt.isSome || g.state == .draining || g.state == .holding || g.state == .discarding

/-- The cores on which a train of a draw's waiting elements may start. -/
def Launch.drawCores (l : Launch) (s : State) : List Nat :=
  (l.pend.filterMap (·.core) ++ (if l.pend.any fun p => p.core.isNone then allowedCores s l.cmask else [])).eraseDups

/-- A train of a draw fits a core now. -/
def Launch.drawFits (l : Launch) (s : State) (core : Nat) : Bool :=
  coreOpen s core && reserveFits s l core [(l.role 0).granules] (4096 * l.localUnits) l.tiles

/-- The time since which the elements of a draw wait for a train is noted (R397, DESIGN CHOICE, log 112). -/
def noteDraws (s : State) : State :=
  if !(s.launches.any fun x => x.2.graphics) then s
  else { s with launches := s.launches.map fun (lid, l) =>
    (lid, if !l.graphics then l
      else { l with waitSince := if l.pend.isEmpty || !queuePlaces s l.queue then none else some (l.waitSince.getD s.timer) }) }

/-- The workgroups of a queue that wait for placement: the saved ones, those to be re-run, and of each launch the next one that has never
been placed, since its later ones wait no longer and ask for no less. -/
def allWaiting (s : State) (q : Nat) : List Waiting :=
  (savedWgs s q).map (fun x => .saved x.1)
    ++ ((waitingLaunches s q).map fun (lid, l) =>
      l.rerun.map (fun x => Waiting.fresh lid x.1) ++ (if l.nextWg < l.wgCount then [.fresh lid l.nextWg] else [])).flatten

/-- The draws of a queue whose elements wait for a train. -/
def waitingDraws (s : State) (q : Nat) : List Launch :=
  (s.launches.map (·.2)).filter fun l => l.graphics && l.queue == q && l.waitSince.isSome

/-- What a queue waits to place: since when, the cores that it may take, and whether it fits one now. A draw whose elements wait for a
train waits to place its workgroup (R389, R397, DESIGN CHOICE, log 112). -/
def queueAsks (s : State) (q : Nat) : List (Nat × List Nat × Bool) :=
  (if queuePlaces s q then (allWaiting s q).map fun x => (waitingSince s x, waitingCores s x, waitingFits s x) else [])
    ++ (waitingDraws s q).map fun l => (l.waitSince.getD 0, l.drawCores s, (l.drawCores s).any fun c => l.drawFits s c)

/-- The workgroup that is taken for one that has waited PWAIT cycles and fits nowhere: the youngest placed one of the lowest class, unless
one is on its way out already (R397). -/
def victimFor (s : State) (q : Nat) (ask : Nat × List Nat × Bool) : Option Nat :=
  let (since, cores, fit) := ask
  let pwait := qGet s q 36 4
  let low := lowerWgs s (qClass s q) cores
  if pwait == 0 || decide (s.timer < since + pwait) || fit || low.any fun y => y.2.leaving then none
  else
    let cls (g : Workgroup) : Nat := qClass s (s.launch g.launch).queue
    let least := low.foldl (fun m y => min m (cls y.2)) 4
    ((leastBy (fun (y : Nat × Workgroup) => 2 ^ 80 - (y.2.since * 2 ^ 12 + y.1 % 2 ^ 12)) (low.filter fun y => cls y.2 == least)).map (·.1))

/-- The workgroup that an automatic pre-emption for a queue takes (R397). -/
def autoVictim (s : State) (q : Nat) : Option Nat := (queueAsks s q).findSome? (victimFor s q)

/-- AUTOMATIC_PREEMPTION (R397). -/
def execAutomaticPreemption (q : Nat) (s : State) : Result :=
  .next (match (if s.halt.phase == 0 && q < 32 then autoVictim s q else none) with
    | some w => signalWgs [w] s
    | none => s)

/-! ### The states of Table 21.10 -/

/-- A member of the workgroup is in a bound set (R318). -/
def inBoundSet (s : State) (g : Workgroup) : Bool :=
  (s.launch g.launch).boundSets.any fun ms => ms.any fun m => m.1 == g.ordinal

/-- The slots of a queue's save area that are in use. -/
def usedSaves (s : State) (q : Nat) : List Nat :=
  s.wgs.filterMap fun (_, g) =>
    if (s.launch g.launch).queue == q && !g.combiner && (g.state == .saved || g.state == .holding || (g.state == .draining && g.drainEnd.isSome)) then
      some g.saveSlot
    else none

/-- The signal reaches a workgroup: it is discarded, or drains within its queue's budget, or, with no save slot free, without
one (R398). -/
def signalArrives (w : Nat) (s : State) : State :=
  let g := s.wg w
  let q := (s.launch g.launch).queue
  if (s.launch g.launch).idemp && !inBoundSet s g then skipDest w (s.updWg w fun g => { g with sigAt := none, state := .discarding })
  else
    let used := usedSaves s q
    match (List.range 64).find? fun k => !used.contains k with
    | some k => s.updWg w fun g =>
        { g with sigAt := none, state := .draining, saveSlot := k, drainEnd := some (s.timer + qGet s q 32 4) }
    | none => s.updWg w fun g => { g with sigAt := none, state := .draining, drainEnd := none }

/-- The pre-emption signal of a workgroup has arrived. -/
def signalDue (s : State) (w : Nat) : Bool :=
  match Tab.find s.wgs w with
  | some g => g.state == .placed && (match g.sigAt with
      | some t => decide (t ≤ s.tick)
      | none => false)
  | none => false

/-- PREEMPTION_SIGNAL_ARRIVAL (R398). -/
def execPreemptionSignalArrival (w : Nat) (s : State) : Result := .next (if signalDue s w then signalArrives w s else s)

/-- The drain budget of a workgroup is at its end. -/
def drainOver (s : State) (w : Nat) : Bool :=
  match Tab.find s.wgs w with
  | some g => g.state == .draining && (match g.drainEnd with
      | some t => decide (t ≤ s.timer)
      | none => false)
  | none => false

/-- DRAIN_BUDGET_EXPIRY (R398). -/
def execDrainBudgetExpiry (w : Nat) (s : State) : Result :=
  .next (if drainOver s w then skipDest w (s.updWg w fun g => { g with state := .holding }) else s)

/-- The trains of a workgroup in their slots, by train ordinal. -/
def wgTrains (s : State) (w : Nat) : List (Nat × Train) :=
  sortBy (fun x => x.2.ordinal) (s.trains.filter fun (_, t) => t.wg == w && t.state != .free && t.state != .saved)

/-- Elements of a train, by the key of their records. -/
def trainKeys (t : Train) : List Nat := t.elems.map fun x => elemKey t.rung x.2.elem

/-- A record belongs to an element of a workgroup (Table 0.4). -/
def ownRecord (s : State) (w key : Nat) : Bool :=
  let g := s.wg w
  let l := s.launch g.launch
  let x := key % 2 ^ 32
  if l.graphics || g.region.isSome || g.ordinal == 0xFFFFFFFF then (wgTrains s w).any fun (_, t) => (trainKeys t).contains key
  else
    match key / 2 ^ 32 with
    | 1 => x == g.ordinal
    | 2 => decide ((l.wgTiles g.ordinal).1 ≤ x) && decide (x < (l.wgTiles g.ordinal).1 + (l.wgTiles g.ordinal).2)
    | 5 => decide (96 * l.trainsPerWg * g.ordinal ≤ x) && decide (x < 96 * l.trainsPerWg * (g.ordinal + 1))
    | _ => false

/-- The workgroup that holds the local memory of another: the ray local region of its core for that of a RAY train (R265). -/
def localOf (s : State) (g : Workgroup) : Workgroup := (g.region.map s.wg).getD g

/-- The words of a save record (R398): the sections of its trains, its memory and its barriers, then its tiles. -/
def saveWords (s : State) (w : Nat) : List Nat :=
  let ts := wgTrains s w
  let g := s.wg w
  let name := match ts with
    | (tid, _) :: _ => wgName s tid
    | [] => 0
  (ts.map fun (tid, _) => section_ 1 (s.joined tid 0).toNat (imageWords s tid)).flatten
    ++ section_ 2 name (byteWords (localOf s g).mem (localOf s g).localSize) ++ section_ 3 name (barrierWords s w)
    ++ byteWords g.acc (12288 * g.tileCount)

/-- Writes the words of a save record upward: a place that may not be written is passed over, and the first such is
answered. -/
def saveStores (g : Agent) :
    List Nat → Nat → Option ((Kind × Word) × Nat) → State → Option ((Kind × Word) × Nat) × State
  | [], _, bad, s => (bad, s)
  | q :: qs, va, bad, s =>
    match checkStore s (checkGlobal s g .write false va 16) with
    | .error e => saveStores g qs (va + 16) (bad.orElse fun _ => some (e, va)) s
    | .ok l => saveStores g qs (va + 16) bad (agentStore g s.qpTs l 16 q s).2

/-- The free words that stand for the fixative records of a save record, whose layout is open. -/
def openWords : Nat → State → List Nat × State
  | 0, s => ([], s)
  | n + 1, s =>
    let (v, s) := s.freeValue
    let (r, s) := openWords n s
    (v.toNat % 2 ^ 32 :: r, s)

/-- The records of a workgroup leave its core with it (Table 0.4). -/
def moveRecords (w : Nat) (s : State) : State :=
  let lid := (s.wg w).launch
  let core := (s.wg w).core
  s.updLaunch lid fun l =>
    { l with recs := l.recs.map fun (k, r) =>
        (k, if r.core == core && ownRecord s w k then { r with core := savedCore w } else r) }

/-- The workgroup's trains withdraw their offers before they are saved. -/
def withdrawAll (w : Nat) (s : State) : State := (wgTrains s w).foldl (fun s x => withdrawOffers x.1 s) s

/-- Every train of a workgroup in HOLDING may be saved (R398), once it has left STARTING (Table 3.5). -/
def wgReady (s : State) (w : Nat) : Bool := (s.wg w).state == .holding && (wgTrains s w).all fun (tid, _) => saveReady s tid

/-- THE SAVE OF A WORKGROUP (R398): its record is written to the save area, and its slots and allotments are freed. -/
def saveWg (w : Nat) (s : State) : State :=
  let s := (wgTrains s w).foldl (fun s x => s.updTrain x.1 Train.rewindGrow) s
  let g := s.wg w
  let l := s.launch g.launch
  let ctx := l.ctx
  let own := (l.recs.filter fun (k, _) => ownRecord s w k).foldl (fun n (k, _) => n + l.recBytes (k / 2 ^ 32)) 0
  let (fixs, s) := openWords ((own + 15) / 16 * 4) s
  let base := qGet s l.queue 40 8 + 2 ^ 22 * g.saveSlot
  let (bad, s) := saveStores (queueAgent s ctx) (quads (saveWords s w ++ fixs)) base none s
  let s := match bad with
    | some ((k, info), va) => s.raiseEvent ctx (engineEvent s 1 (queueName s l.queue) 0 (engineRec k.code va 16 info))
    | none => s
  let s := moveRecords w s
  let s := (wgTrains s w).foldl (fun s x => takeOut false x.1 s) s
  let s := leaveEngines w (s.updWg w fun g => { g with state := .saved, since := s.timer, drainEnd := none })
  releaseRecs g.launch (openAll (dropReserve g.launch g.core s))

/-- WORKGROUP_SAVED (R398). -/
def execWorkgroupSaved (w : Nat) (s : State) : Result :=
  if (s.wg w).state != .holding then .next s
  else
    let s := withdrawAll w s
    .next (if wgReady s w then saveWg w s else s)

/-- Nothing of a train is outstanding (Table 14.6, Table 21.10). -/
def quietTrain (s : State) (tid : Nat) : Bool :=
  let t := s.train tid
  (List.range 4).all (betweenRuns s tid) && t.gather == 0 && t.scatter == 0 && t.copies == 0 && t.tile == 0
    && t.busy.isEmpty && t.heldArr.isEmpty && t.restOp.isNone && !unsettled s tid && !exchanging s tid
    && !fabricPending s tid && !matsPending s tid

/-- Nothing that trains of a workgroup have issued is outstanding, those included that have ended (R398, Table 21.10). -/
def wgQuiet (s : State) (w : Nat) : Bool :=
  !(s.copyOps.any fun x => x.2.kind != 5 && x.2.wg == w) && !(s.mdecs.any fun x => x.2.wg == w) && !(s.mats.any fun x => x.2.wg == w)
    && !(s.traces.any fun x => x.2.who.wg == w) && !(s.syscalls.any fun x => x.2.fabric && x.2.who.wg == w)
    && !(s.accOps.any fun x => x.2.who.wg == w && x.2.waiting != 0) && !(s.atoms.any fun x => x.2.wg == w)
    && !(s.blends.any fun x => x.2.who.wg == w)

/-- The discard of a workgroup may be done: what its trains have issued has ended, and each has left STARTING (Table 3.5). -/
def discardReady (s : State) (w : Nat) : Bool :=
  (s.wg w).state == .discarding && wgQuiet s w
    && (wgTrains s w).all fun (tid, t) => t.state != .starting && quietTrain s tid

/-- What the elements of a discarded graphics train have done in their launch is undone. -/
def Launch.undo (l : Launch) (t : Train) : Launch :=
  let es := t.elems.map (·.2)
  let ids := es.map (·.elem)
  match t.rung with
  | 2 => { l with emitted := l.emitted.filter fun x => !ids.contains x.1,
                  parents := l.parents.filter fun (k, c) => !(k / 2 ^ 32 == 3 && ids.contains c) }
  | 4 => { l with killed := l.killed.filter fun x => !ids.contains x,
                  coarse := ids.foldl (fun c x => Tab.upd c x fun i => { i with ended := false }) l.coarse }
  | 5 => { l with coarse := (t.elems.filter fun x => !t.live.getLsbD x.1).foldl (fun c (_, e) =>
                    Tab.upd c e.parent fun i => { i with left := i.left + 1 }) l.coarse }
  | _ => l

/-- The elements of a discarded graphics train wait for a train again. -/
def Launch.requeue (l : Launch) (t : Train) (core : Nat) : Launch :=
  let es : List PendElem := t.elems.map fun (_, e) => { rung := t.rung, core := if t.rung < 3 then none else some core, elem := e }
  { l with pend := sortBy (fun p => p.elem.elem) (l.pend ++ es) }

/-- The rays of a discarded RAY train wait for a train again, with the records that they started with (R267). -/
def requeueRays (t : Train) (s : State) : State :=
  let ids := (lanesOf t.live).filterMap fun k => (Tab.find t.elems k).map (·.parent)
  { s with rays := ids.foldl (fun rs id => Tab.upd rs id fun r =>
      { r with started := false, hit := missRecord 0 (r.words.getD 8 0) }) s.rays }

/-- THE DISCARD OF A WORKGROUP (R398): its fixative references go without a spill, and it waits to be run again. -/
def discardWg (w : Nat) (s : State) : State :=
  let g := s.wg w
  let lid := g.launch
  let ts := wgTrains s w
  let own := (s.launch lid).recs.filter fun (k, _) => ownRecord s w k
  let s := ts.foldl (fun s (tid, _) => withdrawOffers tid s) s
  let s := ts.foldl (fun s (_, t) =>
    if t.rung == 6 then requeueRays t s
    else if (s.launch lid).graphics then s.updLaunch lid fun l => (l.undo t).requeue t g.core
    else s) s
  let s := s.updLaunch lid fun l => { l with recs := l.recs.filter fun (k, _) => !(own.any fun x => x.1 == k) }
  let s := if (s.launch lid).graphics || g.region.isSome || g.ordinal == 0xFFFFFFFF then s
    else s.updLaunch lid fun l => { l with rerun := l.rerun ++ [(g.ordinal, s.timer)] }
  let s := ts.foldl (fun s (tid, _) => (dropSysOps tid s).updTrain tid fun t =>
    { t with state := .ending, discarded := true, fxrel := true, splits := [{}, {}, {}, {}], stack := [] }) s
  let s := if ts.isEmpty then { s with wgs := Tab.del s.wgs w } else s.updWg w fun g => { g with state := .waiting }
  releaseRecs lid (openAll (dropReserve lid g.core s))

/-- The trains of discarded workgroups leave ENDING for FREE (Table 3.5), and such a workgroup with its last one. -/
def freeDiscarded (s : State) : State :=
  let ts := s.trains.filter fun (_, t) => t.discarded && t.state == .ending
  if ts.isEmpty then s
  else
    let s := ts.foldl (fun s (tid, _) => freeSlot tid s) s
    { s with wgs := s.wgs.filter fun (w, g) => !(g.state == .waiting && wgEmpty s w) }

/-- DISCARD_DONE (R398). -/
def execDiscardDone (w : Nat) (s : State) : Result := .next (if discardReady s w then discardWg w s else s)

/-! ### Kill -/

/-- A list without what belongs to a context. -/
def dropCtx {α : Type} (of_ : α → Nat) (c : Nat) (t : Tab α) : Tab α := t.filter fun x => of_ x.2 != c

/-- The queues of a context stop; one with a packet under way reports KILLED of its oldest (R399, Table 21.9). -/
def stopQueues (c : Nat) (s : State) : State :=
  ((List.range 32).filter fun q => qCtx s q == c).foldl (fun s q =>
    let s := qSet q 56 8 0 (qSet q 48 8 0 s)
    let s := match queuePackets s q with
      | (_, p) :: _ => stopQueue q (.killed, 0) (if p.record.isSome then 0xFFFFFFFF else p.index) (p.record.getD 0) s
      | [] => qSet q 64 1 2 s
    { s with packets := s.packets.filter fun x => x.2.queue != q, foreign := s.foreign.filter fun x => x.1 != q,
             preempting := s.preempting.filter fun x => x != q, asked := s.asked.filter fun x => x.1 != q,
             barred := s.barred.filter fun x => x != q, resuming := s.resuming.filter fun x => x != q }) s

/-- Packets of a context whose work is done complete before a kill of the context (R400). -/
def retireFirst (c : Nat) (s : State) : State :=
  (s.packets.filter fun (id, p) => p.ctx == c && packetDone s id p).foldl (fun s (id, _) =>
    match execPacketCompletion id s with
    | .next s' => s'
    | _ => s) s

/-- Launches of a context. -/
def launchesOf (s : State) (c : Nat) : List Nat := (s.launches.filter fun x => x.2.ctx == c).map (·.1)

/-- The engines of a context stop writing, and what its trains have under way outside them is given up (R399, R222, R254,
Table 14.6). -/
def stopEngines (c : Nat) (s : State) : State :=
  let ls := launchesOf s c
  let s := (s.mats.filter fun x => x.2.ctx == c).foldl (fun s x => unpinLines x.2 s) s
  { s with
    copyOps := dropCtx (·.ctx) c s.copyOps,
    mdecs := dropCtx (·.ctx) c s.mdecs,
    mats := dropCtx (·.ctx) c s.mats,
    blends := dropCtx (·.ctx) c s.blends,
    accGroups := dropCtx (·.ctx) c s.accGroups,
    accQueues := s.accQueues.map fun (k, bs) => (k, bs.filter fun b => b.ctx != c),
    accOut := dropCtx (·.ctx) c s.accOut,
    accOps := dropCtx (·.ctx) c s.accOps,
    shuffles := s.shuffles.filter fun x => !ls.contains x.2.launch,
    rays := s.rays.filter fun x => !ls.contains x.2.launch,
    traces := s.traces.filter fun x => (s.train x.2.who.tid).ctx != c,
    syscalls := dropCtx (·.ctx) c s.syscalls,
    walks := dropCtx (·.ctx) c s.walks }

/-- The saved workgroups and trains of a context are given up: the save is abandoned (R400, R417). -/
def dropSaved (c : Nat) (s : State) : State :=
  let gone := s.wgs.filter fun (_, g) => g.state == .saved && (s.launch g.launch).ctx == c
  let s := { s with trains := s.trains.filter fun x => !(x.2.state == .saved && x.2.ctx == c),
                    wgs := s.wgs.filter fun (_, g) => !(g.state == .saved && (s.launch g.launch).ctx == c) }
  gone.foldl (fun s (_, g) => dropReserve g.launch g.core s) s

/-- THE KILL OF A CONTEXT (R399). -/
def killContext (c : Nat) (s : State) : State :=
  let s := stopQueues c (retireFirst c s)
  let ls := launchesOf s c
  let s := ls.foldl (fun s lid => (abandonLaunch lid s).updLaunch lid fun l => { l with dead := true }) s
  let s := (s.trains.filter fun (_, t) => t.ctx == c && t.state != .free && t.state != .saved).foldl (fun s x => requestKill x.1 s) s
  let s := dropSaved c (stopEngines c s)
  let s := ls.foldl (fun s lid => releaseBindings lid s) (releasePins c s)
  { s with killing := some c, killDone := false, killed := if s.killed.contains c then s.killed else s.killed ++ [c] }

/-- KILL_CONTEXT (R396, R399). -/
def execKillContext (c : Nat) (s : State) : Result := .next (killContext c s)

/-- Every write of the killed context has stopped (R399, R453). -/
def killOver (s : State) (c : Nat) : Bool :=
  !(s.trains.any fun (_, t) => t.ctx == c && t.state != .free) && !(s.copyOps.any fun x => x.2.ctx == c)
    && !(s.mdecs.any fun x => x.2.ctx == c) && !(s.mats.any fun x => x.2.ctx == c) && !(s.blends.any fun x => x.2.ctx == c)
    && !(s.syscalls.any fun x => x.2.ctx == c) && !(s.atoms.any fun x => x.2.ctx == c)

/-- What trains of killed contexts issue on the way to the end of their runs is given up as it comes (R190, R399), and a context whose
writes have all stopped is done with. -/
def killedStep (s : State) : State :=
  let s := s.killed.foldl (fun s c => stopEngines c s) s
  { s with killed := s.killed.filter fun c => !killOver s c }

/-- KILL_DONE (R399). -/
def execKillDone (s : State) : Result :=
  .next (match s.killing with
    | some c => if killOver s c then { s with killing := none, killDone := true } else s
    | none => s)

/-! ### Events without a handler -/

/-- No train is the handler of a context (R407). -/
def unhandled (s : State) (x : Ctx) : Bool := ((x.handlerCtx.bind (handlerOf s)).isNone)

/-- The resident kernel saves a train through the system cores, if nothing of it is outstanding (R407, R416): a place that may not be
written is passed over. -/
def systemSave (tid va : Nat) (s : State) : State :=
  if !saveReady s tid then s
  else
    let s := withdrawOffers tid (s.updTrain tid Train.rewindGrow)
    let w := (s.train tid).wg
    let lid := (s.train tid).launch
    let s := (saveStores { trainAgent s tid with core := noCore, combiner := false } (quads (imageWords s tid)) va none s).2
    releaseRecs lid (openAll (leaveCore w (takeOut true tid s)))

/-- The resident kernel serves the oldest event of a context that has no handler train, through the system cores (R407). What its software
does is open: a free value leaves the event in its queue, or takes it and leaves, resumes, kills or saves its train (DESIGN
CHOICE, log 111). -/
def systemServe (c : Nat) (s : State) : State :=
  match (s.ctx c).events, unhandled s (s.ctx c) with
  | e :: _, true =>
    let (v, s) := s.freeValue
    let taken := { popEvent c s with sysEvents := s.sysEvents ++ [e] }
    match v.toNat % 8, handleTarget s c e.handle with
    | 0, _ => s
    | 1, some tid => taken.updTrain tid Train.resume
    | 2, some tid => requestKill tid taken
    | 3, some tid => systemSave tid (v.toNat / 4096 % 2 ^ 45 * 4096) taken
    | _, _ => taken
  | _, _ => s

/-! ### The end of a context -/

/-- CONTEXT_END (R213, R390): the context's pins are released and its combiner trains end; its entry is read again when it
begins again (R445). -/
def execContextEnd (c : Nat) (s : State) : Result :=
  let s := (s.trains.filter fun (_, t) => t.combiner && t.ctx == c && t.state != .free && t.state != .saved).foldl (fun s x => requestKill x.1 s) s
  let s := { s with trains := s.trains.filter fun (_, t) => !(t.combiner && t.ctx == c && t.state == .saved),
                    wgs := s.wgs.filter fun (_, g) => !(g.combiner && g.state == .saved && (s.launch g.launch).ctx == c) }
  .next ((releasePins c s).updCtx c fun x => { x with begun := false })

end Sys2Proof.Machine
end

