-- ==== Sys2Proof/Machine/Combiner.lean ====
section
/-! DEFINITION. The start, the passing and the restore of combiner trains (spec/21_package_queues_launch_preemption.md R390;
spec/19_program_shortest_path.md R361). -/

namespace Sys2Proof.Machine

/-- The combiner train of a context and a cluster that has been saved. -/
def savedCombiner (s : State) (ctx k : Nat) : Option (Nat × Train) :=
  s.trains.find? fun (_, t) => t.combiner && t.state == .saved && t.ctx == ctx && (s.wg t.wg).ordinal == k

/-- The context of the oldest open batch of a cluster. -/
def oldestCtx (s : State) (k : Nat) : Option Nat := ((s.accQueue k).head?).map (·.ctx)

/-- The scalar registers of a starting combiner train (R361). -/
def combinerSregs (area k : Nat) : Tab Word := startSregs area 0 k 0

/-- A new combiner train, STARTING (R361). -/
def newCombiner (s : State) (tid lid wid k : Nat) : Train :=
  let l := s.launch lid
  let elems : Tab LaneElem := (List.range numLanes).map fun i => (i, { elem := i })
  let t := startTrain s tid lid wid 0 0 5 (l.role 0).granules l.combine 0 k elems
  { t with combiner := true, sregs := combinerSregs (s.ctx l.ctx).combSave k, gens := seedGens 0 0 }

/-- Granules that the next combiner train of a context needs. -/
def combinerNeeds (s : State) (ctx k : Nat) : Option Nat :=
  match savedCombiner s ctx k, combinerLaunch s ctx with
  | some (_, t), _ => some t.granules
  | none, some lid => some ((s.launch lid).role 0).granules
  | none, none => none

/-- A combiner train that was saved returns to the slot, STARTING (R67, R390). -/
def returnCombiner (tid key : Nat) (t : Train) (s : State) : State :=
  let s := followTrain key tid s
  let u := { t with state := .starting, returning := true, gen := ((s.train tid).gen + 1) % 2 ^ 19, age := s.cycle,
                    lamport := (s.ctx t.ctx).trM, waitsPass := false, esWaits := [] }
  let s := s.updWg t.wg fun g => { g with core := tid / 32, state := .placed }
  openTrain tid ({ s with trains := Tab.del s.trains key }.setTrain tid u)

/-- Starts or restores the combiner train of a context in the slot (R361, R390). -/
def startCombiner (ctx k core : Nat) (s : State) : State :=
  let tid := core * 32 + 31
  match savedCombiner s ctx k, combinerLaunch s ctx with
  | some (key, t), _ => returnCombiner tid key t (enterCore t.launch core s)
  | none, some lid =>
    let s := enterCore lid core s
    let (wid, s) := s.fresh
    let s := { s with wgs := Tab.put s.wgs wid { core := core, launch := lid, ordinal := k, combiner := true } }
    openTrain tid (putTrain tid (newCombiner s tid lid wid k) s)
  | none, none => s

/-- The combiner slot of a cluster is free, and an open batch waits there: the core and the context. -/
def combinerDue (s : State) (k : Nat) : Option (Nat × Nat) :=
  match combinerCore s k, oldestCtx s k with
  | some c, some x => if (s.train (c * 32 + 31)).state == .free && (combinerNeeds s x k).isSome then some (c, x) else none
  | _, _ => none

/-- A combiner core waits for granules no longer than a start is due there (R183). -/
def combWaits (s : State) : State :=
  if s.combWait.isEmpty then s
  else { s with combWait := s.combWait.filter fun c => ((combinerDue s (c / 4)).map (·.1)) == some c }

/-- COMBINER_START: a start that finds too few free granules waits for them (R181, R390). -/
def execCombinerStart (k : Nat) (s : State) : Result :=
  match combinerDue s k with
  | none => .next s
  | some (c, x) =>
    if (combinerNeeds s x k).getD 0 ≤ granulesFree s c then
      .next (startCombiner x k c { s with combWait := s.combWait.erase c })
    else .next { s with combWait := if s.combWait.contains c then s.combWait else s.combWait ++ [c] }

/-- The slot of a cluster may pass to another context (R390): the combiner train. -/
def passDue (s : State) (k : Nat) : Option Nat :=
  match combinerTid s k with
  | none => none
  | some tid =>
    let t := s.train tid
    let q := s.accQueue k
    if t.arecv.isSome && (outBatch s tid).isNone && saveReady s tid && !(q.any fun b => b.ctx == t.ctx) && !q.isEmpty then some tid
    else none

/-- Saves the combiner train of a slot to its context's combiner save area (R390); a place that may not be written is passed
over. -/
def passSlot (k tid : Nat) (s : State) : State :=
  let t := s.train tid
  let va := (s.ctx t.ctx).combSave + 2 ^ 17 * k
  let j := s.joined tid 0
  let (bad, s) := saveStores { trainAgent s tid with combiner := false } (quads (imageWords s tid)) va none s
  let s := match bad with
    | some ((f, info), a) => s.raiseEvent t.ctx (engineEvent s 1 j 0 (engineRec f.code a 16 info))
    | none => s
  (takeOut false tid s).updWg t.wg fun g => { g with state := .saved }

/-- COMBINER_SLOT_PASS (R390). -/
def execCombinerSlotPass (k : Nat) (s : State) : Result :=
  .next (match passDue s k with
    | some tid => passSlot k tid s
    | none => s)

end Sys2Proof.Machine
end

