-- ==== Sys2Proof/Machine/Digest.lean ====
section
/-! DEFINITION. The digest by which a measurement register is extended, SHA-256, and the signature of a quote, RSASSA-PKCS1-v1_5
(spec/26_fabric_host_bringup.md R449, R451). An extension digests 512 bits: the register and then the digest. The specification names
the functions; what they compute is taken from the published standards (PRESUMED, log 28), whose constants
are computed here from what the standard says of them. -/

namespace Sys2Proof.Machine

/-- The greatest number of at most `bits` bits whose `e`-th power is at most `x`: its bits are settled from the top. -/
def root (e x : Nat) : (bits : Nat) → (known : Nat) → Nat
  | 0, r => r
  | b + 1, r => root e x b (if (r + 2 ^ b) ^ e ≤ x then r + 2 ^ b else r)

/-- The first 32 bits after the binary point of the `e`-th root of a number below 512. -/
def rootFraction (e p : Nat) : BitVec 32 := BitVec.ofNat 32 (root e (p * 2 ^ (32 * e)) 42 0)

/-- The first 64 prime numbers. -/
def digestPrimes : List Nat :=
  (List.range 312).filter fun p => decide (2 ≤ p) && (List.range 16).all fun d => decide (p ≤ d + 2) || p % (d + 2) != 0

/-- The exclusive or of a word turned right by three counts; `last` says how the third copy is moved. -/
def mix (x : BitVec 32) (i j : Nat) (last : BitVec 32) : BitVec 32 := x.rotateRight i ^^^ x.rotateRight j ^^^ last

/-- The memory of the digest's recurrence. Of the eight working words, four are the latest of one sequence (`upper`) and four the
latest of another (`lower`), the newest first; `due` holds the next 16 message words. -/
structure DigestState where
  upper : List (BitVec 32)
  lower : List (BitVec 32)
  due : List (BitVec 32) := []

/-- The working words before the first block: the fractions of the square roots of the first eight primes. -/
def digestInit : DigestState :=
  { upper := (digestPrimes.take 4).map (rootFraction 2), lower := ((digestPrimes.drop 4).take 4).map (rootFraction 2) }

/-- The message word that takes the place of the one consumed. -/
def freshWord (due : List (BitVec 32)) : BitVec 32 :=
  let near := due.getD 14 0
  let far := due.getD 1 0
  mix near 17 19 (near >>> 10) + due.getD 9 0 + mix far 7 18 (far >>> 3) + due.headD 0

/-- A term of the recurrence: each sequence gains its next word. -/
def digestTerm (d : DigestState) (p : Nat) : DigestState :=
  let u := fun k => d.upper.getD k 0
  let l := fun k => d.lower.getD k 0
  let picked := (l 0 &&& l 1) ||| (~~~(l 0) &&& l 2)
  let voted := (u 0 &&& (u 1 ||| u 2)) ||| (u 1 &&& u 2)
  let common := rootFraction 3 p + d.due.headD 0 + l 3 + picked + mix (l 0) 6 11 ((l 0).rotateRight 25)
  { upper := (common + voted + mix (u 0) 2 13 ((u 0).rotateRight 22)) :: d.upper.take 3, lower := (common + u 3) :: d.lower.take 3,
    due := d.due.drop 1 ++ [freshWord d.due] }

/-- The state after a block of 512 bits: one term for each prime, added to what stood before. -/
def digestBlock (d : DigestState) (block : BitVec 512) : DigestState :=
  let due := (List.range 16).map fun k => block.extractLsb' (32 * (15 - k)) 32
  let r := digestPrimes.foldl digestTerm { d with due := due }
  { upper := List.zipWith (· + ·) d.upper r.upper, lower := List.zipWith (· + ·) d.lower r.lower }

/-- The words of a digest, the first the most significant. -/
def DigestState.value (d : DigestState) : BitVec 256 :=
  BitVec.ofNat 256 ((d.upper ++ d.lower).foldl (fun n x => n * 2 ^ 32 + x.toNat) 0)

/-- The extension of a measurement register by a digest: the 512 bits of both, and the block that closes a message of that length (one
set bit, then its length) (R449). -/
def extendMr (mr d : BitVec 256) : BitVec 256 :=
  (digestBlock (digestBlock digestInit (mr ++ d)) (BitVec.ofNat 512 (2 ^ 511 + 512))).value

/-- The number that bytes spell, the most significant first. -/
def beNat (bs : List Byte) : Nat := bs.foldl (fun n b => n * 256 + b.toNat) 0

/-- A message as its digest takes it: a set bit, zeros up to a whole block, and the length in bits. -/
def digestPadded (bs : List Byte) : List Byte :=
  bs ++ [0x80#8] ++ List.replicate ((119 - bs.length % 64) % 64) 0#8
    ++ (List.range 8).map fun k => BitVec.ofNat 8 (8 * bs.length / 256 ^ (7 - k))

/-- The digest of bytes (R451). -/
def digestBytes (bs : List Byte) : BitVec 256 :=
  let m := digestPadded bs
  ((List.range (m.length / 64)).foldl (fun d k => digestBlock d (BitVec.ofNat 512 (beNat ((m.drop (64 * k)).take 64))))
    digestInit).value

/-- A power modulo a number, from the bits of the exponent below `k`, the highest first. -/
def powMod (n x d : Nat) : (k : Nat) → (known : Nat) → Nat
  | 0, r => r
  | k + 1, r =>
    let q := r * r % n
    powMod n x d k (if d.testBit k then q * x % n else q)

/-- What RSASSA-PKCS1-v1_5 signs of bytes: 384 bytes that end with the name of the digest and the digest (R451). -/
def signedForm (bs : List Byte) : Nat :=
  let name : Nat := 0x3031300D060960864801650304020105000420
  (2 ^ (8 * 331) - 1 - 255) * 2 ^ (8 * 51) + 2 ^ (8 * 382) + name * 2 ^ 256 + (digestBytes bs).toNat

/-- The RSA-3072 signature of bytes under a modulus and a private exponent, the most significant byte first (R451). -/
def signature (n d : Nat) (bs : List Byte) : List Byte :=
  let x := powMod n (signedForm bs) d 3072 1
  (List.range 384).map fun k => BitVec.ofNat 8 (x / 256 ^ (383 - k))

end Sys2Proof.Machine
end

