-- ==== Sys2Proof/Machine/Profile.lean ====
section
/-! DEFINITION. The profiling counters (spec/08_core_scheduling.md R193 to R195, Tables 8.3 to 8.5). -/

namespace Sys2Proof.Machine

/-- The stall reason of a split that offers no eligible run: the first row of Table 8.3 that applies (R194). -/
def reasonOf (s : State) (tid sid : Nat) : Nat :=
  let t := s.train tid
  let sp := t.split sid
  if sp.state == .parked then 0
  else
    match (if sp.state == .joinwait then none else runExtent s t sp) with
    | none => if sp.state == .joinwait then 2 else 9
    | some ext =>
      match cachedRun s tid ext with
      | none => 1
      | some ws =>
        let is := decodeRun ws
        let hold := match sp.hold with
          | .regroup _ _ _ _ => [2]
          | .grow _ _ _ => [4]
          | .escape => [6]
          | .trim _ | .handler => []
          | _ => if holdOver t sp then [] else [3]
        let ops := (sp.sysOps.filterMap (Tab.find s.sysOps)).map fun o => match o with
          | .halt _ => 6
          | _ => 9
        let fix := if fixReady s (tid / 32) t (runReads is []) then [] else [5]
        (hold ++ ops ++ fix ++ (((t.runWaits is []).filterMap t.regReason).head?).toList).foldl min 9

/-- Adds one to a counter that wraps at 2^64 (R193). -/
def countUp (t : Tab Nat) (k : Nat) : Tab Nat := Tab.put t k ((Tab.get 0 t k + 1) % 2 ^ 64)

/-- The counts of one scheduler in one cycle (R193). A free scheduler that rests while a run is eligible (R452) is charged no reason
(DESIGN CHOICE, log 130). -/
def profSched (s : State) (core k : Nat) (sc : Sched) : Sched :=
  let b := (offering s core k).length
  let sc := { sc with bins := countUp sc.bins b }
  match sc.run with
  | some r =>
    match r.stall with
    | some x => { sc with reasons := countUp sc.reasons x }
    | none => sc
  | none =>
    if b != 0 then sc
    else
      let ts := (s.trains.filter fun x => x.1 / 32 == core && x.2.state != .free && x.2.state != .ending).filterMap fun x =>
        ((List.range 4).find? fun n => (x.1 % 32 + n) % 4 == k && (x.2.split n).valid).map fun n => (x.1, n, x.2.age)
      match leastBy (fun (q : Nat × Nat × Nat) => q.2.2 * 32 + q.1 % 32) ts with
      | some (tid, n, _) => { sc with reasons := countUp sc.reasons (reasonOf s tid n) }
      | none => sc

/-- The counts of a cycle in every core whose PROFCTL.EN is 1 (R193). -/
def profCycle (s : State) : State :=
  if s.cores.any fun c => c.2.profEn then
    { s with cores := s.cores.map fun (n, c) =>
        if c.profEn then
          (n, { c with scheds := (List.range 4).foldl (fun t k => Tab.put t k (profSched s n k (c.sched k))) c.scheds })
        else (n, c) }
  else s

/-- Zeroes every counter of a core (Table 8.5, CLR). -/
def profClear (core : Nat) (s : State) : State :=
  s.updCore core fun c => { c with scheds := c.scheds.map fun x => (x.1, { x.2 with bins := [], reasons := [] }) }

/-- Sets PROFCTL.EN (Table 8.5). -/
def profEnable (core : Nat) (on : Bool) (s : State) : State := s.updCore core fun c => { c with profEn := on }

/-- PROFCTL_CLR (R195). -/
def execProfctlClr (core : Nat) (s : State) : Result := .next (profClear core s)

/-- PROFCTL_EN (R195). -/
def execProfctlEn (core : Nat) (on : Bool) (s : State) : Result := .next (profEnable core on s)

/-- The value of the counter at an even or odd number of Table 8.4; reserved numbers read 0. -/
def profCounter (s : State) (core n : Nat) : Nat :=
  let o := (n - 0x200) % 0x80
  let sc := (s.core core).sched ((n - 0x200) / 0x80)
  if o < 66 then Tab.get 0 sc.bins (o / 2)
  else if 0x50 ≤ o && o < 0x64 then Tab.get 0 sc.reasons ((o - 0x50) / 2)
  else 0

/-- Reads a profiling number: an even number captures the whole counter for the train, the next odd one returns the
captured half, an odd number without a capture the live half (R195). -/
def profRead (tid n : Nat) (s : State) : Word × State :=
  let v := profCounter s (tid / 32) n
  if n % 2 == 0 then
    (BitVec.ofNat 32 v, s.updTrain tid fun t => { t with capture := Tab.put t.capture (n + 1) (BitVec.ofNat 32 (v / 2 ^ 32)) })
  else
    match Tab.find (s.train tid).capture n with
    | some w => (w, s.updTrain tid fun t => { t with capture := Tab.del t.capture n })
    | none => (BitVec.ofNat 32 (v / 2 ^ 32), s)

/-- PROFILING_CAPTURE: the capture that a read of an even number makes (R195). -/
def execProfilingCapture (core slot number : Nat) (s : State) : Result :=
  if 0x200 ≤ number && number < 0x400 && number % 2 == 0 then .next (profRead (core * 32 + slot % 32) number s).2
  else .next s

end Sys2Proof.Machine
end

