-- ==== Sys2Proof/Machine/SysRegs.lean ====
section
/-! DEFINITION. The system registers and their instructions (spec/22_package_faults_traps_dumps.md R412; spec/08 R195; spec/17
R341; spec/20 R374, R375; spec/21 Table 21.9; spec/25 R432, R435). -/

namespace Sys2Proof.Machine

/-- EVWAIT (Table 22.6): events queued for the handled contexts. -/
def evWait (s : State) (h : Nat) : Nat :=
  min ((handledBy s h).foldl (fun n x => n + x.2.events.length) 0) 65535

/-- CQUOTA (Table 20.7). -/
def cquotaWord (s : State) : Nat :=
  (List.range 4).foldl (fun n k => n + 2 ^ (5 * k) * Tab.get 16 s.cquota k) 0

/-- The number belongs to the counters of Table 8.4. -/
def isProfNumber (n : Nat) : Bool := decide (0x200 ≤ n) && decide (n < 0x400)

/-- The value that MFSR reads for a train (R412), profiling counters apart; none where no chapter assigns the number. -/
def sysValue (s : State) (tid n : Nat) : Option Nat :=
  let t := s.train tid
  let c := s.ctx t.ctx
  let hi (x : Nat) : Nat := x / 2 ^ 32
  let lo (x : Nat) : Nat := x % 2 ^ 32
  let w := (n - 0x460) / 4
  if 0x460 ≤ n && n < 0x470 then
    some (if n % 4 == 0 then lo (Tab.get 0 c.wbase w) else if n % 4 == 1 then hi (Tab.get 0 c.wbase w)
      else if n % 4 == 2 then Tab.get 0 c.wlen w else Tab.get 0 c.wctl w)
  else if 0x482 ≤ n && n < 0x48A then some (bits (Tab.get 0 s.cxlpop ((n - 0x482) / 2)) (32 * (n % 2)) 32)
  else
    match n with
    | 0x400 => some (s.core (tid / 32)).profEn.toNat
    | 0x410 => some (s.wg t.wg).barErr
    | 0x420 => some c.lease
    | 0x424 => some c.pinq
    | 0x425 => some c.pinuse
    | 0x426 => some (lo c.ptbase)
    | 0x427 => some (hi c.ptbase)
    | 0x429 => some c.pinmiss
    | 0x430 => some (cquotaWord s)
    | 0x440 => some 0
    | 0x441 => some 0
    | 0x442 => some s.killDone.toNat
    | 0x450 => some c.hentry
    | 0x451 => some (2 ^ 16 * c.evlost + evWait s t.ctx)
    | 0x452 => some c.wdog
    | 0x453 => some (lo c.dumpBase)
    | 0x454 => some (hi c.dumpBase)
    | 0x455 => some (lo c.dumpLen)
    | 0x456 => some s.halted.toNat
    | 0x458 => some (rasWord s)
    | 0x470 => some (lo c.trBase)
    | 0x471 => some (hi c.trBase)
    | 0x472 => some c.trLen
    | 0x473 => some c.trPos
    | 0x474 => some c.trCtl
    | 0x475 => some c.trLost
    | 0x481 => some (svcWord s)
    | _ => none

/-- Replaces the low word of a 64-bit value. -/
def setLow (x v : Nat) : Nat := x / 2 ^ 32 * 2 ^ 32 + v
/-- Replaces the high word of a 64-bit value. -/
def setHigh (x v : Nat) : Nat := x % 2 ^ 32 + 2 ^ 32 * v

/-- A write of LEASE (Table 17.1). -/
def writeLease (ctx v : Nat) (s : State) : State :=
  s.updCtx ctx fun c => { c with lease := if v % 65536 == 0 then 1 else v % 65536 }

/-- A write of CQUOTA (R375): from the resident kernel's context alone, a field above 16 storing 16. -/
def writeCquota (ctx v : Nat) (s : State) : State :=
  if ctx == 0 then { s with cquota := (List.range 4).map fun k => (k, min (bits v (5 * k) 5) 16) } else s

/-- A write of a watched range's register (Table 25.2). -/
def writeWatch (ctx n v : Nat) (s : State) : State :=
  let w := (n - 0x460) / 4
  s.updCtx ctx fun c =>
    if n % 4 == 0 then { c with wbase := Tab.put c.wbase w (setLow (Tab.get 0 c.wbase w) v) }
    else if n % 4 == 1 then { c with wbase := Tab.put c.wbase w (setHigh (Tab.get 0 c.wbase w) (v % 2 ^ 25)) }
    else if n % 4 == 2 then { c with wlen := Tab.put c.wlen w v }
    else { c with wctl := Tab.put c.wctl w (v / 2 ^ 16 * 2 ^ 16 + v % 8) }

/-- A write of 0x440 by the resident kernel's context (Table 21.9): it pre-empts or resumes a queue. -/
def writePreempt (ctx v : Nat) (s : State) : State :=
  if ctx != 0 then s
  else
    let s := if v.testBit 8 then requestPreempt (v % 32) s else s
    if v.testBit 9 then resumeQueue (v % 32) s else s

/-- A write of 0x441 by the resident kernel's context (Table 21.9): it kills a context, and KILL-DONE reads 0. -/
def writeKill (ctx v : Nat) (s : State) : State :=
  if ctx != 0 then s
  else
    let s := { s with killDone := false }
    if v.testBit 16 then killContext (v % 65536) s else s

/-- A write of 0x400 (Table 8.5). -/
def writeProfctl (core v : Nat) (s : State) : State :=
  profEnable core (v.testBit 0) (if v.testBit 1 then profClear core s else s)

/-- What MTSR of a number does for a train (R412); none where no chapter assigns the number. Read-only fields keep what they
hold. -/
def sysWrite (tid n v : Nat) (s : State) : Option State :=
  let t := s.train tid
  let x := t.ctx
  let on (f : Ctx → Ctx) : Option State := some (s.updCtx x f)
  if isProfNumber n then some s
  else if 0x460 ≤ n && n < 0x470 then some (writeWatch x n v s)
  else if 0x482 ≤ n && n < 0x48A then some s
  else
    match n with
    | 0x400 => some (writeProfctl (tid / 32) v s)
    | 0x410 => some (s.updWg t.wg fun g => { g with barErr := 0 })
    | 0x420 => some (writeLease x v s)
    | 0x424 => on fun c => { c with pinq := v }
    | 0x425 => some s
    | 0x426 => on fun c => { c with ptbase := setLow c.ptbase (v / 4096 * 4096) }
    | 0x427 => on fun c => { c with ptbase := setHigh c.ptbase (v % 2 ^ 20) }
    | 0x429 => on fun c => { c with pinmiss := 0 }
    | 0x430 => some (writeCquota x v s)
    | 0x440 => some (writePreempt x v s)
    | 0x441 => some (writeKill x v s)
    | 0x442 => some s
    | 0x450 => on fun c => { c with hentry := v % 2 ^ 27 }
    | 0x451 => on fun c => { c with evlost := 0 }
    | 0x452 => on fun c => { c with wdog := v }
    | 0x453 => on fun c => { c with dumpBase := setLow c.dumpBase (v / 4096 * 4096) }
    | 0x454 => on fun c => { c with dumpBase := setHigh c.dumpBase (v % 2 ^ 25) }
    | 0x455 => some s
    | 0x456 => some (if v.testBit 1 && x == 0 then releaseHalt s else s)
    | 0x458 => some s
    | 0x470 => on fun c => { c with trBase := setLow c.trBase (v / 64 * 64) }
    | 0x471 => on fun c => { c with trBase := setHigh c.trBase (v % 2 ^ 25) }
    | 0x472 => on fun c => { c with trLen := v }
    | 0x473 => on fun c => { c with trPos := 0 }
    | 0x474 => some (traceControl x v s)
    | 0x475 => on fun c => { c with trLost := 0 }
    | 0x481 => some s
    | _ => none

/-- MFSR (R412). -/
def execMfsr (f : FmtX) (s : State) : Result :=
  issue (.mfsr f) s fun me s =>
    let n := f.imm.toNat
    let put (v : Word) (s : State) : State := retire me (s.updTrain me.tid fun t => t.writeS me.sid f.sa.toNat v)
    if isProfNumber n then
      let (v, s) := profRead me.tid n s
      put v s
    else
      match sysValue s me.tid n with
      | some v => put (BitVec.ofNat 32 v) s
      | none => faultTrain .illegalField 0 me s

/-- MTSR (R412). -/
def execMtsr (f : FmtX) (s : State) : Result :=
  issue (.mtsr f) s fun me s =>
    match sysWrite me.tid f.imm.toNat ((me.train s).readS me.sid f.sa.toNat).toNat s with
    | some s => retire me s
    | none => faultTrain .illegalField 0 me s

/-- LEASE_WRITE (Table 17.1). -/
def execLeaseWrite (ctx : Nat) (v : BitVec 32) (s : State) : Result := .next (writeLease ctx v.toNat s)
/-- CQUOTA_WRITE (R375). -/
def execCquotaWrite (ctx : Nat) (v : BitVec 32) (s : State) : Result := .next (writeCquota ctx v.toNat s)
/-- PINMISS_CLEAR (Table 20.4). -/
def execPinmissClear (ctx : Nat) (s : State) : Result := .next (s.updCtx ctx fun c => { c with pinmiss := 0 })
/-- EVLOST_CLEAR (Table 22.6). -/
def execEvlostClear (ctx : Nat) (s : State) : Result := .next (s.updCtx ctx fun c => { c with evlost := 0 })


end Sys2Proof.Machine
end

