-- ==== Sys2Proof/Machine/Host.lean ====
section
/-! DEFINITION. The host link, the register aperture, boot, attestation, early service and cooling
(spec/26_fabric_host_bringup.md R441 to R446, R449 to R452), and the context table (R445). -/

namespace Sys2Proof.Machine

/-! ### Contexts and queues -/

/-- The address of an entry of the context table (R445). -/
def ctxEntry (s : State) (c : Nat) : Nat := s.ctxTable + 64 * c

/-- What the entry of a context says of its mode, handler, names and combiner save area (Table 26.4). Table 0.3 turns translation off for
privileged contexts only and gives an unprivileged entry that does so no outcome: it runs untranslated (DESIGN CHOICE, log 104). -/
def Ctx.ofEntry (c : Ctx) (s : State) (a : Nat) : Ctx :=
  let h := s.mem.readLE (a + 8) 2
  let b := s.mem.readLE (a + 10) 1
  { c with handlerCtx := if h == 0xFFFF then none else some h, priv := b.testBit 0, physical := !b.testBit 1,
           proc := s.mem.readLE (a + 12) 2, thread := s.mem.readLE (a + 14) 2, combSave := s.mem.readLE (a + 16) 8 }

/-- A queue of the context other than `q` is ENABLE. -/
def ctxInUse (s : State) (c q : Nat) : Bool :=
  (List.range 32).any fun k => k != q && qEnabled s k && qCtx s k == c

/-- The entry of a context is read when a queue of it is enabled: its initial PTBASE when the context begins, the rest while no
other queue of it is ENABLE (R445). The reserved bits of PTBASE stay 0 (R3, Table 20.4). -/
def beginCtx (c q : Nat) (s : State) : State :=
  if s.ctxCount ≤ c then s
  else
    let a := ctxEntry s c
    let s := if (s.ctx c).begun then s
      else s.updCtx c fun x => { x with begun := true, ptbase := s.mem.readLE a 8 % 2 ^ 52 / 4096 * 4096 }
    if ctxInUse s c q then s else s.updCtx c fun x => x.ofEntry s a

/-- The system cores set ENABLE of a queue, having rewritten RIDX where it is given; a queue that is STOPPED leaves that state,
and is PREEMPTED where a request has pre-empted it that no RESUME has answered (R379, R397, R401, R444). -/
def enableQueue (q : Nat) (ridx : Option Nat) (s : State) : State :=
  if qEnabled s q then s
  else
    let s := match ridx with
      | some r => qSet q 12 4 r s
      | none => s
    let s := if ridx.isSome && qState s q == 2 then qSet q 64 1 (if s.barred.contains q then 3 else 0) s else s
    let s := qSet q 22 1 (qGet s q 22 1 + 128) (qSet q 68 4 0 s)
    let s := beginCtx (qCtx s q) q s
    if s.bells.contains q then readWidx q s else s

/-- QUEUE_ENABLE (R444). -/
def execQueueEnable (q : Nat) (ridx : Option (BitVec 32)) (s : State) : Result :=
  .next (if q < 32 then enableQueue q (ridx.map (·.toNat)) s else s)

/-! ### The register aperture -/

/-- Replaces 32-bit word `k` of a number. -/
def setWord (x k v : Nat) : Nat := x % 2 ^ (32 * k) + 2 ^ (32 * k) * v + x / 2 ^ (32 * (k + 1)) * 2 ^ (32 * (k + 1))

/-- A word of HOMEWIN: W(c) of eight cores, a field above 8 as 8 (Table 26.2, DESIGN CHOICE, log 29). -/
def writeHomewin (w v : Nat) (s : State) : State :=
  { s with homewin := (List.range 8).foldl (fun t i => Tab.put t (8 * w + i) (min 8 (bits v (4 * i) 4))) s.homewin }

/-- Offset 0 of the attestation mailbox (R451). -/
def mailState (s : State) : Nat := s.boot.mailbox.readLE 0 4

/-- A byte of the attestation mailbox may be written: a nonce that the host writes while a request stands is ignored (R451). -/
def mailOpen (byHost : Bool) (s : State) (off : Nat) : Bool :=
  !(byHost && decide (0x10 ≤ off) && decide (off < 0x30) && mailState s == 1)

/-- A write of bytes of the register aperture, of which those of the attestation mailbox are stored (R451). -/
def writeMailbox (byHost : Bool) (off : Nat) (bs : List Byte) (s : State) : State :=
  let mine := (bs.zipIdx off).filter fun (_, a) => decide (0x30000 ≤ a) && decide (a < 0x31000) && mailOpen byHost s (a - 0x30000)
  { s with boot := { s.boot with mailbox := mine.foldl (fun m (b, a) => m.writeList (a - 0x30000) [b]) s.boot.mailbox } }

/-- A write that only the system cores make (Table 26.2). -/
def writeSystem (off v : Nat) (s : State) : State :=
  if off == 0x20000 then { s with qtable := setWord s.qtable 0 (v / 4096 * 4096) }
  else if off == 0x20004 then { s with qtable := setWord s.qtable 1 v }
  else if off == 0x20008 then { s with ctxTable := setWord s.ctxTable 0 (v / 4096 * 4096) }
  else if off == 0x2000C then { s with ctxTable := setWord s.ctxTable 1 v }
  else if off == 0x20010 then { s with ctxCount := v }
  else if 0x20020 ≤ off && off < 0x20090 then writeHomewin ((off - 0x20020) / 4) v s
  else if 0x20090 ≤ off && off < 0x200B0 then
    let p := (off - 0x20090) / 8
    { s with cxlpop := Tab.put s.cxlpop p (setWord (Tab.get 0 s.cxlpop p) ((off - 0x20090) / 4 % 2) v) }
  else s

/-- A 4-byte write of the register aperture (R443, Table 26.2). -/
def writeAperture (byHost : Bool) (offset value : Nat) (s : State) : State :=
  if offset % 4 != 0 then s
  else if 0x10000 ≤ offset && offset < 0x10100 then (if offset % 8 == 0 then ringBell ((offset - 0x10000) / 8) s else s)
  else if 0x30000 ≤ offset && offset < 0x31000 then writeMailbox byHost offset (leBytes 4 value) s
  else if byHost then s
  else writeSystem offset value s

/-- APERTURE_WRITE (R443, Table 26.2). -/
def execApertureWrite (byHost : Bool) (offset : Nat) (value : BitVec 32) (s : State) : Result :=
  .next (writeAperture byHost offset value.toNat s)

/-! ### The host's memory accesses -/

/-- The host's agent (R442). -/
def hostAgent : Agent := { core := noCore, ctx := 0, priv := true, wg := 0, combiner := false }

/-- HBM4 or LPDDR-6 memory, which the host link offers (Table 26.1): HBM4 once early service is over (R442, R450). -/
def hostRange (s : State) (a : Nat) : Bool :=
  (inHbm a && fullService s) || (decide (0x40000000000 ≤ a) && decide (a ≤ 0x7B9AC9FFFFF))

/-- The host may access a byte: its range is there, and its frame is not gone (R365, R442). -/
def hostMay (s : State) (a : Nat) : Bool := hostRange s a && populated s a && (deadFrame s a).isNone

/-- The host stores bytes upward, in the order in which its link delivers them (R351); a byte of a range that is not there, or of a frame that is gone, is discarded (R365, R442). -/
def hostStore : List Byte → Nat → State → State
  | [], _, s => s
  | b :: bs, a, s =>
    hostStore bs (a + 1)
      (if hostMay s a then
        let (ts, s) := agentStore hostAgent s.hostTs (.phys a 0 0 0 0) 1 b.toNat s
        { s with hostTs := ts }
      else s)

/-- The host loads bytes upward: the bytes, or none for an error response (R442). -/
def hostLoad : Nat → Nat → State → Option (List Byte) × State
  | 0, _, s => (some [], s)
  | n + 1, a, s =>
    if hostMay s a && (badAt s a).isNone then
      let (v, ts, s) := agentLoad hostAgent s.hostTs (.phys a 0 0 0 0) 1 s
      let (r, s) := hostLoad n (a + 1) { s with hostTs := ts }
      (r.map fun l => BitVec.ofNat 8 v :: l, s)
    else (none, s)

/-! ### The register aperture is read -/

/-- The word at an offset of the register aperture that is a multiple of 4 (Table 26.2). Offsets that the table does not name, and
doorbells, read 0 (DESIGN CHOICE, log 115). -/
def apertureWord (s : State) (off : Nat) : Nat :=
  if off == 0 then rasWord s
  else if off == 4 then svcWord s
  else if off == 8 then s.boot.bootErr
  else if 0x20000 ≤ off && off < 0x20008 then bits s.qtable (8 * (off - 0x20000)) 32
  else if 0x20008 ≤ off && off < 0x20010 then bits s.ctxTable (8 * (off - 0x20008)) 32
  else if off == 0x20010 then s.ctxCount
  else if 0x20020 ≤ off && off < 0x20090 then
    packElems 4 ((List.range 8).map fun i => Tab.get 0 s.homewin (2 * (off - 0x20020) + i))
  else if 0x20090 ≤ off && off < 0x200B0 then
    bits (Tab.get 0 s.cxlpop ((off - 0x20090) / 8)) (8 * ((off - 0x20090) % 8)) 32
  else if 0x30000 ≤ off && off < 0x31000 then s.boot.mailbox.readLE (off - 0x30000) 4
  else 0

/-- Bytes of the register aperture. -/
def apertureBytes (s : State) (off n : Nat) : List Byte :=
  (List.range n).map fun i => BitVec.ofNat 8 (apertureWord s ((off + i) / 4 * 4) / 256 ^ ((off + i) % 4))

/-- The physical address of the register aperture, and its length (R443, Table 26.1). -/
def apertureBase : Nat := 0x8000000000000
/-- The length of BAR0 (Table 26.1). -/
def apertureSize : Nat := 0x4000000

/-- The access lies in the register aperture, which answers in every state of the module (R443, R449). -/
def inAperture (a n : Nat) : Bool := decide (apertureBase ≤ a) && decide (a + n ≤ apertureBase + apertureSize)

/-- A completion of a request: its bytes, or none for an error response or an Unsupported Request. -/
def answer (r : Option (List Byte)) (s : State) : State := { s with hostOut := s.hostOut ++ [r] }

/-- The doorbells that a write of `n` bytes of the register aperture covers whole (R443; of one that covers a part the specification does not
speak, DESIGN CHOICE, log 115). -/
def bellsIn (off n : Nat) : List Nat :=
  (List.range 32).filter fun q => decide (off ≤ 0x10000 + 8 * q) && decide (0x10000 + 8 * q + 4 ≤ off + n)

/-- A write of the host's link to the register aperture: the bytes of the mailbox are stored and the doorbells ring; the rest is discarded
(R443). -/
def hostAperture (off : Nat) (bs : List Byte) (s : State) : State :=
  (bellsIn off bs.length).foldl (fun s q => ringBell q s) (writeMailbox true off bs s)

/-- A write of the host's link within Table 26.1, to the aperture or to memory. A write that meets a byte which the host may not
write is completed with an error response, and that byte is discarded (R441, R442). -/
def hostWrite (addr : Nat) (bs : List Byte) (s : State) : State :=
  if 512 < bs.length then answer none s
  else if inAperture addr bs.length then
    hostAperture (addr - apertureBase) bs s
  else if s.boot.step < 5 then answer none s
  else
    let ok := (List.range bs.length).all fun i => hostMay s (addr + i)
    let s := hostStore bs addr s
    if ok then s else answer none s

/-- A read: of the aperture, or of memory; one beyond Table 26.1 is an Unsupported Request (R441, R443). -/
def hostRead (addr n : Nat) (s : State) : State :=
  if 4096 < n then answer none s
  else if inAperture addr n then answer (some (apertureBytes s (addr - apertureBase) n)) s
  else if s.boot.step < 5 then answer none s
  else
    let (r, s) := hostLoad n addr s
    answer r s

/-- HOST_CXL_MEM_ACCESS (R441 to R443): an access that the host's link delivers, to memory or to the register aperture, which stands at
BAR0 for the host and at 0x8_0000_0000_0000 for the system cores. -/
def execHostCxlMemAccess (addr : Nat) (write : Option (List (BitVec 8))) (count : Nat) (s : State) : Result :=
  .next (match write with
    | some bs => hostWrite addr bs s
    | none => hostRead addr count s)

/-! ### Attestation -/

/-- The attested bytes of a quote (R451): nonce, MR0 to MR7, serial number and boot count. -/
def quoteBytes (s : State) : List Byte :=
  let b := s.boot
  b.mailbox.readList 0x10 32 ++ (b.mrs.map fun m => (leBytes 32 m.toNat).reverse).flatten ++ leBytes 16 b.serial.toNat
    ++ leBytes 8 b.boots

/-- Sets a measurement register. -/
def setMr (n : Nat) (d : BitVec 256) (s : State) : State := { s with boot := { s.boot with mrs := listSet s.boot.mrs n d } }

/-- The resident kernel answers a request with a quote (R451). -/
def answerQuote (s : State) : State :=
  if mailState s == 1 && decide (5 ≤ s.boot.step) then
    let q := quoteBytes s
    let m := (s.boot.mailbox.writeList 0x100 (q ++ signature s.boot.keyN s.boot.keyD q)).writeLE 0 4 2
    { s with boot := { s.boot with mailbox := m } }
  else s

/-- A digest whose value is open. -/
def openDigest (s : State) : BitVec 256 × State :=
  let (a, s) := s.freeValue
  let (b, s) := s.freeValue
  let (c, s) := s.freeValue
  let (d, s) := s.freeValue
  (a ++ b ++ c ++ d, s)

/-- The resident kernel may extend one of MR4 to MR7 (R449). When and by what digest its software does so is open: a free value extends
one by a free digest, or none (DESIGN CHOICE, log 118). -/
def kernelExtends (s : State) : State :=
  let (v, s) := s.freeValue
  if s.boot.step < 5 || !v.getLsbD 0 then s
  else
    let n := 4 + v.toNat / 2 % 4
    let (d, s) := openDigest s
    setMr n (extendMr (s.boot.mrs.getD n 0) d) s

/-- QUOTE_REQUEST: the resident kernel answers a request with a quote, and only then may it extend a measurement register (R449, R451,
Table 26.7). -/
def execQuoteRequest (s : State) : Result := .next (kernelExtends (answerQuote s))

/-! ### Boot -/

/-- The module in recovery with an error code: the compute dies stay in reset (R449). -/
def toRecovery (e : Nat) (s : State) : State := { s with boot := { s.boot with recovery := true, bootErr := e } }

/-- Notes a boot step as carried out. -/
def bootStep (n : Nat) (s : State) : State := { s with boot := { s.boot with step := n } }

/-- Step 5: what the resident kernel writes, and the release of the compute dies (Table 26.6). The routes of R447 are part of it
(DESIGN CHOICE, log 135). -/
def bootRelease (b : BootInput) (s : State) : State :=
  bootStep 5 { s with
    qtable := b.qtable.toNat / 4096 * 4096, ctxTable := b.ctxtable.toNat / 4096 * 4096, ctxCount := b.ctxcount.toNat,
    homewin := ((List.range 224).zip b.homewin).foldl (fun t (c, w) => Tab.put t c (min 8 w)) s.homewin,
    routes := b.routes }

/-- Steps 2 to 5 of Table 26.6. -/
def bootSteps (b : BootInput) (s : State) : State :=
  let s := bootStep 1 s
  if !b.configOk then toRecovery 2 s
  else
    let s := bootStep 2 (setMr 0 b.configDigest { s with boot := { s.boot with serial := b.serial, keyN := b.keyN.toNat,
                                                                                   keyD := b.keyD.toNat } })
    if !b.image0Ok && !b.image1Ok then toRecovery 3 s
    else
      let s := bootStep 3 (setMr 1 b.imageDigest s)
      if !b.loadOk then toRecovery 1 s
      else bootRelease b (bootStep 4 (setMr 3 (extendMr 0 b.firmwareDigest) (setMr 2 (extendMr 0 b.kernelDigest) s)))

/-- POWER_ON (R449): the module comes out of reset, its boot count one higher. -/
def execPowerOn (boot : BootInput) (s : State) : Result :=
  .next (bootSteps boot
    { State.reset with free := s.free, boot := { State.reset.boot with boots := (s.boot.boots + 1) % 2 ^ 64 } })

/-! ### Early service -/

/-- The clock changes when early service is complete: the sessions' next records carry full timestamps (R450, Table 0.4). -/
def afterService (was : Bool) (s : State) : State :=
  if fullService s && !was then { s with ctxs := s.ctxs.map fun (n, c) => (n, { c with trFull := true }) } else s

/-- A retirement, or a candidate refused, sets REPLACE and interrupts the host and the system cores (R422). -/
def noteRetirement (s : State) : State := { s with replaceReq := true, interrupts := s.interrupts ++ [.retirement] }

/-- HBM_TRAINING_COMPLETE (R422, R450): HBM4 is there, and the channels to be retired are decided. -/
def execHbmTrainingComplete (retire : List Nat) (s : State) : Result :=
  .next (if s.boot.step < 5 || s.hbmReady then s
    else
      let rs := (s.hbmCandidates ++ retire).eraseDups
      let was := fullService s
      let s := { s with hbmReady := true, retiredHbm := (s.retiredHbm ++ rs).eraseDups, hbmCandidates := [] }
      afterService was (rs.foldl (fun s _ => noteRetirement s) s))

/-- SELF_TEST_COMPLETE (R450). -/
def execSelfTestComplete (test : Nat) (s : State) : Result :=
  .next (if s.boot.step < 5 || 5 ≤ test || s.boot.tests.contains test then s
    else afterService (fullService s) { s with boot := { s.boot with tests := s.boot.tests ++ [test] } })

/-! ### Retirement -/

/-- The slice of Table 15.1 for a resident line under the live lists as they stand; a line of spread 1 stays on its die. -/
def newHome (s : State) (line : Nat) (l : L2Line) : Nat := sliceOf s (128 * line) l.spread l.named (l.slice / 56)

/-- A line that a pin or a held lane keeps comes to its new home with its pins; where the set there has no way for it, it is dropped as by an
invalidation (DEDUCED, log 30). -/
def rehome (s : State) (line : Nat) (l : L2Line) : State :=
  let x := { l with slice := newHome s line l, fetch := 0 }
  match if !l.pinned || decide (pinnedWays s x.slice line < 12) then freeWay x.slice x.cls line s else none with
  | some s => { s with l2 := Tab.put s.l2 line x }
  | none => s.dropLine line l

/-- A slice has been retired (R312): every line whose home changes is written back and leaves its slice, and then those that a pin or a held
lane keeps come to their new homes. -/
def rehash (s : State) : State :=
  let moved := s.l2.filter fun (n, l) => !l.dropped && l.slice != 1024 && newHome s n l != l.slice
  let kept := moved.filter fun (n, l) => s.lineKept n l
  kept.foldl (fun s (n, l) => rehome s n l) (moved.foldl (fun s x => s.evict x.1) s)

/-- Elements of a draw are to start on a core (R166, R170). -/
def Launch.tied (l : Launch) (c : Nat) : Bool :=
  !l.dead && (l.pend.any (fun p => p.core == some c) || l.unprocessed.any fun p => Tab.find l.clustersDone p.cluster == some c)

/-- A core that is to be retired holds nothing any more: its trains and COPY packets are done (R383, R422), and no ray or element
waits to start there, where its spawner ran (R170, R265). -/
def coreEmpty (s : State) (c : Nat) : Bool :=
  !(s.launches.any fun (_, l) => l.tied c)
    && !(s.rays.any fun (_, y) => y.core == c && !y.started && !y.ended && !(s.launch y.launch).dead)
    && !(s.trains.any fun (tid, t) => tid / 32 == c && t.state != .free) && !(s.copyOps.any fun (_, o) => o.kind == 5 && o.core == c)

/-- An accord queue takes over batches in the order in which they opened, as far as its 64 batches and 1,024 requests go (R289): the
queue, and the batches that still wait. -/
def takeBatches (q : List AccBatch) : List AccBatch → List AccBatch × List AccBatch
  | [] => (q, [])
  | b :: bs =>
    if 64 ≤ q.length || decide (1024 < (b :: q).foldl (fun n x => n + x.reqs.length) 0) then (q, b :: bs)
    else takeBatches (sortBy (·.opened) (q ++ [b])) bs

/-- The open batches of a cluster without a live core, and the requests on their way there, go to the cluster that serves its accord
pages from now on (R287), the oldest first, as it has room (R289). -/
def moveAccords (k : Nat) (s : State) : State :=
  let serve := accordServer s k
  if !(liveCores s k).isEmpty || serve == k then s
  else
    let (q, rest) := takeBatches (s.accQueue serve) (sortBy (·.opened) (s.accQueue k))
    let t := Tab.put s.accQueues serve q
    { s with accQueues := if rest.isEmpty then Tab.del t k else Tab.put t k rest,
             accGroups := s.accGroups.map fun (n, g) => (n, if g.cluster == k then { g with cluster := serve } else g) }

/-- Batches move on whose clusters have no live core. -/
def moveAllAccords (s : State) : State :=
  (s.accQueues.filter fun x => !x.2.isEmpty && (liveCores s x.1).isEmpty).foldl (fun s x => moveAccords x.1 s) s

/-- Cores that are to be retired are retired once they are empty: REPLACE is set, and the host and the system cores are interrupted
(R422). -/
def leaveCores (s : State) : State :=
  (s.leavingCores.filter (coreEmpty s)).foldl (fun s c =>
    moveAccords (c / 4) (noteRetirement
      { s with leavingCores := s.leavingCores.erase c, retiredCores := sortBy (fun x => x) (s.retiredCores ++ [c]) })) s

/-- The retirement of a unit, or its refusal (R422). -/
def retireUnit (u : UnitId) (s : State) : State :=
  match u with
  | .core c =>
    if 224 ≤ c || s.retiredCores.contains c || s.leavingCores.contains c then s
    else if 4 ≤ ((s.retiredCores ++ s.leavingCores).filter fun x => x / 56 == c / 56).length then noteRetirement s
    else leaveCores { s with leavingCores := s.leavingCores ++ [c] }
  | .slice n =>
    if 224 ≤ n || s.retiredSlices.contains n then s
    else rehash (noteRetirement { s with retiredSlices := sortBy (fun x => x) (s.retiredSlices ++ [n]) })
  | .hbm h =>
    if s.retiredHbm.contains h || s.hbmCandidates.contains h then s
    else if s.hbmReady then noteRetirement { s with retiredHbm := s.retiredHbm ++ [h] }
    else { s with hbmCandidates := s.hbmCandidates ++ [h] }
  -- R422 retires no other memory
  | .lpddr | .cxl _ => s

/-- A unit is due to be retired: more than 256 corrected errors within 2^30 cycles, or two uncorrectable ones (R422). -/
def retireDue (s : State) (u : UnitId) : Bool :=
  decide (256 < (s.unitErrors.filter fun x => x.1 == u && decide (s.cycle < x.2 + 2 ^ 30)).length)
    || decide (2 ≤ (s.unitFatal.filter fun x => x.1 == u).length)

/-- The counts of a unit go with the decision on it. -/
def dropErrors (u : UnitId) (s : State) : State :=
  { s with unitErrors := s.unitErrors.filter fun x => x.1 != u, unitFatal := s.unitFatal.filter fun x => x.1 != u }

/-- CORRECTABLE_ERROR (R422). -/
def execCorrectableError (unit : UnitId) (s : State) : Result :=
  .next { s with unitErrors := s.unitErrors ++ [(unit, s.cycle)] }

/-- An entry of a table that a number names. -/
def entryAt {α : Type} (n : Nat) (t : List α) : Option α := t[n % t.length]?

/-- A core's copy of a line in its L1 or node cache holds an error. -/
def spoilCopy (node : Bool) (c n : Nat) (s : State) : State :=
  match entryAt n ((s.core c).copies node) with
  | none => s
  | some (k, x) => s.updCore c fun co =>
      if node then { co with nodes := Tab.put co.nodes k { x with bad := true } }
      else { co with l1 := Tab.put co.l1 k { x with bad := true } }

/-- A line of a core's local memory or tiles holds an error. -/
def spoilLocal (c n : Nat) (s : State) : State :=
  match entryAt n (wgsOn s c) with
  | none => s
  | some (w, g) =>
    let o := n / 64 % 2 ^ 20
    let l := if n.testBit 5 then Loc.acc w (o % (12288 * max 1 g.tileCount)) else .loc w (o % max 1 g.localSize)
    { s with bad := Tab.put s.bad (lineKey l) 2 }

/-- A register of a train of a core holds an error; s0 and v0 are none. -/
def spoilRegister (c n : Nat) (s : State) : State :=
  match entryAt n (s.trains.filter fun x => x.1 / 32 == c && x.2.state != .free) with
  | none => s
  | some (tid, _) =>
    let k := n / 64 % 384
    if k == 0 || k == 128 then s else s.updTrain tid fun t => { t with broken := k :: t.broken }

/-- A line holds an error, with the source of the unit that found it. -/
def spoilLine (line src : Nat) (s : State) : State := { s with bad := Tab.put s.bad line src }

/-- A line of LPDDR-6 or CXL memory that is there holds an error (R404, R446). -/
def spoilMemory (line : Nat) (s : State) : State := if populated s (128 * line) then spoilLine line 6 s else s

/-- Where in a unit an uncorrectable error stands is open: a free value names the store and the entry (R404, DESIGN CHOICE, log 87). -/
def spoil (unit : UnitId) (s : State) : State :=
  let (v, s) := s.freeValue
  let n := v.toNat / 4
  match unit, v.toNat % 4 with
  | .core c, 0 => spoilRegister c n s
  | .core c, 1 => spoilLocal c n s
  | .core c, k => spoilCopy (k == 3) c n s
  | .slice u, _ =>
    match entryAt n (s.l2.filter fun x => x.2.slice == u && !x.2.dropped) with
    | some (line, _) => spoilLine line 4 s
    | none => s
  | .hbm h, _ =>
    let line := n % 2 ^ 32
    if inHbm (128 * line) && Config.hbmChannel (128 * line) == h then spoilLine line 5 s else s
  | .lpddr, _ => spoilMemory (0x40000000000 / 128 + n % 2 ^ 35) s
  | .cxl p, _ => spoilMemory ((0x100000000000 + p % 4 * 0x40000000000) / 128 + n % 2 ^ 35) s

/-- UNCORRECTABLE_ERROR_FOUND (R404, R422). -/
def execUncorrectableErrorFound (unit : UnitId) (s : State) : Result :=
  .next (spoil unit { s with unitFatal := s.unitFatal ++ [(unit, s.cycle)] })

/-- UNIT_RETIREMENT (R422). -/
def execUnitRetirement (unit : UnitId) (s : State) : Result :=
  .next (if retireDue s unit then retireUnit unit (dropErrors unit s) else s)

/-- LINK_FLIT_RETRY (R309, R447). -/
def execLinkFlitRetry (link : LinkId) (s : State) : Result :=
  .next { s with linkErrors := s.linkErrors ++ [(link, s.cycle)] }

/-- A link is due to be retired: more than 1,024 retries within 2^24 cycles (R309). -/
def linkDue (s : State) (k : LinkId) : Bool :=
  decide (1024 < (s.linkErrors.filter fun x => x.1 == k && decide (s.cycle < x.2 + 2 ^ 24)).length)

/-- LINK_RETIREMENT (R309): a vertical link takes its core and its slice with it. -/
def execLinkRetirement (link : LinkId) (s : State) : Result :=
  .next (if !linkDue s link then s
    else
      let s := { s with linkErrors := s.linkErrors.filter fun x => x.1 != link,
                        retiredLinks := if s.retiredLinks.contains link then s.retiredLinks else s.retiredLinks ++ [link],
                        replaceReq := true }
      match link with
      | .vertical n => retireUnit (.slice n) (retireUnit (.core n) s)
      | _ => s)

/-- CXL_LINK_LOSS (R446). -/
def execCxlLinkLoss (port : Nat) (s : State) : Result :=
  .next (if 4 ≤ port || s.lostPorts.contains port then s
    else { s with lostPorts := s.lostPorts ++ [port], replaceReq := true })

/-! ### Cooling -/

/-- THERMAL_THROTTLE (R452). -/
def execThermalThrottle (s : State) : Result := .next { s with boot := { s.boot with throttled := true } }

/-- THERMAL_THROTTLE_END (R452). -/
def execThermalThrottleEnd (s : State) : Result := .next { s with boot := { s.boot with throttled := false } }

/-- THERMAL_SHUTDOWN (R452): the host is interrupted, and the module halts as by HALTALL; a halt that stands serves. -/
def execThermalShutdown (s : State) : Result :=
  let s := { s with interrupts := s.interrupts ++ [Interrupt.thermal] }
  .next (match s.halt.phase with
    | 0 => { holdTick s with halt := { phase := 1, due := entryTick s.cycle + 22, who := none, thermal := true } }
    | 3 => { s with halt := { s.halt with thermal := true }, boot := { s.boot with off := true } }
    | _ => { s with halt := { s.halt with thermal := true } })

end Sys2Proof.Machine
end

