-- ==== Sys2Proof/Machine/Fabric.lean ====
section
/-! DEFINITION. The fabric calls and the requests of other modules (spec/26_fabric_host_bringup.md R447, R448; spec/17 R351). -/

namespace Sys2Proof.Machine

/-- The agent of a fabric call: the fabric unit, in the context of the caller. -/
def fabricAgent (s : State) (ctx : Nat) : Agent := queueAgent s ctx

/-- Operand `k` of a call: s8 + k as it was read at issue. -/
def SysCall.arg (x : SysCall) (k : Nat) : Nat := (x.args.getD k 0).toNat
/-- A pair of operands. -/
def SysCall.pair (x : SysCall) (k : Nat) : Nat := x.arg k + 2 ^ 32 * x.arg (k + 1)

/-- The operands within Table 26.5. -/
def SysCall.operandsOk (x : SysCall) : Bool :=
  if x.code == 0xF002 then
    decide (x.arg 6 < 2 ^ 17) && decide (bits (x.arg 6) 12 5 ≤ 14) && bits (x.arg 6) 12 5 != 8
  else decide (x.arg 6 < 2 ^ 12) && x.arg 7 != 0

/-- The module that a call names. -/
def SysCall.remote (x : SysCall) : Nat := bits (x.arg 6) 0 12

/-- The status of a failure by a fault kind (R448). -/
def fabricStatus (k : Nat) : Nat := 1 + 0x100 * k

/-- Reads bytes upward until one fails: the bytes, the timestamp and the kind of the fault (R448). -/
def fabricRead (g : Agent) : Nat → Nat → Nat → State → List Byte × Nat × Option Nat × State
  | 0, _, ts, s => ([], ts, none, s)
  | n + 1, va, ts, s =>
    match checkData s (checkGlobal s g .read false va 1) with
    | .error (k, _) => ([], ts, some k.code, s)
    | .ok l =>
      let (v, t, s) := agentLoad g ts l 1 s
      let (bs, ts, k, s) := fabricRead g n (va + 1) t s
      (BitVec.ofNat 8 v :: bs, ts, k, s)

/-- Writes bytes upward until one fails (R448). -/
def fabricWrite (g : Agent) : List Byte → Nat → Nat → State → Nat × Option Nat × State
  | [], _, ts, s => (ts, none, s)
  | b :: bs, va, ts, s =>
    match checkStore s (checkGlobal s g .write false va 1) with
    | .error (k, _) => (ts, some k.code, s)
    | .ok l =>
      let (t, s) := agentStore g ts l 1 b.toNat s
      fabricWrite g bs (va + 1) t s

/-- Does the module's own part of a fabric call of a code, if it has not been done yet: a module without a route fails it (R447). -/
def fabricCall (id code : Nat) (s : State) (body : SysCall → State → SysCall × State) : Result :=
  match Tab.find s.syscalls id with
  | none => .next s
  | some x =>
    if x.code != code || x.moved then .next s
    else
      let (x, s) := if !x.operandsOk then ({ x with failed := some Kind.badHandle.code }, s)
        else if !s.routes.contains x.remote then ({ x with failed := some Kind.unmapped.code }, s)
        else body x s
      .next { s with syscalls := Tab.put s.syscalls id { x with moved := true } }

/-- FPUT: the bytes of the local source leave for the other module (R448). -/
def execFput (id : Nat) (s : State) : Result :=
  fabricCall id 0xF000 s fun x s =>
    let (bs, ts, k, s) := fabricRead (fabricAgent s x.ctx) (x.arg 7) (x.pair 2) x.ts s
    ({ x with bytes := bs, ts := ts, failed := k }, s)

/-- FGET: bytes of the other module reach the local destination (R448). -/
def execFget (id : Nat) (bytes : List (BitVec 8)) (s : State) : Result :=
  fabricCall id 0xF001 s fun x s =>
    let (ts, k, s) := fabricWrite (fabricAgent s x.ctx) (bytes.take (x.arg 7)) (x.pair 4) x.ts s
    ({ x with ts := ts, failed := k }, s)

/-- FATOM: the request leaves for the other module (R448). -/
def execFatom (id : Nat) (s : State) : Result := fabricCall id 0xF002 s fun x s => (x, s)

/-- The status of a fabric call from that of the other module (R448). A copy stops at its first failing byte: an FPUT that failed here had sent
the bytes before, and one that the other module could not write failed earlier. -/
def SysCall.fabricResult (x : SysCall) (status : Word) : Word :=
  match x.failed with
  | some k => if x.code == 0xF000 && !x.bytes.isEmpty && status != 0 then status else BitVec.ofNat 32 (fabricStatus k)
  | none => status

/-- FABRIC_REPLY (R411, R437, R448): the other module's value and status, or the failure that this module met. The clock that
the reply carries comes from the other module, and is open here. -/
def execFabricReply (id : Nat) (value status : BitVec 32) (s : State) : Result :=
  match Tab.find s.syscalls id with
  | none => .next s
  | some x =>
    if !x.fabric || !x.moved then .next s
    else
      let st : BitVec 32 := x.fabricResult status
      let v : BitVec 32 := if x.code == 0xF002 && x.failed.isNone then value else 0
      let s := replyCall id x (st ++ v) s
      if (s.ctx x.ctx).tracing && (s.ctx x.ctx).trCtl % 4 == 1 && s.present x.who then
        let (c, s) := s.freeValue
        .next (s.hear x.who.tid c.toNat)
      else .next s

/-- A request of another module at this module's homes: the value and the status of its reply. Requests take their places in the
order in which they arrive, so that one that follows an observed reply stands after what it observed (R351). -/
def inbound (g : Agent) (addr : Nat) (req : FabricOp) (s : State) : Nat × Nat × State :=
  match req with
  | .read n =>
    let (bs, ts, k, s) := fabricRead g n addr s.fabTs s
    (leNat bs, (k.map fabricStatus).getD 0, { s with fabTs := ts })
  | .write bs =>
    let (ts, k, s) := fabricWrite g bs addr s.fabTs s
    (0, (k.map fabricStatus).getD 0, { s with fabTs := ts })
  | .atom op v =>
    if op == 8 || 14 < op then (0, fabricStatus Kind.badHandle.code, s)
    else
      match checkData s (checkGlobal s g .both false addr 4) with
      | .error (k, _) => (0, fabricStatus k.code, s)
      | .ok l =>
        let s := drainLine (lineKey l) s
        let old := readLoc s l 4
        let (ts, s) := agentStore g s.fabTs l 4 (atomicNew op false old v.toNat 0) s
        (old, 0, { s with fabTs := ts })

/-- A message's Lamport clock reaches the session of its context in Lamport mode: M is no lower (R437, R448, DEDUCED, log 116). -/
def hearMessage (ctx lam : Nat) (s : State) : State :=
  s.updCtx ctx fun c => if c.tracing && c.trCtl % 4 == 1 && !s.halted then { c with trM := max c.trM lam } else c

/-- FABRIC_INBOUND_REQUEST (R448): it follows the module's own updates of the line; the reply carries the session's M. -/
def execFabricInboundRequest (ctx : Nat) (addr : BitVec 64) (req : FabricReq) (s : State) : Result :=
  let (v, st, s) := inbound (fabricAgent s ctx) addr.toNat req.op (hearMessage ctx req.lam s)
  .next { s with fabricOut := s.fabricOut ++ [(v, st, (s.ctx ctx).trM)] }

end Sys2Proof.Machine
end

