-- ==== Sys2Proof/Machine/Clock.lean ====
section
/-! DEFINITION. A cycle of the module: the counters and waits that time moves, the tick of the Escapement network, the
watchdog and instruction fetch (spec/04 R88; spec/07 R160; spec/08 R187; spec/15 R329; spec/20 R370; spec/22 R403). -/

namespace Sys2Proof.Machine

/-! ### The watchdog -/

/-- The waits that WATCHDOG watches, by code of Table 8.3: named barrier, WAIT counter, Escapement, accord reply, token. -/
def watchedReason (k : Nat) : Bool := k == 2 || k == 3 || k == 6 || k == 7 || k == 8

/-- A split is READY, offers no eligible run, and waits for something that is watched (R403). -/
def watched (s : State) (tid n : Nat) : Bool :=
  let t := s.train tid
  let sp := t.split n
  (t.state == .resident || t.state == .parked) && sp.valid && sp.state == .ready && betweenRuns s tid n
    && !eligible s tid n && watchedReason (reasonOf s tid n)

/-- A watched wait has lasted WDOG × 65,536 cycles (R403). -/
def watchOver (s : State) (tid n : Nat) : Bool :=
  let wdog := (s.ctx (s.train tid).ctx).wdog
  wdog != 0 && decide (65536 * wdog ≤ ((s.train tid).split n).watch) && watched s tid n

/-- WATCHDOG (R403): the split parks at its run start and keeps its wait. -/
def execWatchdog (core slot sid : Nat) (s : State) : Result :=
  let n := sid % 4
  let me : Me := { core := core, sched := (slot % 32 + n) % 4, slot := slot % 32, sid := n }
  .next (if watchOver s me.tid n then
    parkSplit me [{ kind := Kind.watchdog.code, trainLevel := true, lane := 0, sid := n, offset := (me.split s).pc,
                    pending := 0, addr := 0, size := 0, info := BitVec.ofNat 32 (reasonOf s me.tid n) }]
      (s.updSplit me fun sp => { sp with watch := 0 })
  else s)

/-! ### A cycle -/

/-- The YIELD of a split has lasted one more cycle in which no other train had an eligible run on its scheduler (R160). -/
def countYield (s : State) (tid n : Nat) (h : Hold) : Hold :=
  match h with
  | .yield issued idle =>
    if (offering s (tid / 32) ((tid % 32 + n) % 4)).any fun x => x.1 != tid then h else .yield issued (idle + 1)
  | _ => h

/-- The waits of every split last one more cycle (R160, R403). -/
def countWaits (s : State) : State :=
  { s with trains := s.trains.map fun (tid, t) =>
      (tid, { t with splits := t.splits.zipIdx.map fun (sp, n) =>
        { sp with hold := countYield s tid n sp.hold,
                  watch := if (s.ctx t.ctx).wdog != 0 && watched s tid n then sp.watch + 1 else 0 } }) }

/-- What the units of the module do at each cycle for what has become due. -/
def housekeep (s : State) : State :=
  traceLate (combWaits (releaseAll (moveAllAccords (leaveCores (noteDraws (endIdles (heldResumes (heldRequests (sweepLaunches (snapStep (staleSaves (freeDiscarded
    (killedStep (killStep (departures (ringStep (dropRays (joinQueues (lateArrivals (parkAllDue s))))))))))))))))))))

/-- The state that an event leads to. -/
def happened (s : State) : Result → State
  | .next s => s
  | _ => s

/-- The messages that are due enter the network, `n` of them at most (R316, R325 to R327). -/
def enterAllDue : Nat → State → State
  | 0, s => s
  | n + 1, s =>
    match s.esMsgs.find? fun (_, x) => entryDue s x with
    | some (id, x) => enterAllDue n (enterMsg id x s)
    | none => s

/-- What the Escapement network does in a cycle: the messages of its tick enter, and the releases, the values, the halt broadcast and
then the pre-emption signals that are due take effect, for the trains to see from the next cycle on (R316, R331). -/
def networkCycle (s : State) : State :=
  let s := enterAllDue s.esMsgs.length s
  let s := s.esMsgs.foldl (fun s (id, _) => happened s (execEscapementReleaseDelivery id s)) s
  let s := s.esMsgs.foldl (fun s (id, _) => happened s (execEscapementBroadcastDelivery id s)) s
  let s := happened s (execHaltBroadcastArrival s)
  (s.wgs.filter fun x => signalDue s x.1).foldl (fun s x => signalArrives x.1 s) s

/-- THE CLOCK: the network ends its cycle, the module cycle moves by one (R439), the timers with it unless the module is halted
(Table 0.4), the profiling counters count (R193), and the units look for what has become due. -/
def clock (s : State) : State :=
  let s := networkCycle s
  let s := profCycle { s with cycle := s.cycle + 1, timer := if s.halted then s.timer else s.timer + 1 }
  housekeep (if s.halted then s else countWaits s)

/-- Some cycles in a row. -/
def clocks : Nat → State → State
  | 0, s => s
  | n + 1, s => clocks n (clock s)

/-- ESCAPEMENT_TICK (R316, R329): the module's clock comes to the next tick boundary, so that the tick counter rises by one. -/
def execEscapementTick (s : State) : Result := .next (clocks (4 - s.cycle % 4) s)

/-! ### Instruction fetch -/

/-- Word `k` of the code section as the instruction cache takes it: where memory no longer holds what the launch started with,
a free value chooses the old word or the new one (R88). The fault of a word that may not be fetched comes with its address
(R365, R370, R404). -/
def fetchWord (tid k : Nat) (s : State) : Except (Kind × Word × Nat) (DWord × State) :=
  let l := s.launch (s.train tid).launch
  let va := l.codeBase + 8 * k
  let g := { trainAgent s tid with combiner := false }
  match checkData s (checkGlobal s g .fetch false va 8) with
  | .error (e, info) => .error (e, info, va)
  | .ok loc =>
    let s := useTranslation g va s
    let now := BitVec.ofNat 64 (readLoc s loc 8)
    let old := ((l.code[k]?).join).getD now
    let (v, s) := s.freeValue
    .ok (if v.getLsbD 0 then now else old, s)

/-- Some words of the code section in order. -/
def fetchWords (tid : Nat) : Nat → Nat → State → Except (Kind × Word × Nat) (List DWord × State)
  | 0, _, s => .ok ([], s)
  | n + 1, k, s =>
    match fetchWord tid k s with
    | .error e => .error e
    | .ok (w, s) =>
      match fetchWords tid n (k + 1) s with
      | .error e => .error e
      | .ok (ws, s) => .ok (w :: ws, s)

/-- The runs that the 128 KiB of an instruction cache keep (Table 0.1): while they do not fit, one goes, at most `n` of them. -/
def keepRuns : Nat → List CachedRun → State → List CachedRun × State
  | 0, l, s => (l, s)
  | n + 1, l, s =>
    if l.foldl (fun k c => k + c.words.length) 0 ≤ 16384 then (l, s)
    else
      let x := s.crowd (l.length - 1) l
      keepRuns n x.1 x.2

/-- The next run of a READY split that the instruction cache of its core lacks. -/
def unfetched (s : State) (tid n : Nat) : Option (Nat × Nat) :=
  let t := s.train tid
  let sp := t.split n
  if (t.state == .resident || t.state == .parked) && sp.valid && sp.state == .ready && !trainStopped s tid
      && betweenRuns s tid n && sp.deferred.isEmpty then
    (runExtent s t sp).filter fun ext => (cachedRun s tid ext).isNone
  else none

/-- INSTRUCTION_FETCH_FILL (R88, R187, R370): the words of a split's next run come into the instruction cache; a run with a
word that may not be fetched faults at train level at its start, once nothing else holds the split. -/
def execInstructionFetchFill (core slot sid : Nat) (s : State) : Result :=
  let n := sid % 4
  let me : Me := { core := core, sched := (slot % 32 + n) % 4, slot := slot % 32, sid := n }
  match unfetched s me.tid n with
  | none => .next s
  | some (start, len) =>
    match fetchWords me.tid len start s with
    | .ok (ws, s) =>
      let c : CachedRun := { launch := (s.train me.tid).launch, start := start, words := ws }
      let x := keepRuns ws.length ((s.core core).icache ++ [c]) s
      .next (x.2.updCore core fun co => { co with icache := x.1 })
    | .error (k, info, va) =>
      let sp := me.split s
      .next (if holdOver (me.train s) sp && sysOver s sp then
        parkSplit me [{ kind := k.code, trainLevel := true, lane := 0, sid := n, offset := sp.pc, pending := 0,
                        addr := BitVec.ofNat 64 va, size := 0, info := info }] s
      else s)

end Sys2Proof.Machine
end

