-- ==== Sys2Proof/Machine/Auto.lean ====
section
/-! DEFINITION. What the step does around an instruction: the choice of the next event where nothing fixes it (DESIGN CHOICE, log 2), and the
set-up in which a given word is the next to issue. -/

namespace Sys2Proof.Machine

/-! ### What comes next -/

/-- The event at the head of the agenda, and the state without it. -/
def nextEvent (s : State) : Option (Instr × State) :=
  match s.agenda with
  | i :: rest => some (i, { s with agenda := rest })
  | [] => none

/-- The next word of the run that the current scheduler issues; none while the compute dies are off (R452). -/
def nextWord (s : State) : Option DWord :=
  match s.cur with
  | none => none
  | some k => if s.boot.off then none else (((s.core (k / 4)).sched (k % 4)).run).bind fun r => r.words.head?

/-- A word that decodes to no instruction (R85 check 1). -/
def badWord (s : State) : State :=
  match issuer s with
  | some me => faultTrain .illegalOpcode 0 me s
  | none => s

/-- After a word has issued, a free value decides whether the other schedulers and units come before the next word of the run:
the specification orders a run only against its own scheduler (R190, DESIGN CHOICE, log 10). -/
def relay (s : State) : State :=
  { s with cur := if (Config.freeValue s.free).getLsbD 0 then none else s.cur, free := s.free + 1 }

/-- The answer of an instruction, with the choice of what comes after it. -/
def settle (r : Result) : Result :=
  match r with
  | .next s => .next (relay s)
  | .fault f => .fault f
  | .refused x => .refused x

/-! ### Events that come by themselves -/

/-- An event that may happen now: what it leads to. -/
abbrev Chance := Unit → Result

/-- The event happens if it changes anything. -/
def Chance.happens (s : State) (c : Chance) : Option Result :=
  match c () with
  | .next s' => if s' = s then none else some (.next s')
  | r => some r

/-- The first of some events that happens. -/
def firstChance (s : State) : List Chance → Option Result
  | [] => none
  | c :: cs => (c.happens s).orElse fun _ => firstChance s cs

/-- A list from a place that a number names, round to that place. -/
def rotate {α : Type} (n : Nat) (l : List α) : List α := l.drop (n % l.length) ++ l.take (n % l.length)

/-- The cores that hold trains, work for them or a run in issue. -/
def busyCores (s : State) : List Nat := (s.trains.map (fun (x : Nat × Train) => x.1 / 32) ++ s.cores.map (·.1)).eraseDups

/-- Splits of a train that hold a valid entry. -/
def validSplits (t : Train) : List Nat := (List.range 4).filter fun n => (t.split n).valid

/-- Trace records, then what has come to its time, but for the messages of the network, which the clock delivers (R300, R398, R420,
R436). -/
def arrivals (s : State) : List Chance :=
  ((s.ctxs.filter fun (x : Nat × Ctx) => !x.2.trQueue.isEmpty).map fun (x : Nat × Ctx) (_ : Unit) => execTraceRecordAppend x.1 s)
    ++ [fun _ => execHaltComplete s]
    ++ ((s.wgs.filter fun x => drainOver s x.1).map fun x (_ : Unit) => execDrainBudgetExpiry x.1 s)
    ++ ((s.shuffles.filter fun x => x.2.pair.isSome).map fun x (_ : Unit) => execVxshufDelivery x.1 s)
    ++ ((s.shuffles.filter fun x => x.2.pair.isNone).filterMap fun x =>
      (pairOf s x.1 x.2).map fun k => ((fun _ => execVxshufPairing k x.1 s) : Chance))

/-- The time-outs of unpaired exchanges that a condition picks (R301). -/
def shuffleTimeouts (s : State) (mine : Who → Bool) : List Chance :=
  (s.shuffles.filter fun x => x.2.pair.isNone && mine x.2.who).map fun x (_ : Unit) => execShuffleTimeout x.1 s

/-- What one split of a train has come to (R160, R163, R301, R403): of two splits that fault in a cycle the lower SID's comes first (R425). -/
def splitDue (s : State) (tid n : Nat) (h : Hold) : List Chance :=
  (match h with
    | .yield _ _ => [fun _ => execYieldLimit (tid / 32) (tid % 32) n s]
    | .trim _ => [fun _ => execRegtrimComplete (tid / 32) (tid % 32) n s]
    | _ => [])
    ++ ((shuffleTimeouts s fun w => w.tid == tid && w.sid == n)
    ++ (if watchOver s tid n then [fun _ => execWatchdog (tid / 32) (tid % 32) n s] else []))

/-- What a train has come to: joins and merges, held arrivals, its splits and, after every fault of the cycle, a save (R61, R69, R155,
R236, R416). -/
def trainDue (s : State) (tid : Nat) (t : Train) : List Chance :=
  (if joinDue t then [fun _ => execJoinRelease (tid / 32) (tid % 32) s] else [])
    ++ (if splitPairs.any fun p => mergeNow s tid p.1 p.2 then [fun _ => execSplitMerge (tid / 32) (tid % 32) s] else [])
    ++ (if t.heldArr.isEmpty then [] else [fun _ => execNbarrHeldCount (tid / 32) (tid % 32) s])
    ++ ((validSplits t).map fun n => splitDue s tid n (t.split n).hold).flatten
    ++ (if t.saveOp.isSome then [fun _ => execContextSaveEffect (tid / 32) (tid % 32) s] else [])

/-- The claims on the granules of the cores in the order of R183: combiner trains, ends and passes, REGGROW requests. -/
def granuleClaims (s : State) : List Chance :=
  (((List.range 56).filter fun k => (combinerDue s k).isSome).map fun k (_ : Unit) => execCombinerStart k s)
    ++ ((s.trains.filter fun x => trainEndDue s x.1).map fun x (_ : Unit) => execTrainEnd (x.1 / 32) (x.1 % 32) s)
    ++ ((s.trains.filter fun x => x.2.mayOpen).map fun x (_ : Unit) => execComputePassStart (x.1 / 32) (x.1 % 32) s)
    ++ (busyCores s).map (fun c (_ : Unit) => execReggrowGrant c s)
    ++ (busyCores s).map (fun c (_ : Unit) => execReggrowStarvation c s)
    ++ (((List.range 56).filter fun k => (passDue s k).isSome).map fun k (_ : Unit) => execCombinerSlotPass k s)

/-- What the regrouping queues and rings have come to (R276, R303). -/
def ringDue (s : State) : List Chance :=
  ((busyCores s).map fun c =>
    (if (s.core c).offer.isSome then [fun _ => execRingOfferWithdrawal c s] else [])
      ++ (if regrpDue s c then [fun _ => execRegrpSort c s] else [])
      ++ (if regrpLimit s c then [fun _ => execRegrpWaitLimit c s] else [])).flatten

/-- What a packet in progress has come to (R380 to R392). -/
def packetDue (s : State) (id : Nat) (p : Packet) : List Chance :=
  (if p.prologue then [fun _ => execPrologueRerun id s, fun _ => execPrologueWatchdog id s] else [])
    ++ (if waitOver s p then [fun _ => execWaitMemoryTimeout id s] else [])
    ++ [fun _ => execPacketBindingsFit id s]
    ++ (if packetDone s id p then [fun _ => execPacketCompletion id s] else [])

/-- Saves, discards and kills that are complete (R398, R399). -/
def leavings (s : State) : List Chance :=
  ((s.wgs.filter fun x => x.2.state == .holding).map fun x (_ : Unit) => execWorkgroupSaved x.1 s)
    ++ ((s.wgs.filter fun x => discardReady s x.1).map fun x (_ : Unit) => execDiscardDone x.1 s)
    ++ (if s.killing.isSome then [fun _ => execKillDone s] else [])

/-- Registrations that are complete, dumps to close, events to deliver, units to retire (R279, R413, R421, R422). -/
def closings (s : State) : List Chance :=
  (s.launches.map fun x =>
    (x.2.registrations.filter (·.isOpen)).map fun r (_ : Unit) => execRegistrationClose x.1 r.seq r.tx r.ty s).flatten
    ++ (match s.dump with
      | some d => [fun _ => execTruncatedDumpClose d.ctx s]
      | none => [])
    ++ (s.handlers.map fun x (_ : Unit) => execEventDelivery x.1 s)
    ++ (((s.unitErrors ++ s.unitFatal).map (·.1)).eraseDups.map fun u (_ : Unit) => execUnitRetirement u s)
    ++ ((s.linkErrors.map (·.1)).eraseDups.map fun l (_ : Unit) => execLinkRetirement l s)

/-- The events that come as soon as their condition holds, in the order in which they are looked for (DESIGN CHOICE, log 10). -/
def dueChances (s : State) : List Chance :=
  arrivals s ++ (s.trains.map fun (tid, t) => trainDue s tid t).flatten ++ shuffleTimeouts s (fun _ => true) ++ granuleClaims s ++ ringDue s
    ++ (s.packets.map fun (id, p) => packetDue s id p).flatten ++ leavings s ++ closings s

/-! ### Events whose time the specification leaves open -/

/-- Values, replies, walks and invalidations of memory operations (R198, R314, R371, R372). -/
def memoryChances (s : State) : List (List Chance) :=
  [s.loads.map fun x (_ : Unit) => execLoadValueArrival x.1 s,
   ((s.updates.map fun u => lineKey u.loc).eraseDups).map fun k (_ : Unit) => execSliceBatchApply k s,
   (s.atoms.filter fun x => x.2.waiting == 0).map fun x (_ : Unit) => execAtomicReply x.1 s,
   s.walks.map fun x (_ : Unit) => execPageWalkComplete x.1 s,
   s.sysOps.map fun x (_ : Unit) => execTlbInvalidationComplete x.1 s,
   s.rests.map fun x (_ : Unit) => execCtxrestLoadComplete x.1 s,
   s.syscalls.map (fun x (_ : Unit) => execFput x.1 s) ++ s.syscalls.map fun x (_ : Unit) => execFatom x.1 s]

/-- The progress of engines: copies, meshlet decoding, matrix operations, rays, blends, raster and rungs. -/
def engineChances (s : State) : List (List Chance) :=
  [s.copyOps.map fun x (_ : Unit) => execCopyCompletion x.1 (x.2.pos + 1) s,
   s.mdecs.map fun x (_ : Unit) => execMdecCompletion x.1 s,
   s.mats.map fun x (_ : Unit) => .next (tileFetch x.1 s),
   s.mats.map fun x (_ : Unit) => execMatrixOpCompletion x.1 s,
   (((s.rays.filter fun x => !x.2.started && !x.2.ended).map fun x => (x.2.core, x.2.launch)).eraseDups).map fun p (_ : Unit) =>
     execRayTrainStart p.1 p.2 s,
   (s.rays.filter fun x => x.2.ended && !x.2.delivered).map fun x (_ : Unit) => execRayRecordDelivery x.1 s,
   s.blends.map fun x (_ : Unit) => execBlendApply x.1 s,
   (s.launches.filter fun x => x.2.graphics).map fun x (_ : Unit) => execRasterPrimitive x.1 s,
   ((s.launches.filter fun x => x.2.graphics).map fun x =>
     ((x.2.pend.map (·.rung)).eraseDups.map fun r =>
       ((x.2.pend.filterMap (·.core) ++ (x.2.freeCore s).toList).eraseDups).map fun c (_ : Unit) =>
         execRungSequencerSpawn x.1 r c s).flatten).flatten,
   (s.launches.map fun x =>
     (((x.2.recs.filter fun r => !r.2.places.isEmpty).map fun r =>
       (((s.trains.filter fun t => (validSplits t.2).any fun n => readsRecord s t.1 n x.1 r.1).map fun t =>
         x.2.recHome r.1 (t.1 / 32) r.2).eraseDups).map fun c (_ : Unit) =>
           execFixativeRefillComplete c (x.1 * 2 ^ 40 + r.1) s).flatten)).flatten]

/-- Accords, the queue processor, placement and the system cores (R288 to R298, R381 to R397, R407). -/
def moduleChances (s : State) : List (List Chance) :=
  [s.accGroups.map fun x (_ : Unit) => execAccordRequestArrival x.1 s,
   s.accQueues.map fun x (_ : Unit) => execAccordBatchDelivery x.1 s,
   s.accReplies.map fun x (_ : Unit) => execAccordReplyArrival x.1 s,
   if (servedLanes s).isEmpty then [] else [fun _ => execQueueProcessorStep s],
   (s.packets.filter fun x => x.2.op == 5).map fun x (_ : Unit) => execWaitMemory x.1 s,
   [fun _ => execWorkgroupPlacement s],
   (s.ctxs.filter fun x => !x.2.events.isEmpty && unhandled s x.2).map fun x (_ : Unit) => .next (systemServe x.1 s),
   ((List.range 32).filter fun q => (autoVictim s q).isSome).map fun q (_ : Unit) => execAutomaticPreemption q s]

/-- Fetches and picks (R187 to R190). -/
def issueChances (s : State) : List (List Chance) :=
  [(s.trains.map fun x =>
     ((validSplits x.2).filter fun n => (unfetched s x.1 n).isSome).map fun n (_ : Unit) =>
       execInstructionFetchFill (x.1 / 32) (x.1 % 32) n s).flatten,
   ((busyCores s).map fun c => (List.range 4).map fun k (_ : Unit) => execSchedulerPick c k s).flatten]

/-- The events whose time is open, from places that a free value names (DESIGN CHOICE, log 10). -/
def openChances (v : Nat) (s : State) : List Chance :=
  ((rotate v (memoryChances s ++ engineChances s ++ moduleChances s ++ issueChances s)).map (rotate (v / 64))).flatten

/-- The event that happens by itself, if one does: one whose condition has come to hold, else one of those whose time is open,
as a free value and the cycle choose. -/
def autoStep (s : State) : Option Result :=
  (firstChance s (dueChances s)).orElse fun _ =>
    let (v, s) := s.freeValue
    firstChance s (openChances (v.toNat + s.cycle + s.cycle / 32) s)

/-! ### Placing a word -/

/-- A launch, a workgroup and a LANE train on core 0 whose run in issue is one word: what loading a program, launching it and
picking its first run lead to (R188, R386 to R390). -/
def fetchSetup (s : State) (w : DWord) : State :=
  match issuer s with
  | some me =>
    { s.updSched me.core me.sched (fun k => { k with run := k.run.map fun r => { r with words := [w], stall := none } }) with
      agenda := [] }
  | none =>
    let m : LaneMask := 0xFFFFFFFFFFFFFFFFFFFFFFFF
    let sp : Split := { valid := true, member := m, active := m }
    let t : Train := { state := .resident, granules := 16, rung := 5, live := m, launch := 1, wg := 1,
                       splits := [sp, {}, {}, {}] }
    let l : Launch := { priv := true, codeWords := 1, code := [some w], wgCount := 1, nextWg := 1, trainsPerWg := 1,
                        runMaps := [(5, [{ start := 0, len := 1 }])], packet := 1 }
    let g : Workgroup := { launch := 1, localSize := 4096, tileCount := 4 }
    let p : Packet := { queue := 0, ctx := 0, op := 9, started := true, launch := some 1 }
    let c : CachedRun := { launch := 1, start := 0, words := [w] }
    let s := (s.setTrain 0 t).updCore 0 fun x => { x with icache := [c] }
    let s := s.updSched 0 0 fun k => { k with run := some { slot := 0, sid := 0, words := [w] } }
    { s with cur := some 0, agenda := [], nextId := max s.nextId 2, launches := Tab.put s.launches 1 l,
             wgs := Tab.put s.wgs 1 g, packets := Tab.put s.packets 1 p, boot := { s.boot with off := false } }

end Sys2Proof.Machine
end

