-- ==== Sys2Proof/Machine/CrossLane.lean ====
section
/-! DEFINITION. The cross-lane majors 0x70 to 0x73 (spec/06_float_convert_crosslane.md R139 to R143; spec/02 R43, R44). -/

namespace Sys2Proof.Machine

/-- The source lane of VSHUF (Table 6.8); a lane outside 0 to 95 is the lane itself. -/
def shufLane (minor l b : Nat) : Nat :=
  let j : Int := match minor with
    | 0 => b
    | 1 => (Nat.xor l (b % 128) : Nat)
    | 2 => (l : Int) - b
    | _ => (l : Int) + b
  if 0 ≤ j && j < 96 then j.toNat else l

/-- VSHUF (R140). -/
def execVshuf (f : FmtV3) (s : State) : Result :=
  issueTrain (.vshuf f) s fun me s t =>
    writeDst t (me.active s) f.d.toNat (intWide f.ty.toNat) fun l =>
      intSrc s t me.sid f.ty.toNat f.a.toNat (shufLane f.minor.toNat l (singleSrc s t me.sid f.b.toNat l))

/-- VBCAST: A of lane j, or of the first active lane when j is 96 or above (R141). -/
def execVbcast (f : FmtV3) (s : State) : Result :=
  issueTrain (.vbcast f) s fun me s t =>
    let act := me.active s
    let b := singleSrc s t me.sid f.b.toNat 0
    let j := if b < 96 then b else (lanesOf act).headD 0
    let x := intSrc s t me.sid f.ty.toNat f.a.toNat j
    writeDst t act f.d.toNat (intWide f.ty.toNat) fun _ => x

/-- The identity of an integer reduction, as the bits of one element (Table 6.9). -/
def redIdentity (minor ty : Nat) : Nat :=
  let w := intWidth ty
  match minor with
  | 1 => if intSigned ty then 2 ^ (w - 1) - 1 else 2 ^ w - 1
  | 2 => if intSigned ty then 2 ^ (w - 1) else 0
  | 3 => 2 ^ w - 1
  | _ => 0

/-- An integer reduction step on elements as bits (Table 6.9). -/
def redStep (minor ty x y : Nat) : Nat :=
  let w := intWidth ty
  let v (z : Nat) : Int := if intSigned ty then signed z w else z
  match minor with
  | 0 => (x + y) % 2 ^ w
  | 1 => if v y < v x then y else x
  | 2 => if v x < v y then y else x
  | 3 => Nat.land x y
  | 4 => Nat.lor x y
  | _ => Nat.xor x y

/-- An integer reduction of values, each element position separately (R142). -/
def redInt (minor ty : Nat) (xs : List Nat) : Nat :=
  mapElems ty fun k => xs.foldl (fun a x => redStep minor ty a (elemNat x (intWidth ty) k)) (redIdentity minor ty)

/-- minimumNumber or maximumNumber of element values; the identity where there is none (R142). -/
def redPick (maxi : Bool) : List FNum → FNum × Flags
  | [] => (.inf maxi, 0)
  | x :: xs => xs.foldl (fun (a, fl) y => let (b, g) := FNum.pick maxi true a y; (b, fl ||| g)) (x, Flags.when x.isSnan Flags.inv)

/-- A floating reduction over the lanes of a mask: the value and the flags (R43, R142). `code l k` is element k of
lane l after the modifiers; minor 6 is the sum, else `maxi` chooses. -/
def redFlt (sum maxi : Bool) (ty r : Nat) (mode : Word) (m : LaneMask) (code : Nat → Nat → Nat) : Nat × Flags :=
  let fmt := floatType ty
  let rd : Rounding := { rnd := r, ftz := modeFtz mode }
  let rs := (List.range (floatElems ty)).map fun k =>
    if sum then
      treeSumF fmt rd (modeDaz mode)
        ((List.range numLanes).map fun l => if m.getLsbD l then code l k else signCode fmt true 0)
    else
      let (x, fl) := redPick maxi ((lanesOf m).map fun l => decodeNum fmt (modeDaz mode) (code l k))
      let (c, g) := roundTo fmt { rd with rnd := 1 } x
      (c, fl ||| g)
  (packElems fmt.width (rs.map (·.1)), rs.foldl (fun a x => a ||| x.2) 0)

/-- The value of VREDU or VSCAN over the lanes of a mask (R142, R143). -/
def redValue (me : Me) (s : State) (t : Train) (f : FmtV3) (m : LaneMask) : Nat × Flags :=
  let minor := f.minor.toNat
  if minor < 6 then
    (redInt minor f.ty.toNat ((lanesOf m).map fun l => intSrc s t me.sid f.ty.toNat f.a.toNat l), 0)
  else
    redFlt (minor == 6) (f.b.toNat == 0x1C1) f.ty.toNat (effectiveRnd t.mode f.rnd.toNat) t.mode m fun l k =>
      fltElem s t me.sid (floatType f.ty.toNat) f.a.toNat l k (f.neg.toNat.testBit 2) (f.abs.toNat.testBit 2)

/-- VREDU: one scalar result; an enabled exception faults every active lane and keeps D (R142). -/
def execVredu (f : FmtV3) (s : State) : Result :=
  issue (.vredu f) s fun me s =>
    let t := me.train s
    let act := me.active s
    let (x, fl) := redValue me s t f act
    let traps := trapLanes t.mode act (fun _ => fl) != 0
    completeFloat me act (fun _ => fl)
      (fun t _ => if traps then t else t.writeSN me.sid (f.d.toNat - 0x100) (redW f == 2) x) s

/-- The lanes of a mask at index at most `l`, or below it. -/
def upTo (m : LaneMask) (l : Nat) (incl : Bool) : LaneMask :=
  m &&& maskOf fun j => decide (j < l) || (incl && j == l)

/-- VSCAN: the reduction over the lanes up to each lane; the flags are that lane's alone (R143). -/
def execVscan (f : FmtV3) (s : State) : Result :=
  issue (.vscan f) s fun me s =>
    let t := me.train s
    let act := me.active s
    let res (l : Nat) : Nat × Flags := redValue me s t f (upTo act l (f.c.toNat == 0x1C0))
    completeFloat me act (fun l => (res l).2)
      (fun t m => writeDst t m f.d.toNat (redW f == 2) fun l => (res l).1) s

end Sys2Proof.Machine
end

