-- ==== Sys2Proof/Machine/VectorInt.lean ====
section
/-! DEFINITION. The vector integer majors 0x10 to 0x2D (spec/05_integer_bit_instructions.md R89 to R112). -/

namespace Sys2Proof.Machine


/-- A lane-wise integer operation of the sources A, B and C (R89 to R91). -/
def vecInt (i : Instr) (f : FmtV3) (op : Nat → Nat → Nat → Nat) (s : State) : Result :=
  issueTrain i s fun me s t =>
    let src (c : BitVec 9) (l : Nat) : Nat := intSrc s t me.sid f.ty.toNat c.toNat l
    writeDst t (me.active s) f.d.toNat (intWide f.ty.toNat) fun l => op (src f.a l) (src f.b l) (src f.c l)

/-- An arithmetic operation of Table 5.3, element by element, fitted by SAT. -/
def vecArith (i : Instr) (f : FmtV3) (op : Int → Int → Int → Int) (s : State) : Result :=
  vecInt i f (fun a b c => intOp op f.ty.toNat (f.sat == 1) a b c) s

/-- VADD: x + y (R95, Table 5.3). -/
def execVadd (f : FmtV3) (s : State) : Result :=
  vecArith (.vadd f) f (fun x y _ => x + y) s

/-- VSUB: x - y (R95, Table 5.3). -/
def execVsub (f : FmtV3) (s : State) : Result :=
  vecArith (.vsub f) f (fun x y _ => x - y) s

/-- VMUL: x times y (R95, Table 5.3). -/
def execVmul (f : FmtV3) (s : State) : Result :=
  vecArith (.vmul f) f (fun x y _ => x * y) s

/-- VMAD: x times y plus z, fitted once (R95, Table 5.3). -/
def execVmad (f : FmtV3) (s : State) : Result :=
  vecArith (.vmad f) f (fun x y z => x * y + z) s

/-- VMIN: the lesser (R95, Table 5.3). -/
def execVmin (f : FmtV3) (s : State) : Result :=
  vecArith (.vmin f) f (fun x y _ => min x y) s

/-- VMAX: the greater (R95, Table 5.3). -/
def execVmax (f : FmtV3) (s : State) : Result :=
  vecArith (.vmax f) f (fun x y _ => max x y) s

/-- VABSD: abs (x - y) (R95, Table 5.3). -/
def execVabsd (f : FmtV3) (s : State) : Result :=
  vecArith (.vabsd f) f (fun x y _ => (((x - y).natAbs : Nat) : Int)) s

/-- VMULHI: the high w bits of the product (R95, Table 5.3). -/
def execVmulhi (f : FmtV3) (s : State) : Result :=
  vecArith (.vmulhi f) f (fun x y _ => mulhi (intWidth f.ty.toNat) x y) s

/-- VAND by minor (R97, Table 5.5). -/
def execVand (f : FmtV3) (s : State) : Result :=
  vecInt (.vand f) f (fun a b _ => andOp f.minor.toNat f.ty.toNat a b) s

/-- VOR by minor (R97, Table 5.5). -/
def execVor (f : FmtV3) (s : State) : Result :=
  vecInt (.vor f) f (fun a b _ => orOp f.minor.toNat f.ty.toNat a b) s

/-- VXOR by minor (R97, Table 5.5). -/
def execVxor (f : FmtV3) (s : State) : Result :=
  vecInt (.vxor f) f (fun a b _ => xorOp f.minor.toNat f.ty.toNat a b) s

/-- VSHL (R98). -/
def execVshl (f : FmtV3) (s : State) : Result :=
  vecInt (.vshl f) f (fun a b _ => shlOp f.ty.toNat a b) s

/-- VSHR (R98). -/
def execVshr (f : FmtV3) (s : State) : Result :=
  vecInt (.vshr f) f (fun a b _ => shrOp f.ty.toNat a b) s

/-- VROT (R98). -/
def execVrot (f : FmtV3) (s : State) : Result :=
  vecInt (.vrot f) f (fun a b _ => rotOp f.minor.toNat f.ty.toNat a b) s

/-- VFUN: the funnel shift (R99). -/
def execVfun (f : FmtV3) (s : State) : Result :=
  vecInt (.vfun f) f (fun a b c => funOp f.minor.toNat a b c) s

/-- VBFX (R100). -/
def execVbfx (f : FmtV3) (s : State) : Result :=
  vecInt (.vbfx f) f (fun a b c => bfxOp f.ty.toNat a b c) s

/-- VBFI (R101): offset and width come from the low register of C. -/
def execVbfi (f : FmtV3) (s : State) : Result :=
  vecInt (.vbfi f) f (fun a b c => bfiOp f.ty.toNat a b c) s

/-- VCLZ (R102, Table 5.6). -/
def execVclz (f : FmtV3) (s : State) : Result :=
  vecInt (.vclz f) f (fun a _ _ => bitOp clz f.ty.toNat a) s

/-- VCTZ (R102, Table 5.6). -/
def execVctz (f : FmtV3) (s : State) : Result :=
  vecInt (.vctz f) f (fun a _ _ => bitOp ctz f.ty.toNat a) s

/-- VFFS (R102, Table 5.6). -/
def execVffs (f : FmtV3) (s : State) : Result :=
  vecInt (.vffs f) f (fun a _ _ => bitOp ffs f.ty.toNat a) s

/-- VPOPC (R102, Table 5.6). -/
def execVpopc (f : FmtV3) (s : State) : Result :=
  vecInt (.vpopc f) f (fun a _ _ => bitOp popc f.ty.toNat a) s

/-- VBREV (R102, Table 5.6). -/
def execVbrev (f : FmtV3) (s : State) : Result :=
  vecInt (.vbrev f) f (fun a _ _ => bitOp brev f.ty.toNat a) s

/-- VCMP: the outcome of each active lane, 0 for the other members, into the mask triple (R103). -/
def execVcmp (f : FmtV3) (s : State) : Result :=
  issueTrain (.vcmp f) s fun me s t =>
    let src (c : BitVec 9) (l : Nat) : Nat := intSrc s t me.sid f.ty.toNat c.toNat l
    t.writeTriple me.sid (f.d.toNat - 0x100)
      (me.active s &&& maskOf fun l => cmpOp f.minor.toNat f.ty.toNat (src f.a l) (src f.b l))

/-- VSEL: A where the triple's bit is 1, else B (R104). -/
def execVsel (f : FmtV3) (s : State) : Result :=
  issueTrain (.vsel f) s fun me s t =>
    let src (c : BitVec 9) (l : Nat) : Nat := intSrc s t me.sid f.ty.toNat c.toNat l
    let m := t.readTriple me.sid (f.c.toNat - 0x100)
    writeDst t (me.active s) f.d.toNat (intWide f.ty.toNat) fun l => if m.getLsbD l then src f.a l else src f.b l

/-- VMOV (R105). -/
def execVmov (f : FmtV3) (s : State) : Result :=
  vecInt (.vmov f) f (fun a _ _ => a) s

/-- VCVTI: from the integer type that MINOR names, with the selector of B (R107). -/
def execVcvti (f : FmtV3) (s : State) : Result :=
  issueTrain (.vcvti f) s fun me s t =>
    writeDst t (me.active s) f.d.toNat (intWide f.ty.toNat) fun l =>
      cvtiOp f.minor.toNat f.ty.toNat (f.sat == 1) (f.b.toNat - 0x1C0)
        (intSrc s t me.sid f.minor.toNat f.a.toNat l)

/-- VMOVI: `.lo` writes IMM to D, `.hi` to the odd register of the pair (R106). -/
def execVmovi (f : FmtVI) (s : State) : Result :=
  issueTrain (.vmovi f) s fun me s t =>
    writeDst t (me.active s) (if f.minor == 0 then f.d.toNat else f.d.toNat + 1) false fun _ => f.imm.toNat

/-- VADDI (R96). -/
def execVaddi (f : FmtVI) (s : State) : Result :=
  issueTrain (.vaddi f) s fun me s t =>
    writeDst t (me.active s) f.d.toNat false fun l => singleSrc s t me.sid f.a.toNat l + f.imm.toNat

/-- VBSINIT: starts the stream state of each active lane (R108, R110). -/
def execVbsinit (f : FmtV3) (s : State) : Result :=
  issueTrain (.vbsinit f) s fun me s t =>
    let act := me.active s
    let q := f.d.toNat
    let sk (l : Nat) : Nat := singleSrc s t me.sid f.b.toNat l % 64
    let w (l : Nat) : Nat := readReg s t me.sid f.a.toNat true l / 2 ^ sk l
    ((t.writeVN act q w 2).writeV act (q + 2) fun l => BitVec.ofNat 32 (64 - sk l)).writeV act (q + 3) fun _ => 0

/-- The train's role carries STREAM (R112); a combiner train has no role. -/
def hasStream (s : State) (t : Train) : Bool :=
  !t.combiner && (((s.launch t.launch).roles[t.role]?).map (·.stream)).getD false

/-- VBSRD: reads the next field of each active lane's stream, in a train of the STREAM role (R111, R112). -/
def execVbsrd (f : FmtV3) (s : State) : Result :=
  issue (.vbsrd f) s fun me s =>
    if !hasStream s (me.train s) then faultTrain .streamRights 0 me s
    else
      retire me (s.updTrain me.tid fun t =>
        let act := me.active s
        let q := f.a.toNat
        let r (l : Nat) : Nat × Nat × Nat × Nat :=
          bsrdOp (readReg s t me.sid q true l) (t.readV (q + 2) l).toNat (t.readV (q + 3) l).toNat
            (singleSrc s t me.sid f.b.toNat l) (readReg s t me.sid f.c.toNat true l)
        let t' := t.writeVN act q (fun l => (r l).2.1) 2
        let t' := t'.writeV act (q + 2) fun l => BitVec.ofNat 32 (r l).2.2.1
        let t' := t'.writeV act (q + 3) fun l => BitVec.ofNat 32 (r l).2.2.2
        writeDst t' act f.d.toNat false fun l => (r l).1)

end Sys2Proof.Machine
end

