-- ==== Sys2Proof/Machine/Dispatch.lean ====
section
/-! DEFINITION. The meaning of every constructor of Instr: one direct call each. -/

namespace Sys2Proof.Machine

/-- Executes an instruction of the run in issue, or lets an event happen. -/
def exec (i : Instr) (s : State) : Host.Outcome State Fault Refusal :=
  match i with
  | .vadd f => Sys2Proof.Machine.execVadd f s
  | .vsub f => Sys2Proof.Machine.execVsub f s
  | .vmul f => Sys2Proof.Machine.execVmul f s
  | .vmulhi f => Sys2Proof.Machine.execVmulhi f s
  | .vmad f => Sys2Proof.Machine.execVmad f s
  | .vmin f => Sys2Proof.Machine.execVmin f s
  | .vmax f => Sys2Proof.Machine.execVmax f s
  | .vabsd f => Sys2Proof.Machine.execVabsd f s
  | .vand f => Sys2Proof.Machine.execVand f s
  | .vor f => Sys2Proof.Machine.execVor f s
  | .vxor f => Sys2Proof.Machine.execVxor f s
  | .vshl f => Sys2Proof.Machine.execVshl f s
  | .vshr f => Sys2Proof.Machine.execVshr f s
  | .vrot f => Sys2Proof.Machine.execVrot f s
  | .vfun f => Sys2Proof.Machine.execVfun f s
  | .vbfx f => Sys2Proof.Machine.execVbfx f s
  | .vbfi f => Sys2Proof.Machine.execVbfi f s
  | .vclz f => Sys2Proof.Machine.execVclz f s
  | .vctz f => Sys2Proof.Machine.execVctz f s
  | .vffs f => Sys2Proof.Machine.execVffs f s
  | .vpopc f => Sys2Proof.Machine.execVpopc f s
  | .vbrev f => Sys2Proof.Machine.execVbrev f s
  | .vcmp f => Sys2Proof.Machine.execVcmp f s
  | .vsel f => Sys2Proof.Machine.execVsel f s
  | .vmov f => Sys2Proof.Machine.execVmov f s
  | .vmovi f => Sys2Proof.Machine.execVmovi f s
  | .vaddi f => Sys2Proof.Machine.execVaddi f s
  | .vcvti f => Sys2Proof.Machine.execVcvti f s
  | .vbsinit f => Sys2Proof.Machine.execVbsinit f s
  | .vbsrd f => Sys2Proof.Machine.execVbsrd f s
  | .sadd f => Sys2Proof.Machine.execSadd f s
  | .ssub f => Sys2Proof.Machine.execSsub f s
  | .smul f => Sys2Proof.Machine.execSmul f s
  | .smulhi f => Sys2Proof.Machine.execSmulhi f s
  | .sand f => Sys2Proof.Machine.execSand f s
  | .sor f => Sys2Proof.Machine.execSor f s
  | .sxor f => Sys2Proof.Machine.execSxor f s
  | .sshl f => Sys2Proof.Machine.execSshl f s
  | .sshr f => Sys2Proof.Machine.execSshr f s
  | .sbfx f => Sys2Proof.Machine.execSbfx f s
  | .sbfi f => Sys2Proof.Machine.execSbfi f s
  | .sclz f => Sys2Proof.Machine.execSclz f s
  | .spopc f => Sys2Proof.Machine.execSpopc f s
  | .sffs f => Sys2Proof.Machine.execSffs f s
  | .smin f => Sys2Proof.Machine.execSmin f s
  | .smax f => Sys2Proof.Machine.execSmax f s
  | .scmp f => Sys2Proof.Machine.execScmp f s
  | .smov f => Sys2Proof.Machine.execSmov f s
  | .smovi f => Sys2Proof.Machine.execSmovi f s
  | .saddi f => Sys2Proof.Machine.execSaddi f s
  | .ssel f => Sys2Proof.Machine.execSsel f s
  | .smcnt f => Sys2Proof.Machine.execSmcnt f s
  | .smfirst f => Sys2Proof.Machine.execSmfirst f s
  | .vfadd f => Sys2Proof.Machine.execVfadd f s
  | .vfsub f => Sys2Proof.Machine.execVfsub f s
  | .vfmul f => Sys2Proof.Machine.execVfmul f s
  | .vfma f => Sys2Proof.Machine.execVfma f s
  | .vfmin f => Sys2Proof.Machine.execVfmin f s
  | .vfmax f => Sys2Proof.Machine.execVfmax f s
  | .vfcmp f => Sys2Proof.Machine.execVfcmp f s
  | .vfclass f => Sys2Proof.Machine.execVfclass f s
  | .vfdiv f => Sys2Proof.Machine.execVfdiv f s
  | .vfsqrt f => Sys2Proof.Machine.execVfsqrt f s
  | .vfrcp f => Sys2Proof.Machine.execVfrcp f s
  | .vfrsq f => Sys2Proof.Machine.execVfrsq f s
  | .vfexp2 f => Sys2Proof.Machine.execVfexp2 f s
  | .vflog2 f => Sys2Proof.Machine.execVflog2 f s
  | .vfsin f => Sys2Proof.Machine.execVfsin f s
  | .vfcos f => Sys2Proof.Machine.execVfcos f s
  | .vfrnd f => Sys2Proof.Machine.execVfrnd f s
  | .vffract f => Sys2Proof.Machine.execVffract f s
  | .vfldexp f => Sys2Proof.Machine.execVfldexp f s
  | .vfcvt f => Sys2Proof.Machine.execVfcvt f s
  | .vcvtfi f => Sys2Proof.Machine.execVcvtfi f s
  | .vcvtif f => Sys2Proof.Machine.execVcvtif f s
  | .vpack f => Sys2Proof.Machine.execVpack f s
  | .vunpk f => Sys2Proof.Machine.execVunpk f s
  | .vfdot2 f => Sys2Proof.Machine.execVfdot2 f s
  | .vshuf f => Sys2Proof.Machine.execVshuf f s
  | .vbcast f => Sys2Proof.Machine.execVbcast f s
  | .vredu f => Sys2Proof.Machine.execVredu f s
  | .vscan f => Sys2Proof.Machine.execVscan f s
  | .vxshuf f => Sys2Proof.Machine.execVxshuf f s
  | .vderiv f => Sys2Proof.Machine.execVderiv f s
  | .vinterp f => Sys2Proof.Machine.execVinterp f s
  | .nop f => Sys2Proof.Machine.execNop f s
  | .br f => Sys2Proof.Machine.execBr f s
  | .brs f => Sys2Proof.Machine.execBrs f s
  | .brv f => Sys2Proof.Machine.execBrv f s
  | .brm f => Sys2Proof.Machine.execBrm f s
  | .call f => Sys2Proof.Machine.execCall f s
  | .ret f => Sys2Proof.Machine.execRet f s
  | .jmpi f => Sys2Proof.Machine.execJmpi f s
  | .sjoin f => Sys2Proof.Machine.execSjoin f s
  | .wait f => Sys2Proof.Machine.execWait f s
  | .exit f => Sys2Proof.Machine.execExit f s
  | .yield f => Sys2Proof.Machine.execYield f s
  | .reggrow f => Sys2Proof.Machine.execReggrow f s
  | .regtrim f => Sys2Proof.Machine.execRegtrim f s
  | .kills f => Sys2Proof.Machine.execKills f s
  | .emitv f => Sys2Proof.Machine.execEmitv f s
  | .emitp f => Sys2Proof.Machine.execEmitp f s
  | .fxrel f => Sys2Proof.Machine.execFxrel f s
  | .tdec f => Sys2Proof.Machine.execTdec f s
  | .tinc f => Sys2Proof.Machine.execTinc f s
  | .ld f => Sys2Proof.Machine.execLd f s
  | .st f => Sys2Proof.Machine.execSt f s
  | .sld f => Sys2Proof.Machine.execSld f s
  | .sst f => Sys2Proof.Machine.execSst f s
  | .atom f => Sys2Proof.Machine.execAtom f s
  | .satom f => Sys2Proof.Machine.execSatom f s
  | .acall f => Sys2Proof.Machine.execAcall f s
  | .pref f => Sys2Proof.Machine.execPref f s
  | .lpin f => Sys2Proof.Machine.execLpin f s
  | .lunpin f => Sys2Proof.Machine.execLunpin f s
  | .blst f => Sys2Proof.Machine.execBlst f s
  | .stkpsh f => Sys2Proof.Machine.execStkpsh f s
  | .stkpop f => Sys2Proof.Machine.execStkpop f s
  | .cpy f => Sys2Proof.Machine.execCpy f s
  | .cpyg f => Sys2Proof.Machine.execCpyg f s
  | .cpys f => Sys2Proof.Machine.execCpys f s
  | .cpyr f => Sys2Proof.Machine.execCpyr f s
  | .cpyx f => Sys2Proof.Machine.execCpyx f s
  | .mdec f => Sys2Proof.Machine.execMdec f s
  | .nbinit f => Sys2Proof.Machine.execNbinit f s
  | .nbarr f => Sys2Proof.Machine.execNbarr f s
  | .nbwait f => Sys2Proof.Machine.execNbwait f s
  | .nbinv f => Sys2Proof.Machine.execNbinv f s
  | .trace f => Sys2Proof.Machine.execTrace f s
  | .mma f => Sys2Proof.Machine.execMma f s
  | .mzero f => Sys2Proof.Machine.execMzero f s
  | .mlda f => Sys2Proof.Machine.execMlda f s
  | .msta f => Sys2Proof.Machine.execMsta f s
  | .mcvt f => Sys2Proof.Machine.execMcvt f s
  | .mqnt f => Sys2Proof.Machine.execMqnt f s
  | .boxt f => Sys2Proof.Machine.execBoxt f s
  | .trit f => Sys2Proof.Machine.execTrit f s
  | .regrp f => Sys2Proof.Machine.execRegrp f s
  | .ringoff f => Sys2Proof.Machine.execRingoff f s
  | .ringtake f => Sys2Proof.Machine.execRingtake f s
  | .rhit f => Sys2Proof.Machine.execRhit f s
  | .arecv f => Sys2Proof.Machine.execArecv f s
  | .areply f => Sys2Proof.Machine.execAreply f s
  | .afail f => Sys2Proof.Machine.execAfail f s
  | .esarr f => Sys2Proof.Machine.execEsarr f s
  | .eswait f => Sys2Proof.Machine.execEswait f s
  | .esbar f => Sys2Proof.Machine.execEsbar f s
  | .esbcst f => Sys2Proof.Machine.execEsbcst f s
  | .esrecv f => Sys2Proof.Machine.execEsrecv f s
  | .esred f => Sys2Proof.Machine.execEsred f s
  | .estick f => Sys2Proof.Machine.execEstick f s
  | .trec f => Sys2Proof.Machine.execTrec f s
  | .clkrd f => Sys2Proof.Machine.execClkrd f s
  | .brk f => Sys2Proof.Machine.execBrk f s
  | .trap f => Sys2Proof.Machine.execTrap f s
  | .syscall f => Sys2Proof.Machine.execSyscall f s
  | .mfsr f => Sys2Proof.Machine.execMfsr f s
  | .mtsr f => Sys2Proof.Machine.execMtsr f s
  | .eret f => Sys2Proof.Machine.execEret f s
  | .fltrd f => Sys2Proof.Machine.execFltrd f s
  | .tresume f => Sys2Proof.Machine.execTresume f s
  | .tkill f => Sys2Proof.Machine.execTkill f s
  | .tsnap f => Sys2Proof.Machine.execTsnap f s
  | .ctxsave f => Sys2Proof.Machine.execCtxsave f s
  | .ctxrest f => Sys2Proof.Machine.execCtxrest f s
  | .espre f => Sys2Proof.Machine.execEspre f s
  | .tlbinv f => Sys2Proof.Machine.execTlbinv f s
  | .haltall f => Sys2Proof.Machine.execHaltall f s
  | .schedulerPick core sched => Sys2Proof.Machine.execSchedulerPick core sched s
  | .splitMerge core slot => Sys2Proof.Machine.execSplitMerge core slot s
  | .joinRelease core slot => Sys2Proof.Machine.execJoinRelease core slot s
  | .yieldLimit core slot sid => Sys2Proof.Machine.execYieldLimit core slot sid s
  | .reggrowGrant core => Sys2Proof.Machine.execReggrowGrant core s
  | .reggrowStarvation core => Sys2Proof.Machine.execReggrowStarvation core s
  | .regtrimComplete core slot sid => Sys2Proof.Machine.execRegtrimComplete core slot sid s
  | .trainEnd core slot => Sys2Proof.Machine.execTrainEnd core slot s
  | .computePassStart core slot => Sys2Proof.Machine.execComputePassStart core slot s
  | .rungSequencerSpawn launch rung core => Sys2Proof.Machine.execRungSequencerSpawn launch rung core s
  | .fixativeRefillComplete core rec => Sys2Proof.Machine.execFixativeRefillComplete core rec s
  | .rasterPrimitive launch => Sys2Proof.Machine.execRasterPrimitive launch s
  | .loadValueArrival id => Sys2Proof.Machine.execLoadValueArrival id s
  | .sliceBatchApply line => Sys2Proof.Machine.execSliceBatchApply line s
  | .atomicReply id => Sys2Proof.Machine.execAtomicReply id s
  | .pageWalkComplete id => Sys2Proof.Machine.execPageWalkComplete id s
  | .tlbInvalidationComplete id => Sys2Proof.Machine.execTlbInvalidationComplete id s
  | .copyCompletion id upTo => Sys2Proof.Machine.execCopyCompletion id upTo s
  | .mdecCompletion id => Sys2Proof.Machine.execMdecCompletion id s
  | .matrixOpCompletion id => Sys2Proof.Machine.execMatrixOpCompletion id s
  | .nbTokenRelease wg bar => Sys2Proof.Machine.execNbTokenRelease wg bar s
  | .nbarrHeldCount core slot => Sys2Proof.Machine.execNbarrHeldCount core slot s
  | .rayTrainStart core launch => Sys2Proof.Machine.execRayTrainStart core launch s
  | .rayRecordDelivery id => Sys2Proof.Machine.execRayRecordDelivery id s
  | .regrpSort core => Sys2Proof.Machine.execRegrpSort core s
  | .regrpWaitLimit core => Sys2Proof.Machine.execRegrpWaitLimit core s
  | .ringOfferWithdrawal core => Sys2Proof.Machine.execRingOfferWithdrawal core s
  | .blendApply id => Sys2Proof.Machine.execBlendApply id s
  | .registrationClose launch prim tx ty => Sys2Proof.Machine.execRegistrationClose launch prim tx ty s
  | .accordRequestArrival id => Sys2Proof.Machine.execAccordRequestArrival id s
  | .accordBatchDelivery cluster => Sys2Proof.Machine.execAccordBatchDelivery cluster s
  | .accordReplyArrival id => Sys2Proof.Machine.execAccordReplyArrival id s
  | .combinerStart cluster => Sys2Proof.Machine.execCombinerStart cluster s
  | .combinerSlotPass cluster => Sys2Proof.Machine.execCombinerSlotPass cluster s
  | .vxshufPairing first second => Sys2Proof.Machine.execVxshufPairing first second s
  | .vxshufDelivery id => Sys2Proof.Machine.execVxshufDelivery id s
  | .shuffleTimeout id => Sys2Proof.Machine.execShuffleTimeout id s
  | .escapementTick => Sys2Proof.Machine.execEscapementTick s
  | .escapementEntry id => Sys2Proof.Machine.execEscapementEntry id s
  | .escapementReleaseDelivery id => Sys2Proof.Machine.execEscapementReleaseDelivery id s
  | .escapementBroadcastDelivery id => Sys2Proof.Machine.execEscapementBroadcastDelivery id s
  | .escapementUncorrectableError id => Sys2Proof.Machine.execEscapementUncorrectableError id s
  | .escapementSignalRepeat id => Sys2Proof.Machine.execEscapementSignalRepeat id s
  | .linkRetirement link => Sys2Proof.Machine.execLinkRetirement link s
  | .correctableError unit => Sys2Proof.Machine.execCorrectableError unit s
  | .unitRetirement unit => Sys2Proof.Machine.execUnitRetirement unit s
  | .watchdog core slot sid => Sys2Proof.Machine.execWatchdog core slot sid s
  | .eventDelivery ctx => Sys2Proof.Machine.execEventDelivery ctx s
  | .truncatedDumpClose ctx => Sys2Proof.Machine.execTruncatedDumpClose ctx s
  | .haltBroadcastArrival => Sys2Proof.Machine.execHaltBroadcastArrival s
  | .haltComplete => Sys2Proof.Machine.execHaltComplete s
  | .contextSaveEffect core slot => Sys2Proof.Machine.execContextSaveEffect core slot s
  | .syscallReply id reply => Sys2Proof.Machine.execSyscallReply id reply s
  | .fput id => Sys2Proof.Machine.execFput id s
  | .fget id bytes => Sys2Proof.Machine.execFget id bytes s
  | .fatom id => Sys2Proof.Machine.execFatom id s
  | .fabricReply id value status => Sys2Proof.Machine.execFabricReply id value status s
  | .traceRecordAppend ctx => Sys2Proof.Machine.execTraceRecordAppend ctx s
  | .doorbell q => Sys2Proof.Machine.execDoorbell q s
  | .queueProcessorStep => Sys2Proof.Machine.execQueueProcessorStep s
  | .launchPacket q => Sys2Proof.Machine.execLaunchPacket q s
  | .launchIndirect q => Sys2Proof.Machine.execLaunchIndirect q s
  | .prologueRerun id => Sys2Proof.Machine.execPrologueRerun id s
  | .prologueWatchdog id => Sys2Proof.Machine.execPrologueWatchdog id s
  | .taskPacket q => Sys2Proof.Machine.execTaskPacket q s
  | .tdecPacket q => Sys2Proof.Machine.execTdecPacket q s
  | .signalPacket q => Sys2Proof.Machine.execSignalPacket q s
  | .waitMemory id => Sys2Proof.Machine.execWaitMemory id s
  | .waitMemoryTimeout id => Sys2Proof.Machine.execWaitMemoryTimeout id s
  | .copyPacket q => Sys2Proof.Machine.execCopyPacket q s
  | .handoverPacket q => Sys2Proof.Machine.execHandoverPacket q s
  | .preemptPoint q => Sys2Proof.Machine.execPreemptPoint q s
  | .packetCompletion id => Sys2Proof.Machine.execPacketCompletion id s
  | .packetBindingsFit id => Sys2Proof.Machine.execPacketBindingsFit id s
  | .workgroupPlacement => Sys2Proof.Machine.execWorkgroupPlacement s
  | .automaticPreemption q => Sys2Proof.Machine.execAutomaticPreemption q s
  | .preemptQueue q => Sys2Proof.Machine.execPreemptQueue q s
  | .resumeQueue q => Sys2Proof.Machine.execResumeQueue q s
  | .preemptionSignalArrival wg => Sys2Proof.Machine.execPreemptionSignalArrival wg s
  | .drainBudgetExpiry wg => Sys2Proof.Machine.execDrainBudgetExpiry wg s
  | .workgroupSaved wg => Sys2Proof.Machine.execWorkgroupSaved wg s
  | .discardDone wg => Sys2Proof.Machine.execDiscardDone wg s
  | .killContext ctx => Sys2Proof.Machine.execKillContext ctx s
  | .killDone => Sys2Proof.Machine.execKillDone s
  | .haltRelease ctx => Sys2Proof.Machine.execHaltRelease ctx s
  | .profctlClr core => Sys2Proof.Machine.execProfctlClr core s
  | .profctlEn core on => Sys2Proof.Machine.execProfctlEn core on s
  | .profilingCapture core slot number => Sys2Proof.Machine.execProfilingCapture core slot number s
  | .leaseWrite ctx value => Sys2Proof.Machine.execLeaseWrite ctx value s
  | .cquotaWrite ctx value => Sys2Proof.Machine.execCquotaWrite ctx value s
  | .barerrClear wg => Sys2Proof.Machine.execBarerrClear wg s
  | .pinmissClear ctx => Sys2Proof.Machine.execPinmissClear ctx s
  | .evlostClear ctx => Sys2Proof.Machine.execEvlostClear ctx s
  | .traceEnable ctx value => Sys2Proof.Machine.execTraceEnable ctx value s
  | .trposClear ctx => Sys2Proof.Machine.execTrposClear ctx s
  | .trlostClear ctx => Sys2Proof.Machine.execTrlostClear ctx s
  | .apertureWrite byHost offset value => Sys2Proof.Machine.execApertureWrite byHost offset value s
  | .hostCxlMemAccess addr write count => Sys2Proof.Machine.execHostCxlMemAccess addr write count s
  | .quoteRequest => Sys2Proof.Machine.execQuoteRequest s
  | .powerOn boot => Sys2Proof.Machine.execPowerOn boot s
  | .hbmTrainingComplete retire => Sys2Proof.Machine.execHbmTrainingComplete retire s
  | .selfTestComplete test => Sys2Proof.Machine.execSelfTestComplete test s
  | .cxlLinkLoss port => Sys2Proof.Machine.execCxlLinkLoss port s
  | .thermalThrottle => Sys2Proof.Machine.execThermalThrottle s
  | .thermalShutdown => Sys2Proof.Machine.execThermalShutdown s
  | .instructionFetchFill core slot sid => Sys2Proof.Machine.execInstructionFetchFill core slot sid s
  | .ctxrestLoadComplete id => Sys2Proof.Machine.execCtxrestLoadComplete id s
  | .uncorrectableErrorFound unit => Sys2Proof.Machine.execUncorrectableErrorFound unit s
  | .linkFlitRetry link => Sys2Proof.Machine.execLinkFlitRetry link s
  | .thermalThrottleEnd => Sys2Proof.Machine.execThermalThrottleEnd s
  | .queueEnable q ridx => Sys2Proof.Machine.execQueueEnable q ridx s
  | .fabricInboundRequest ctx addr req => Sys2Proof.Machine.execFabricInboundRequest ctx addr req s
  | .contextEnd ctx => Sys2Proof.Machine.execContextEnd ctx s

end Sys2Proof.Machine
end

