-- ==== Sys2Proof/Machine/Step.lean ====
section
/-! DEFINITION. One step of the machine: the clock moves, and then one instruction word issues or one event happens. -/

namespace Sys2Proof.Machine

/-- One step (DESIGN CHOICE, log 2): a cycle passes. The event at the head of the agenda comes first; then the current
scheduler issues the next word of its run; then the machine's own rule lets one event happen; else nothing does. -/
def step (s : State) : Host.Outcome State Fault Refusal :=
  match nextEvent s with
  | some (i, s) => exec i (clock s)
  | none =>
    let s := clock s
    match nextWord s with
    | some w =>
      match decodeWord w with
      | .ok (_, i) => settle (exec i s)
      | .error _ => .next (badWord s)
    | none => (autoStep s).getD (.next s)

/-- The state in which the next word of the run in issue is the given one: see `fetchSetup`. -/
def State.withFetchWord (s : State) (nbits w : Nat) : State := fetchSetup s (BitVec.ofNat 64 (w % 2 ^ nbits))

end Sys2Proof.Machine
end

