-- ==== Sys2Proof/Safety.lean ====
section
/-! DEFINITION. The terms that claims use: what counts as a safe state, when a word is about to have its effect, and what a
reader of the machine sees of registers and memory. -/

namespace Sys2Proof.Safety

open Sys2Proof.Machine

/-- Physical memory, the local memories, the tiles and the home 2 windows keep their canonical form. -/
def memoryCanonical (s : State) : Prop :=
  Bytes.wf s.mem = true ∧ (∀ w, Bytes.wf (s.wg w).mem = true ∧ Bytes.wf (s.wg w).acc = true) ∧
    ∀ c, Bytes.wf (s.core c).windows = true

/-- The byte of a memory that `p` names lies among the `n` bytes from `l`, in the same memory. -/
def insideLoc (l : Loc) (n : Nat) (p : Loc) : Bool :=
  match l, p with
  | .phys a _ _ _ _, .phys b _ _ _ _ => decide (a ≤ b) && decide (b < a + n)
  | .loc w a, .loc v b => w == v && decide (a ≤ b) && decide (b < a + n)
  | .acc w a, .acc v b => w == v && decide (a ≤ b) && decide (b < a + n)
  | .window c a, .window d b => c == d && decide (a ≤ b) && decide (b < a + n)
  | _, _ => false

/-- No unsettled access, matrix operation or local engine of its train stands before an access in a space (R199, R237, R339,
R340). -/
def accessFree (me : Me) (s : State) (space : Nat) (store : Bool) : Prop :=
  (unsettled s me.tid || (space == 2 && matsPending s me.tid) || (space == 1 && localBusy s me.tid store)) = false

/-- The instruction is the next word of the run in issue of `me`, no register it reads or writes is awaited (R63, R86), and those
that it reads neither carry a timestamp that is to be observed first nor hold an error (R349, R404). -/
def ready (me : Me) (i : Instr) (s : State) : Prop :=
  issuer s = some me ∧ stallOf i me s = none ∧ operandsOk i me s = true

/-- What comes before a word that could not read its operands as they stand: registers that carry a completion's timestamp are
observed first, by the train alone, and an error in a register that is read faults instead (R349, R404; DESIGN CHOICE, logs 14 and
87). `x` is what the word leads to. -/
def readsFirst (me : Me) (i : Instr) (s : State) (x : Result) : Prop :=
  issuer s = some me → stallOf i me s = none →
    (unreadOf i me s ≠ [] → x = .next (s.updTrain me.tid fun t => t.readCarried (unreadOf i me s))) ∧
    (unreadOf i me s = [] → brokenOf i me s ≠ [] → x = .next (brokenFault (brokenOf i me s) me s))

/-- The next state in which a word has changed its train alone and has retired (R190). -/
def trainDone (me : Me) (s : State) (f : Train → Train) : Result := .next (retire me (s.updTrain me.tid f))

/-- The next state in which a word has written a vector-class destination in its active lanes and has retired (R91, R190). -/
def lanesDone (me : Me) (s : State) (d : Nat) (wide : Bool) (v : Train → Nat → Nat) : Result :=
  trainDone me s fun t => writeDst t (me.active s) d wide (v t)

/-- The record of a train-level fault of the issuing word (R402, R405): kind, address, size and INFO. -/
def trainRecord (kind : Nat) (addr : DWord) (size : Nat) (info : Word) (me : Me) (s : State) : FaultRec :=
  { kind := kind, trainLevel := true, lane := 0, sid := me.sid, offset := (me.split s).pc, pending := 0, addr := addr,
    size := size, info := info }

/-- The next state in which the issuing split has parked with one train-level record, at its own word (R62, R402): kinds whose
word is not issued again. -/
def trainFault (kind : Nat) (info : Word) (me : Me) (s : State) : Result :=
  .next (takeFault s me [trainRecord kind 0 0 info me s])

/-- A train whose sticky bits s120[14:10], as they stand, have taken the flags of an instruction (R41, Table 2.6). -/
def sticky (any : Flags) (t : Train) : Train :=
  if any == 0 then t else { t with sregs := Tab.put t.sregs 120 (stickyOr t.mode any) }

/-- The next state in which a floating word without a trap has written its active lanes, its sticky bits and, under code 6, its
generators, and has retired (R36, R41, R121). `res` gives a lane's value and flags. -/
def floatDone (me : Me) (s : State) (d : Nat) (wide : Bool) (r adv : Nat) (res : Nat → Nat × Flags) : Result :=
  let act := me.active s
  .next (retire me ((s.updTrain me.tid fun t => t.advance r act adv).updTrain me.tid fun t =>
    sticky (orFlags act fun l => (res l).2) (writeDst t act d wide fun l => (res l).1)))

/-- A source of an integer major in a lane of a train (R76, R90). -/
def intOperand (me : Me) (s : State) (ty : BitVec 3) (t : Train) (c : BitVec 9) (l : Nat) : Nat :=
  intSrc s t me.sid ty.toNat c.toNat l

/-- No byte of physical memory, of its timestamps or of a local memory differs (R1, R196, R340). -/
def sameMemory (s t : State) : Prop := t.mem = s.mem ∧ t.lines = s.lines ∧ t.wgs = s.wgs

/-- The vector registers that a train reads differ at most where `p` holds of the slot and the number. -/
def sameV (p : Nat → Nat → Prop) (s t : State) : Prop :=
  ∀ k r l, ¬ p k r → (t.train k).readV r l = (s.train k).readV r l

/-- The scalar registers that a split reads differ at most where `p` holds of the slot and the number. -/
def sameS (p : Nat → Nat → Prop) (s t : State) : Prop :=
  ∀ k sid r, ¬ p k r → (t.train k).readS sid r = (s.train k).readS sid r

end Sys2Proof.Safety
end

