-- ==== Sys2Proof/Certificates/Slice0/Obligations.lean ====
section
/-! DEFINITION. The statements for the provers. Each says what an instruction or the machine does by the rules of spec/; a
statement of completion has as its conclusion the next state that the instruction's own effect leads to. -/

open Sys2Proof Sys2Proof.Machine Sys2Proof.Safety

/-! ### Integer and bit instructions (spec/05) -/

/-- R91, R95: each of VADD, VSUB, VMUL, VMULHI, VMAD, VMIN, VMAX and VABSD, when no register of it is awaited, completes:
every active lane's destination takes the exact integer of Table 5.3, fitted element by element, and the word retires. A source that
carries a completion's timestamp is observed first, and one that holds an error faults (R349, R404; that the first takes a step of its
own is the model's choice, log 14). -/
def Obligations.VectorArithmeticCompletes : Prop :=
  ∀ (me : Me) (s : State) (f : FmtV3),
    let src := intOperand me s f.ty
    let val (op : Int → Int → Int → Int) (t : Train) (l : Nat) : Nat :=
      mapElems f.ty.toNat fun k =>
        fitInt (op (elemInt (src t f.a l) f.ty.toNat k) (elemInt (src t f.b l) f.ty.toNat k)
          (elemInt (src t f.c l) f.ty.toNat k)) f.ty.toNat (f.sat == 1)
    let done (op : Int → Int → Int → Int) : Result := lanesDone me s f.d.toNat (intWide f.ty.toNat) (val op)
    (ready me (.vadd f) s → exec (.vadd f) s = done fun x y _ => x + y) ∧
    (ready me (.vsub f) s → exec (.vsub f) s = done fun x y _ => x - y) ∧
    (ready me (.vmul f) s → exec (.vmul f) s = done fun x y _ => x * y) ∧
    (ready me (.vmad f) s → exec (.vmad f) s = done fun x y z => x * y + z) ∧
    (ready me (.vmin f) s → exec (.vmin f) s = done fun x y _ => min x y) ∧
    (ready me (.vmax f) s → exec (.vmax f) s = done fun x y _ => max x y) ∧
    (ready me (.vabsd f) s → exec (.vabsd f) s = done fun x y _ => (((x - y).natAbs : Nat) : Int)) ∧
    (ready me (.vmulhi f) s →
      exec (.vmulhi f) s = done fun x y _ => x * y / ((2 ^ intWidth f.ty.toNat : Nat) : Int)) ∧
    (∀ i ∈ [Instr.vadd f, Instr.vsub f, Instr.vmul f, Instr.vmad f, Instr.vmin f, Instr.vmax f, Instr.vabsd f, Instr.vmulhi f],
      readsFirst me i s (exec i s))

/-- R91, R97 to R102, R105: VAND, VOR, VXOR, the shifts, VFUN, the field and bit instructions and VMOV complete: every active
lane's destination takes the value that the rule forms from the lane's sources, and the word retires. -/
def Obligations.VectorBitsComplete : Prop :=
  ∀ (me : Me) (s : State) (f : FmtV3),
    let src := intOperand me s f.ty
    let done (op : Nat → Nat → Nat → Nat) : Result :=
      lanesDone me s f.d.toNat (intWide f.ty.toNat) fun t l => op (src t f.a l) (src t f.b l) (src t f.c l)
    (ready me (.vand f) s → exec (.vand f) s = done (fun a b _ => andOp f.minor.toNat f.ty.toNat a b)) ∧
    (ready me (.vor f) s → exec (.vor f) s = done (fun a b _ => orOp f.minor.toNat f.ty.toNat a b)) ∧
    (ready me (.vxor f) s → exec (.vxor f) s = done (fun a b _ => xorOp f.minor.toNat f.ty.toNat a b)) ∧
    (ready me (.vshl f) s → exec (.vshl f) s = done (fun a b _ => shlOp f.ty.toNat a b)) ∧
    (ready me (.vshr f) s → exec (.vshr f) s = done (fun a b _ => shrOp f.ty.toNat a b)) ∧
    (ready me (.vrot f) s → exec (.vrot f) s = done (fun a b _ => rotOp f.minor.toNat f.ty.toNat a b)) ∧
    (ready me (.vfun f) s → exec (.vfun f) s = done (fun a b c => funOp f.minor.toNat a b c)) ∧
    (ready me (.vbfx f) s → exec (.vbfx f) s = done (fun a b c => bfxOp f.ty.toNat a b c)) ∧
    (ready me (.vbfi f) s → exec (.vbfi f) s = done (fun a b c => bfiOp f.ty.toNat a b c)) ∧
    (ready me (.vclz f) s → exec (.vclz f) s = done (fun a _ _ => bitOp clz f.ty.toNat a)) ∧
    (ready me (.vctz f) s → exec (.vctz f) s = done (fun a _ _ => bitOp ctz f.ty.toNat a)) ∧
    (ready me (.vffs f) s → exec (.vffs f) s = done (fun a _ _ => bitOp ffs f.ty.toNat a)) ∧
    (ready me (.vpopc f) s → exec (.vpopc f) s = done (fun a _ _ => bitOp popc f.ty.toNat a)) ∧
    (ready me (.vbrev f) s → exec (.vbrev f) s = done (fun a _ _ => bitOp brev f.ty.toNat a)) ∧
    (ready me (.vmov f) s → exec (.vmov f) s = done (fun a _ _ => a))

/-- R96, R103, R104, R106, R107, R110: VADDI, VCMP, VSEL, VMOVI, VCVTI and VBSINIT complete with the destination that
their rules give: a sum modulo 2^32, a mask triple of the active lanes' outcomes, a choice by the triple's bit, an immediate
into D or the odd register of the pair, a converted value, a started stream state. -/
def Obligations.VectorMovesComplete : Prop :=
  ∀ (me : Me) (s : State) (f : FmtV3) (g : FmtVI),
    let src := intOperand me s f.ty
    let skip (t : Train) (l : Nat) : Nat := singleSrc s t me.sid f.b.toNat l % 64
    (ready me (.vaddi g) s → exec (.vaddi g) s =
      lanesDone me s g.d.toNat false fun t l => singleSrc s t me.sid g.a.toNat l + g.imm.toNat) ∧
    (ready me (.vmovi g) s → exec (.vmovi g) s =
      lanesDone me s (if g.minor = 0 then g.d.toNat else g.d.toNat + 1) false fun _ _ => g.imm.toNat) ∧
    (ready me (.vcmp f) s → exec (.vcmp f) s = trainDone me s fun t => t.writeTriple me.sid (f.d.toNat - 0x100)
      (me.active s &&& maskOf fun l =>
        cmpInt f.minor.toNat (elemInt (src t f.a l) f.ty.toNat 0) (elemInt (src t f.b l) f.ty.toNat 0))) ∧
    (ready me (.vsel f) s → exec (.vsel f) s = lanesDone me s f.d.toNat (intWide f.ty.toNat) fun t l =>
      if (t.readTriple me.sid (f.c.toNat - 0x100)).getLsbD l then src t f.a l else src t f.b l) ∧
    (ready me (.vcvti f) s → exec (.vcvti f) s = lanesDone me s f.d.toNat (intWide f.ty.toNat) fun t l =>
      cvtiOp f.minor.toNat f.ty.toNat (f.sat == 1) (f.b.toNat - 0x1C0) (intSrc s t me.sid f.minor.toNat f.a.toNat l)) ∧
    (ready me (.vbsinit f) s → exec (.vbsinit f) s = trainDone me s fun t =>
      ((t.writeVN (me.active s) f.d.toNat (fun l => readReg s t me.sid f.a.toNat true l / 2 ^ skip t l) 2).writeV
        (me.active s) (f.d.toNat + 2) fun l => BitVec.ofNat 32 (64 - skip t l)).writeV (me.active s) (f.d.toNat + 3) fun _ => 0)

/-- R112: only a train of the role that carries STREAM executes VBSRD: each active lane's field goes to D after the stream state,
which loses the bits read or takes the refill pair and counts it (R111). In any other train it takes STREAM-RIGHTS, kind 0x0B, at
train level with lane field 0, whatever lanes are active: the split parks by R62 with that one record and no register changes.
VBSINIT carries no such right: it completes in every train. -/
def Obligations.StreamReadNeedsRole : Prop :=
  ∀ (me : Me) (s : State) (f : FmtV3),
    let q := f.a.toNat
    let act := me.active s
    let r (t : Train) (l : Nat) : Nat × Nat × Nat × Nat :=
      bsrdOp (readReg s t me.sid q true l) (t.readV (q + 2) l).toNat (t.readV (q + 3) l).toNat
        (singleSrc s t me.sid f.b.toNat l) (readReg s t me.sid f.c.toNat true l)
    (ready me (.vbsrd f) s → hasStream s (me.train s) = true → exec (.vbsrd f) s = trainDone me s fun t =>
      writeDst (((t.writeVN act q (fun l => (r t l).2.1) 2).writeV act (q + 2) fun l => BitVec.ofNat 32 (r t l).2.2.1).writeV
        act (q + 3) fun l => BitVec.ofNat 32 (r t l).2.2.2) act f.d.toNat false fun l => (r t l).1) ∧
    (ready me (.vbsrd f) s → hasStream s (me.train s) = false → exec (.vbsrd f) s = trainFault 0x0B 0 me s ∧
      (me.sid < (me.train s).splits.length → s.holdsEvent me.tid = false → ∃ u, exec (.vbsrd f) s = .next u ∧
        (me.split u).state = .parked ∧ (me.split u).recs = [trainRecord 0x0B 0 0 0 me s] ∧ (me.split u).pc = (me.split s).pc ∧
        sameV (fun _ _ => False) s u ∧ sameS (fun _ _ => False) s u)) ∧
    (ready me (.vbsinit f) s → ∃ v, exec (.vbsinit f) s = trainDone me s v)

/-- R91: in each active lane the destination of a vector-class result receives the lane's value (its low word; the odd register of
a pair its high word), and in every other lane it keeps its value; v0 as a destination discards. With R95 and R97, for 32-bit
registers: VADD, VSUB, VMUL, VAND.and, VOR.or and VXOR.xor without SAT give the sum, difference, product or bitwise value of the
lane's sources as they were before, modulo 2^32. -/
def Obligations.VectorLanesTakeResult : Prop :=
  ∀ (me : Me) (s u : State) (f : FmtV3) (l : Nat), l < 96 → f.d.toNat < 0x100 →
    let d := f.d.toNat
    let old (r : Nat) := (me.train s).readV r l
    let x := old f.a.toNat
    let y := old f.b.toNat
    let on := (me.active s).getLsbD l
    let holds (r : Nat) (v : Word) : Prop := (u.train me.tid).readV r l = if r = 0 then 0 else if on then v else old r
    let plain := f.ty.toNat < 2 ∧ f.sat = 0 ∧ f.minor = 0 ∧ f.a.toNat < 0x100 ∧ f.b.toNat < 0x100
    (∀ v, lanesDone me s d false v = .next u → holds d (BitVec.ofNat 32 (v (me.train s) l))) ∧
    (∀ v, d % 2 = 0 → d + 1 < 0x100 → lanesDone me s d true v = .next u → holds d (BitVec.ofNat 32 (v (me.train s) l)) ∧
      holds (d + 1) (BitVec.ofNat 32 (v (me.train s) l / 2 ^ 32))) ∧
    (plain → ready me (.vadd f) s → exec (.vadd f) s = .next u → holds d (x + y)) ∧
    (plain → ready me (.vsub f) s → exec (.vsub f) s = .next u → holds d (x - y)) ∧
    (plain → ready me (.vmul f) s → exec (.vmul f) s = .next u → holds d (x * y)) ∧
    (plain → ready me (.vand f) s → exec (.vand f) s = .next u → holds d (x &&& y)) ∧
    (plain → ready me (.vor f) s → exec (.vor f) s = .next u → holds d (x ||| y)) ∧
    (plain → ready me (.vxor f) s → exec (.vxor f) s = .next u → holds d (x ^^^ y))

/-- The frame of the integer majors with one vector-class destination (R91): whatever next state they lead to, a stall among
them, memory stands, every scalar register stands, and every vector register but the destination (and its odd partner for a
64-bit TYPE) stands in every lane of every train. -/
def Obligations.VectorIntegerFrame : Prop :=
  ∀ (s u : State) (f : FmtV3) (i : Instr), exec i s = .next u →
    i ∈ [Instr.vadd f, Instr.vsub f, Instr.vmul f, Instr.vmulhi f, Instr.vmad f, Instr.vmin f, Instr.vmax f, Instr.vabsd f, Instr.vand f,
      Instr.vor f, Instr.vxor f, Instr.vshl f, Instr.vshr f, Instr.vrot f, Instr.vfun f, Instr.vbfx f, Instr.vbfi f, Instr.vclz f,
      Instr.vctz f, Instr.vffs f, Instr.vpopc f, Instr.vbrev f, Instr.vsel f, Instr.vmov f, Instr.vcvti f, Instr.vshuf f, Instr.vbcast f] →
    sameMemory s u ∧ sameS (fun _ _ => False) s u ∧
    sameV (fun k r => (∃ me, issuer s = some me ∧ k = me.tid) ∧
      (r = f.d.toNat ∨ (6 ≤ f.ty.toNat ∧ r = f.d.toNat + 1))) s u

/-- R113: the arithmetic and bit majors of the scalar file complete: D takes what the vector major of Table 5.10 forms from the
scalar registers, pairs for a 64-bit TYPE, and the word retires. A source that carries a completion's timestamp is observed first, and
one that holds an error faults (R349, R404; that the first takes a step of its own is the model's choice, log 14). -/
def Obligations.ScalarIntegersComplete : Prop :=
  ∀ (me : Me) (s : State) (f : FmtS3),
    let ty := f.ty.toNat
    let done (v : Nat → Nat → Nat → Nat) : Result := trainDone me s fun t => t.writeSN me.sid f.d.toNat (intWide ty)
      (v (t.readSN me.sid f.a.toNat (intWide ty)) (t.readSN me.sid f.b.toNat (intWide ty))
        (t.readSN me.sid f.c.toNat (intWide ty)))
    let fit (op : Int → Int → Int) (a b _ : Nat) : Nat :=
      mapElems ty fun k => fitInt (op (elemInt a ty k) (elemInt b ty k)) ty (f.sat == 1)
    (ready me (.sadd f) s → exec (.sadd f) s = done (fit fun x y => x + y)) ∧
    (ready me (.ssub f) s → exec (.ssub f) s = done (fit fun x y => x - y)) ∧
    (ready me (.smul f) s → exec (.smul f) s = done (fit fun x y => x * y)) ∧
    (ready me (.smin f) s → exec (.smin f) s = done (fit fun x y => min x y)) ∧
    (ready me (.smax f) s → exec (.smax f) s = done (fit fun x y => max x y)) ∧
    (ready me (.smulhi f) s → exec (.smulhi f) s = done (fit fun x y => x * y / ((2 ^ intWidth ty : Nat) : Int))) ∧
    (ready me (.sand f) s → exec (.sand f) s = done (fun a b _ => Nat.land a b)) ∧
    (ready me (.sor f) s → exec (.sor f) s = done (fun a b _ => Nat.lor a b)) ∧
    (ready me (.sxor f) s → exec (.sxor f) s = done (fun a b _ => Nat.xor a b)) ∧
    (ready me (.sshl f) s → exec (.sshl f) s = done (fun a b _ => shlOp ty a b)) ∧
    (ready me (.sshr f) s → exec (.sshr f) s = done (fun a b _ => shrOp ty a b)) ∧
    (ready me (.sbfx f) s → exec (.sbfx f) s = done (fun a b c => bfxOp ty a b c)) ∧
    (ready me (.sbfi f) s → exec (.sbfi f) s = done (fun a b c => bfiOp ty a b c)) ∧
    (ready me (.sclz f) s → exec (.sclz f) s = done (fun a _ _ => bitOp clz ty a)) ∧
    (ready me (.spopc f) s → exec (.spopc f) s = done (fun a _ _ => bitOp popc ty a)) ∧
    (ready me (.sffs f) s → exec (.sffs f) s = done (fun a _ _ => bitOp ffs ty a)) ∧
    (ready me (.smov f) s → exec (.smov f) s = done (fun a _ _ => a)) ∧
    (∀ i ∈ [Instr.sadd f, Instr.ssub f, Instr.smul f, Instr.smin f, Instr.smax f, Instr.smulhi f, Instr.sand f, Instr.sor f,
      Instr.sxor f, Instr.sshl f, Instr.sshr f, Instr.sbfx f, Instr.sbfi f, Instr.sclz f, Instr.spopc f, Instr.sffs f, Instr.smov f],
      readsFirst me i s (exec i s))

/-- R114, R115, R116: SCMP, SSEL, SMOVI, SADDI, SMCNT and SMFIRST complete: 1 or 0, the choice by a single register that is
not 0, the immediate into D or into the odd register of the pair, a sum modulo 2^32, the number of 1 bits of a triple, and its
lowest 1 bit or 96. -/
def Obligations.ScalarMovesComplete : Prop :=
  ∀ (me : Me) (s : State) (f : FmtS3) (g : FmtSI),
    let w := intWide f.ty.toNat
    let a (t : Train) := t.readSN me.sid f.a.toNat w
    let b (t : Train) := t.readSN me.sid f.b.toNat w
    (ready me (.scmp f) s → exec (.scmp f) s = trainDone me s fun t => t.writeS me.sid f.d.toNat
      (if cmpInt f.minor.toNat (elemInt (a t) f.ty.toNat 0) (elemInt (b t) f.ty.toNat 0) then 1 else 0)) ∧
    (ready me (.ssel f) s → exec (.ssel f) s = trainDone me s fun t => t.writeSN me.sid f.d.toNat w
      (if t.readS me.sid f.c.toNat ≠ 0 then a t else b t)) ∧
    (ready me (.smovi g) s → exec (.smovi g) s = trainDone me s fun t =>
      t.writeS me.sid (if g.minor = 0 then g.d.toNat else g.d.toNat + 1) g.imm) ∧
    (ready me (.saddi g) s → exec (.saddi g) s = trainDone me s fun t =>
      t.writeS me.sid g.d.toNat (t.readS me.sid g.a.toNat + g.imm)) ∧
    (ready me (.smcnt f) s → exec (.smcnt f) s = trainDone me s fun t => t.writeS me.sid f.d.toNat
      (BitVec.ofNat 32 (popc 96 (t.readTriple me.sid f.a.toNat).toNat))) ∧
    (ready me (.smfirst f) s → exec (.smfirst f) s = trainDone me s fun t => t.writeS me.sid f.d.toNat
      (BitVec.ofNat 32 (ctz 96 (t.readTriple me.sid f.a.toNat).toNat)))

/-- R56, R113 for 32-bit registers: SADD, SSUB, SMUL, SAND, SOR, SXOR and SADDI without SAT leave in D, one of s1 to s119 or
s127, the value modulo 2^32 that their sources gave; with D = s0 nothing is written and s0 still reads zero. R40: with D = s120 bits
[14:3] of the value are stored, RND as given when it is 1 to 6 and as 1 when it is 0 or 7, and bits [31:15] read zero. R58, R156: with D
one of s124 to s126 the bits of the lanes that are members of the split, and that no record of its deferral stack holds, are stored, and
the others read 0. s121 to s123 are no destinations (R56). -/
def Obligations.ScalarRegisterTakesResult : Prop :=
  ∀ (me : Me) (s u : State) (f : FmtS3) (g : FmtSI), f.ty.toNat < 2 → f.sat = 0 →
    (f.d.toNat < 121 ∨ (124 ≤ f.d.toNat ∧ me.sid < (me.train s).splits.length) ∨ f.d.toNat = 127) → g.d = f.d →
    let x := (me.train s).readS me.sid f.a.toNat
    let y := (me.train s).readS me.sid f.b.toNat
    let own : LaneMask := (me.split s).member &&& ~~~((me.train s).heldLanes me.sid)
    let holds (v : Word) : Prop := (u.train me.tid).readS me.sid f.d.toNat =
      if f.d = 0 then 0
      else if f.d = 120 then (v &&& 0x7FF8) ||| (if v &&& 7 = 0 ∨ v &&& 7 = 7 then 1 else v &&& 7)
      else if 124 ≤ f.d.toNat ∧ f.d.toNat < 127 then v &&& maskWord own (f.d.toNat - 124)
      else v
    (ready me (.sadd f) s → exec (.sadd f) s = .next u → holds (x + y)) ∧
    (ready me (.ssub f) s → exec (.ssub f) s = .next u → holds (x - y)) ∧
    (ready me (.smul f) s → exec (.smul f) s = .next u → holds (x * y)) ∧
    (ready me (.sand f) s → exec (.sand f) s = .next u → holds (x &&& y)) ∧
    (ready me (.sor f) s → exec (.sor f) s = .next u → holds (x ||| y)) ∧
    (ready me (.sxor f) s → exec (.sxor f) s = .next u → holds (x ^^^ y)) ∧
    (ready me (.saddi g) s → exec (.saddi g) s = .next u → holds ((me.train s).readS me.sid g.a.toNat + g.imm))

/-- The frame of the scalar majors (R113): whatever next state they lead to, memory and every vector register stand, and every
scalar register but D (and D + 1 for a 64-bit TYPE, which SCMP, SMCNT and SMFIRST do not write) stands, for every split of every
train. SMOVI writes D, or the odd register of the pair for `.hi`, and SADDI writes D. -/
def Obligations.ScalarFrame : Prop :=
  ∀ (s u : State) (f : FmtS3) (g : FmtSI) (i : Instr), exec i s = .next u →
    (i ∈ [Instr.smovi g, Instr.saddi g] → sameMemory s u ∧ sameV (fun _ _ => False) s u ∧
      sameS (fun k r => (∃ me, issuer s = some me ∧ k = me.tid) ∧
        r = if i = Instr.smovi g ∧ g.minor ≠ 0 then g.d.toNat + 1 else g.d.toNat) s u) ∧
    (i ∈ [Instr.sadd f, Instr.ssub f, Instr.smul f, Instr.smulhi f, Instr.smin f, Instr.smax f, Instr.sand f, Instr.sor f, Instr.sxor f, Instr.sshl f,
      Instr.sshr f, Instr.sbfx f, Instr.sbfi f, Instr.sclz f, Instr.spopc f, Instr.sffs f, Instr.smov f, Instr.ssel f, Instr.scmp f, Instr.smcnt f, Instr.smfirst f] →
    sameMemory s u ∧ sameV (fun _ _ => False) s u ∧
    sameS (fun k r => (∃ me, issuer s = some me ∧ k = me.tid) ∧
      (r = f.d.toNat ∨ (6 ≤ f.ty.toNat ∧ r = f.d.toNat + 1 ∧ i ∉ [Instr.scmp f, Instr.smcnt f, Instr.smfirst f]))) s u)
/-! ### Floating point and cross-lane instructions (spec/06) -/

/-- R118 to R131, no trap enabled: VFADD, VFSUB, VFMUL, VFMA, VFMIN, VFMAX, VFDIV and VFSQRT complete: every element of an active
lane is the exact operation of Table 6.1's value, rounded once under EffectiveRnd (VFMIN and VFMAX under code 1), and the
sticky bits take the flags. R128: the six functions of Table 6.4 complete too: each element is the function's code for the
element of A, which the model's log 6 leaves free within the error bound, and nothing is rounded under code 6. -/
def Obligations.FloatArithmeticCompletes : Prop :=
  ∀ (me : Me) (s : State) (f : FmtV3), trapEnables (me.train s).mode = 0 →
    let t := me.train s
    let fmt := floatType f.ty.toNat
    let m := floatElems f.ty.toNat
    let num (c : BitVec 9) (pos l k : Nat) : FNum := fltVal me s t f fmt c pos l k
    let done (r : Nat) (sat : Bool) (op : FNum → FNum → FNum → FNum × Flags) : Result :=
      floatDone me s f.d.toNat (floatWide f.ty.toNat) r m fun l =>
        t.roundElems fmt r sat l ((List.range m).map fun k => op (num f.a 2 l k) (num f.b 1 l k) (num f.c 0 l k))
    let r := effectiveRnd t.mode f.rnd.toNat
    let sat := f.sat == 1
    let near (fn : Nat) : Result := floatDone me s f.d.toNat false 1 0 fun l =>
      let rs := (List.range m).map fun k =>
        approxOp fn fmt sat (modeDaz t.mode) (modeFtz t.mode)
          (fltElem s t me.sid fmt f.a.toNat l k (f.neg.toNat.testBit 2) (f.abs.toNat.testBit 2))
      (packElems fmt.width (rs.map (·.1)), rs.foldl (fun m x => m ||| x.2) 0)
    (ready me (.vfadd f) s → exec (.vfadd f) s = done r sat (fun x y _ => invFlag (FNum.add (r == 4) x y))) ∧
    (ready me (.vfsub f) s → exec (.vfsub f) s = done r sat (fun x y _ => invFlag (FNum.add (r == 4) x y.negate))) ∧
    (ready me (.vfmul f) s → exec (.vfmul f) s = done r sat (fun x y _ => invFlag (FNum.mul x y))) ∧
    (ready me (.vfma f) s → exec (.vfma f) s = done r sat (fun x y z => invFlag (FNum.fma (r == 4) x y z))) ∧
    (ready me (.vfdiv f) s → exec (.vfdiv f) s = done r sat (fun x y _ => FNum.div x y)) ∧
    (ready me (.vfsqrt f) s → exec (.vfsqrt f) s = done r sat (fun x _ _ => x.sqrt)) ∧
    (ready me (.vfmin f) s → exec (.vfmin f) s = done 1 false fun x y _ => FNum.pick false (f.minor == 1) x y) ∧
    (ready me (.vfmax f) s → exec (.vfmax f) s = done 1 false fun x y _ => FNum.pick true (f.minor == 1) x y) ∧
    (ready me (.vfrcp f) s → exec (.vfrcp f) s = near 0) ∧ (ready me (.vfrsq f) s → exec (.vfrsq f) s = near 1) ∧
    (ready me (.vfexp2 f) s → exec (.vfexp2 f) s = near 2) ∧ (ready me (.vflog2 f) s → exec (.vflog2 f) s = near 3) ∧
    (ready me (.vfsin f) s → exec (.vfsin f) s = near 4) ∧ (ready me (.vfcos f) s → exec (.vfcos f) s = near 5)

/-- R126, R129 to R138, no trap enabled: VFRND, VFFRACT, VFLDEXP, VFCVT, VCVTFI, VCVTIF, VPACK, VUNPK and VFDOT2 complete with the
value of their rules, and VFCLASS with the class bit of the raw code of A. -/
def Obligations.FloatConversionsComplete : Prop :=
  ∀ (me : Me) (s : State) (f : FmtV3), trapEnables (me.train s).mode = 0 →
    let t := me.train s
    let ty := f.ty.toNat
    let fmt := floatType ty
    let src := floatType f.minor.toNat
    let m := floatElems ty
    let r := effectiveRnd t.mode f.rnd.toNat
    let num (l k : Nat) : FNum := fltVal me s t f fmt f.a 2 l k
    (ready me (.vfrnd f) s → exec (.vfrnd f) s = floatDone me s f.d.toNat (floatWide ty) r m fun l =>
      t.roundElems fmt 1 false l ((List.range m).map fun k => roundIntegral (t.rounding r false l k) (num l k))) ∧
    (ready me (.vffract f) s → exec (.vffract f) s = floatDone me s f.d.toNat (floatWide ty) 1 0 fun l =>
      t.roundElems fmt 4 false l ((List.range m).map fun k => fractNum (num l k))) ∧
    (ready me (.vfldexp f) s → exec (.vfldexp f) s = floatDone me s f.d.toNat (floatWide ty) r 1 fun l =>
      t.roundElems fmt r (f.sat == 1) l [ldexpNum (num l 0) (signed (singleSrc s t me.sid f.b.toNat l) 32)]) ∧
    (ready me (.vfcvt f) s →
      let sel := f.b.toNat - 0x1C0
      let n := min m (floatElems f.minor.toNat - sel)
      exec (.vfcvt f) s = floatDone me s f.d.toNat (floatWide ty) r n fun l =>
        t.roundElems fmt r (f.sat == 1) l ((List.range n).map fun k => carryNum (fltVal me s t f src f.a 2 l (k + sel)))) ∧
    (ready me (.vcvtfi f) s → exec (.vcvtfi f) s = floatDone me s f.d.toNat (intWide ty) r 1 fun l =>
      toIntOp (t.rounding r false l 0) ty (f.sat == 1) (fltVal me s t f src f.a 2 l 0)) ∧
    (ready me (.vcvtif f) s → exec (.vcvtif f) s = floatDone me s f.d.toNat (floatWide ty) r 1 fun l =>
      t.roundElems fmt r false l
        [(FNum.ofInt (elemInt (intSrc s t me.sid f.minor.toNat f.a.toNat l) f.minor.toNat 0), 0)]) ∧
    (ready me (.vpack f) s →
      let pf := packFmt f.minor.toNat
      let wide := f.minor == 4
      exec (.vpack f) s = floatDone me s f.d.toNat wide r 2 fun l =>
        let v := t.roundElems pf r (f.sat == 1) l
          [carryNum (fltVal me s t f .f32 f.a 2 l 0), carryNum (fltVal me s t f .f32 f.b 1 l 0)]
        (replaceBits (if wide then 64 else 32) (readReg s t me.sid f.d.toNat wide l) (2 * pf.width * (f.c.toNat - 0x1C0))
          (2 * pf.width) v.1, v.2)) ∧
    (ready me (.vunpk f) s → exec (.vunpk f) s = floatDone me s f.d.toNat false 1 0 fun l =>
      t.roundElems .f32 1 false l [carryNum (unpackNum me s t f l)]) ∧
    (ready me (.vfdot2 f) s → exec (.vfdot2 f) s = floatDone me s f.d.toNat false r 1 fun l =>
      let p (k : Nat) : FNum × Bool := FNum.mul (fltVal me s t f fmt f.a 2 l k) (fltVal me s t f fmt f.b 1 l k)
      let z := fltVal me s t f .f32 f.c 0 l 0
      let q := FNum.add (r == 4) (p 0).1 (p 1).1
      let e := FNum.add (r == 4) q.1 z
      let clash := (p 0).1.clash (p 1).1 || (p 0).1.clash z || (p 1).1.clash z
      t.roundElems .f32 r (f.sat == 1) l [(e.1, Flags.when ((p 0).2 || (p 1).2 || q.2 || e.2 || clash) Flags.inv)]) ∧
    (ready me (.vfclass f) s → exec (.vfclass f) s = lanesDone me s f.d.toNat false fun t l =>
      2 ^ classBit fmt (fltElem s t me.sid fmt f.a.toNat l 0 false false))

/-- R125, R140 to R143, R175, R176, no trap enabled: VFCMP writes the outcomes of its active lanes into the mask triple, VSHUF
and VBCAST read A in the lane of Table 6.8 and in lane j, VREDU reduces the active lanes into scalar registers, VSCAN gives
each lane the reduction up to it, VDERIV differences across the quad, and VINTERP the weighted sum of vertex values. -/
def Obligations.CrossLaneCompletes : Prop :=
  ∀ (me : Me) (s : State) (f : FmtV3), trapEnables (me.train s).mode = 0 →
    let t := me.train s
    let ty := f.ty.toNat
    let act := me.active s
    (ready me (.vfcmp f) s →
      let n := f.d.toNat - 0x100
      let res (l : Nat) : Bool × Flags :=
        cmpFlt f.minor.toNat (fltVal me s t f (floatType ty) f.a 2 l 0) (fltVal me s t f (floatType ty) f.b 1 l 0)
      exec (.vfcmp f) s = trainDone me s fun t => sticky (orFlags act fun l => (res l).2)
        (t.writeTriple me.sid n (act &&& maskOf fun l => (res l).1))) ∧
    (ready me (.vshuf f) s → exec (.vshuf f) s = lanesDone me s f.d.toNat (intWide ty) fun t l =>
      intSrc s t me.sid ty f.a.toNat (shufLane f.minor.toNat l (singleSrc s t me.sid f.b.toNat l))) ∧
    (ready me (.vbcast f) s → exec (.vbcast f) s = lanesDone me s f.d.toNat (intWide ty) fun t _ =>
      let j := singleSrc s t me.sid f.b.toNat 0
      intSrc s t me.sid ty f.a.toNat (if j < 96 then j else (lanesOf act).headD 0)) ∧
    (ready me (.vredu f) s →
      let v := redValue me s t f act
      exec (.vredu f) s = trainDone me s fun t => sticky (orFlags act fun _ => v.2)
        (t.writeSN me.sid (f.d.toNat - 0x100) (redW f == 2) v.1)) ∧
    (ready me (.vscan f) s →
      let v (l : Nat) : Nat × Flags := redValue me s t f (upTo act l (f.c.toNat == 0x1C0))
      exec (.vscan f) s = trainDone me s fun t => sticky (orFlags act fun l => (v l).2)
        (writeDst t act f.d.toNat (redW f == 2) fun l => (v l).1)) ∧
    (ready me (.vderiv f) s → exec (.vderiv f) s = floatDone me s f.d.toNat false 1 0 fun l =>
      let p := derivLanes f.minor.toNat l
      t.roundElems .f32 1 false l
        [invFlag (FNum.add false (fltVal me s t f .f32 f.a 2 p.1 0) (fltVal me s t f .f32 f.a 2 p.2 0).negate)]) ∧
    (ready me (.vinterp f) s → exec (.vinterp f) s = lanesDone me s f.d.toNat false fun t l =>
      (interpAt s t l (f.a.toNat - 0x180) (fltElem s t me.sid .f32 f.b.toNat l 0 false false)
        (fltElem s t me.sid .f32 f.c.toNat l 0 false false)).toNat)

/-- R41, R121, R142, R143: where a lane of a floating instruction raises a flag whose trap is enabled, the instruction takes FP-TRAP:
the split parks with one record for each such lane, of kind 0x10 with the lane's flags as INFO, in ascending lanes, and in those
lanes every vector register keeps its value: VFADD, VFSUB, VFMUL, VFMA, VFMIN, VFMAX, VFDIV, VFSQRT, the six functions of R128, VFRND,
VFFRACT, VFLDEXP, VFCVT, VCVTFI, VCVTIF, VPACK, VUNPK, VFDOT2, VDERIV and VSCAN. VFCMP keeps the lane's bit of its triple. In VREDU every
active lane faults, and every scalar register below s120 keeps its value. A handler that holds an event parks by R421 instead. -/
def Obligations.FloatTrapKeepsDestination : Prop :=
  ∀ (me : Me) (s : State) (f : FmtV3) (i : Instr) (flags : Nat → Flags), ready me i s →
    let t := me.train s
    let ty := f.ty.toNat
    let fmt := floatType ty
    let src := floatType f.minor.toNat
    let m := floatElems ty
    let r := effectiveRnd t.mode f.rnd.toNat
    let sat := f.sat == 1
    let num (c : BitVec 9) (pos l k : Nat) : FNum := fltVal me s t f fmt c pos l k
    let each (r : Nat) (sat : Bool) (op : FNum → FNum → FNum → FNum × Flags) (l : Nat) : Flags :=
      (t.roundElems fmt r sat l ((List.range m).map fun k => op (num f.a 2 l k) (num f.b 1 l k) (num f.c 0 l k))).2
    let near (fn l : Nat) : Flags := ((List.range m).map fun k =>
      approxOp fn fmt sat (modeDaz t.mode) (modeFtz t.mode)
        (fltElem s t me.sid fmt f.a.toNat l k (f.neg.toNat.testBit 2) (f.abs.toNat.testBit 2))).foldl (fun m x => m ||| x.2) 0
    let cvt (l : Nat) : Flags :=
      let sel := f.b.toNat - 0x1C0
      (t.roundElems fmt r sat l ((List.range (min m (floatElems f.minor.toNat - sel))).map fun k =>
        carryNum (fltVal me s t f src f.a 2 l (k + sel)))).2
    let pack (l : Nat) : Flags := (t.roundElems (packFmt f.minor.toNat) r sat l
      [carryNum (fltVal me s t f .f32 f.a 2 l 0), carryNum (fltVal me s t f .f32 f.b 1 l 0)]).2
    let dot (l : Nat) : Flags :=
      let p (k : Nat) : FNum × Bool := FNum.mul (num f.a 2 l k) (num f.b 1 l k)
      let z := fltVal me s t f .f32 f.c 0 l 0
      let q := FNum.add (r == 4) (p 0).1 (p 1).1
      let e := FNum.add (r == 4) q.1 z
      let clash := (p 0).1.clash (p 1).1 || (p 0).1.clash z || (p 1).1.clash z
      (t.roundElems .f32 r sat l [(e.1, Flags.when ((p 0).2 || (p 1).2 || q.2 || e.2 || clash) Flags.inv)]).2
    let deriv (l : Nat) : Flags :=
      let p := derivLanes f.minor.toNat l
      (t.roundElems .f32 1 false l
        [invFlag (FNum.add false (fltVal me s t f .f32 f.a 2 p.1 0) (fltVal me s t f .f32 f.a 2 p.2 0).negate)]).2
    (i, flags) ∈ [
      (Instr.vfadd f, each r sat fun x y _ => invFlag (FNum.add (r == 4) x y)),
      (Instr.vfsub f, each r sat fun x y _ => invFlag (FNum.add (r == 4) x y.negate)),
      (Instr.vfmul f, each r sat fun x y _ => invFlag (FNum.mul x y)),
      (Instr.vfma f, each r sat fun x y z => invFlag (FNum.fma (r == 4) x y z)),
      (Instr.vfdiv f, each r sat fun x y _ => FNum.div x y), (Instr.vfsqrt f, each r sat fun x _ _ => x.sqrt),
      (Instr.vfmin f, each 1 false fun x y _ => FNum.pick false (f.minor == 1) x y),
      (Instr.vfmax f, each 1 false fun x y _ => FNum.pick true (f.minor == 1) x y),
      (Instr.vfrcp f, near 0), (Instr.vfrsq f, near 1), (Instr.vfexp2 f, near 2), (Instr.vflog2 f, near 3),
      (Instr.vfsin f, near 4), (Instr.vfcos f, near 5),
      (Instr.vfrnd f, fun l => (t.roundElems fmt 1 false l ((List.range m).map fun k =>
        roundIntegral (t.rounding r false l k) (num f.a 2 l k))).2),
      (Instr.vffract f, fun l => (t.roundElems fmt 4 false l ((List.range m).map fun k => fractNum (num f.a 2 l k))).2),
      (Instr.vfldexp f, fun l => (t.roundElems fmt r sat l
        [ldexpNum (num f.a 2 l 0) (signed (singleSrc s t me.sid f.b.toNat l) 32)]).2),
      (Instr.vfcvt f, cvt),
      (Instr.vcvtfi f, fun l => (toIntOp (t.rounding r false l 0) ty sat (fltVal me s t f src f.a 2 l 0)).2),
      (Instr.vcvtif f, fun l => (t.roundElems fmt r false l
        [(FNum.ofInt (elemInt (intSrc s t me.sid f.minor.toNat f.a.toNat l) f.minor.toNat 0), 0)]).2),
      (Instr.vpack f, pack), (Instr.vunpk f, fun l => (t.roundElems .f32 1 false l [carryNum (unpackNum me s t f l)]).2),
      (Instr.vfdot2 f, dot), (Instr.vderiv f, deriv),
      (Instr.vscan f, fun l => (redValue me s t f (upTo (me.active s) l (f.c.toNat == 0x1C0))).2),
      (Instr.vredu f, fun _ => (redValue me s t f (me.active s)).2),
      (Instr.vfcmp f, fun l => (cmpFlt f.minor.toNat (num f.a 2 l 0) (num f.b 1 l 0)).2)] →
    let traps := trapLanes t.mode (me.active s) flags
    traps ≠ 0 → s.holdsEvent me.tid = false → me.sid < t.splits.length →
    ∃ u, exec i s = .next u ∧ (u.train me.tid).state = .parked ∧ (me.split u).state = .parked ∧
      (me.split u).recs = (lanesOf traps).map (fun l =>
        { trainRecord 0x10 0 0 ((flags l).setWidth 32) me s with trainLevel := false, lane := l }) ∧
      (∀ l r, l < 96 → traps.getLsbD l = true → (u.train me.tid).readV r l = t.readV r l) ∧
      (i = .vredu f → traps = me.active s ∧ ∀ r, r < 120 → (u.train me.tid).readS me.sid r = t.readS me.sid r) ∧
      (i = .vfcmp f → let n := f.d.toNat - 0x100
        n + 3 ≤ 120 → ∀ l, l < 96 → traps.getLsbD l = true →
          ((u.train me.tid).readTriple me.sid n).getLsbD l = (t.readTriple me.sid n).getLsbD l)

/-- The frame of the floating majors with a vector-class destination (R40, R41, R91, R121): whatever next state they lead to, a
stall or FP-TRAP among them, memory stands; every scalar register but s120 stands, and of s120 at most the sticky bits [14:10]
change; every vector register but the destination (and its odd partner where the result is 64 bits) stands; the generators
change only under rounding code 6. -/
def Obligations.FloatFrame : Prop :=
  ∀ (s u : State) (f : FmtV3) (i : Instr) (wide : Bool), exec i s = .next u →
    (i, wide) ∈ [
      (Instr.vfadd f, floatWide f.ty.toNat), (Instr.vfsub f, floatWide f.ty.toNat),
      (Instr.vfmul f, floatWide f.ty.toNat), (Instr.vfma f, floatWide f.ty.toNat),
      (Instr.vfmin f, floatWide f.ty.toNat), (Instr.vfmax f, floatWide f.ty.toNat),
      (Instr.vfdiv f, floatWide f.ty.toNat), (Instr.vfsqrt f, floatWide f.ty.toNat),
      (Instr.vfrnd f, floatWide f.ty.toNat), (Instr.vffract f, floatWide f.ty.toNat),
      (Instr.vfldexp f, floatWide f.ty.toNat), (Instr.vfcvt f, floatWide f.ty.toNat),
      (Instr.vcvtif f, floatWide f.ty.toNat), (Instr.vcvtfi f, intWide f.ty.toNat), (Instr.vpack f, f.minor == 4),
      (Instr.vscan f, redW f == 2), (Instr.vfrcp f, false), (Instr.vfrsq f, false), (Instr.vfexp2 f, false),
      (Instr.vflog2 f, false), (Instr.vfsin f, false), (Instr.vfcos f, false), (Instr.vunpk f, false),
      (Instr.vfdot2 f, false), (Instr.vderiv f, false), (Instr.vfclass f, false), (Instr.vinterp f, false)] →
    sameMemory s u ∧ sameS (fun _ r => r = 120) s u ∧
    (∀ k, (u.train k).mode &&& ~~~0x7C00 = (s.train k).mode &&& ~~~0x7C00) ∧
    (∀ k, effectiveRnd (s.train k).mode f.rnd.toNat ≠ 6 → (u.train k).gens = (s.train k).gens) ∧
    sameV (fun k r => (∃ me, issuer s = some me ∧ k = me.tid) ∧ (r = f.d.toNat ∨ (wide = true ∧ r = f.d.toNat + 1))) s u
/-! ### Control (spec/07) -/

/-- R147 to R150: NOP retires; BR, BRS, BRM and CALL leave the split at the target, the word offset of the branch plus OFFSET,
where their condition holds, else at the next word; CALL writes the next word's offset to s127; RET and JMPI leave it at the
word offset in s127 or sN when that is a run start of the train's rung inside the code section, and take ILLEGAL-FIELD where it
is none. -/
def Obligations.BranchesComplete : Prop :=
  ∀ (me : Me) (s : State) (f : FmtC) (x : FmtX),
    let t := me.train s
    let pc := (me.split s).pc
    let target := ((pc : Int) + f.offset.toInt).toNat
    let v := t.readS me.sid f.sa.toNat
    let m := t.readTriple me.sid f.sa.toNat
    let act := me.active s
    let went (b : Bool) : Result := .next (goto (if b then target else pc + 1) me s)
    (ready me (.nop x) s → exec (.nop x) s = trainDone me s fun t => t) ∧
    (ready me (.br f) s → exec (.br f) s = went true) ∧
    (ready me (.brs f) s → f.cond = 1 → exec (.brs f) s = went (v == 0)) ∧
    (ready me (.brs f) s → f.cond = 2 → exec (.brs f) s = went (v != 0)) ∧
    (ready me (.brs f) s → f.cond = 3 → exec (.brs f) s = went (v.toInt < 0)) ∧
    (ready me (.brs f) s → f.cond = 4 → exec (.brs f) s = went (0 ≤ v.toInt)) ∧
    (ready me (.brs f) s → f.cond = 5 → exec (.brs f) s = went (0 < v.toInt)) ∧
    (ready me (.brs f) s → f.cond = 6 → exec (.brs f) s = went (v.toInt ≤ 0)) ∧
    (ready me (.brm f) s → f.cond = 0 → exec (.brm f) s = went (act &&& m != 0)) ∧
    (ready me (.brm f) s → f.cond = 1 → exec (.brm f) s = went (act &&& ~~~m == 0)) ∧
    (ready me (.brm f) s → f.cond = 2 → exec (.brm f) s = went (act &&& m == 0)) ∧
    (ready me (.call f) s → exec (.call f) s = .next (goto target me
      (s.updTrain me.tid fun t => t.writeS me.sid 127 (BitVec.ofNat 32 (pc + 1))))) ∧
    (ready me (.ret f) s → isTarget s t (t.readS me.sid 127).toNat = true →
      exec (.ret f) s = .next (goto (t.readS me.sid 127).toNat me s)) ∧
    (ready me (.jmpi f) s → isTarget s t v.toNat = true → exec (.jmpi f) s = .next (goto v.toNat me s)) ∧
    (ready me (.ret f) s → isTarget s t (t.readS me.sid 127).toNat = false → exec (.ret f) s = trainFault 0x02 0 me s) ∧
    (ready me (.jmpi f) s → isTarget s t v.toNat = false → exec (.jmpi f) s = trainFault 0x02 0 me s)

/-- R151, R153: BRV with taken lanes T (ACTIVE and the triple for condition 0, else ACTIVE without it) and the others F. Where one
side is empty the split goes where the other goes. Where neither is and a split table entry is free, the lowest free entry
becomes a READY split of the lanes F at the next word, formed in this cycle, and the issuing split keeps T at the target. Where none is free and
fewer than eight records are held, F is deferred as a branch record. With eight records it takes STACK-OVERFLOW, 0x14. -/
def Obligations.DivergenceCompletes : Prop :=
  ∀ (me : Me) (s : State) (f : FmtC), ready me (.brv f) s →
    let t := me.train s
    let sp := t.split me.sid
    let act := me.active s
    let m := t.readTriple me.sid f.sa.toNat
    let taken := if f.cond = 0 then act &&& m else act &&& ~~~m
    let fall := act &&& ~~~taken
    let target := ((sp.pc : Int) + f.offset.toInt).toNat
    (taken = 0 → exec (.brv f) s = .next (goto (sp.pc + 1) me s)) ∧
    (taken ≠ 0 → fall = 0 → exec (.brv f) s = .next (goto target me s)) ∧
    (taken ≠ 0 → fall ≠ 0 → ∀ n, t.freeSplit = some n →
      exec (.brv f) s = .next (goto target me (s.updTrain me.tid fun t =>
        (t.setSplit me.sid { sp with member := sp.member &&& ~~~fall, active := taken }).setSplit n
          { valid := true, pc := sp.pc + 1, member := fall, active := fall, born := s.cycle }))) ∧
    (taken ≠ 0 → fall ≠ 0 → t.freeSplit = none → t.stack.length < 8 →
      exec (.brv f) s = .next (goto target me (s.updTrain me.tid fun t =>
        { t.setSplit me.sid { sp with active := taken } with
          stack := t.stack ++ [{ join := false, sid := me.sid, pc := sp.pc + 1, lanes := fall }] }))) ∧
    (taken ≠ 0 → fall ≠ 0 → t.freeSplit = none → 8 ≤ t.stack.length → exec (.brv f) s =
      .next (faultWith s me [trainRecord 0x14 0 0 0 me s]))

/-- R154: SJOIN at word p takes the split's records from the top. With none it waits in JOINWAIT at p + 1. With a branch record on
top it resumes that record's lanes at its word and leaves a join record of its own lanes. With a join record of p + 1 on top it
joins that record's lanes to its own and goes on with the next record, as the same loop does with the split and the stack after it;
with another join record it waits at p + 1. -/
def Obligations.JoinCompletes : Prop :=
  ∀ (me : Me) (s : State) (f : FmtC), ready me (.sjoin f) s → me.sid < (me.train s).splits.length →
    let t := me.train s
    let sp := t.split me.sid
    ∃ u, exec (.sjoin f) s = .next u ∧ u.cur = none ∧
      (popRec me.sid t.stack = none →
        (me.split u).state = .joinwait ∧ (me.split u).pc = sp.pc + 1 ∧ (me.split u).active = sp.active ∧
          (me.train u).stack = t.stack) ∧
      (∀ r rest, popRec me.sid t.stack = some (r, rest) → r.join = false →
        (me.split u).active = r.lanes ∧ (me.split u).pc = r.pc ∧ (me.split u).state = sp.state ∧
          (me.train u).stack = rest ++ [{ join := true, sid := me.sid, pc := sp.pc + 1, lanes := sp.active }]) ∧
      (∀ r rest, popRec me.sid t.stack = some (r, rest) → r.join = true → r.pc ≠ sp.pc + 1 →
        (me.split u).state = .joinwait ∧ (me.split u).pc = sp.pc + 1 ∧ (me.split u).active = sp.active ∧
          (me.train u).stack = t.stack) ∧
      (∀ r rest, popRec me.sid t.stack = some (r, rest) → r.join = true → r.pc = sp.pc + 1 →
        popRec me.sid rest = none →
        (me.split u).state = .joinwait ∧ (me.split u).pc = sp.pc + 1 ∧ (me.split u).active = sp.active ||| r.lanes ∧
          (me.train u).stack = rest) ∧
      (let x := sjoinLoop sp.pc me.sid (t.stack.length + 1) sp t.stack;
        (me.split u).state = x.1.state ∧ (me.split u).pc = x.1.pc ∧ (me.split u).active = x.1.active ∧ (me.train u).stack = x.2) ∧
      (∀ r rest, popRec me.sid t.stack = some (r, rest) → r.join = true → r.pc = sp.pc + 1 →
        let x := sjoinLoop sp.pc me.sid (rest.length + 1) { sp with active := sp.active ||| r.lanes } rest
        (me.split u).state = x.1.state ∧ (me.split u).pc = x.1.pc ∧ (me.split u).active = x.1.active ∧
          (me.train u).stack = x.2) ∧
      (∀ r rest q more, popRec me.sid t.stack = some (r, rest) → r.join = true → r.pc = sp.pc + 1 →
        popRec me.sid rest = some (q, more) → q.join = false →
        (me.split u).active = q.lanes ∧ (me.split u).pc = q.pc ∧ (me.split u).state = sp.state ∧
          (me.train u).stack = more ++ [{ join := true, sid := me.sid, pc := sp.pc + 1, lanes := sp.active ||| r.lanes }]) ∧
      (∀ r rest q more, popRec me.sid t.stack = some (r, rest) → r.join = true → r.pc = sp.pc + 1 →
        popRec me.sid rest = some (q, more) → q.join = true → q.pc ≠ sp.pc + 1 →
        (me.split u).state = .joinwait ∧ (me.split u).pc = sp.pc + 1 ∧ (me.split u).active = sp.active ||| r.lanes ∧
          (me.train u).stack = rest)

/-- R146, R158, R160, R161, R163, R173: WAIT, YIELD, REGGROW, REGTRIM and FXREL end the run at the next word and leave there what
the rule holds the next run for: the four thresholds, the yield, a request for granules with its status register pending
(refused at once with status 2 where the train would pass 16 granules), a trim, nothing; FXREL marks the train, and records that
nothing refers to any more go (R169). -/
def Obligations.HoldsComplete : Prop :=
  ∀ (me : Me) (s : State) (f : FmtC),
    let pc := (me.split s).pc
    let n := f.offset.toNat % 32
    let r := f.sa.toNat
    let g := (me.train s).granules
    let held (h : Hold) (k : Train → Train) : Result :=
      .next (goto (pc + 1) me ((s.updTrain me.tid k).updSplit me fun sp => { sp with hold := h }))
    let held0 (h : Hold) : Result := .next (goto (pc + 1) me (s.updSplit me fun sp => { sp with hold := h }))
    let o := f.offset.toNat
    (ready me (.wait f) s → exec (.wait f) s =
      held0 (.wait (o % 64) (o / 64 % 64) (o / 4096 % 64) (o / 262144 % 64))) ∧
    (ready me (.yield f) s → exec (.yield f) s = held0 (.yield false 0)) ∧
    (ready me (.reggrow f) s → g + n ≤ 16 → exec (.reggrow f) s = held (.grow n r s.cycle) fun t => t.setPending r true) ∧
    (ready me (.reggrow f) s → 16 < g + n → exec (.reggrow f) s = held .free fun t => t.writeS me.sid r 2) ∧
    (ready me (.regtrim f) s → n < g → exec (.regtrim f) s = held0 (.trim n)) ∧
    (ready me (.regtrim f) s → g ≤ n → exec (.regtrim f) s = trainFault 0x02 0 me s) ∧
    (ready me (.fxrel f) s → exec (.fxrel f) s = .next (releaseRecs (me.train s).launch
      (fallHeld .free me (s.updTrain me.tid fun t => { t with fxrel := true }))))

/-- R157, R164: EXIT ends the member lanes that no record of the split holds, and either resumes the split's top record or ends
the split, the train with its last one; KILLS ends the active lanes whose bit in the triple is 1, and the split when no member
is left. -/
def Obligations.ExitsComplete : Prop :=
  ∀ (me : Me) (s : State) (f : FmtC),
    let t := me.train s
    let gone := endLanes ((t.split me.sid).member &&& ~~~(t.heldLanes me.sid)) false me.tid s
    let killed := endLanes (me.active s &&& t.readTriple me.sid f.sa.toNat) true me.tid s
    let pc := (me.split killed).pc
    (ready me (.exit f) s → popRec me.sid t.stack = none → exec (.exit f) s = .next (endSplit me gone)) ∧
    (ready me (.exit f) s → ∀ r rest, popRec me.sid t.stack = some (r, rest) → exec (.exit f) s =
      .next (goto r.pc me ((gone.updTrain me.tid fun t => { t with stack := rest }).updSplit me fun sp =>
        { sp with active := r.lanes }))) ∧
    (ready me (.kills f) s → (me.split killed).member = 0 → exec (.kills f) s = .next (endSplit me killed)) ∧
    (ready me (.kills f) s → (me.split killed).member ≠ 0 → exec (.kills f) s =
      .next (goto (pc + 1) me (killed.updSplit me fun sp => { sp with hold := .free })))

/-- R165, R166: EMITV of at most 256 vertices a lane gives them the launch's next numbers in lane order and sN the first; EMITP of
a well-formed list of at most 1,024 primitives in local memory, read word by word as SLD.b32 reads and behind what such a load waits
for, each entry of an active lane over its own vertices, adds them to their clusters. Both end the run at the next word. -/
def Obligations.EmitsComplete : Prop :=
  ∀ (me : Me) (s : State) (f : FmtC),
    let t := me.train s
    let v := (t.readS me.sid f.sa.toNat).toNat
    let la := s.launch t.launch
    let elem (l : Nat) : Nat := ((Tab.find t.elems l).map (·.elem)).getD 0
    let owners := ((lanesOf (me.active s)).map fun l => List.replicate v (elem l)).flatten
    (ready me (.emitv f) s → v ≤ 256 → exec (.emitv f) s = .next (fallHeld .free me
      ((s.updLaunch t.launch fun l =>
        { l with nextVertex := la.nextVertex + owners.length,
                 parents := owners.zipIdx.foldl (fun p x => Tab.put p (elemKey 3 (la.nextVertex + x.2)) x.1) l.parents }).updTrain
        me.tid fun t => t.writeS me.sid f.sa.toNat (BitVec.ofNat 32 la.nextVertex)))) ∧
    (ready me (.emitp f) s → accessFree me s 1 false → v % 16 = 0 → ∀ hd s1 ws s2, listWords me 4 v s = .ok (hd, s1) →
      hd.headD 0 ≤ 1024 → (∀ x ∈ hd.drop 1, x = 0) → listWords me (4 * hd.headD 0) (v + 16) s1 = .ok (ws, s2) →
      let es := primEntries ws
      (∀ x ∈ es, entryNames s2 me x = true) →
      exec (.emitp f) s = .next (fallHeld .free me (s2.updLaunch t.launch fun la =>
        { la with emitted := es.foldl (fun em x =>
            Tab.put em (elem x.1) (Tab.get [] em (elem x.1) ++ [{ x.2 with cluster := elem x.1 }])) la.emitted })))

/-- The frame of the control majors that write no register (R146): BR, BRS, BRM, BRV, SJOIN, WAIT, YIELD, REGTRIM, FXREL, RET and
JMPI leave memory and every vector register of every train as they were, and every scalar register but the ACTIVE words s124 to
s126; NOP too, which leaves those as well. R150, R157, R161, R164, R165: so do EXIT and KILLS, and CALL but for s127 of its train, and
REGGROW and EMITV but for sN of theirs. R166: EMITP leaves every byte of every memory and every register. -/
def Obligations.ControlFrame : Prop :=
  ∀ (s u : State) (f : FmtC) (x : FmtX) (i : Instr), exec i s = .next u →
    i ∈ [Instr.nop x, Instr.br f, Instr.brs f, Instr.brm f, Instr.brv f, Instr.sjoin f, Instr.wait f, Instr.yield f,
      Instr.regtrim f, Instr.fxrel f, Instr.ret f, Instr.jmpi f, Instr.exit f, Instr.kills f, Instr.call f, Instr.reggrow f,
      Instr.emitv f, Instr.emitp f] →
    (i ≠ Instr.emitp f → sameMemory s u) ∧ (∀ p, readLoc u p 1 = readLoc s p 1) ∧ sameV (fun _ _ => False) s u ∧
    sameS (fun k r => (124 ≤ r ∧ r ≤ 126 ∧ i ≠ Instr.nop x) ∨ ((∃ me, issuer s = some me ∧ k = me.tid) ∧
      ((i = Instr.call f ∧ r = 127) ∨ (i ∈ [Instr.reggrow f, Instr.emitv f] ∧ r = f.sa.toNat)))) s u
/-! ### Memory, loads, stores, atomics and pins (spec/09, 15, 17, 20) -/

/-- R1: a number written to n bytes of a canonical memory reads back modulo 256^n, every other byte stands, and the memory is
canonical again. -/
def Obligations.MemoryReadsWhatWasWritten : Prop :=
  ∀ (m : Bytes) (a n x : Nat), Bytes.wf m = true →
    Bytes.readLE (Bytes.writeLE m a n x) a n = x % 256 ^ n ∧
    (∀ k, k < a ∨ a + n ≤ k → Bytes.read (Bytes.writeLE m a n x) k = Bytes.read m k) ∧
    Bytes.wf (Bytes.writeLE m a n x) = true

/-- R196, R203 to R205: SST at a place that its checks allow, not watched and behind no unsettled access, completes: the bytes at
the place hold the value of sD modulo its size, little-endian, and every byte of every memory outside them stands. At a place that
its checks refuse it takes the fault that the check names, train-level, with the address and the size, and stores nothing; one
that waits behind an unsettled access of its train changes no memory. -/
def Obligations.ScalarStoreCompletes : Prop :=
  ∀ (me : Me) (s : State) (f : FmtM), ready me (.sst f) s →
    let g := trainAgent s me.tid
    let n := accessBytes f.size.toNat
    let ea := scalarAddr s me f.base.toNat f.ofs.toNat 20 f.disp.toNat
    let v := storeValue s (me.train s) me.sid f.d.toNat 0 (accessRegs f.size.toNat)
    (accessFree me s f.space.toNat true → memoryCanonical s →
      ∀ loc, checkStore s (accessCheck s g .write f.space.toNat ea.toNat n) = .ok loc →
      (f.space = 0 → watchHit (trainStore me.tid loc n (v % 2 ^ (8 * n)) (useTranslation g ea.toNat s)) g.ctx false false true
        ea.toNat n = none) →
      ∃ u, exec (.sst f) s = .next u ∧ readLoc u loc n = v % 256 ^ n ∧
        ∀ p, insideLoc loc n p = false → readLoc u p 1 = readLoc s p 1) ∧
    (accessFree me s f.space.toNat true → ∀ k info, checkStore s (accessCheck s g .write f.space.toNat ea.toNat n) = .error (k, info) →
      exec (.sst f) s = .next (faultAt k ea n info me s) ∧ sameMemory s (faultAt k ea n info me s)) ∧
    (¬ accessFree me s f.space.toNat true → exec (.sst f) s = .next (stall 9 me s) ∧ sameMemory s (stall 9 me s))

/-- R202, R204, R86, R198: SLD at a place that its checks allow, not watched, into registers below s120, completes: it leaves an
operation whose arrival, LOAD_VALUE_ARRIVAL, writes the loaded value, extended by its size, into the registers of D, which are
awaited until then. In local and accumulator space the value is what the place holds; in global space it is that of the core's
valid L1 copy or of the home. A load changes no byte of memory. -/
def Obligations.ScalarLoadCompletes : Prop :=
  ∀ (me : Me) (s : State) (f : FmtM), ready me (.sld f) s → accessFree me s f.space.toNat false → s.present (me.who s) = true →
    let g := trainAgent s me.tid
    let n := accessBytes f.size.toNat
    let d := f.d.toNat - 0x100
    let regs := accessRegs f.size.toNat
    let ea := (scalarAddr s me f.base.toNat f.ofs.toNat 20 f.disp.toNat).toNat
    let s0 := if f.space = 0 then useTranslation g ea s else s
    0 < d → d + regs ≤ 120 → ∀ loc, checkLoad false s me.tid (accessCheck s g .read f.space.toNat ea n) = .ok loc →
      let x := loadExtend f.size.toNat (trainLoad me.tid loc n s0).1
      (f.space = 0 → watchHit (startLoad me true d regs [(0, x)] (trainLoad me.tid loc n s0).2) g.ctx false true false ea n
        = none) →
      (f.space ≠ 0 → (trainLoad me.tid loc n s0).1 = readLoc s loc n) ∧
      ∃ u v, exec (.sld f) s = .next u ∧ (∀ p, readLoc u p 1 = readLoc s p 1) ∧
        (∀ k, k < regs → (me.train u).busyReason (.s (d + k)) ≠ none) ∧
        exec (.loadValueArrival s.nextId) u = .next v ∧
        ∀ k, k < regs → (me.train v).readS me.sid (d + k) = BitVec.ofNat 32 (x / 2 ^ (32 * k))

/-- R202, R203, R205: LD and ST whose lanes all pass their checks and whose bytes are not watched complete: LD starts the delivery of
the lanes' values to D, ST stores each acting lane's value in ascending order (helper lanes store nothing), and the word
retires. A lane of LD takes what its place holds, extended by the size (R204). The delivery to v registers, that of BOXT, TRIT and
STKPOP too, is an operation with the lanes and their values; LOAD_VALUE_ARRIVAL of it writes word k of each such lane's value to
register D + k, leaves the other lanes, and the registers are awaited no more. An f-register takes the values at once. -/
def Obligations.VectorAccessCompletes : Prop :=
  ∀ (me : Me) (s : State) (f : FmtM),
    let xl := (lanesOf (me.active s)).foldl (loadLane me f) { s := s }
    let xs := (lanesOf (me.active s &&& ~~~(me.train s).helpers)).foldl (storeLane me f) { s := s }
    (ready me (.ld f) s → accessFree me s f.space.toNat false → xl.faults = [] → xl.hit = none →
      exec (.ld f) s = .next (retire me (startLoad me false f.d.toNat (accessRegs f.size.toNat) xl.vals xl.s))) ∧
    (ready me (.st f) s → accessFree me s f.space.toNat true → xs.faults = [] → xs.hit = none →
      exec (.st f) s = .next (retire me xs.s)) ∧
    (∀ (y : Acc) (l : Nat), let n := accessBytes f.size.toNat
      let ea := effAddr y.s (me.train y.s) me.sid f.base.toNat f.ofs.toNat l 20 f.disp.toNat
      ∀ loc, checkLoad false y.s me.tid (accessCheck y.s (trainAgent y.s me.tid) .read f.space.toNat ea.toNat n) = .ok loc →
        Tab.get 0 (loadLane me f y l).vals l = loadExtend f.size.toNat
          (trainLoad me.tid loc n (if f.space = 0 then useTranslation (trainAgent y.s me.tid) ea.toNat y.s else y.s)).1) ∧
    (∀ d regs vals, vals ≠ [] → d < 0x100 → let u := startLoad me false d regs vals s
      ∃ o, Tab.find u.loads s.nextId = some o ∧ o.tid = me.tid ∧ o.gen = (me.train s).inc ∧ o.scalar = false ∧ o.dest = d ∧
        o.regs = regs ∧ o.vals = vals ∧ o.lanes = maskOfList (vals.map (·.1)) ∧
        ∀ k, k < regs → 0 < d + k → (me.train u).busyReason (.v (d + k)) ≠ none) ∧
    (∀ id o, Tab.find s.loads id = some o → o.scalar = false → s.present { tid := o.tid, gen := o.gen, sid := o.sid } = true →
      ∃ v, exec (.loadValueArrival id) s = .next v ∧ v.loads = Tab.del s.loads id ∧ (∀ p, readLoc v p 1 = readLoc s p 1) ∧
        (v.train o.tid).busy = (s.train o.tid).busy.filter (fun b => b.op != id) ∧
        ∀ l k, l < 96 → k < o.regs → 0 < o.dest + k → (v.train o.tid).readV (o.dest + k) l =
          if o.lanes.getLsbD l then BitVec.ofNat 32 (Tab.get 0 o.vals l / 2 ^ (32 * k))
          else (s.train o.tid).readV (o.dest + k) l) ∧
    (ready me (.ld f) s → accessFree me s f.space.toNat false → xl.faults = [] → xl.hit = none → isF f.d.toNat = true →
      xl.vals ≠ [] → ∃ u, exec (.ld f) s = .next u ∧ ∀ l, l < 96 → l ∈ xl.vals.map (·.1) →
        (Tab.get [] (me.train u).fix (f.d.toNat - 0x180)).getD l 0 = BitVec.ofNat 32 (Tab.get 0 xl.vals l))

/-- The frame of ST (R203, R205), whatever next state it leads to: a byte of any memory that no lane stores to, at the place that
the lane's own check gives when its turn comes, stands; every memory keeps its canonical form; no vector or scalar register
changes. -/
def Obligations.VectorStoreFrame : Prop :=
  ∀ (me : Me) (s u : State) (f : FmtM), issuer s = some me → memoryCanonical s → exec (.st f) s = .next u →
    let ls := lanesOf (me.active s &&& ~~~(me.train s).helpers)
    let n := accessBytes f.size.toNat
    sameV (fun _ _ => False) s u ∧ sameS (fun _ _ => False) s u ∧ memoryCanonical u ∧
    ∀ p, (∀ k, k < ls.length →
      let x := (ls.take k).foldl (storeLane me f) { s := s }
      let ea := effAddr x.s (me.train x.s) me.sid f.base.toNat f.ofs.toNat (ls.getD k 0) 20 f.disp.toNat
      ∀ loc, accessCheck x.s (trainAgent x.s me.tid) .write f.space.toNat ea.toNat n = .ok loc → insideLoc loc n p = false) →
      readLoc u p 1 = readLoc s p 1

/-- The frame of the memory majors that store nothing when they issue (R202, R204, R207 to R213): LD, SLD, ATOM, SATOM, TDEC, TINC,
PREF, LPIN and LUNPIN leave every byte of every memory as it was, whatever next state they lead to; the value of an atomic
reaches its line later, at the line's slice. -/
def Obligations.LoadFrame : Prop :=
  ∀ (s u : State) (f : FmtM) (g : FmtMA) (c : FmtC) (i : Instr), exec i s = .next u →
    i ∈ [Instr.ld f, Instr.sld f, Instr.atom g, Instr.satom g, Instr.tdec c, Instr.tinc c, Instr.pref f, Instr.lpin f,
      Instr.lunpin f] →
    ∀ p, readLoc u p 1 = readLoc s p 1

/-- R207 to R210, R178: ATOM whose acting lanes all pass, SATOM, TDEC and TINC complete, where nothing is watched, by putting their
updates at the end of their lines' queues with an operation that awaits the replies. -/
def Obligations.AtomicsComplete : Prop :=
  ∀ (me : Me) (s : State) (f : FmtMA) (c : FmtC),
    let t := me.train s
    let g := trainAgent s me.tid
    let wide := f.width == 1
    let n := if wide then 8 else 4
    let act := me.active s
    let us := (atomLanes me f s (lanesOf act)).1
    let ea := scalarAddr s me f.base.toNat f.ofs.toNat 11 f.disp.toNat
    let d := f.d.toNat - 0x100
    let va := t.readSN me.sid c.sa.toNat true
    let pc := (me.split s).pc
    (ready me (.atom f) s → accessFree me s 0 true → (localBusy s me.tid true = false ∨ ∀ u ∈ us, u.ownLocal me.core = false) →
      (atomLanes me f s (lanesOf act)).2 = none → act ≠ 0 →
      (∀ u ∈ us, watchHit s g.ctx false true true u.va n = none) →
      exec (.atom f) s = .next (retire me (sendUpdates me
        { tid := me.tid, gen := t.inc, sid := me.sid, scalar := false, dest := f.d.toNat, wide := wide, lanes := act,
          waiting := us.length, vals := [], ts := 0, queue := 0, pc := pc, size := n, launch := t.launch }
        us (writesOf (.atom f)) (useAll g us s)))) ∧
    (ready me (.satom f) s → accessFree me s 0 true → ∀ loc, checkData s (accessCheck s g .both 0 ea.toNat n) = .ok loc →
      let x : Update :=
        { op := 0, loc := loc, code := f.op.toNat, wide := wide, operand := t.readSN me.sid (f.src.toNat - 0x100) wide,
          compare := t.readSN me.sid d wide, lane := 0, tid := me.tid, pts := t.pts, va := ea.toNat }
      let u := sendUpdates me
        { tid := me.tid, gen := t.inc, sid := me.sid, scalar := true, dest := d, wide := wide, lanes := 0, waiting := 1,
          vals := [], ts := 0, queue := 0, pc := pc, size := n, launch := t.launch }
        [x] (if wide then [.s d, .s (d + 1)] else [.s d]) (useAll g [x] s)
      watchHit u g.ctx false true true ea.toNat n = none → exec (.satom f) s = .next (retire me u)) ∧
    (∀ i code, (i, code) ∈ [(Instr.tdec c, 15), (Instr.tinc c, 16)] → ready me i s → accessFree me s 0 true → va % 64 = 0 →
      watchHit s g.ctx false true true va 4 = none → ∀ loc, checkData s (accessCheck s g .both 0 va 4) = .ok loc →
      let x : Update :=
        { op := 0, loc := loc, code := code, wide := false, operand := c.offset.toNat, compare := 0, lane := 0,
          tid := me.tid, pts := t.pts, va := va, lam := t.lamport }
      exec i s = .next (retire me (sendUpdates me
        { tid := me.tid, gen := t.inc, sid := me.sid, scalar := true, dest := 0, wide := false, lanes := 0, waiting := 1,
          vals := [], ts := 0, queue := (s.launch t.launch).queue, pc := pc, size := 4, launch := t.launch } [x] [] (useAll g [x] s))))

/-- R207, R314, R336: SLICE_BATCH_APPLY of a line at which one atomic waits, the lower lanes of its operation applied, completes: the place then holds the new value of Table 9.5
modulo its width, the operation's reply for the lane is the old value, the update has left the queue, and every byte outside
the place stands. R208, R210, R348: ATOMIC_REPLY of a settled operation of a train that is still there, with no lane refused,
completes: each lane (or the scalar register) takes its old value, the registers are awaited no more, and the train's timestamp
rises to the operation's. R178, R394: where the one update is a TINC, the counter becomes min(c + n, 2^32 - 1); where it is a TDEC,
the counter c above n becomes c - n; c from 1 to n becomes 0, and the record, of a QUEUE up to 31, is READY with no NEXT and stands at
the tail of its queue's list, alone on an empty one; with a QUEUE above 31 it becomes 0 and TASKERR of the queue that R178 charges
counts one; with c = 0 only that TASKERR changes. Where the record does not overlap the queue table, the other bytes stand. -/
def Obligations.AtomicsApplyAndReply : Prop :=
  ∀ (s : State),
    (∀ key x o, memoryCanonical s → lineUpdates s key = [x] → x.mayApply s = true → badSource s x.loc = none → x.code < 15 →
      Tab.find s.atoms x.op = some o →
      let n := if x.wide then 8 else 4
      let old := readLoc s x.loc n
      ∃ u v, exec (.sliceBatchApply key) s = .next u ∧
        readLoc u x.loc n = atomicNew x.code x.wide old x.operand x.compare % 256 ^ n ∧
        Tab.find u.atoms x.op = some v ∧ Tab.find v.vals x.lane = some old ∧ v.waiting = o.waiting - 1 ∧
        lineUpdates u key = [] ∧ ∀ p, insideLoc x.loc n p = false → readLoc u p 1 = readLoc s p 1) ∧
    (∀ id o, Tab.find s.atoms id = some o → o.waiting = 0 → o.failed = [] →
      s.present { tid := o.tid, gen := o.gen, sid := o.sid } = true →
      ∃ u, exec (.atomicReply id) s = .next u ∧ u.atoms = Tab.del s.atoms id ∧
        (u.train o.tid).pts = max (s.train o.tid).pts o.ts ∧
        (u.train o.tid).busy = (s.train o.tid).busy.filter (fun b => b.op != id) ∧
        (o.scalar = true → 0 < o.dest → (o.dest < 120 ∨ o.dest = 127) →
          (u.train o.tid).readS o.sid o.dest = BitVec.ofNat 32 (Tab.get 0 o.vals 0)) ∧
        (o.scalar = false → ∀ l, l < 96 → o.lanes.getLsbD l = true → 0 < o.dest →
          (u.train o.tid).readV o.dest l = BitVec.ofNat 32 (Tab.get 0 o.vals l))) ∧
    (∀ key x o, memoryCanonical s → lineUpdates s key = [x] → x.mayApply s = true → badSource s x.loc = none → x.wide = false →
      Tab.find s.atoms x.op = some o →
      let c := readLoc s x.loc 4
      let n := x.operand
      let q := readLoc s (x.loc.plus 4) 1
      let err (u : State) : Prop := qGet u o.queue 76 4 = min (qGet s o.queue 76 4 + 1) (2 ^ 32 - 1)
      let errPlace : Loc := .phys (qAddr s o.queue 76) 0 0 0 0
      let table (p : Loc) : Prop := ∃ k, k < 32 ∧ insideLoc (.phys (qAddr s k 0) 0 0 0 0) 128 p = true
      let apart : Prop := o.queue < 32 ∧ ∀ p, insideLoc x.loc 64 p = true → ¬ table p
      (x.code = 16 → ∃ u, exec (.sliceBatchApply key) s = .next u ∧ readLoc u x.loc 4 = min (c + n) (2 ^ 32 - 1) ∧
        ∀ p, insideLoc x.loc 4 p = false → readLoc u p 1 = readLoc s p 1) ∧
      (x.code = 15 → n < c → ∃ u, exec (.sliceBatchApply key) s = .next u ∧ readLoc u x.loc 4 = c - n ∧
        ∀ p, insideLoc x.loc 4 p = false → readLoc u p 1 = readLoc s p 1) ∧
      (x.code = 15 → c = 0 → ∃ u, exec (.sliceBatchApply key) s = .next u ∧ err u ∧
        ∀ p, insideLoc errPlace 4 p = false → readLoc u p 1 = readLoc s p 1) ∧
      (x.code = 15 → c ≠ 0 → c ≤ n → 31 < q → apart → ∃ u, exec (.sliceBatchApply key) s = .next u ∧ readLoc u x.loc 4 = 0 ∧
        err u ∧ ∀ p, insideLoc x.loc 4 p = false → insideLoc errPlace 4 p = false → readLoc u p 1 = readLoc s p 1) ∧
      (x.code = 15 → c ≠ 0 → c ≤ n → q ≤ 31 → apart → ∃ u, exec (.sliceBatchApply key) s = .next u ∧
        qGet u q 56 8 = x.va % 2 ^ 64 ∧
        (qGet s q 56 8 = 0 → readLoc u x.loc 4 = 0 ∧ readLoc u (x.loc.plus 5) 1 = 1 ∧ readLoc u (x.loc.plus 16) 8 = 0 ∧
          qGet u q 48 8 = x.va % 2 ^ 64 ∧
          ∀ p, insideLoc x.loc 64 p = false → ¬ table p → readLoc u p 1 = readLoc s p 1)))

/-- R211 to R213, R368, R371: PREF fetches the lines of its extent and retires; LPIN of an extent that its steps allow pins it,
charges the context and delivers 0, and delivers 1 with nothing pinned where a line does not fit, 2 where a line may not be
pinned; LUNPIN of an aligned extent drops a pin of each line; PAGE_WALK_COMPLETE keeps the translation and fetches the line. -/
def Obligations.PinsComplete : Prop :=
  ∀ (me : Me) (s : State) (f : FmtM),
    let g := trainAgent s me.tid
    let ea := (scalarAddr s me f.base.toNat f.ofs.toNat 20 f.disp.toNat).toNat
    let ext := extentLines ea f.size.toNat
    let n := 2 ^ f.size.toNat
    let r := f.d.toNat - 0x100
    let s1 := ext.foldl (fun s va => useTranslation g va s) s
    let done (v : Word) (s : State) : Result := trainDone me s fun t => t.token r v
    (ready me (.pref f) s → exec (.pref f) s = .next (retire me (ext.foldl (prefetchOne me.tid (if f.minor == 0 then .l1 else .l2)) s))) ∧
    (ready me (.lunpin f) s → ea % 128 = 0 → exec (.lunpin f) s = .next (retire me (ext.foldl (dropPin g) s))) ∧
    (ready me (.lpin f) s → ea % 128 = 0 → ∀ ls, extentLocs s g ext = .ok ls → (s1.ctx g.ctx).pinuse + n ≤ (s1.ctx g.ctx).pinq →
      (ls.any unpinnable = true → exec (.lpin f) s = done 2 s1) ∧
      (ls.any unpinnable = false → pinAll g ls s1 = none → exec (.lpin f) s = done 1 s1) ∧
      (ls.any unpinnable = false → ∀ s2, pinAll g ls s1 = some s2 →
        exec (.lpin f) s = done 0 (s2.updCtx g.ctx fun c => { c with pinuse := c.pinuse + n }))) ∧
    (∀ id k p, Tab.find s.walks id = some k →
      let rest := { s with walks := Tab.del s.walks id }
      k.leaf rest = .ok p → exec (.pageWalkComplete id) s = .next (prefetchLine
        { core := k.core, ctx := k.ctx, priv := k.priv, wg := 0, combiner := false } k.kept k.va
        (cacheTranslation k.core k.ctx k.va p rest)))
/-! ### Copies, barriers, the matrix unit and the decompressor (spec/09, 10, 11) -/

/-- R214 to R221: CPY, CPYG, CPYS, CPYR and CPYX of the producing train, with a descriptor pair in the allotment and a descriptor
within Table 9.7, a valid barrier where one is named, and a counter below 63, complete their issue: the counter of the class
rises, the token is awaited, the engine holds the operation at its first element, and the word retires. Before that, in this
order: a train that is not the producing one takes COPY-RIGHTS, 0x0A; a descriptor pair outside the allotment OUT-OF-APERTURE,
0x08, or off a 128-byte boundary MISALIGNED, 0x07, at its address; a descriptor against Table 9.7 BAD-HANDLE, 0x09.
A copy waits behind its train's unsettled accesses (R345). COPY_COMPLETION that reaches the last element of a CPY performs it, and
one of a copy whose elements are all performed completes the copy. -/
def Obligations.CopiesComplete : Prop :=
  ∀ (me : Me) (s : State) (f : FmtA),
    let t := me.train s
    let p := t.readSN me.sid f.desc.toNat true
    let d := readDesc (s.wg t.wg).mem p
    let size := (s.wg t.wg).localSize
    let arr := if f.arr == 1 then some f.nb.toNat else none
    let fault (k : Nat) (a : DWord) : Result := .next (faultWith s me [trainRecord k a 0 0 me s])
    (∀ i kind op, (i, kind, op) ∈ [(Instr.cpy f, 0, 0), (Instr.cpyg f, 1, 0), (Instr.cpys f, 2, 0),
        (Instr.cpyr f, 3, f.minor.toNat), (Instr.cpyx f, 4, 0)] → ready me i s → unsettled s me.tid = false →
      let c := copyCounter kind
      let dests := if kind == 4 then cpyxDests s t (f.imm.toNat % 256) else ([t.wg], 0)
      let read := agentLoad (trainAgent s me.tid) t.pts (.loc t.wg p) 128 s
      let u := read.2.2
      let x : CopyOp :=
        { who := me.who u, joined := u.joined me.tid me.sid, ctx := t.ctx, core := me.core,
          priv := (u.launch t.launch).priv, wg := t.wg, kind := kind, op := op, tok := f.tok.toNat, arr := arr, desc := d,
          dests := dests.1, skipped := dests.2, pos := 0, ts := read.2.1, lam := t.lamport, seen := [], packet := 0 }
      (isProducer s t = false → exec i s = fault 0x0A 0) ∧
      (isProducer s t = true → (2 ^ 32 ≤ p ∨ size ≤ p) → exec i s = fault 0x08 (BitVec.ofNat 64 p)) ∧
      (isProducer s t = true → p < 2 ^ 32 → p < size → p % 128 ≠ 0 → exec i s = fault 0x07 (BitVec.ofNat 64 p)) ∧
      (isProducer s t = true → p < 2 ^ 32 → p < size → p % 128 = 0 → badSource s (.loc t.wg p) = none →
        descOk kind op d = false → exec i s = fault 0x09 0) ∧
      (isProducer s t = true → descFault s t p = none → badSource s (.loc t.wg p) = none → descOk kind op d = true →
        (f.arr = 1 → kind ≠ 4 → (s.bar t.wg f.nb.toNat).valid = true) → t.count c < 63 → d.total * dests.1.length ≠ 0 →
        exec i s = .next (retire me ((({ u with nextId := u.nextId + 1, copyOps := Tab.put u.copyOps u.nextId x } :
          State)).updTrain me.tid fun t => (t.setCount c (t.count c + 1)).awaitToken f.tok.toNat 8)))) ∧
    (∀ (u : State) (id w : Nat) (x y : CopyOp), Tab.find s.copyOps id = some x → x.kind = 0 → x.dests = [w] →
      x.pos + 1 = x.desc.total → copyElement x w x.pos s = .ok (y, u) →
      exec (.copyCompletion id (x.pos + 1)) s = .next { u with copyOps := Tab.put u.copyOps id y }) ∧
    (∀ id n x, Tab.find s.copyOps id = some x → x.desc.total * x.dests.length ≤ x.pos →
      exec (.copyCompletion id n) s = .next (completeCopy id x none s))

/-- R223 to R228: NBINIT of a barrier without waiters makes it valid with its COUNT and nothing arrived; NBWAIT at a valid one
adds the token to its waiters; NBARR, with nothing before it that it must await, counts one arrival; NBINV makes it invalid and
its waiters' tokens fall due with status 1; at an invalid barrier NBINV only retires. R350, R428: NB_TOKEN_RELEASE delivers the
tokens that are due and leaves none due; NBARR_HELD_COUNT counts a train's oldest held arrival once everything it awaits has
ended; BARERR_CLEAR zeroes BARERR and nothing else. -/
def Obligations.BarriersComplete : Prop :=
  ∀ (me : Me) (s : State) (f : FmtA),
    let t := me.train s
    let k := f.nb.toNat
    let b := s.bar t.wg k
    (ready me (.nbinit f) s → b.waiters = [] → exec (.nbinit f) s = .next (retire me (s.setBar t.wg k
      { b with valid := true, count := f.imm.toNat % 256, arrived := 0, phase := 0, ts := 0, lam := 0 }))) ∧
    (ready me (.nbwait f) s → b.valid = true → exec (.nbwait f) s = .next (retire me
      ((addWaiter t.wg k (me.who s) f.tok.toNat s).updTrain me.tid fun t => t.awaitToken f.tok.toNat 2))) ∧
    (ready me (.nbarr f) s → b.valid = true → t.heldArr = [] → arrivalOps s me.tid = [] → exec (.nbarr f) s =
      .next (retire me (countArrival me.tid { bar := k, tok := f.tok.toNat, sid := me.sid, ops := [], ts := arrivalTs s me.tid, lam := t.lamport }
        (s.updTrain me.tid fun t => t.awaitToken f.tok.toNat 2)))) ∧
    (ready me (.nbinv f) s → b.valid = false → exec (.nbinv f) s = .next (retire me s)) ∧
    (ready me (.nbinv f) s → b.valid = true → exec (.nbinv f) s = .next (retire me ((s.setBar t.wg k
      { b with valid := false, waiters := [],
               due := b.due ++ b.waiters.map fun x =>
                 { who := x.1, tok := x.2, val := barToken b.phase 1, ts := 0, lam := 0 } }).later
      (.nbTokenRelease t.wg k)))) ∧
    (∀ w n, let x := s.bar w n; x.due ≠ [] →
      exec (.nbTokenRelease w n) s = .next (x.due.foldl State.deliverTok (s.setBar w n { x with due := [] }))) ∧
    (∀ core slot h rest, let tid := core * 32 + slot % 32
      (s.train tid).heldArr = h :: rest → h.ops.all (opSettled s) = true →
      exec (.nbarrHeldCount core slot) s = .next (countArrival tid h (s.updTrain tid fun t => { t with heldArr := rest }))) ∧
    (∀ w, ∃ u, exec (.barerrClear w) s = .next u ∧ (u.wg w).barErr = 0 ∧ (u.wg w).mem = (s.wg w).mem ∧
      (u.wg w).bars = (s.wg w).bars ∧ u.mem = s.mem ∧ u.trains = s.trains)

/-- R223: one arrival at a valid barrier of a placed workgroup: below COUNT it counts one more; the one that makes ARRIVED reach
COUNT completes the phase, so that ARRIVED is 0, PHASE one more modulo 256, no waiter is left and every waiter's token is due
with the old phase and status 0. An arrival at an invalid barrier adds one to BARERR and nothing to the barrier. -/
def Obligations.BarrierPhaseCompletes : Prop :=
  ∀ (s : State) (w k ts lam : Nat), Tab.find s.wgs w ≠ none →
    let b := s.bar w k
    let a := (arrive w k ts lam s).bar w k
    (b.valid = true → b.arrived + 1 < b.count → a.arrived = b.arrived + 1 ∧ a.phase = b.phase ∧ a.waiters = b.waiters ∧
      a.due = b.due ∧ a.valid = true) ∧
    (b.valid = true → b.count ≤ b.arrived + 1 → a.arrived = 0 ∧ a.phase = (b.phase + 1) % 256 ∧ a.waiters = [] ∧
      a.due.map (fun x => (x.who, x.tok, x.val)) = b.due.map (fun x => (x.who, x.tok, x.val)) ++
        b.waiters.map (fun x => (x.1, x.2, BitVec.ofNat 32 (256 * b.phase)))) ∧
    (b.valid = false → ((arrive w k ts lam s).wg w).barErr = min ((s.wg w).barErr + 1) (2 ^ 32 - 1) ∧ a.arrived = b.arrived ∧
      a.waiters = b.waiters)

/-- R234, R238 to R253: MMA, MLDA, MSTA, MCVT and MQNT on no rows (whatever their addresses, which is the model's reading, log 46), and
with rows that their checks allow, put their operation in the
unit's queue: the counted ones raise the tile counter (below 63), the token is awaited and the word retires.
MATRIX_OP_COMPLETION of an operation that no earlier one must precede takes it out of the queue and performs it: the status
reaches its token, its counter falls, and a named barrier counts one arrival; where an operation of its train or one that
writes a tile it writes is older, nothing happens yet (R234, R235, R244). Each waits behind its train's unsettled accesses (R345),
charged to row 3 of Table 8.3 where the tile counter is full as well (R194); and an operation of a context that is being killed
leaves the queue and gives its fetch pins back, without any other effect (R254). -/
def Obligations.MatrixIssueCompletes : Prop :=
  ∀ (me : Me) (s : State) (f : FmtA),
    let t := me.train s
    let imm := f.imm.toNat
    let base : MatOp := { matBase me s with tile := imm % 64, minor := f.minor.toNat }
    let arr := if f.arr == 1 then some f.nb.toNat else none
    let queued (x : MatOp) (s : State) : Result :=
      .next (retire me (({ s with nextId := s.nextId + 1, mats := Tab.put s.mats s.nextId x } : State).updTrain me.tid fun t =>
        ({ t with tile := if x.counted then t.tile + 1 else t.tile }).awaitToken x.tok 8))
    let block := (List.range 8).map fun k => t.readS me.sid (f.desc.toNat + k)
    let mma : MatOp :=
      { base with kind := 0, tok := f.tok.toNat, arr := arr, block := block, counted := f.minor.toNat % 4 != 0 }
    let rows (kind : Nat) : MatOp :=
      { base with kind := kind, tok := f.tok.toNat, arr := arr, counted := true, addr := t.readSN me.sid f.desc.toNat true,
                  stride := (t.readS me.sid f.desc2.toNat).toInt }
    let rnd := effectiveRnd t.mode (imm / 4096 % 8)
    let mqnt : MatOp :=
      { base with kind := 5, tok := f.tok.toNat, arr := arr, counted := true, rnd := rnd, sat := imm.testBit 15,
                  addr := t.readSN me.sid f.desc.toNat true,
                  scale := if f.minor == 6 then 0 else t.readSN me.sid f.desc2.toNat true }
    ((f.minor.toNat % 4 ≠ 0 → t.tile < 63) → ready me (.mma f) s → unsettled s me.tid = false → blockOk block (imm % 64) (s.wg t.wg).tileCount = true →
      (matRows me s = 0 ∨ ((∀ a ∈ [blockBase block 2, blockBase block 4, bits (block.getD 0 0).toNat 12 20,
        bits (block.getD 1 0).toNat 12 20], a % 8 = 0) ∧ mmaAperture mma (s.wg t.wg).localSize = none)) →
      exec (.mma f) s = queued mma s) ∧
    (t.tile < 63 → ∀ i kind, (i, kind) ∈ [(Instr.mlda f, 2), (Instr.msta f, 3)] → ready me i s → unsettled s me.tid = false →
      (matRows me s = 0 ∨ ((rows kind).addr % 16 = 0 ∧ (rows kind).stride % 16 = 0 ∧
        (f.minor = 1 → ∀ r ∈ lanesOf (matRows me s), rowAddr (rows kind) r + 128 ≤ (s.wg t.wg).localSize))) →
      exec i s = queued (rows kind) s) ∧
    (ready me (.mcvt f) s → unsettled s me.tid = false → exec (.mcvt f) s = queued
      { base with kind := 4, source := imm / 64 % 64, rnd := rnd, sat := imm.testBit 15 }
      (s.updTrain me.tid fun t => t.advance rnd (matRows me s) 32)) ∧
    (t.tile < 63 → ready me (.mqnt f) s → unsettled s me.tid = false → rnd ≠ 6 → (matRows me s = 0 ∨ mqnt.addr % (if f.minor = 6 then 4 else 8) = 0) →
      exec (.mqnt f) s = queued mqnt s) ∧
    (∀ i counted, (i, counted) ∈ [(Instr.mma f, f.minor.toNat % 4 != 0), (Instr.mlda f, true), (Instr.msta f, true), (Instr.mcvt f, false),
        (Instr.mqnt f, true)] → ready me i s → unsettled s me.tid = true →
      exec i s = .next (stall (if counted && decide (63 ≤ t.tile) then 3 else 9) me s)) ∧
    (∀ id x, Tab.find s.mats id = some x →
      (matBlocked s id x = true → exec (.matrixOpCompletion id) s = .next s) ∧
      (matBlocked s id x = false → s.killed.contains x.ctx = true →
        exec (.matrixOpCompletion id) s = .next (unpinLines x { s with mats := Tab.del s.mats id })) ∧
      (matBlocked s id x = false → wgGone s x.wg = false → s.killed.contains x.ctx = false →
        ∀ y status u, runMatOp x (unpinLines x { s with mats := Tab.del s.mats id }) = (y, status, none, u) →
        let e := endOperation y.who (if y.counted then some .tile else none) y.tok (BitVec.ofNat 32 status) y.ts u
        let v := if e.present y.who then
            e.updTrain y.tid fun t => ({ t with matTs := max t.matTs y.ts } : Train).settleArrivals id y.ts
          else e
        exec (.matrixOpCompletion id) s = .next (y.arr.elim v fun k => arrive y.wg k y.ts y.lam v)))

/-- R249, R234: MZERO completes, and the completion of its operation with nothing before it leaves every byte of the tile zero and
its ERR bit 0. -/
def Obligations.TileZeroCompletes : Prop :=
  ∀ (me : Me) (s : State) (f : FmtA), ready me (.mzero f) s → unsettled s me.tid = false → s.mats = [] → wgGone s (me.train s).wg = false →
    s.killed.contains (me.train s).ctx = false →
    let tile := f.imm.toNat % 64
    ∃ u v, exec (.mzero f) s = .next u ∧ (∀ p, readLoc u p 1 = readLoc s p 1) ∧ exec (.matrixOpCompletion s.nextId) u = .next v ∧
      (∀ b, b < 12288 → readLoc v (.acc (me.train s).wg (12288 * tile + b)) 1 = 0) ∧
      tile ∉ (v.wg (me.train s).wg).tileErr

/-- R259: MDEC of a 16-byte aligned source and an aligned local destination inside the allotment, a valid barrier where one is named
and a counter below 63, completes its issue; MDEC_COMPLETION of a block that decompresses ends the operation with status 0. -/
def Obligations.DecompressionCompletes : Prop :=
  ∀ (me : Me) (s : State) (f : FmtA),
    let t := me.train s
    let src := t.readSN me.sid f.desc.toNat true
    let dst := t.readSN me.sid f.desc2.toNat true
    (ready me (.mdec f) s → unsettled s me.tid = false → src % 16 = 0 → dst % 16 = 0 → dst < (s.wg t.wg).localSize →
      (f.arr = 1 → (s.bar t.wg f.nb.toNat).valid = true) → t.copies < 63 →
      let x : MdecOp :=
        { who := me.who s, joined := s.joined me.tid me.sid, ctx := t.ctx, core := me.core,
          priv := (s.launch t.launch).priv, wg := t.wg, src := src, dst := dst, tok := f.tok.toNat,
          arr := if f.arr == 1 then some f.nb.toNat else none, ts := t.pts, lam := t.lamport, seen := [] }
      exec (.mdec f) s = .next (retire me (({ s with nextId := s.nextId + 1, mdecs := Tab.put s.mdecs s.nextId x } : State).updTrain
        me.tid fun t => { t with copies := t.copies + 1 }.awaitToken f.tok.toNat 8))) ∧
    (∀ id x y u, Tab.find s.mdecs id = some x → runMdec x { s with mdecs := Tab.del s.mdecs id } = .ok (y, u) →
      exec (.mdecCompletion id) s = .next (endMdec y 0 u))

/-- The frame of the majors of format A that hand work to an engine (R215, R234, R259): CPY, CPYG, CPYS, CPYR, CPYX, MDEC, MMA,
MZERO, MLDA, MSTA, MCVT and MQNT leave every byte of every memory and every vector register as they were, and every scalar
register but the token of the issuing train, whatever next state they lead to. -/
def Obligations.EngineIssueFrame : Prop :=
  ∀ (s u : State) (f : FmtA) (i : Instr), exec i s = .next u →
    i ∈ [Instr.cpy f, Instr.cpyg f, Instr.cpys f, Instr.cpyr f, Instr.cpyx f, Instr.mdec f, Instr.mma f, Instr.mzero f,
      Instr.mlda f, Instr.msta f, Instr.mcvt f, Instr.mqnt f] →
    (∀ p, readLoc u p 1 = readLoc s p 1) ∧ sameV (fun _ _ => False) s u ∧
    sameS (fun k r => (∃ me, issuer s = some me ∧ k = me.tid) ∧ r = f.tok.toNat) s u
/-! ### Rays, blending and regrouping (spec/11) -/

/-- R268, R270 to R280: where every lane passes its checks and nothing is watched, BOXT and TRIT start the delivery of the 17 and
the 5 result words of their lanes to D (BOXT also fetches the hit children); STKPSH and STKPOP push and pop in ascending lane
order; BLST holds its lanes' values at their slices when these have room; and RHIT replaces the hit record of the ray of every
active lane. Each word retires. -/
def Obligations.RayTestsComplete : Prop :=
  ∀ (me : Me) (s : State) (v : FmtV3) (m : FmtM),
    let t := me.train s
    let ls := lanesOf (me.active s)
    let bx := ls.foldl (boxLane me v) (({ s := s } : Acc), ([] : List (Nat × Nat)))
    let tr := ls.foldl (triLane me v) { s := s }
    let ps := ls.foldl (pushLane me m) { s := s }
    let pp := ls.foldl (popLane me m) { s := s }
    let bl := (lanesOf (me.active s &&& ~~~t.helpers)).foldl (blendLane me m s) {}
    let regs := accessRegs m.size.toNat
    (ready me (.boxt v) s → accessFree me s 0 false → bx.1.faults = [] → bx.1.hit = none → exec (.boxt v) s =
      .next (retire me (startLoad me false v.d.toNat 17 bx.1.vals
        (bx.2.foldl (fun s p => prefetchChild me.tid p.1 s p.2) bx.1.s)))) ∧
    (ready me (.trit v) s → accessFree me s 0 false → tr.faults = [] → tr.hit = none → exec (.trit v) s =
      .next (retire me (startLoad me false v.d.toNat 5 tr.vals tr.s))) ∧
    (ready me (.stkpsh m) s → accessFree me s 1 true → ps.faults = [] → exec (.stkpsh m) s = .next (retire me ps.s)) ∧
    (ready me (.stkpop m) s → accessFree me s 1 true → pp.faults = [] → exec (.stkpop m) s =
      .next (retire me (startLoad me false m.d.toNat regs pp.vals pp.s))) ∧
    (ready me (.blst m) s → accessFree me s 0 true → blendRoom s t.launch bl.held = true → bl.faults = [] →
      exec (.blst m) s = .next (retire me (bl.held.foldl (fun u b =>
        let w := useTranslation (trainAgent s me.tid) b.va u
        { w with nextId := w.nextId + 1, blends := Tab.put w.blends w.nextId { b with instr := s.nextId } })
        ({ s with nextId := s.nextId + 1 } : State)))) ∧
    (ready me (.rhit v) s →
      (∀ l k e d, Tab.find t.elems l = some e → Tab.find t.elems k = some d → e.parent = d.parent → l = k) →
      ∃ u, exec (.rhit v) s = .next u ∧ ∀ l ∈ ls, ∀ e r, Tab.find t.elems l = some e → Tab.find s.rays e.parent = some r →
        Tab.find u.rays e.parent = some { r with hit := (List.range 6).map fun k => readWord s t me.sid (v.a.toNat + k) l })

/-- R265, R266: TRACE with the counter below 63, a RAY run map and at least one lane that spawns (no helper lane, and a depth within
NRES) completes: every such lane, in ascending order, adds a ray of the launch with its nine registers, the root, depth 1 outside
a RAY train, and the next RAY element; the operation awaits that many records; GATHER rises by one. R276, R302: REGRP, RINGOFF
and RINGTAKE of an undivided train hold their split for the core's regrouping queue, and take BAD-HANDLE in a divided one. -/
def Obligations.RaySpawnsComplete : Prop :=
  ∀ (me : Me) (s : State) (f : FmtA),
    let t := me.train s
    let la := s.launch t.launch
    let x := bits f.imm.toNat 0 8
    let rs := (lanesOf (me.active s)).filter fun l => !t.helpers.getLsbD l && decide (spawnDepth s t l ≤ la.nres)
    let bad : Result := .next (faultWith s me [trainRecord 0x09 0 0 0 me s])
    let wait (kind k tok : Nat) (u : State) : Result := .next (fallHeld (.regroup kind k tok none) me u)
    (ready me (.trace f) s → unsettled s me.tid = false → t.gather < 63 → Tab.get [] la.runMaps 6 ≠ [] → rs ≠ [] →
      ∃ u, exec (.trace f) s = .next u ∧ (me.train u).gather = t.gather + 1 ∧
        (∃ o, Tab.find u.traces s.nextId = some o ∧ o.left = rs.length ∧ o.spawned = rs.length ∧
          o.hitReg = bits f.imm.toNat 8 8 ∧ o.lanes = me.active s ∧ o.tok = f.tok.toNat) ∧
        ∀ k l, rs[k]? = some l → ∃ r, Tab.find u.rays (s.nextId + 1 + k) = some r ∧ r.launch = t.launch ∧ r.core = me.core ∧
          r.elem = la.nextRay + k ∧ r.lane = l ∧ r.trace = s.nextId ∧ r.root = t.readSN me.sid f.desc.toNat true ∧
          r.words = (List.range 9).map (fun n => t.readV (x + n) l) ∧ r.started = false ∧ r.ended = false ∧
          (t.rung ≠ 6 → r.depth = 1)) ∧
    (ready me (.regrp f) s → exec (.regrp f) s = if divided t then bad else
      wait 0 x 0 (s.updTrain me.tid fun t => { t with regrpKey := x })) ∧
    (ready me (.ringoff f) s → exec (.ringoff f) s = if divided t then bad else wait 1 (f.imm.toNat % 64) f.tok.toNat s) ∧
    (ready me (.ringtake f) s → exec (.ringtake f) s = if divided t then bad else wait 2 (f.imm.toNat % 64) f.tok.toNat s)

/-! ### Accords, shuffles and the Escapement network (spec/14, spec/15) -/

/-- R290, R291, R294 to R296, R300: VXSHUF waits at its cluster's port, where fewer than four wait, unless it finds its partner there. ACALL of a train that is no
combiner, with nothing unsettled and fewer than four ACALLs out, sends one request for each lane that is no helper, up to the
first that fails its checks, and goes on once all are accepted. In a combiner train ARECV waits for a batch; AFAIL marks the
requests of the delivered batch; AREPLY of the header that was delivered answers every request and frees the batch. -/
def Obligations.ExchangesComplete : Prop :=
  ∀ (me : Me) (s : State) (v : FmtV3) (f : FmtMA) (a : FmtA),
    let t := me.train s
    let wide := v.ty == 6
    let h := a.desc.toNat
    let q := (List.range 4).map fun i => (t.readS me.sid (h + i)).toNat
    let r := bits a.imm.toNat 0 8
    let key := outKey t.ctx (me.core / 4)
    (ready me (.vxshuf v) s → (portWaiters s (me.core / 4)).length < 4 →
      let x : Shuffle :=
        { who := me.who s, core := me.core, launch := t.launch, key := singleSrc s t me.sid v.b.toNat 0, wide := wide,
          dest := v.d.toNat, act := me.active s, vals := (List.range 96).map fun l => intSrc s t me.sid v.ty.toNat v.a.toNat l,
          issued := s.timer, ctx := t.ctx, joined := s.joined me.tid me.sid, born := (me.split s).born }
      exec (.vxshuf v) s = .next (retire me ((arriveShuffle s.nextId x
        { s with nextId := s.nextId + 1, shuffles := Tab.put s.shuffles s.nextId x }).updTrain me.tid fun t =>
          t.addBusy s.nextId 9 (if wide then [.v v.d.toNat, .v (v.d.toNat + 1)] else [.v v.d.toNat])))) ∧
    (ready me (.acall f) s → me.sid < t.splits.length → (me.split s).sending = none → t.combiner = false →
      unsettled s me.tid = false → acallsOf s me.tid < 4 →
      let u := sendAcall me f s
      ∃ o, Tab.find u.accOps s.nextId = some o ∧ o.dest = f.d.toNat ∧ o.pc = (me.split s).pc ∧
        o.waiting = (acallLanes me f s (lanesOf (me.active s))).1.length ∧
        exec (.acall f) s = .next (if o.unaccepted = 0 then finishAcall me s.nextId o u else stall 7 me u)) ∧
    (∀ id o, sendingOp s = some (me, id, o) → o.unaccepted = 0 → exec (.acall f) s = .next (finishAcall me id o s)) ∧
    (ready me (.arecv a) s → t.combiner = true → divided t = false → outBatch s me.tid = none → t.arecv = none →
      exec (.arecv a) s = trainDone me s fun t =>
        { (List.range 4).foldl (fun t i => t.awaitToken (h + i) 8) t with arecv := some (h, r) }) ∧
    (∀ b, ready me (.afail a) s → t.combiner = true → outBatch s me.tid = some b →
      let fails := (List.range b.reqs.length).foldl (fun x i =>
        if (t.readTriple me.sid h).getLsbD i then Tab.put x i (t.readV r i) else x) b.fails
      exec (.afail a) s = .next (retire me { s with accOut := Tab.put s.accOut key { b with fails := fails } })) ∧
    (∀ b, ready me (.areply a) s → t.combiner = true → outBatch s me.tid = some b → unsettled s me.tid = false →
      (q.getD 0 0) % 2 ^ 13 = (headerWords b).getD 0 0 → q.drop 1 = (headerWords b).drop 1 → exec (.areply a) s =
      .next (retire me (sendReplies b
        (fun i => (t.readV r i).toNat + (if b.wide then 2 ^ 32 * (t.readV (r + 1) i).toNat else 0))
        (fun i => Tab.find b.fails i) t.pts t.lamport { s with accOut := Tab.del s.accOut key })))

/-- R323 to R329, R419: with a slot or a channel that the launch has bound and the train is a member of, not broken, ESARR, ESBAR and
ESRED send an arrival in the current phase where none of the member's stands; ESWAIT awaits the phase of the member's arrival, else
the current one; ESBCST sends a value where fewer than eight are under way; ESRECV takes the oldest value received, or awaits
the next; ESTICK reads the tick; ESPRE signals the workgroups of the slot's members, or in a halt is held (Table 0.4; from the issue of HALTALL on, the model's
choice, log 103). A slot or a channel that is refused gives the
train-level fault of R323. -/
def Obligations.EscapementWordsComplete : Prop :=
  ∀ (me : Me) (s : State) (f : FmtSI) (g : FmtX),
    let t := me.train s
    let d := f.d.toNat
    let set := f.imm.toNat % 256
    let free := placeOps s me.tid = [] ∧ matsPending s me.tid = false
    let own (val : Nat) : EsValue := { val := val, ts := arrivalTs s me.tid, lam := t.lamport }
    let done (u : State) (k : Train → Train) : Result := .next (retire me (u.updTrain me.tid k))
    (∀ n x m, slotFor s me.tid set = .ok (n, x, m) →
      let sent (kind reg : Nat) (op : Option Nat) (val : Nat) : State :=
        addWait n { member := m, kind := kind, reg := reg, phase := x.phase, sid := me.sid, seq := 0 }
          (sendMsg (.arrival n m op (own val) s.cycle) s)
      (x.arrival m = none → free → ready me (.esarr f) s → exec (.esarr f) s = done (sent 0 0 none 0) fun t => t) ∧
      (x.arrival m = none → free → ready me (.esbar f) s → f.d = 0 → exec (.esbar f) s = done (sent 0 0 none 0) fun t => t) ∧
      (x.arrival m = none → free → ready me (.esbar f) s → f.d ≠ 0 →
        exec (.esbar f) s = done (sent 1 d none 0) fun t => t.awaitToken d 6) ∧
      (x.arrival m = none → free → ready me (.esred f) s → exec (.esred f) s =
        done (sent 3 d (some f.minor.toNat) (t.readSN me.sid f.a.toNat true)) fun t =>
          (t.awaitToken d 6).awaitToken (d + 1) 6) ∧
      (ready me (.eswait f) s → (∀ w ∈ x.waits, w.member = m → w.kind ≠ 2) → exec (.eswait f) s =
        done (addWait n { member := m, kind := 2, reg := d, phase := ((x.arrival m).map (·.phase)).getD x.phase,
                          sid := me.sid, seq := 0 } s) fun t => t.awaitToken d 6)) ∧
    (∀ n c m, chanFor s me.tid set = .ok (n, c, m) →
      (ready me (.esbcst f) s → free → chanLoad s n < 8 → exec (.esbcst f) s =
        .next (retire me (sendMsg (.entering n m (own (t.readSN me.sid f.a.toNat true)) s.cycle) s))) ∧
      (∀ v vs, ready me (.esrecv f) s → (∀ w ∈ c.waits, w.member ≠ m) → Tab.get [] c.recv m = v :: vs →
        let rest (c : EsChan) : Tab (List EsValue) := if vs.isEmpty then Tab.del c.recv m else Tab.put c.recv m vs
        exec (.esrecv f) s = .next (retire me (((s.updChan n fun c => { c with recv := rest c }).updTrain me.tid fun t =>
          (t.tokenPair d v.val).carry [.s d, .s (d + 1)] v.ts).hear me.tid v.lam))) ∧
      (ready me (.esrecv f) s → (∀ w ∈ c.waits, w.member ≠ m) → Tab.get [] c.recv m = [] →
        let w : EsWait := { member := m, kind := 4, reg := d, phase := 0, sid := me.sid, seq := s.nextId }
        exec (.esrecv f) s = done (({ s with nextId := s.nextId + 1 } : State).updChan n fun c =>
          { c with waits := c.waits ++ [w] }) fun t =>
          (t.awaitToken d 6).awaitToken (d + 1) 6)) ∧
    (ready me (.estick f) s → exec (.estick f) s = trainDone me s fun t => t.writeSN me.sid d true (s.cycle / 4)) ∧
    (ready me (.espre g) s →
      let l := s.launch t.launch
      ∀ x, (boundTo l.slotSet l.slotMap (t.readS me.sid g.sa.toNat).toNat).bind (Tab.find s.esSlots) = some x →
        let ws := memberWgs s t.launch x.members
        (s.halt.phase = 0 → exec (.espre g) s = .next (retire me (signalWgs ws s))) ∧
        (s.halt.phase ≠ 0 → exec (.espre g) s = .next (retire me
          { s with espreHeld := s.espreHeld ++ ws.filter fun w => !s.espreHeld.contains w }))) ∧
    (∀ k info, slotFor s me.tid set = .error (k, info) → ∀ i ∈ [Instr.esarr f, Instr.esbar f, Instr.esred f, Instr.eswait f],
      ready me i s → exec i s = .next (faultTrain k info me s)) ∧
    (∀ k info, chanFor s me.tid set = .error (k, info) → ∀ i ∈ [Instr.esbcst f, Instr.esrecv f],
      ready me i s → exec i s = .next (faultTrain k info me s))

/-! ### Traps, system registers and system operations (spec/22, spec/25) -/

/-- R62, R402, R410: BRK and TRAP, in a train that does not hold an event as a handler, take their exception: the split parks with
one train-level record, BREAKPOINT, 0x15, or SOFTWARE-TRAP, 0x16, at the word's own offset, with bits [15:0] of the word's
immediate in INFO; it stands at the next word, the train is PARKED, the run is over, and no register or memory changes, whatever
lanes are active. BRK is class T, legal at RATE 7 alone, with D, A, MINOR and IMM[31:16] at 0, and BRK 7 is 0x7CE0_0000_0000_0007. -/
def Obligations.TrapsPark : Prop :=
  (∀ (me : Me) (s : State) (f : FmtSI) (x : FmtX) (i : Instr) (kind info : Nat),
    (i, kind, info) ∈ [(Instr.brk f, 0x15, f.imm.toNat % 65536), (Instr.trap x, 0x16, x.imm.toNat % 65536)] →
    ready me i s → me.sid < (me.train s).splits.length → s.holdsEvent me.tid = false →
    ∃ u, exec i s = .next u ∧ (me.split u).state = .parked ∧ (me.train u).state = .parked ∧
      (me.split u).pc = (me.split s).pc + 1 ∧
      (me.split u).recs = [trainRecord kind 0 0 (BitVec.ofNat 32 info) me s] ∧
      u.cur = none ∧ ((u.core me.core).sched me.sched).run = none ∧ sameMemory s u ∧ sameV (fun _ _ => False) s u ∧
      sameS (fun _ _ => False) s u) ∧
  (∀ f : FmtSI, classOf (.brk f) = .T ∧ (∀ g rung r, rateOk g rung r (.brk f) = (r == 7)) ∧ ((Instr.brk f).wellFormed = true ↔
    f.d = 0 ∧ f.a = 0 ∧ f.minor = 0 ∧ f.imm.toNat < 65536)) ∧
  decodeWord 0x7CE0000000000007 = .ok ({ last := false, rate := 7 }, .brk { d := 0, a := 0, minor := 0, imm := 7 })

/-- R411, R412, R414, R437, R439: SYSCALL sends its code with s8 to s15 and awaits s8 and s9; CLKRD reads the cycle; TREC adds a
record with a session on and does nothing without; MFSR reads and MTSR writes a number that a chapter assigns, a counter of
Table 8.4 among them, and takes ILLEGAL-FIELD for another; FLTRD reads a word of the event that the handler holds, 0 without
one. -/
def Obligations.SystemRegistersComplete : Prop :=
  ∀ (me : Me) (s : State) (f : FmtSI) (x : FmtX),
    let t := me.train s
    let n := x.imm.toNat
    let a := x.sa.toNat
    let on := if s.halted then s else s.updTrain me.tid fun t => { t with lamport := t.lamport + 1 }
    let call : SysCall :=
      { who := me.who s, ctx := t.ctx, joined := s.joined me.tid me.sid, code := n % 65536,
        args := (List.range 8).map fun k => t.readS me.sid (8 + k), lam := t.lamport, ts := t.pts }
    let sent : State := { s with nextId := s.nextId + 1, syscalls := Tab.put s.syscalls s.nextId call }
    (ready me (.syscall x) s → (unsettled s me.tid = false ∨ n % 65536 < 0xF000 ∨ 0xF002 < n % 65536) → exec (.syscall x) s =
      .next (retire me (sent.updTrain me.tid fun t => (t.awaitToken 8 8).awaitToken 9 8))) ∧
    (ready me (.clkrd f) s → exec (.clkrd f) s = trainDone me s fun t => t.writeSN me.sid f.d.toNat true s.cycle) ∧
    (ready me (.trec f) s → (s.ctx t.ctx).tracing = false → exec (.trec f) s = .next (retire me s)) ∧
    (ready me (.trec f) s → (s.ctx t.ctx).tracing = true → exec (.trec f) s = .next (retire me (on.traceAdd t.ctx 1
      (on.joined me.tid me.sid) (f.imm.toNat % 65536) (BitVec.ofNat 64 (t.readSN me.sid f.a.toNat true))
      (some (on.train me.tid).lamport)))) ∧
    (ready me (.mfsr x) s → isProfNumber n = true → exec (.mfsr x) s = .next (retire me
      ((profRead me.tid n s).2.updTrain me.tid fun t => t.writeS me.sid a (profRead me.tid n s).1))) ∧
    (ready me (.mfsr x) s → isProfNumber n = false → ∀ v, sysValue s me.tid n = some v →
      exec (.mfsr x) s = trainDone me s fun t => t.writeS me.sid a (BitVec.ofNat 32 v)) ∧
    (ready me (.mfsr x) s → isProfNumber n = false → sysValue s me.tid n = none → exec (.mfsr x) s = trainFault 0x02 0 me s) ∧
    (ready me (.mtsr x) s → ∀ u, sysWrite me.tid n (t.readS me.sid a).toNat s = some u →
      exec (.mtsr x) s = .next (retire me u)) ∧
    (ready me (.mtsr x) s → sysWrite me.tid n (t.readS me.sid a).toNat s = none → exec (.mtsr x) s = trainFault 0x02 0 me s) ∧
    (ready me (.fltrd x) s → exec (.fltrd x) s = trainDone me s fun t => t.writeSN me.sid a true
      ((currentEvent s me.tid).elim 0 fun e => (e.words.getD (t.readS me.sid x.sb.toNat).toNat 0).toNat))

/-- R408, R413, R415 to R420: ERET of a train of a handler context, where no other train is its handler, becomes the handler and
waits for an event, none of s8 to s15 pending, no fault deferred and no TSNAP or CTXSAVE of its split under way (the model's reading, log
145), having closed a dump of its own; TRESUME, TKILL, TSNAP and CTXSAVE act on the train that the handle names, and
take BAD-HANDLE where it names none; CTXREST restores an image that its checks allow into the lowest free slot; TLBINV and
HALTALL leave an operation that the split's next run awaits, HALTALL with a dump opened, or nothing where a halt or a dump
stands. -/
def Obligations.SystemOperationsComplete : Prop :=
  ∀ (me : Me) (s : State) (x : FmtX),
    let t := me.train s
    let c := t.ctx
    let a := t.readSN me.sid x.sa.toNat true
    let r := x.sb.toNat
    let scope := x.imm.toNat % 4
    let bad : Result := .next (faultWith s me [trainRecord 0x09 0 0 0 me s])
    let op (o : SysOp) (u : State) : State :=
      { u with nextId := u.nextId + 1, sysOps := Tab.put u.sysOps u.nextId o }.updSplit me fun sp =>
        { sp with sysOps := sp.sysOps ++ [u.nextId] }
    let whoIs (tid : Nat) : Who := { tid := tid, gen := (s.train tid).inc, sid := 0 }
    (ready me (.eret x) s → (me.split s).deferred = [] → ownSnap s (me.split s) = false → (∀ k, 8 ≤ k → k < 16 → t.pending k = false) → handledBy s c ≠ [] → (∀ h, handlerOf s c = some h → h.who.names s me.tid = true) →
      (ownsDump s me.tid = false → exec (.eret x) s = .next (becomeHandler me s)) ∧
      (∀ d u, s.dump = some d → d.who.names s me.tid = true → storeGlobal me.tid (d.base + 4) 4 3 s = .ok u →
        exec (.eret x) s = .next (becomeHandler me { u with dump := none }))) ∧
    (∀ tid, handleTarget s c (t.readS me.sid x.sa.toNat) = some tid →
      (ready me (.tresume x) s → exec (.tresume x) s = .next (retire me (s.updTrain tid Train.resume))) ∧
      (ready me (.tkill x) s → exec (.tkill x) s = .next (retire me (requestKill tid s))) ∧
      (ready me (.tsnap x) s → s.dump ≠ none →
        exec (.tsnap x) s = .next (retire me (op (.snap (me.who s) (whoIs tid) (me.split s).pc) s)))) ∧
    (handleTarget s c (t.readS me.sid x.sa.toNat) = none → ∀ i ∈ [Instr.tresume x, Instr.tkill x, Instr.tsnap x],
      ready me i s → exec i s = bad) ∧
    (ready me (.ctxsave x) s → a % 4096 = 0 → ∀ tid, handleTarget s c (t.readS me.sid r) = some tid → exec (.ctxsave x) s =
      .next (retire me ((op (.save (me.who s) (whoIs tid) a (me.split s).pc) s).updTrain tid fun t =>
        { t with saveOp := t.saveOp.orElse fun _ => some s.nextId }))) ∧
    (ready me (.ctxsave x) s → a % 4096 = 0 → handleTarget s c (t.readS me.sid r) = none → exec (.ctxsave x) s = bad) ∧
    (ready me (.ctxrest x) s → ∀ hd s1 tl s2 w k ks, loadQuads me.tid 1 a s = .ok (hd, s1) → hd.getD 0 0 = 1 →
      let g := hd.getD 1 0 % 256
      let ws := hd ++ tl
      1 ≤ g → g ≤ 16 → loadQuads me.tid (511 + 384 * g) (a + 16) s1 = .ok (tl, s2) → imageOk ws = true →
      imageWg s2 ws = some w → freeSlots s2 (s2.wg w).core = k :: ks → g ≤ granulesFree s2 (s2.wg w).core → coreOpen s2 (s2.wg w).core = true →
      let tid := (s2.wg w).core * 32 + k
      let u := restoreTrain tid w s2.nextId ws { s2 with nextId := s2.nextId + 1 }
      let rest : RestOp := { who := me.who u, tok := r, tid := tid }
      exec (.ctxrest x) s = .next (retire me (({ u with rests := Tab.put u.rests s2.nextId rest } : State).updTrain me.tid fun t => t.awaitToken r 8))) ∧
    (ready me (.tlbinv x) s → unsettled s me.tid = false → exec (.tlbinv x) s =
      .next (retire me (op (.inv (me.who s) scope (if scope = 2 then a % 65536 else c) a) s))) ∧
    (ready me (.haltall x) s → (s.dump ≠ none ∨ s.halt.phase ≠ 0) → exec (.haltall x) s = .next (retire me s)) ∧
    (ready me (.haltall x) s → s.dump = none → s.halt.phase = 0 →
      ∀ u, storeQuads me.tid (quads (dumpHeader (currentEvent s me.tid))) (s.ctx c).dumpBase s = .ok u →
      let v := setDump { who := me.who u, ctx := c, base := (s.ctx c).dumpBase } u
      let h : State := { holdTick v with halt :=
        { phase := 1, due := entryTick v.cycle + 22, who := some (me.who v), thermal := false } }
      exec (.haltall x) s = .next (retire me (op (.halt (me.who h)) h)))

/-! ### What happens by itself: trains, rays, clusters (spec/03, 07, 08, 11, 14, 15) -/

/-- R53, R61, R65, R88, R155, R160 to R163, R188, R191, R403: a scheduler with a run goes on with it, or with an earlier run of its train
(the model's choice in part, log 10), and a free one starts the run that it picks, a lower split of the train that its scheduler would pick first; two splits that may merge become the lower one; splits that wait for a join become READY; a yield and a trim end; the
next REGGROW request is granted, or under starvation refused with status 1 (of two splits of the train, the lower SID's: the model's choice, log 99), and
one whose train has grown too far meanwhile is refused with status 2 (the model's reading, log 98); a trim leaves at least one granule (the model's choice, log 97); a train that may leave ENDING ends; a STARTING
train whose ancestors have ended becomes RESIDENT, as does one that is to be saved, discarded or killed, which then issues nothing (the
model's reading, log 102); fetched words come into the instruction cache; a watched wait that lasts too
long parks its split with WATCHDOG, 0x12. -/
def Obligations.TrainEventsComplete : Prop :=
  ∀ (s : State) (core slot sid k : Nat),
    let tid := core * 32 + slot % 32
    let t := s.train tid
    let sc := (s.core core).sched (k % 4)
    let free : State := s.updSched core (k % 4) fun sc => { sc with rested := false }
    let n := sid % 4
    let me : Me := { core := core, sched := (slot % 32 + n) % 4, slot := slot % 32, sid := n }
    let freed (k : Train → Train) : Result := .next (s.updTrain tid fun t => (k t).updSplit sid fun sp => { sp with hold := .free })
    (sc.run ≠ none → exec (.schedulerPick core k) s = .next { s with cur := some (core * 4 + turn core (k % 4) s) }) ∧
    (sc.run = none → mustRest s core (k % 4) = false → ∀ x y, pick free core (k % 4) = some (x, y) →
      let first := startsFirst free core (k % 4) x y
      exec (.schedulerPick core k) s = .next (startRun core first.1 x first.2 free)) ∧
    (∀ a b, (a, b) ∈ splitPairs → mergeNow s tid a b = true → (∀ m, (t.split m).valid = true → m = a ∨ m = b) →
      exec (.splitMerge core slot) s = .next (s.updTrain tid (mergePair a b))) ∧
    (joinDue t = true → ∃ u, exec (.joinRelease core slot) s = .next u ∧ ∀ m, (u.train tid).split m =
      if (t.split m).valid && (t.split m).state == .joinwait then { t.split m with state := .ready } else t.split m) ∧
    (∀ i idle, (t.split sid).hold = .yield i idle → 64 ≤ idle → exec (.yieldLimit core slot sid) s = freed fun t => t) ∧
    (∀ g, (t.split sid).hold = .trim g → writesAbove s tid (16 * (t.granules - g)) = false →
      exec (.regtrimComplete core slot sid) s = freed fun t =>
        { t.dropRegs (16 * max 1 (t.granules - g)) with granules := max 1 (t.granules - g) }) ∧
    (∀ x y c g r, overCap s core = some (x, y, c, g, r) → exec (.reggrowGrant core) s = .next (resolveGrow x y 0 r 2 s)) ∧
    (∀ x y c g r, overCap s core = none → grantable s core = some (x, y, c, g, r) → exec (.reggrowGrant core) s = .next (resolveGrow x y g r 0 s)) ∧
    (starved s core = true → ∀ x y c g r, leastBy (fun q => 2 ^ 70 - ((s.train q.1).age * 32 + q.1 % 32))
        ((growRequests s core).filter fun q => (s.train q.1).state == .resident) = some (x, y, c, g, r) →
      exec (.reggrowStarvation core) s = .next (resolveGrow x y 0 r 1 s)) ∧
    (trainEndDue s tid = true → exec (.trainEnd core slot) s = .next (endTrain tid s)) ∧
    (t.state = .starting → t.returning = false → t.restOp = none → (s.launch t.launch).graphics = false → passReady s t = true →
      (s.wg t.wg).state.held = false → t.killAtEnd = false → ∀ u, createRecs tid s = some u →
      exec (.computePassStart core slot) s = .next (u.updTrain tid fun t => { t with state := .resident, waitsPass := false })) ∧
    (t.state = .starting → t.returning = false → t.restOp = none → ((s.wg t.wg).state.held = true ∨ t.killAtEnd = true) →
      exec (.computePassStart core slot) s = .next (s.updTrain tid fun t => { t with state := .resident, waitsPass := true })) ∧
    (∀ start len ws u, unfetched s me.tid n = some (start, len) → fetchWords me.tid len start s = .ok (ws, u) →
      let c : CachedRun := { launch := (u.train me.tid).launch, start := start, words := ws }
      let kept := keepRuns ws.length ((u.core core).icache ++ [c]) u
      exec (.instructionFetchFill core slot sid) s = .next (kept.2.updCore core fun x => { x with icache := kept.1 })) ∧
    (watchOver s me.tid n = true → exec (.watchdog core slot sid) s = .next (parkSplit me
      [trainRecord 0x12 0 0 (BitVec.ofNat 32 (reasonOf s me.tid n)) me s] (s.updSplit me fun sp => { sp with watch := 0 })))

/-- R171, R264 to R268, R276 to R280, R303: the rung sequencer spawns a train; a readable spilled record, or the copy of one in the store of a core, comes back; the raster unit
processes its next primitive; up to 96 waiting rays of one depth start in a RAY train, each marked as started; an ended ray
whose accesses have their places delivers its record (R345); a sort, or the wait limit, regroups; an offer of 512 cycles is withdrawn with status 1; a held blend that
is due changes the value at its place to that of Table 11.10 and no other byte; a finished registration closes. -/
def Obligations.RayEventsComplete : Prop :=
  ∀ (s : State) (id core k x y : Nat),
    let l := s.launch id
    let spawned := spawnTrain id k core s
    (exec (.rungSequencerSpawn id k core) s =
      .next (if k = 0 ∧ (spawned.launch id).nextWg ≠ l.nextWg then launchRecord id 2 spawned else spawned)) ∧
    (∀ key r va, key < 2 ^ 40 → Tab.find l.recs key = some r → r.out core = some va →
      refillRead s (storeAgent core l) (l.recBytes (key / 2 ^ 32) / 4) va = none →
      exec (.fixativeRefillComplete core (id * 2 ^ 40 + key)) s = .next (s.updLaunch id fun l =>
        { l with recs := Tab.put l.recs key (if r.core = core then { r with spilled := false, refilled := true }
          else { r with copies := Tab.put r.copies core none }) })) ∧
    (∀ p c, (l.rasterAdvance (l.clusterTotal + 1)).nextPrim = some (p, c) → exec (.rasterPrimitive id) s =
      .next (releaseRecs id (s.updLaunch id fun _ => (l.rasterAdvance (l.clusterTotal + 1)).rasterize p c))) ∧
    (∀ d slot res, coreLive s core = true → nextRayTrain (spillForRays s id core) id core = some (d, slot, res) →
      let rs := (waitingRays s id core d).take 96
      ∃ u, exec (.rayTrainStart core id) s = .next u ∧ (u.train (core * 32 + slot)).rung = 6 ∧
        (u.train (core * 32 + slot)).rayDepth = d ∧ (u.train (core * 32 + slot)).launch = id ∧
        (u.train (core * 32 + slot)).live = maskOfList (List.range rs.length) ∧
        ∀ z ∈ rs, Tab.find s.rays z.1 = some z.2 → (Tab.find u.rays z.1).map (·.started) = some true) ∧
    (∀ r, Tab.find s.rays id = some r → r.ended = true → r.delivered = false → (∀ k ∈ r.ops, opSettled s k = true) →
      exec (.rayRecordDelivery id) s = .next (completeTrace r.trace
      { s with rays := Tab.put s.rays id { r with delivered := true },
               traces := Tab.upd s.traces r.trace fun o =>
                 { o with recs := Tab.put o.recs r.lane r.hit, left := o.left - 1, ts := max o.ts r.ts } })) ∧
    (regrpDue s core = true → exec (.regrpSort core) s = .next (regroup core s)) ∧
    (regrpLimit s core = true → exec (.regrpWaitLimit core) s = .next (regroup core s)) ∧
    (∀ o a tok c, (s.core core).offer = some o → o.since + 512 ≤ s.timer → s.present o.who = true →
      ((s.train o.who.tid).split o.who.sid).hold = .regroup 1 a tok c → exec (.ringOfferWithdrawal core) s =
      .next (endRing o.who.tid o.who.sid tok 1 (s.updCore core fun c => { c with offer := none }))) ∧
    (∀ b, memoryCanonical s → Tab.find s.blends id = some b → blendDue s id b = true → badSource s b.loc = none →
      let n := if b.wide then 8 else 4
      ∃ u, exec (.blendApply id) s = .next u ∧ u.blends = Tab.del s.blends id ∧
        readLoc u b.loc n = blendNew b.op b.wide b.src (readLoc s b.loc n) % 256 ^ n ∧
        ∀ p, insideLoc b.loc n p = false → readLoc u p 1 = readLoc s p 1) ∧
    (l.tileDone k x y = true → exec (.registrationClose id k x y) s = .next (s.updLaunch id fun l =>
      { l with registrations := l.registrations.map fun r =>
          if r.seq == k && r.tx == x && r.ty == y then { r with isOpen := false } else r }))

/-- R289 to R301, R361, R390: the requests of an ACALL that the queue accepts leave its group; a batch reaches a waiting combiner
train; a reply counts for its lane, and the last one settles the call; a combiner train starts or is restored where its
granules are free, and passes its slot; a pair of VXSHUFs delivers 48 cycles later on one die, 96 across dies, and swaps the
lanes active in both; one that has waited 4,096 cycles faults with SHUFFLE-TIMEOUT, 0x13, in the engine fault log where its split is
no more. R316, R320, R325 to R330:
ESCAPEMENT_TICK moves the clock to the next tick; a message enters once its tick and order have come; at its tick a release
reaches every member that awaits its phase, a value every member of its channel; an uncorrectable error loses a message; a lost
pre-emption signal or halt broadcast comes 22 ticks later. -/
def Obligations.NetworkEventsComplete : Prop :=
  ∀ (s : State) (id k : Nat),
    let rest : State := { s with esMsgs := Tab.del s.esMsgs id }
    (∀ g u, Tab.find s.accGroups id = some g → groupWaits s id g = false → arriveReqs g g.reqs s = ([], u) →
      exec (.accordRequestArrival id) s = .next { u with accGroups := Tab.del u.accGroups id }) ∧
    (∀ tid b, deliverable s k = some (tid, b) → exec (.accordBatchDelivery k) s = .next (deliverBatch k tid b s)) ∧
    (∀ r o, Tab.find s.accReplies id = some r → Tab.find s.accOps r.op = some o →
      let p : AccOp :=
        { o with waiting := o.waiting - 1, vals := Tab.put o.vals r.lane r.val, ts := max o.ts r.ts, lam := max o.lam r.lam,
                 failed := if r.err then o.failed ++ [(r.lane, BitVec.ofNat 32 r.val)] else o.failed }
      let u : State := { s with accReplies := Tab.del s.accReplies id, accOps := Tab.put s.accOps r.op p }
      exec (.accordReplyArrival id) s = .next (if p.waiting = 0 then settleAcall r.op p u else u)) ∧
    (∀ c x, combinerDue s k = some (c, x) → (combinerNeeds s x k).getD 0 ≤ granulesFree s c →
      exec (.combinerStart k) s = .next (startCombiner x k c { s with combWait := s.combWait.erase c })) ∧
    (∀ tid, passDue s k = some tid → exec (.combinerSlotPass k) s = .next (passSlot k tid s)) ∧
    (∀ x y, Tab.find s.shuffles id = some x → Tab.find s.shuffles k = some y → pairOf s k y = some id →
      let due := s.cycle + (if x.core / 56 = y.core / 56 then 48 else 96)
      let pairs := Tab.put (Tab.put s.shuffles id { x with pair := some (k, due) }) k { y with pair := some (id, due) }
      exec (.vxshufPairing id k) s = .next { s with shuffles := pairs }) ∧
    (∀ x y due, Tab.find s.shuffles id = some x → x.pair = some (k, due) → Tab.find s.shuffles k = some y → due ≤ s.cycle →
      exec (.vxshufDelivery id) s = .next (receiveShuffle k y x (receiveShuffle id x y
        { s with shuffles := Tab.del (Tab.del s.shuffles id) k }))) ∧
    (∀ x, Tab.find s.shuffles id = some x → x.pair = none → x.issued + 4096 ≤ s.timer →
      let r : FaultRec := { kind := 0x13, trainLevel := true, lane := 0, sid := x.who.sid, offset := 0, pending := 0, addr := 0,
                            size := 0, info := BitVec.ofNat 32 x.key }
      let gone : State := { s with shuffles := Tab.del s.shuffles id }
      let u := if s.present x.who then gone.updTrain x.who.tid fun t => t.doneBusy id else gone
      exec (.shuffleTimeout id) s = .next (if sameSplit s x.who x.born then deferFault x.who.tid x.who.sid [r] u
        else u.raiseEvent x.ctx (engineEvent u 1 x.joined 0 r))) ∧
    (exec .escapementTick s = .next (clocks (4 - s.cycle % 4) s)) ∧
    (∀ m, Tab.find s.esMsgs id = some m → entryDue s m = true → exec (.escapementEntry id) s = .next (enterMsg id m s)) ∧
    (∀ n ph killed v due, Tab.find s.esMsgs id = some (.release n ph killed v due) → due ≤ s.tick →
      exec (.escapementReleaseDelivery id) s = .next (deliverRelease n ph killed v rest)) ∧
    (∀ n v due, Tab.find s.esMsgs id = some (.broadcast n v due) → due ≤ s.tick →
      exec (.escapementBroadcastDelivery id) s = .next (deliverValue n v rest)) ∧
    (∀ m, Tab.find s.esMsgs id = some m → exec (.escapementUncorrectableError id) s = .next (loseMsg m rest) ∧
      (loseMsg m rest).replaceReq = true) ∧
    (s.halt.phase = 1 →
      exec (.escapementSignalRepeat 0) s = .next { s with halt := { s.halt with due := s.halt.due + 22 } }) ∧
    (∀ g, id ≠ 0 → Tab.find s.wgs id = some g → exec (.escapementSignalRepeat id) s =
      .next { s with wgs := Tab.put s.wgs id { g with sigAt := g.sigAt.map (· + 22) } })

/-! ### Handlers, dumps, saves, calls and traces (spec/22, 24, 25, 26) -/

/-- R372, R406, R411, R413, R416 to R421, R435, R447, R448: an event reaches its handler's s8 to s15 and entry; a halt is broadcast,
completes, with its tick in bytes 16 to 23 of the header of the open dump (Table 22.8), and is released; a truncated dump closes; a save and a restore complete; an invalidation takes effect once no walk
begun before it is in flight; calls are answered in s8 and s9; fabric calls move their bytes; a request of another module is
done and answered; the oldest trace record leaves its queue. -/
def Obligations.HandlerEventsComplete : Prop :=
  ∀ (s : State) (id core slot : Nat),
    let tid := core * 32 + slot % 32
    (∀ h n c e, deliverable? s id = some (h, n, c, e) →
      let u := popEvent c s
      let held : Handler := { h with current := some (c, e), waiting := false }
      exec (.eventDelivery id) s = .next (({ u with handlers := Tab.put u.handlers id held } : State).updTrain h.who.tid fun t =>
          ((List.range 4).foldl (fun t k => t.tokenPair (8 + 2 * k) (e.words.getD k 0).toNat) t).updSplit n fun sp =>
            { sp with hold := .free, pc := (u.ctx id).hentry, replay := none, partialEnd := none })) ∧
    (∀ d j r, s.dump = some d → d.nested = some (j, r) → d.ctx = id →
      exec (.truncatedDumpClose id) s = .next (closeTruncated d j r s)) ∧
    (s.halt.phase = 1 → s.halt.due ≤ s.tick →
      exec .haltBroadcastArrival s = .next { s with halt := { s.halt with phase := 2 } }) ∧
    (haltDone s = true → ∃ u, exec .haltComplete s = .next u ∧ u.halted = true ∧ u.trains = s.trains ∧
      u.boot.off = (s.boot.off || s.halt.thermal) ∧ (s.dump = none → u.mem = s.mem) ∧
      ∀ d l, s.dump = some d → memoryCanonical s → checkStore s (checkGlobal s d.agent .write false (d.base + 16) 8) = .ok l →
        readLoc u l 8 = s.tick % 2 ^ 64 ∧ ∀ p, insideLoc l 8 p = false → readLoc u p 1 = readLoc s p 1) ∧
    (s.halted = true → exec (.haltRelease 0) s =
      .next { s with halt := {}, ctxs := s.ctxs.map fun x => (x.1, { x.2 with trFull := true }) }) ∧
    (∀ op who target addr pc, (s.train tid).saveOp = some op →
      Tab.find s.sysOps op = some (.save who target addr pc) → saveReady (withdrawOffers tid s) tid = true →
      exec (.contextSaveEffect core slot) s = .next (saveTrain op who target addr pc (withdrawOffers tid s))) ∧
    (∀ r, Tab.find s.rests id = some r →
      let u := ({ s with rests := Tab.del s.rests id } : State).updTrain r.tid fun t =>
        { t with state := if t.anyParked then .parked else .resident, restOp := none }
      exec (.ctxrestLoadComplete id) s = .next (u.deliver r.who r.tok (u.handle r.tid) 0)) ∧
    (∀ who scope ctx a, Tab.find s.sysOps id = some (.inv who scope ctx a) →
      (∀ w ∈ s.walks, id ≤ w.1) → exec (.tlbInvalidationComplete id) s =
      .next (invalidate scope ctx a { s with sysOps := Tab.del s.sysOps id })) ∧
    (∀ x v, Tab.find s.syscalls id = some x → x.fabric = false →
      exec (.syscallReply id v) s = .next (replyCall id x v s)) ∧
    (∀ x, Tab.find s.syscalls id = some x → x.moved = false → x.operandsOk = true →
      let put (y : SysCall) (u : State) : Result := .next { u with syscalls := Tab.put u.syscalls id { y with moved := true } }
      let g := fabricAgent s x.ctx
      (s.routes.contains x.remote = false → ∀ i code, (i, code) ∈ [(Instr.fput id, 0xF000), (Instr.fget id [], 0xF001), (Instr.fatom id, 0xF002)] →
        x.code = code → exec i s = put { x with failed := some 0x05 } s) ∧
      (s.routes.contains x.remote = true →
      (x.code = 0xF000 → ∀ bs ts k u, fabricRead g (x.arg 7) (x.pair 2) x.ts s = (bs, ts, k, u) →
        exec (.fput id) s = put { x with bytes := bs, ts := ts, failed := k } u) ∧
      (x.code = 0xF001 → ∀ bytes ts k u, fabricWrite g (bytes.take (x.arg 7)) (x.pair 4) x.ts s = (ts, k, u) →
        exec (.fget id bytes) s = put { x with ts := ts, failed := k } u) ∧
      (x.code = 0xF002 → exec (.fatom id) s = put x s))) ∧
    (∀ x v st, Tab.find s.syscalls id = some x → x.fabric = true → x.moved = true →
      let own (k : Nat) : Word := BitVec.ofNat 32 (1 + 256 * k)
      let status : Word := x.failed.elim st fun k => if x.code = 0xF000 ∧ x.bytes ≠ [] ∧ st ≠ 0 then st else own k
      let u := replyCall id x (status ++ if x.code == 0xF002 && x.failed.isNone then v else 0) s
      (u.ctx x.ctx).tracing = false → exec (.fabricReply id v st) s = .next u) ∧
    (∀ addr req v st u, inbound (fabricAgent s id) addr.toNat req.op (hearMessage id req.lam s) = (v, st, u) →
      exec (.fabricInboundRequest id addr req) s = .next { u with fabricOut := u.fabricOut ++ [(v, st, (u.ctx id).trM)] }) ∧
    (∀ r rest, (s.ctx id).trQueue = r :: rest → (s.ctx id).tracing = false → exec (.traceRecordAppend id) s =
      .next (s.updCtx id fun c => { c with trQueue := rest })) ∧
    (∀ r rest, (s.ctx id).trQueue = r :: rest → (s.ctx id).tracing = true →
      let c := s.ctx id
      let bs := traceBytes { c with trQueue := rest } r s.cycle
      let u := s.updCtx id fun c => { c with trQueue := rest }
      c.trPos + bs.length ≤ c.trLen → firstUnwritable u (traceAgent u id) bs.length (c.trBase + c.trPos) = none →
      exec (.traceRecordAppend id) s = .next ((agentBytes (traceAgent u id) bs (c.trBase + c.trPos) u).updCtx id fun c =>
        { c with trPos := c.trPos + bs.length, trPrev := s.cycle, trFull := false }))

/-! ### Queues, packets and launches (spec/21, spec/26) -/

/-- R379 to R395, R401, R444: the queue processor serves the lanes of the lowest opcode, whose items start in the step: one that it
cannot reach fails with the fault's kind, an opcode outside Table 21.2 with BAD-PACKET; a started packet that is well formed does
its work (TDEC, SIGNAL, COPY, TASK, HANDOVER, PREEMPT-POINT, LAUNCH, LAUNCH-INDIRECT), and one that is not fails with
BAD-PACKET; a waiting packet completes once its condition holds, or fails once its timeout has passed; a launch that waited for
its bindings is bound; a prologue runs again, or fails beyond its limit; a packet whose work is done completes; a doorbell of an
enabled queue makes WIDX read again; enabling a queue sets ENABLE. -/
def Obligations.QueueEventsComplete : Prop :=
  ∀ (s : State) (q id : Nat),
    let starts (op id : Nat) (p : Packet) (u : State) : Prop :=
      s.serving.find? (fun x => x.1 == q) = some (q, id) ∧ Tab.find s.packets id = some p ∧ p.op = op ∧
        u = { s with serving := s.serving.erase (q, id) }
    (servedLanes s = [] → exec .queueProcessorStep s = .next { s with serving := [] }) ∧
    (∀ o n u, servedLanes s = [q] → laneOffer s q = some o → takeItem q o { s with serving := [] } = (n, none, u) →
      (∀ e, packetEvent o.op q = some e →
        exec .queueProcessorStep s = .next (State.later { u with serving := u.serving ++ [(q, n)] } e)) ∧
      (o.op = 5 → (u.packet n).formOk = true → exec .queueProcessorStep s = .next (startWait n (u.packet n) u)) ∧
      (packetEvent o.op q = none → (o.op ≠ 5 ∨ (u.packet n).formOk = false) →
        exec .queueProcessorStep s = .next (failPacket n (.badPacket, 0) u))) ∧
    (∀ o n k u, servedLanes s = [q] → laneOffer s q = some o → takeItem q o { s with serving := [] } = (n, some k, u) →
      exec .queueProcessorStep s = .next (failPacket n (.address, k.code) u)) ∧
    (∀ i op, (i, op) ∈ [(Instr.tdecPacket q, 3), (Instr.signalPacket q, 4), (Instr.copyPacket q, 6), (Instr.taskPacket q, 7),
        (Instr.handoverPacket q, 2), (Instr.preemptPoint q, 1), (Instr.launchPacket q, 9), (Instr.launchIndirect q, 8)] →
      ∀ n p u, starts op n p u → p.formOk = false → exec i s = .next (failPacket n (.badPacket, 0) u)) ∧
    (∀ n p u, p.formOk = true →
      (starts 3 n p u → 1 ≤ p.u 16 4 → p.u 16 4 ≤ 65535 → p.zero 20 56 = true →
        ∀ v, queueDec p.ctx (p.u 8 8) (p.u 16 4) q u.qpTs (packetLam u p) u = .ok v →
        exec (.tdecPacket q) s = .next (completePacket n v)) ∧
      (starts 4 n p u → p.u 8 8 % 8 = 0 → p.u 24 1 = 0 → p.zero 25 28 = true → p.zero 32 56 = true →
        ∀ l, checkStore u (checkGlobal u (queueAgent u p.ctx) .write false (p.u 8 8) 8) = .ok l →
        let w := agentStore (queueAgent u p.ctx) u.qpTs l 8 (p.u 16 8) u
        exec (.signalPacket q) s = .next (completePacket n (w.2.seen w.1))) ∧
      (starts 6 n p u → p.zero 16 56 = true → ∀ ws v, readItems (queueAgent u p.ctx) 8 16 (p.u 8 8) u = .ok (ws, v) →
        let d := readDesc (Bytes.writeLE [] 0 128 (packElems 64 ws)) 0
        descOk 5 0 d = true → d.total ≠ 0 →
        let x : CopyOp :=
          { who := {}, joined := queueName v q, ctx := p.ctx, core := packetCore v, priv := (v.ctx p.ctx).priv, wg := 0,
            kind := 5, op := 0, tok := 0, arr := none, desc := d, dests := [0], skipped := 0, pos := 0, ts := v.qpTs,
            lam := p.lam, seen := [], packet := n }
        ∃ w, exec (.copyPacket q) s = .next w ∧ (Tab.find w.copyOps v.nextId).map (·.desc) = some x.desc ∧
          (Tab.find w.copyOps v.nextId).map (·.kind) = some 5 ∧ (Tab.find w.copyOps v.nextId).map (·.packet) = some n ∧
          w.nextId = v.nextId + 1 ∧ w.mem = v.mem) ∧
      (starts 7 n p u → p.u 8 8 % 64 = 0 → p.u 20 1 ≤ 31 → p.zero 21 56 = true → p.u 16 4 ≠ 0 →
        ∀ l, checkStore u (checkGlobal u (queueAgent u p.ctx) .write false (p.u 8 8) 64) = .ok l →
        exec (.taskPacket q) s = .next (completePacket n (carryLam l (packetLam u p)
          (writeTask (queueAgent u p.ctx) l (p.u 16 4) (p.u 20 1) u)))) ∧
      (starts 2 n p u → p.u 8 8 % 2 ^ 16 = 0 → p.u 16 8 % 2 ^ 16 = 0 → p.u 16 8 ≤ 2 ^ 40 → p.u 24 1 ≤ 3 → p.u 25 1 ≤ 31 →
        p.zero 26 32 = true → p.zero 40 56 = true → ∀ fs v, rangeFrames u p.ctx (p.u 16 8 / 2 ^ 16) (p.u 8 8) = .ok fs →
        let c := setClass fs (p.u 24 1) u
        queueDec p.ctx (p.u 32 8) 1 q c.qpTs (packetLam c p) c = .ok v →
        exec (.handoverPacket q) s = .next (completePacket n v)) ∧
      (starts 1 n p u → p.zero 8 56 = true → (∀ x ∈ queuePackets u q, x.1 = n) →
        exec (.preemptPoint q) s = .next (completePacket n u)) ∧
      (starts 9 n p u → p.zero 48 56 = true → exec (.launchPacket q) s = .next (startLaunch n p u)) ∧
      (starts 8 n p u → p.u 48 8 % 8 = 0 → ∀ h v, readHeader (queueAgent u p.ctx) (p.u 8 8) u = .ok (h, v) →
        exec (.launchIndirect q) s =
          .next (prologueRun n { p with header := some h } (v.updPacket n fun p => { p with header := some h })))) ∧
    (∀ p, Tab.find s.packets id = some p →
      (∀ ws u, p.op = 5 → readItems (queueAgent s p.ctx) 4 1 (p.u 8 8) s = .ok (ws, u) → p.condition (ws.headD 0) = true →
        exec (.waitMemory id) s = .next (completePacket id u)) ∧
      (p.op = 5 → p.u 28 4 ≠ 0 → p.since + 1024 * p.u 28 4 ≤ s.timer →
        exec (.waitMemoryTimeout id) s = .next (failPacket id (.waitTimeout, 0) s)) ∧
      (∀ lid, p.started = false → p.launch = some lid → bindingsFit s (s.launch lid) = true →
        exec (.packetBindingsFit id) s =
          .next (bindLaunch lid (s.launch lid) (s.updPacket id fun p => { p with started := true }))) ∧
      (p.prologue = true → p.finished = false → exec (.prologueRerun id) s = .next (prologueRun id p s)) ∧
      (p.prologue = true → p.finished = true →
        exec (.prologueWatchdog id) s = .next (failPacket id (.prologueWatchdog, 0) s)) ∧
      (packetDone s id p = true → p.launch = none → p.stopped = none →
        exec (.packetCompletion id) s = .next (completePacket id s)) ∧
      (∀ lid, packetDone s id p = true → p.launch = some lid → p.again = false → exec (.packetCompletion id) s =
        .next (completePacket id ((endLaunch lid (if (completion id s).isOk then launchRecord lid 4 s else s)).updPacket id fun p =>
          { p with launch := none })))) ∧
    (q < 32 → qEnabled s q = true → exec (.doorbell q) s =
      .next { s with widx := Tab.put s.widx q (qGet s q 16 4), bells := s.bells.filter fun x => x != q }) ∧
    (q < 32 → qEnabled s q = false → q ∉ s.bells → exec (.doorbell q) s = .next { s with bells := s.bells ++ [q] }) ∧
    (∀ ridx, q < 32 → qEnabled s q = false → exec (.queueEnable q ridx) s = .next (enableQueue q (ridx.map (·.toNat)) s))

/-- R389, R396 to R400, R213, R390: placement places or restores what is next; an automatic pre-emption signals its victim; a
pre-emption of a queue takes effect at once, or is held during a halt (which lasts from the issue of HALTALL: the model's choice, log 103); a resume makes a queue whose drains are over ACTIVE; the
signal makes an idempotent workgroup outside bound sets discard, and another drain, with a save slot and its budget where a slot
is free; at its end the workgroup holds, is saved or is discarded; a kill of a context takes its queues
to STOPPED with empty ready lists and no packet, where none of its packets completes first, gives back its pins, ends its copies, its
matrix and decompression operations and its held lanes, and each train of it is ENDING or ends with its runs in issue (R190, R399); it is
done when all its writes have
stopped, and the KILL-DONE bit is then that of the newest kill (the model's reading, log 90); a context's end gives back its pins. -/
def Obligations.PreemptionEventsComplete : Prop :=
  ∀ (s : State) (q w : Nat),
    let g := s.wg w
    let l := s.launch g.launch
    let used := usedSaves s l.queue
    (∀ u, placeNext s = some u → exec .workgroupPlacement s = .next u) ∧
    (∀ v, s.halt.phase = 0 → q < 32 → autoVictim s q = some v → exec (.automaticPreemption q) s = .next (signalWgs [v] s)) ∧
    (q < 32 → s.halt.phase = 0 → exec (.preemptQueue q) s =
      .next (applyPreempt q { s with resuming := s.resuming.filter fun x => x != q })) ∧
    (q < 32 → s.halt.phase ≠ 0 → q ∉ s.preempting → exec (.preemptQueue q) s =
      .next { s with preempting := s.preempting ++ [q] }) ∧
    (q < 32 → q ∉ s.preempting → preemptionRuns s q = false →
      let u : State := { s with barred := s.barred.filter fun x => x != q }
      exec (.resumeQueue q) s = .next (if qState s q = 3 then qSet q 64 1 1 u else u)) ∧
    (signalDue s w = true → l.idemp = true → inBoundSet s g = false → exec (.preemptionSignalArrival w) s =
      .next (skipDest w (s.updWg w fun g => { g with sigAt := none, state := .discarding }))) ∧
    (signalDue s w = true → (l.idemp = false ∨ inBoundSet s g = true) →
      (∀ k, ((List.range 64).find? fun k => !used.contains k) = some k → exec (.preemptionSignalArrival w) s =
        .next (s.updWg w fun g =>
          { g with sigAt := none, state := .draining, saveSlot := k, drainEnd := some (s.timer + qGet s l.queue 32 4) })) ∧
      ((∀ k, k < 64 → k ∈ used) → exec (.preemptionSignalArrival w) s =
        .next (s.updWg w fun g => { g with sigAt := none, state := .draining, drainEnd := none }))) ∧
    (drainOver s w = true → exec (.drainBudgetExpiry w) s =
      .next (skipDest w (s.updWg w fun g => { g with state := .holding }))) ∧
    (g.state = .holding → wgReady (withdrawAll w s) w = true →
      exec (.workgroupSaved w) s = .next (saveWg w (withdrawAll w s))) ∧
    (discardReady s w = true → exec (.discardDone w) s = .next (discardWg w s)) ∧
    (∃ u, exec (.killContext q) s = .next u ∧ u.killing = some q ∧ u.killDone = false ∧ u.killed.contains q = true ∧
      (u.ctx q).pinuse = 0 ∧
      (∀ n, (∀ x, Tab.find u.copyOps n = some x → x.ctx ≠ q) ∧ (∀ x, Tab.find u.mdecs n = some x → x.ctx ≠ q) ∧
        (∀ x, Tab.find u.mats n = some x → x.ctx ≠ q) ∧ (∀ x, Tab.find u.blends n = some x → x.ctx ≠ q)) ∧
      (∀ tid t, Tab.find s.trains tid = some t → t.ctx = q → t.state ≠ .free → t.state ≠ .saved →
        (u.train tid).state = .ending ∨ (u.train tid).killAtEnd = true) ∧
      (memoryCanonical s → (∀ x ∈ s.packets, x.2.ctx = q → packetDone s x.1 x.2 = false) → ∀ k, k < 32 → qCtx s k = q →
        qState u k = 2 ∧ qGet u k 48 8 = 0 ∧ qGet u k 56 8 = 0 ∧ ∀ n p, Tab.find u.packets n = some p → p.queue ≠ k)) ∧
    (∀ c, s.killing = some c → killOver s c = true →
      exec .killDone s = .next { s with killing := none, killDone := true }) ∧
    (∃ u, exec (.contextEnd q) s = .next u ∧ (u.ctx q).begun = false ∧ (u.ctx q).pinuse = 0)

/-! ### Registers from outside, the host, boot and reliability (spec/08, 17, 20, 22, 25, 26) -/

/-- R195, R213, R375, R406, R412, R435, Table 8.5, Table 17.1: the events that stand for writes of a system register: PROFCTL.EN and
CLR, the capture of a counter, LEASE (0 stores 1), CQUOTA from the resident kernel's context alone (a field above 16 stores 16),
the registers that any write clears, and the control of a trace session: MODE is stored by a write that leaves EN 0 or sets it, a write
that sets EN starts a session with a START record and a full timestamp, and one that leaves EN 1 keeps MODE. -/
def Obligations.RegisterEventsComplete : Prop :=
  ∀ (s : State) (c core slot : Nat) (v : BitVec 32),
    (∀ on, ∃ u, exec (.profctlEn core on) s = .next u ∧ (u.core core).profEn = on ∧ (u.core core).scheds = (s.core core).scheds) ∧
    (∃ u, exec (.profctlClr core) s = .next u ∧ (u.core core).profEn = (s.core core).profEn ∧
      ∀ n, 0x200 ≤ n → n < 0x400 → profCounter u core n = 0) ∧
    (∀ n, 0x200 ≤ n → n < 0x400 → n % 2 = 0 → exec (.profilingCapture core slot n) s =
      .next (s.updTrain (core * 32 + slot % 32) fun t =>
        { t with capture := Tab.put t.capture (n + 1) (BitVec.ofNat 32 (profCounter s ((core * 32 + slot % 32) / 32) n / 2 ^ 32)) })) ∧
    (exec (.leaseWrite c v) s =
      .next (s.updCtx c fun x => { x with lease := if v.toNat % 65536 = 0 then 1 else v.toNat % 65536 })) ∧
    (∃ u, exec (.cquotaWrite 0 v) s = .next u ∧ ∀ k, k < 4 → Tab.get 16 u.cquota k = min (bits v.toNat (5 * k) 5) 16) ∧
    (c ≠ 0 → exec (.cquotaWrite c v) s = .next s) ∧
    (exec (.pinmissClear c) s = .next (s.updCtx c fun x => { x with pinmiss := 0 })) ∧
    (exec (.evlostClear c) s = .next (s.updCtx c fun x => { x with evlost := 0 })) ∧
    (exec (.trposClear c) s = .next (s.updCtx c fun x => { x with trPos := 0 })) ∧
    (exec (.trlostClear c) s = .next (s.updCtx c fun x => { x with trLost := 0 })) ∧
    (v.toNat.testBit 2 = false → let u := if (s.ctx c).trCtl.testBit 2 then traceFlush c s else s
      exec (.traceEnable c v) s = .next (u.updCtx c fun x =>
      { x with trCtl := (if v.toNat % 4 = 3 then 0 else v.toNat % 4) + 8 * (v.toNat.testBit 3).toNat })) ∧
    (let mode := if v.toNat % 4 = 3 then 0 else v.toNat % 4
      let lrec := 8 * (v.toNat.testBit 3).toNat
      v.toNat.testBit 2 = true →
      ((s.ctx c).trCtl.testBit 2 = false → (s.ctx c).trQueue = [] → ∃ u, exec (.traceEnable c v) s = .next u ∧
        (u.ctx c).trCtl = mode + 4 + lrec ∧ (u.ctx c).trQueue.map (fun r => (r.kind, r.joined, r.tag, r.value)) =
          (if mode = 0 then [] else [(6, 0, 0, 0)]) ∧ (mode ≠ 0 → (u.ctx c).trFull = true)) ∧
      ((s.ctx c).trCtl.testBit 2 = true → exec (.traceEnable c v) s =
        .next (s.updCtx c fun x => { x with trCtl := x.trCtl % 4 + 4 + lrec })))

/-- R309, R422, R441 to R452: a doorbell offset of the aperture rings its queue; the host's writes reach populated memory, bytes
elsewhere are discarded, and its reads are answered; its writes to the aperture ring doorbells and reach the mailbox, whose
nonce stands while a request does; a quote answers a request; POWER_ON without a step that fails releases the
compute dies, one boot count higher, with memory empty and every train at reset (the model's reading, logs 1 and 86); what leaves the
module joins the lists `hostOut` and `interrupts` (the model's choice, log 88); training makes HBM4 ready; a self-test is noted; a lost port, a corrected error, an
uncorrectable one and a retry are recorded; a unit or link that is due is retired; above its limits the module throttles, and is
off after a thermal halt. -/
def Obligations.HostEventsComplete : Prop :=
  ∀ (s : State) (n : Nat) (v : BitVec 32),
    (∀ byHost, n < 32 → exec (.apertureWrite byHost (0x10000 + 8 * n) v) s = .next (ringBell n s)) ∧
    (exec (.apertureWrite false 0x20010 v) s = .next { s with ctxCount := v.toNat }) ∧
    (exec (.apertureWrite true 0x20010 v) s = .next s) ∧
    (5 ≤ s.boot.step → ∀ bs count, bs.length ≤ 512 → inAperture n bs.length = false → let u := hostStore bs n s
      exec (.hostCxlMemAccess n (some bs) count) s = .next (if (∀ i < bs.length, hostMay s (n + i) = true) then u
        else { u with hostOut := u.hostOut ++ [none] })) ∧
    (5 ≤ s.boot.step → ∀ count r u, count ≤ 4096 → inAperture n count = false → hostLoad count n s = (r, u) →
      exec (.hostCxlMemAccess n none count) s = .next { u with hostOut := u.hostOut ++ [r] }) ∧
    (∀ bs count, bs.length ≤ 512 → inAperture n bs.length = true →
      exec (.hostCxlMemAccess n (some bs) count) s = .next (hostAperture (n - apertureBase) bs s)) ∧
    (∀ bs count, bs.length = 4 → n < 32 →
      exec (.hostCxlMemAccess (apertureBase + 0x10000 + 8 * n) (some bs) count) s = .next (ringBell n s)) ∧
    (∀ bs count, bs.length = 32 → Bytes.wf s.boot.mailbox = true → ∃ u,
      exec (.hostCxlMemAccess (apertureBase + 0x30010) (some bs) count) s = .next u ∧
      u.boot.mailbox.readList 0x10 32 = if mailState s = 1 then s.boot.mailbox.readList 0x10 32 else bs) ∧
    (∀ count, count ≤ 4096 → inAperture n count = true → exec (.hostCxlMemAccess n none count) s =
      .next { s with hostOut := s.hostOut ++ [some (apertureBytes s (n - apertureBase) count)] }) ∧
    (∀ bs count, 512 < bs.length →
      exec (.hostCxlMemAccess n (some bs) count) s = .next { s with hostOut := s.hostOut ++ [none] }) ∧
    (∀ count, 4096 < count → exec (.hostCxlMemAccess n none count) s = .next { s with hostOut := s.hostOut ++ [none] }) ∧
    (mailState s = 1 → 5 ≤ s.boot.step → Bytes.wf s.boot.mailbox = true → ∃ u, exec .quoteRequest s = .next u ∧
      mailState u = 2 ∧ u.boot.mailbox.readList 0x100 (quoteBytes s).length = quoteBytes s) ∧
    (∀ b : BootInput, b.configOk = true → (b.image0Ok = true ∨ b.image1Ok = true) → b.loadOk = true →
      ∃ u, exec (.powerOn b) s = .next u ∧ u.boot.step = 5 ∧ u.boot.boots = (s.boot.boots + 1) % 2 ^ 64 ∧
        u.boot.recovery = false ∧ u.qtable = b.qtable.toNat / 4096 * 4096 ∧ u.ctxTable = b.ctxtable.toNat / 4096 * 4096 ∧
        u.ctxCount = b.ctxcount.toNat ∧ u.mem = [] ∧ u.trains = State.reset.trains) ∧
    (∀ b : BootInput, b.configOk = false → ∃ u, exec (.powerOn b) s = .next u ∧ u.boot.recovery = true ∧ u.boot.bootErr = 2 ∧
      u.boot.step = 1) ∧
    (5 ≤ s.boot.step → s.hbmReady = false → ∀ retire, ∃ u, exec (.hbmTrainingComplete retire) s = .next u ∧
      u.hbmReady = true ∧ u.hbmCandidates = [] ∧ ∀ h ∈ retire, h ∈ u.retiredHbm) ∧
    (5 ≤ s.boot.step → n < 5 → n ∉ s.boot.tests → ∃ u, exec (.selfTestComplete n) s = .next u ∧
      u.boot.tests = s.boot.tests ++ [n]) ∧
    (n < 4 → n ∉ s.lostPorts → exec (.cxlLinkLoss n) s =
      .next { s with lostPorts := s.lostPorts ++ [n], replaceReq := true }) ∧
    (exec .thermalThrottle s = .next { s with boot := { s.boot with throttled := true } }) ∧
    (exec .thermalThrottleEnd s = .next { s with boot := { s.boot with throttled := false } }) ∧
    (s.halt.phase = 0 → exec .thermalShutdown s =
      .next { holdTick { s with interrupts := s.interrupts ++ [Interrupt.thermal] } with
                     halt := { phase := 1, due := entryTick s.cycle + 22, who := none, thermal := true } }) ∧
    (haltDone s = true → s.halt.thermal = true → ∃ u, exec .haltComplete s = .next u ∧ u.boot.off = true) ∧
    (∀ x, exec (.correctableError x) s = .next { s with unitErrors := s.unitErrors ++ [(x, s.cycle)] }) ∧
    (∀ x, exec (.uncorrectableErrorFound x) s = .next (spoil x { s with unitFatal := s.unitFatal ++ [(x, s.cycle)] })) ∧
    (∀ x, exec (.linkFlitRetry x) s = .next { s with linkErrors := s.linkErrors ++ [(x, s.cycle)] }) ∧
    (∀ x, retireDue s x = true → exec (.unitRetirement x) s = .next (retireUnit x (dropErrors x s))) ∧
    (∀ x, linkDue s x = true → (∀ k, x ≠ .vertical k) → x ∉ s.retiredLinks → exec (.linkRetirement x) s =
      .next { s with linkErrors := s.linkErrors.filter fun y => y.1 != x, retiredLinks := s.retiredLinks ++ [x],
                     replaceReq := true })

/-! ### The step, the encoding and the machine as a whole (spec/03, 04, 22) -/

/-- R71, R190: what one step does. The clock moves the cycle on; an event on the agenda happens as its instruction says; else,
when the next word of the run in issue decodes to an instruction, that instruction has its effect and the model's choice of what
comes after the word follows (log 10); a word that decodes to none faults when it issues, with the ILLEGAL-OPCODE that R85 gives it
before the run starts (the model's reading, log 95). That the agenda goes before the next word is the model's choice (log 2). -/
def Obligations.StepRunsDecodedInstruction : Prop :=
  ∀ s : State,
    let c := clock s
    (∀ i rest, s.agenda = i :: rest → step s = exec i (clock { s with agenda := rest })) ∧
    (s.agenda = [] → ∀ w, nextWord c = some w →
      (∀ h i, decodeWord w = .ok (h, i) →
        (∀ t, exec i c = .next t → step s = .next (relay t)) ∧ (∀ x, exec i c = .fault x → step s = .fault x) ∧
          ∀ x, exec i c = .refused x → step s = .refused x) ∧
      (∀ r, decodeWord w = .error r →
        step s = .next ((issuer c).elim c fun me => faultTrain .illegalOpcode 0 me c))) ∧
    (∀ k r w ws, c.cur = some k → c.boot.off = false → ((c.core (k / 4)).sched (k % 4)).run = some r → r.words = w :: ws →
      nextWord c = some w)

/-- R71, R75, R84, R85: words written out field by field from Tables 4.1, 4.2 and 4.8 to 4.16 decode to the instructions that they
stand for, one word of each format, and the two words that R85 names first are refused. A sanity check of the decoder. -/
def Obligations.DecodeReadsSpecWords : Prop :=
  decodeWord (0b0#1 ++ 0b111#3 ++ 0x01#8 ++ 0#52) = .ok ({ last := false, rate := 7 }, .nop ⟨0, 0, 0, 0⟩) ∧
  decodeWord (0b0#1 ++ 0b111#3 ++ 0x10#8 ++ 5#9 ++ 4#9 ++ 0x108#9 ++ 0#9 ++ 0#3 ++ 0#1 ++ 0#3 ++ 0#3 ++ 0#3 ++ 0#3) =
    .ok ({ last := false, rate := 7 }, .vadd ⟨5, 4, 0x108, 0, 0, 0, 0, 0, 0, 0⟩) ∧
  decodeWord 0x7100281210000000 = .ok ({ last := false, rate := 7 }, .vadd ⟨5, 4, 0x108, 0, 0, 0, 0, 0, 0, 0⟩) ∧
  decodeWord (0b0#1 ++ 0b101#3 ++ 0x94#8 ++ 7#9 ++ 4#7 ++ 2#9 ++ 9#9 ++ 0b00010#5 ++ 0b00#2 ++ 0x010#11) =
    .ok ({ last := false, rate := 5 }, .atom ⟨7, 4, 2, 9, 2, 0, 16⟩) ∧
  decodeWord 0x5940384010244010 = .ok ({ last := false, rate := 5 }, .atom ⟨7, 4, 2, 9, 2, 0, 16⟩) ∧
  decodeWord (0b1#1 ++ 0b111#3 ++ 0x7A#8 ++ 0b0000#4 ++ 8#7 ++ 0#9 ++ 6#32) =
    .ok ({ last := true, rate := 7 }, .brv ⟨0, 8, 0, 6⟩) ∧
  decodeWord 0xF7A0100000000006 = .ok ({ last := true, rate := 7 }, .brv ⟨0, 8, 0, 6⟩) ∧
  decodeWord (0b0#1 ++ 0b111#3 ++ 0xCC#8 ++ 0#7 ++ 8#7 ++ 0#6 ++ 0x12#32) =
    .ok ({ last := false, rate := 7 }, .trec ⟨0, 8, 0, 0x12⟩) ∧
  decodeWord (0b0#1 ++ 0b111#3 ++ 0xCD#8 ++ 24#7 ++ 0#7 ++ 0#6 ++ 0#32) =
    .ok ({ last := false, rate := 7 }, .clkrd ⟨24, 0, 0, 0⟩) ∧
  decodeWord (0b0#1 ++ 0b101#3 ++ 0x29#8 ++ 4#9 ++ 0#9 ++ 1#2 ++ 0x3FF00000#32) =
    .ok ({ last := false, rate := 5 }, .vmovi ⟨4, 0, 1, 0x3FF00000⟩) ∧
  decodeWord 0x529020013FF00000 = .ok ({ last := false, rate := 5 }, .vmovi ⟨4, 0, 1, 0x3FF00000⟩) ∧
  decodeWord (0b0#1 ++ 0b101#3 ++ 0x90#8 ++ 0x00A#9 ++ 0b0000110#7 ++ 0x003#9 ++ 0b011#3 ++ 0b01#2 ++ 0b00#2 ++ 0x00008#20) =
    .ok ({ last := false, rate := 5 }, .ld ⟨10, 6, 3, 3, 1, 0, 8⟩) ∧
  decodeWord 0x590050601B400008 = .ok ({ last := false, rate := 5 }, .ld ⟨10, 6, 3, 3, 1, 0, 8⟩) ∧
  decodeWord (0b1#1 ++ 0b111#3 ++ 0xA5#8 ++ 0b0010100#7 ++ 0b0001000#7 ++ 0b0001010#7 ++ 0b0001#4 ++ 1#1 ++ 0#6 ++ 0#20) =
    .ok ({ last := true, rate := 7 }, .mdec ⟨20, 8, 10, 1, 1, 0, 0⟩) ∧
  decodeWord 0xFA5282050C000000 = .ok ({ last := true, rate := 7 }, .mdec ⟨20, 8, 10, 1, 1, 0, 0⟩) ∧
  decodeWord 0x5300000000000001 = .ok ({ last := false, rate := 5 }, .sadd ⟨0, 0, 0, 0, 0, 0, 0, 0, 1⟩) ∧
  decodeWord 0 = .error .illegalOpcode ∧ decodeWord 0x7950000000000000 = .error .illegalOpcode

/-- R71, R75 to R85: DECODE AFTER ENCODE. For every well-formed instruction that has a word, each operand at every value that its
field admits, and every head: it has one encoding, that word decodes to the same head and instruction, and so do its eight bytes
as they lie in memory, with whatever follows left over. -/
def Obligations.EncodedWordsDecode : Prop :=
  ∀ (h : Head) (i : Instr), i.wellFormed = true → classOf i ≠ .event →
    ∃ w, encode h i = some w ∧ decodeWord w = .ok (h, i) ∧
      ∀ rest, decode (wordBytes w ++ rest) = .ok ((h, i), rest)

/-- R71, R85: ENCODE AFTER DECODE. A word that decodes is the encoding of what it decodes to, so that no two words stand for one
head and instruction and the decoder drops no bit; and the instruction that it decodes to is no event. -/
def Obligations.DecodedWordsEncode : Prop :=
  ∀ (w : BitVec 64) (h : Head) (i : Instr), decodeWord w = .ok (h, i) →
    encode h i = some w ∧ decodeTableWord 64 w.toNat = some i ∧ classOf i ≠ .event

/-- R72, R85: the checks of a run before it issues. A major is refused exactly where R85 lists it as unassigned, and those are 88
majors. A word that passes check 1 is checked for its RATE, then for privilege, then for its fields, and the first check that
fails names the fault. The fault of a run is that of its lowest offending word. When it has one, the pick starts no run: the
split parks with one train-level record, its lane field 0 and its OFFSET that word. -/
def Obligations.RunChecksInOrder : Prop :=
  let unassigned (m : Nat) : Bool :=
    m == 0 || [(0x02, 0x0F), (0x2E, 0x2F), (0x47, 0x4F), (0x69, 0x6F), (0x77, 0x77), (0x8B, 0x8F), (0x95, 0x95), (0x9C, 0x9F),
      (0xAB, 0xAF), (0xB6, 0xB7), (0xC3, 0xC3), (0xCB, 0xCB), (0xCF, 0xDF), (0xEE, 0xFF)].any fun r =>
        decide (r.1 ≤ m) && decide (m ≤ r.2)
  ((List.range 256).filter unassigned).length = 88 ∧
  (∀ (m : Nat) (b : BitVec 52), m < 256 → (ofMajor m b = none ↔ unassigned m = true)) ∧
  (∀ (s : State) (t : Train) (pc : Nat) (last : Bool) (w : DWord),
    let fault := wordFault s t pc last w
    (∀ r, decodeWord w = .error r → fault = some .illegalOpcode) ∧
    (∀ h i, decodeWord w = .ok (h, i) →
      let rate := rateOk (s.launch t.launch).graphics t.rung h.rate.toNat i
      let class_ := classOf i ≠ .P ∨ (s.launch t.launch).priv = true
      let field := fieldOk s t pc last h i
      (rate = false → fault = some .illegalRate) ∧ (rate = true → ¬ class_ → fault = some .privilege) ∧
        (rate = true → class_ → field = false → fault = some .illegalField) ∧
        (rate = true → class_ → field = true → fault = none))) ∧
  (∀ (s : State) (t : Train) (pc : Nat) (ws : List DWord) (off : Nat) (k : Kind),
    let at_ (n : Nat) (w : DWord) : Option Kind := wordFault s t (pc + n) (n + 1 == ws.length) w
    runFault s t pc ws = some (off, k) ↔
      ∃ n w, ws[n]? = some w ∧ off = pc + n ∧ at_ n w = some k ∧ ∀ m v, m < n → ws[m]? = some v → at_ m v = none) ∧
  (∀ (core k tid sid : Nat) (s : State) (ext : Nat × Nat) (ws : List DWord) (off : Nat) (kind : Kind),
    let me : Me := { core := core, sched := k, slot := tid % 32, sid := sid }
    let sp := (s.train tid).split sid
    sp.deferred = [] → sp.back = none → runExtent s (s.train tid) sp = some ext → cachedRun s tid ext = some ws →
    runFault s (s.train tid) sp.pc ws = some (off, kind) →
    startRun core k tid sid s = takeFault s me
      [{ kind := kind.code, trainLevel := true, lane := 0, sid := sid, offset := off, pending := 0, addr := 0, size := 0,
         info := 0 }])

/-- What reset leaves, where spec/ gives it: every train slot FREE with GEN 0 (Table 3.5, R408), the module cycle 0 (R439), CQUOTA 16
and CXLPOP 0 (Tables 20.7 and 20.1), LEASE 16 and no right, trace or watch of any context (Table 22.6, R435), HALTED, KILL-DONE and
REPLACE-REQUESTED 0, BOOTERR 0, no operation, message or event under way; and what R54 and Table 3.2 give a train's registers at
its start. That memory lists nothing, so that every byte reads 0, is the model's choice (log 1), and so is zero in the vector
registers at the first allotment (log 4). -/
def Obligations.ResetLeaves : Prop :=
  let s := State.reset
  (∀ tid, (s.train tid).state = .free ∧ (s.train tid).gen = 0) ∧ s.cycle = 0 ∧
  (∀ k, k < 4 → Tab.get 0 s.cquota k = 16) ∧ (∀ p, Tab.get 0 s.cxlpop p = 0) ∧
  (∀ c, (s.ctx c).lease = 16 ∧ (s.ctx c).wdog = 0 ∧ (s.ctx c).priv = false ∧ (s.ctx c).trCtl = 0 ∧ (s.ctx c).tracing = false ∧
    (s.ctx c).trQueue = [] ∧ (s.ctx c).events = []) ∧
  s.halted = false ∧ s.killDone = false ∧ s.replaceReq = false ∧ s.boot.bootErr = 0 ∧ s.boot.tests = [] ∧
  s.loads = [] ∧ s.updates = [] ∧ s.esMsgs = [] ∧ s.sysEvents = [] ∧ s.launches = [] ∧ s.rays = [] ∧ s.packets = [] ∧
  s.copyOps = [] ∧ s.mdecs = [] ∧ s.mats = [] ∧ s.atoms = [] ∧ s.blends = [] ∧ s.traces = [] ∧ s.accGroups = [] ∧ s.accQueues = [] ∧
  s.accOps = [] ∧ s.accReplies = [] ∧ s.shuffles = [] ∧ s.syscalls = [] ∧ s.walks = [] ∧ s.sysOps = [] ∧ s.rests = [] ∧ s.dump = none ∧
  (∀ (u : State) (tid lid wg role ordinal rung granules entry base wgOrd : Nat) (elems : Tab LaneElem),
    let t := startTrain u tid lid wg role ordinal rung granules entry base wgOrd elems
    let arg := (u.launch lid).argBlock
    (∀ n, (n ≤ 1 ∨ 4 ≤ n ∧ n ≤ 119 ∨ n = 127) → t.readS 0 n = 0) ∧
    t.readS 0 2 = BitVec.ofNat 32 arg ∧ t.readS 0 3 = BitVec.ofNat 32 (arg / 2 ^ 32) ∧ t.readS 0 120 = 1 ∧
    t.readS 0 121 = BitVec.ofNat 32 ordinal ∧ t.readS 0 122 = BitVec.ofNat 32 wgOrd ∧ t.readS 0 123 = BitVec.ofNat 32 base ∧
    (∀ k, k < 3 → t.readS 0 (124 + k) = maskWord t.live k) ∧ (∀ r l, t.readV r l = 0)) ∧
  memoryCanonical s ∧ ∀ a, Bytes.read s.mem a = 0

/-- R62, R402, R415: leaving a fault. The Resume column of Table 22.1 is as the table has it. A fault stores with its split the word
at which it goes on: for a kind that is replayed, the faulting word again, for the pending lanes alone when the kind is
lane-level, and after it the rest of the run; for a kind that goes on at the next word, the word after it; for a kind that resumes at PC, or by none, the
split stands as it is. Where one instruction
faults by several kinds, the split resumes as the first that replays says, and where none does as the first, which is the model's reading
(log 56). TRESUME makes each
PARKED split of the train READY there, with no record left, unless one of its kinds resumes by none, and changes no other
split; the slot leaves PARKED when no split is PARKED any more. -/
def Obligations.ResumeAfterFault : Prop :=
  (∀ tl, (∀ c ∈ [0x05, 0x06, 0x07, 0x08, 0x0C, 0x0F, 0x12, 0x18], resumeOf c tl = .replay) ∧
    (∀ c ∈ [0x0D, 0x13], resumeOf c tl = .pc) ∧ (∀ c ∈ [0x10, 0x14, 0x15, 0x16], resumeOf c tl = .next) ∧
    (∀ c ∈ [0x01, 0x02, 0x03, 0x04, 0x09, 0x0A, 0x0B, 0x0E, 0x17], resumeOf c tl = .none) ∧
    resumeOf 0x11 tl = if tl then .none else .replay) ∧
  (∀ (s : State) (me : Me) (first : List FaultRec) (r : FaultRec) (rest : List FaultRec),
    let pc := (me.split s).pc
    let left := me.wordsLeft s
    let how (x : FaultRec) : Resume := resumeOf x.kind x.trainLevel
    let recs := first ++ r :: rest
    ((∀ x ∈ first, how x ≠ .replay) → how r = .replay → faultWith s me recs = takeFault (s.updSplit me fun sp =>
      { sp with replay := if r.trainLevel then none else some r.pending, partialEnd := some (pc + left - 1) }) me recs) ∧
    (first = [] → (∀ x ∈ recs, how x ≠ .replay) → how r = .next → faultWith s me recs = takeFault (s.updSplit me fun sp =>
      { sp with pc := pc + 1, replay := none, partialEnd := if 1 < left then some (pc + left - 1) else none }) me recs) ∧
    (first = [] → (∀ x ∈ recs, how x ≠ .replay) → (how r = .none ∨ how r = .pc) → faultWith s me recs = takeFault s me recs)) ∧
  (∀ (t : Train) (n : Nat),
    let sp := t.split n
    let parked := sp.valid && sp.state == .parked
    let stays := sp.recs.any fun r => resumeOf r.kind r.trainLevel == .none
    (parked = true → stays = false → t.resume.split n = { sp with state := .ready, recs := [] }) ∧
    (parked = false ∨ stays = true → t.resume.split n = sp)) ∧
  (∀ t : Train, t.state = .parked →
    (t.resume.state = .resident ↔ ∀ sp ∈ t.splits, sp.valid = true → sp.state = .parked →
      (sp.recs.any fun r => resumeOf r.kind r.trainLevel == .none) = false)) ∧
  (∀ t : Train, t.state ≠ .parked → t.resume.state = t.state)
end

