-- ==== Sys2Proof/Laws/Encoding.lean ====
section
/-! SUPPORT. The fields of a word come back from it: packing and unpacking the bodies of Table 4.2 are inverse, and so are a word
and its eight bytes (spec/04_formats_opcode_map.md R71, R75). -/

namespace Sys2Proof.Laws

/-- The fields of a packed body of format V3. -/
theorem unpackV3_pack (f : FmtV3) : unpackV3 (packV3 f) = f := by
  obtain ⟨x0, x1, x2, x3, x4, x5, x6, x7, x8, x9⟩ := f
  have e : ∀ k l, BitVec.extractLsb' k l (packV3 ⟨x0, x1, x2, x3, x4, x5, x6, x7, x8, x9⟩) =
      BitVec.extractLsb' k l (x0 ++ x1 ++ x2 ++ x3 ++ x4 ++ x5 ++ x6 ++ x7 ++ x8 ++ x9) := fun _ _ => rfl
  simp only [unpackV3, e, FmtV3.mk.injEq]
  refine ⟨?_, ?_, ?_, ?_, ?_, ?_, ?_, ?_, ?_, ?_⟩ <;>
    (repeat first
      | rw [BitVec.extractLsb'_append_eq_of_add_le (by decide)]
      | rw [BitVec.extractLsb'_append_eq_of_le (by decide)]) <;> simp

/-- The body of the fields of a body of format V3. -/
theorem packV3_unpack (b : BitVec 52) : packV3 (unpackV3 b) = b := by
  apply BitVec.eq_of_getLsbD_eq
  intro i hi
  simp only [packV3, unpackV3]
  have e : ∀ x : BitVec (9 + 9 + 9 + 9 + 3 + 1 + 3 + 3 + 3 + 3), BitVec.getLsbD (w := 52) x i = x.getLsbD i := fun _ => rfl
  rw [e]
  simp only [BitVec.getLsbD_append, BitVec.getLsbD_extractLsb']
  repeat' split
  all_goals (rw [decide_eq_true (by omega), Bool.true_and]; congr 1; omega)

/-- The fields of a packed body of format VI. -/
theorem unpackVI_pack (f : FmtVI) : unpackVI (packVI f) = f := by
  obtain ⟨x0, x1, x2, x3⟩ := f
  have e : ∀ k l, BitVec.extractLsb' k l (packVI ⟨x0, x1, x2, x3⟩) =
      BitVec.extractLsb' k l (x0 ++ x1 ++ x2 ++ x3) := fun _ _ => rfl
  simp only [unpackVI, e, FmtVI.mk.injEq]
  refine ⟨?_, ?_, ?_, ?_⟩ <;>
    (repeat first
      | rw [BitVec.extractLsb'_append_eq_of_add_le (by decide)]
      | rw [BitVec.extractLsb'_append_eq_of_le (by decide)]) <;> simp

/-- The body of the fields of a body of format VI. -/
theorem packVI_unpack (b : BitVec 52) : packVI (unpackVI b) = b := by
  apply BitVec.eq_of_getLsbD_eq
  intro i hi
  simp only [packVI, unpackVI]
  have e : ∀ x : BitVec (9 + 9 + 2 + 32), BitVec.getLsbD (w := 52) x i = x.getLsbD i := fun _ => rfl
  rw [e]
  simp only [BitVec.getLsbD_append, BitVec.getLsbD_extractLsb']
  repeat' split
  all_goals (rw [decide_eq_true (by omega), Bool.true_and]; congr 1; omega)

/-- The fields of a packed body of format S3. -/
theorem unpackS3_pack (f : FmtS3) : unpackS3 (packS3 f) = f := by
  obtain ⟨x0, x1, x2, x3, x4, x5, x6, x7, x8⟩ := f
  have e : ∀ k l, BitVec.extractLsb' k l (packS3 ⟨x0, x1, x2, x3, x4, x5, x6, x7, x8⟩) =
      BitVec.extractLsb' k l (x0 ++ x1 ++ x2 ++ x3 ++ x4 ++ x5 ++ x6 ++ x7 ++ x8) := fun _ _ => rfl
  simp only [unpackS3, e, FmtS3.mk.injEq]
  refine ⟨?_, ?_, ?_, ?_, ?_, ?_, ?_, ?_, ?_⟩ <;>
    (repeat first
      | rw [BitVec.extractLsb'_append_eq_of_add_le (by decide)]
      | rw [BitVec.extractLsb'_append_eq_of_le (by decide)]) <;> simp

/-- The body of the fields of a body of format S3. -/
theorem packS3_unpack (b : BitVec 52) : packS3 (unpackS3 b) = b := by
  apply BitVec.eq_of_getLsbD_eq
  intro i hi
  simp only [packS3, unpackS3]
  have e : ∀ x : BitVec (7 + 7 + 7 + 7 + 3 + 1 + 6 + 3 + 11), BitVec.getLsbD (w := 52) x i = x.getLsbD i := fun _ => rfl
  rw [e]
  simp only [BitVec.getLsbD_append, BitVec.getLsbD_extractLsb']
  repeat' split
  all_goals (rw [decide_eq_true (by omega), Bool.true_and]; congr 1; omega)

/-- The fields of a packed body of format SI. -/
theorem unpackSI_pack (f : FmtSI) : unpackSI (packSI f) = f := by
  obtain ⟨x0, x1, x2, x3⟩ := f
  have e : ∀ k l, BitVec.extractLsb' k l (packSI ⟨x0, x1, x2, x3⟩) =
      BitVec.extractLsb' k l (x0 ++ x1 ++ x2 ++ x3) := fun _ _ => rfl
  simp only [unpackSI, e, FmtSI.mk.injEq]
  refine ⟨?_, ?_, ?_, ?_⟩ <;>
    (repeat first
      | rw [BitVec.extractLsb'_append_eq_of_add_le (by decide)]
      | rw [BitVec.extractLsb'_append_eq_of_le (by decide)]) <;> simp

/-- The body of the fields of a body of format SI. -/
theorem packSI_unpack (b : BitVec 52) : packSI (unpackSI b) = b := by
  apply BitVec.eq_of_getLsbD_eq
  intro i hi
  simp only [packSI, unpackSI]
  have e : ∀ x : BitVec (7 + 7 + 6 + 32), BitVec.getLsbD (w := 52) x i = x.getLsbD i := fun _ => rfl
  rw [e]
  simp only [BitVec.getLsbD_append, BitVec.getLsbD_extractLsb']
  repeat' split
  all_goals (rw [decide_eq_true (by omega), Bool.true_and]; congr 1; omega)

/-- The fields of a packed body of format M. -/
theorem unpackM_pack (f : FmtM) : unpackM (packM f) = f := by
  obtain ⟨x0, x1, x2, x3, x4, x5, x6⟩ := f
  have e : ∀ k l, BitVec.extractLsb' k l (packM ⟨x0, x1, x2, x3, x4, x5, x6⟩) =
      BitVec.extractLsb' k l (x0 ++ x1 ++ x2 ++ x3 ++ x4 ++ x5 ++ x6) := fun _ _ => rfl
  simp only [unpackM, e, FmtM.mk.injEq]
  refine ⟨?_, ?_, ?_, ?_, ?_, ?_, ?_⟩ <;>
    (repeat first
      | rw [BitVec.extractLsb'_append_eq_of_add_le (by decide)]
      | rw [BitVec.extractLsb'_append_eq_of_le (by decide)]) <;> simp

/-- The body of the fields of a body of format M. -/
theorem packM_unpack (b : BitVec 52) : packM (unpackM b) = b := by
  apply BitVec.eq_of_getLsbD_eq
  intro i hi
  simp only [packM, unpackM]
  have e : ∀ x : BitVec (9 + 7 + 9 + 3 + 2 + 2 + 20), BitVec.getLsbD (w := 52) x i = x.getLsbD i := fun _ => rfl
  rw [e]
  simp only [BitVec.getLsbD_append, BitVec.getLsbD_extractLsb']
  repeat' split
  all_goals (rw [decide_eq_true (by omega), Bool.true_and]; congr 1; omega)

/-- The fields of a packed body of format MA. -/
theorem unpackMA_pack (f : FmtMA) : unpackMA (packMA f) = f := by
  obtain ⟨x0, x1, x2, x3, x4, x5, x6⟩ := f
  have e : ∀ k l, BitVec.extractLsb' k l (packMA ⟨x0, x1, x2, x3, x4, x5, x6⟩) =
      BitVec.extractLsb' k l (x0 ++ x1 ++ x2 ++ x3 ++ x4 ++ x5 ++ x6) := fun _ _ => rfl
  simp only [unpackMA, e, FmtMA.mk.injEq]
  refine ⟨?_, ?_, ?_, ?_, ?_, ?_, ?_⟩ <;>
    (repeat first
      | rw [BitVec.extractLsb'_append_eq_of_add_le (by decide)]
      | rw [BitVec.extractLsb'_append_eq_of_le (by decide)]) <;> simp

/-- The body of the fields of a body of format MA. -/
theorem packMA_unpack (b : BitVec 52) : packMA (unpackMA b) = b := by
  apply BitVec.eq_of_getLsbD_eq
  intro i hi
  simp only [packMA, unpackMA]
  have e : ∀ x : BitVec (9 + 7 + 9 + 9 + 5 + 2 + 11), BitVec.getLsbD (w := 52) x i = x.getLsbD i := fun _ => rfl
  rw [e]
  simp only [BitVec.getLsbD_append, BitVec.getLsbD_extractLsb']
  repeat' split
  all_goals (rw [decide_eq_true (by omega), Bool.true_and]; congr 1; omega)

/-- The fields of a packed body of format C. -/
theorem unpackC_pack (f : FmtC) : unpackC (packC f) = f := by
  obtain ⟨x0, x1, x2, x3⟩ := f
  have e : ∀ k l, BitVec.extractLsb' k l (packC ⟨x0, x1, x2, x3⟩) =
      BitVec.extractLsb' k l (x0 ++ x1 ++ x2 ++ x3) := fun _ _ => rfl
  simp only [unpackC, e, FmtC.mk.injEq]
  refine ⟨?_, ?_, ?_, ?_⟩ <;>
    (repeat first
      | rw [BitVec.extractLsb'_append_eq_of_add_le (by decide)]
      | rw [BitVec.extractLsb'_append_eq_of_le (by decide)]) <;> simp

/-- The body of the fields of a body of format C. -/
theorem packC_unpack (b : BitVec 52) : packC (unpackC b) = b := by
  apply BitVec.eq_of_getLsbD_eq
  intro i hi
  simp only [packC, unpackC]
  have e : ∀ x : BitVec (4 + 7 + 9 + 32), BitVec.getLsbD (w := 52) x i = x.getLsbD i := fun _ => rfl
  rw [e]
  simp only [BitVec.getLsbD_append, BitVec.getLsbD_extractLsb']
  repeat' split
  all_goals (rw [decide_eq_true (by omega), Bool.true_and]; congr 1; omega)

/-- The fields of a packed body of format A. -/
theorem unpackA_pack (f : FmtA) : unpackA (packA f) = f := by
  obtain ⟨x0, x1, x2, x3, x4, x5, x6⟩ := f
  have e : ∀ k l, BitVec.extractLsb' k l (packA ⟨x0, x1, x2, x3, x4, x5, x6⟩) =
      BitVec.extractLsb' k l (x0 ++ x1 ++ x2 ++ x3 ++ x4 ++ x5 ++ x6) := fun _ _ => rfl
  simp only [unpackA, e, FmtA.mk.injEq]
  refine ⟨?_, ?_, ?_, ?_, ?_, ?_, ?_⟩ <;>
    (repeat first
      | rw [BitVec.extractLsb'_append_eq_of_add_le (by decide)]
      | rw [BitVec.extractLsb'_append_eq_of_le (by decide)]) <;> simp

/-- The body of the fields of a body of format A. -/
theorem packA_unpack (b : BitVec 52) : packA (unpackA b) = b := by
  apply BitVec.eq_of_getLsbD_eq
  intro i hi
  simp only [packA, unpackA]
  have e : ∀ x : BitVec (7 + 7 + 7 + 4 + 1 + 6 + 20), BitVec.getLsbD (w := 52) x i = x.getLsbD i := fun _ => rfl
  rw [e]
  simp only [BitVec.getLsbD_append, BitVec.getLsbD_extractLsb']
  repeat' split
  all_goals (rw [decide_eq_true (by omega), Bool.true_and]; congr 1; omega)

/-- The fields of a packed body of format X. -/
theorem unpackX_pack (f : FmtX) : unpackX (packX f) = f := by
  obtain ⟨x0, x1, x2, x3⟩ := f
  have e : ∀ k l, BitVec.extractLsb' k l (packX ⟨x0, x1, x2, x3⟩) =
      BitVec.extractLsb' k l (x0 ++ x1 ++ x2 ++ x3) := fun _ _ => rfl
  simp only [unpackX, e, FmtX.mk.injEq]
  refine ⟨?_, ?_, ?_, ?_⟩ <;>
    (repeat first
      | rw [BitVec.extractLsb'_append_eq_of_add_le (by decide)]
      | rw [BitVec.extractLsb'_append_eq_of_le (by decide)]) <;> simp

/-- The body of the fields of a body of format X. -/
theorem packX_unpack (b : BitVec 52) : packX (unpackX b) = b := by
  apply BitVec.eq_of_getLsbD_eq
  intro i hi
  simp only [packX, unpackX]
  have e : ∀ x : BitVec (8 + 7 + 7 + 30), BitVec.getLsbD (w := 52) x i = x.getLsbD i := fun _ => rfl
  rw [e]
  simp only [BitVec.getLsbD_append, BitVec.getLsbD_extractLsb']
  repeat' split
  all_goals (rw [decide_eq_true (by omega), Bool.true_and]; congr 1; omega)

/-- The word of a head, a major and a body (Table 4.1). -/
def wordOf (h : Head) (m : BitVec 8) (b : BitVec 52) : BitVec 64 := BitVec.ofBool h.last ++ h.rate ++ m ++ b

/-- The body of a word. -/
theorem body_wordOf (h : Head) (m : BitVec 8) (b : BitVec 52) : (wordOf h m b).extractLsb' 0 52 = b := by
  have e : ∀ k l, BitVec.extractLsb' k l (wordOf h m b) =
      BitVec.extractLsb' k l (BitVec.ofBool h.last ++ h.rate ++ m ++ b) := fun _ _ => rfl
  rw [e, BitVec.extractLsb'_append_eq_of_add_le (by decide)]
  simp

/-- The major of a word. -/
theorem major_wordOf (h : Head) (m : BitVec 8) (b : BitVec 52) : (wordOf h m b).extractLsb' 52 8 = m := by
  have e : ∀ k l, BitVec.extractLsb' k l (wordOf h m b) =
      BitVec.extractLsb' k l (BitVec.ofBool h.last ++ h.rate ++ m ++ b) := fun _ _ => rfl
  rw [e, BitVec.extractLsb'_append_eq_of_le (by decide), BitVec.extractLsb'_append_eq_of_add_le (by decide)]
  simp

/-- The head of a word. -/
theorem headOf_wordOf (h : Head) (m : BitVec 8) (b : BitVec 52) : headOf (wordOf h m b) = h := by
  have e : ∀ k l, BitVec.extractLsb' k l (wordOf h m b) =
      BitVec.extractLsb' k l (BitVec.ofBool h.last ++ h.rate ++ m ++ b) := fun _ _ => rfl
  have b63 : (wordOf h m b).getLsbD 63 = h.last := by
    have : (wordOf h m b).getLsbD 63 = (BitVec.ofBool h.last ++ h.rate ++ m ++ b).getLsbD 63 := rfl
    rw [this]
    simp only [BitVec.getLsbD_append]
    cases h.last <;> simp
  obtain ⟨l, r⟩ := h
  simp only [headOf, Head.mk.injEq]
  refine ⟨b63, ?_⟩
  rw [e]
  repeat first
    | rw [BitVec.extractLsb'_append_eq_of_add_le (by decide)]
    | rw [BitVec.extractLsb'_append_eq_of_le (by decide)]
  simp

/-- The word of the head, the major and the body of a word. -/
theorem wordOf_parts (w : BitVec 64) : wordOf (headOf w) (w.extractLsb' 52 8) (w.extractLsb' 0 52) = w := by
  apply BitVec.eq_of_getLsbD_eq
  intro i hi
  simp only [wordOf, headOf]
  have e : ∀ x : BitVec (1 + 3 + 8 + 52), BitVec.getLsbD (w := 64) x i = x.getLsbD i := fun _ => rfl
  rw [e]
  simp only [BitVec.getLsbD_append, BitVec.getLsbD_extractLsb']
  repeat' split
  · rw [decide_eq_true (by omega), Bool.true_and]; congr 1; omega
  · rw [decide_eq_true (by omega), Bool.true_and]; congr 1; omega
  · rw [decide_eq_true (by omega), Bool.true_and]; congr 1; omega
  · have : i = 63 := by omega
    subst this
    cases h : w.getLsbD 63 <;> simp

/-- The word that its eight bytes hold. -/
theorem wordOfBytes_wordBytes (w : BitVec 64) :
    wordOfBytes (w.extractLsb' 0 8) (w.extractLsb' 8 8) (w.extractLsb' 16 8) (w.extractLsb' 24 8) (w.extractLsb' 32 8)
      (w.extractLsb' 40 8) (w.extractLsb' 48 8) (w.extractLsb' 56 8) = w := by
  apply BitVec.eq_of_getLsbD_eq
  intro i hi
  simp only [wordOfBytes]
  have e : ∀ x : BitVec (8 + 8 + 8 + 8 + 8 + 8 + 8 + 8), BitVec.getLsbD (w := 64) x i = x.getLsbD i := fun _ => rfl
  rw [e]
  simp only [BitVec.getLsbD_append, BitVec.getLsbD_extractLsb']
  repeat' split
  all_goals (rw [decide_eq_true (by omega), Bool.true_and]; congr 1; omega)

end Sys2Proof.Laws
end

