-- ==== Sys2Proof/Laws/Tables.lean ====
section
/-! SUPPORT. What keyed tables and byte memories do: an entry reads as it was last put, other entries stand, and every
memory operation keeps the canonical form. -/

namespace Sys2Proof.Machine

/-! ### Tables -/

@[simp] theorem Tab.find_put_same {α : Type} (t : Tab α) (n : Nat) (v : α) : Tab.find (Tab.put t n v) n = some v := by
  induction t with
  | nil => simp [Tab.put, Tab.find]
  | cons x t ih =>
    obtain ⟨k, w⟩ := x
    unfold Tab.put
    by_cases h : k = n
    · simp [h, Tab.find]
    · by_cases h' : n < k
      · simp [h, h', Tab.find]
      · simp [h, h', Tab.find, ih]

theorem Tab.find_put_ne {α : Type} (t : Tab α) (n m : Nat) (v : α) (hm : m ≠ n) :
    Tab.find (Tab.put t n v) m = Tab.find t m := by
  induction t with
  | nil =>
    have : n ≠ m := fun h => hm h.symm
    simp [Tab.put, Tab.find, this]
  | cons x t ih =>
    obtain ⟨k, w⟩ := x
    have hm' : n ≠ m := fun h => hm h.symm
    unfold Tab.put
    by_cases h : k = n
    · subst h; simp [Tab.find, hm']
    · by_cases h' : n < k
      · have h1 : k ≠ n := h
        by_cases h2 : m < n
        · have h3 : m < k := by omega
          have h4 : k ≠ m := by omega
          simp [h, h', Tab.find, hm', h2, h3, h4]
        · simp [h, h', Tab.find, hm', h2]
      · simp [h, h', Tab.find, ih]

@[simp] theorem Tab.get_put_same {α : Type} (d : α) (t : Tab α) (n : Nat) (v : α) : Tab.get d (Tab.put t n v) n = v := by
  simp [Tab.get]

theorem Tab.get_put_ne {α : Type} (d : α) (t : Tab α) (n m : Nat) (v : α) (hm : m ≠ n) :
    Tab.get d (Tab.put t n v) m = Tab.get d t m := by
  simp [Tab.get, Tab.find_put_ne t n m v hm]

/-- Reading a table after a write, both cases at once. -/
theorem Tab.get_put {α : Type} (d : α) (t : Tab α) (n m : Nat) (v : α) :
    Tab.get d (Tab.put t n v) m = if m = n then v else Tab.get d t m := by
  by_cases h : m = n
  · subst h; simp
  · simp [h, Tab.get_put_ne d t n m v h]

/-! ### Byte memories -/

theorem Bytes.wfFrom_mono {lo lo' : Nat} {m : Bytes} (h : lo' ≤ lo) (hw : Bytes.wfFrom lo m = true) :
    Bytes.wfFrom lo' m = true := by
  cases m with
  | nil => rfl
  | cons x t =>
    simp only [Bytes.wfFrom, Bool.and_eq_true, decide_eq_true_eq] at hw ⊢
    exact ⟨⟨by omega, hw.1.2⟩, hw.2⟩

/-- An address below every entry reads as an unlisted one. -/
theorem Bytes.read_below {lo : Nat} {m : Bytes} (hw : Bytes.wfFrom lo m = true) {n : Nat} (h : n < lo) :
    Bytes.read m n = unlistedByte := by
  cases m with
  | nil => rfl
  | cons x t =>
    obtain ⟨k, v⟩ := x
    simp only [Bytes.wfFrom, Bool.and_eq_true, decide_eq_true_eq] at hw
    have h1 : k ≠ n := by omega
    have h2 : n < k := by omega
    simp [Bytes.read, h1, h2]

theorem Bytes.wfFrom_cons {lo n : Nat} {v : Byte} {t : Bytes} (h : lo ≤ n) (ht : Bytes.wfFrom (n + 1) t = true) :
    Bytes.wfFrom lo (Bytes.cons n v t) = true := by
  unfold Bytes.cons
  by_cases hv : v == unlistedByte
  · simp only [hv, if_true]; exact Bytes.wfFrom_mono (by omega) ht
  · simp [hv, Bytes.wfFrom, h, ht]
    simpa using hv

theorem Bytes.read_cons {n m : Nat} {v : Byte} {t : Bytes} (ht : Bytes.wfFrom (n + 1) t = true) :
    Bytes.read (Bytes.cons n v t) m = if m = n then v else Bytes.read t m := by
  unfold Bytes.cons
  by_cases hv : v = unlistedByte
  · simp only [hv, beq_self_eq_true, if_true]
    by_cases hm : m = n
    · simp [hm, Bytes.read_below ht]
    · simp [hm]
  · have h0 : (v == unlistedByte) = false := by simpa using hv
    rw [h0]
    by_cases hm : m = n
    · simp [hm, Bytes.read]
    · have h1 : n ≠ m := fun e => hm e.symm
      by_cases h2 : m < n
      · simp [hm, h1, h2, Bytes.read, Bytes.read_below ht (show m < n + 1 by omega)]
      · simp [hm, h1, h2, Bytes.read]

theorem Bytes.wfFrom_write {lo : Nat} {m : Bytes} {n : Nat} {v : Byte} (hw : Bytes.wfFrom lo m = true) (h : lo ≤ n) :
    Bytes.wfFrom lo (Bytes.write m n v) = true := by
  induction m generalizing lo with
  | nil => exact Bytes.wfFrom_cons h rfl
  | cons x t ih =>
    obtain ⟨k, w⟩ := x
    simp only [Bytes.wfFrom, Bool.and_eq_true, decide_eq_true_eq] at hw
    unfold Bytes.write
    by_cases hk : k = n
    · subst hk; simp only [beq_self_eq_true, if_true]; exact Bytes.wfFrom_cons h hw.2
    · by_cases hlt : n < k
      · simp only [beq_iff_eq, hk, hlt, if_false, if_true]
        refine Bytes.wfFrom_cons h ?_
        simp [Bytes.wfFrom, hw.2]
        exact ⟨by omega, by simpa using hw.1.2⟩
      · simp only [beq_iff_eq, hk, hlt, if_false, Bytes.wfFrom, Bool.and_eq_true, decide_eq_true_eq]
        exact ⟨hw.1, ih hw.2 (by omega)⟩

/-- Writing a byte keeps the canonical form. -/
theorem Bytes.wf_write {m : Bytes} {n : Nat} {v : Byte} (hw : Bytes.wf m = true) : Bytes.wf (Bytes.write m n v) = true :=
  Bytes.wfFrom_write hw (Nat.zero_le n)

theorem Bytes.read_write_from {lo : Nat} {m : Bytes} {n k : Nat} {v : Byte} (hw : Bytes.wfFrom lo m = true) :
    Bytes.read (Bytes.write m n v) k = if k = n then v else Bytes.read m k := by
  induction m generalizing lo with
  | nil =>
    unfold Bytes.write
    rw [Bytes.read_cons (t := []) rfl]
  | cons x t ih =>
    obtain ⟨j, w⟩ := x
    have hw0 := hw
    simp only [Bytes.wfFrom, Bool.and_eq_true, decide_eq_true_eq] at hw
    unfold Bytes.write
    by_cases hj : j = n
    · subst hj
      simp only [beq_self_eq_true, if_true]
      rw [Bytes.read_cons hw.2]
      by_cases hk : k = j
      · simp [hk]
      · have h1 : j ≠ k := fun e => hk e.symm
        by_cases h2 : k < j
        · simp [hk, h1, h2, Bytes.read, Bytes.read_below hw.2 (show k < j + 1 by omega)]
        · simp [hk, h1, h2, Bytes.read]
    · by_cases hlt : n < j
      · simp only [beq_iff_eq, hj, hlt, if_false, if_true]
        have ht : Bytes.wfFrom (n + 1) ((j, w) :: t) = true := by
          simp [Bytes.wfFrom, hw.2]
          exact ⟨by omega, by simpa using hw.1.2⟩
        rw [Bytes.read_cons ht]
      · simp only [beq_iff_eq, hj, hlt, if_false, Bytes.read]
        by_cases hk : j = k
        · have : k ≠ n := by omega
          simp [hk, this]
        · by_cases h2 : k < j
          · have : k ≠ n := by omega
            simp [hk, h2, this]
          · simp [hk, h2, ih hw.2]

/-- Reading a byte after a write, both cases at once. -/
theorem Bytes.read_write {m : Bytes} {n k : Nat} {v : Byte} (hw : Bytes.wf m = true) :
    Bytes.read (Bytes.write m n v) k = if k = n then v else Bytes.read m k := Bytes.read_write_from hw

/-- Writing bytes keeps the canonical form. -/
theorem Bytes.wf_writeList {m : Bytes} {a : Nat} {l : List Byte} (hw : Bytes.wf m = true) :
    Bytes.wf (Bytes.writeList m a l) = true := by
  induction l generalizing m a with
  | nil => exact hw
  | cons b bs ih => exact ih (Bytes.wf_write hw)

/-- Writing a number keeps the canonical form. -/
theorem Bytes.wf_writeLE {m : Bytes} {a n x : Nat} (hw : Bytes.wf m = true) : Bytes.wf (Bytes.writeLE m a n x) = true :=
  Bytes.wf_writeList hw

@[simp] theorem leBytes_length (n x : Nat) : (leBytes n x).length = n := by
  induction n generalizing x with
  | zero => rfl
  | succ n ih => simp [leBytes, ih]

/-- Bytes outside a written range stand. -/
theorem Bytes.read_writeList_outside {m : Bytes} {a k : Nat} {l : List Byte} (hw : Bytes.wf m = true)
    (h : k < a ∨ a + l.length ≤ k) : Bytes.read (Bytes.writeList m a l) k = Bytes.read m k := by
  induction l generalizing m a with
  | nil => rfl
  | cons b bs ih =>
    simp only [List.length_cons] at h
    rw [Bytes.writeList, ih (Bytes.wf_write hw) (by omega), Bytes.read_write hw]
    have : k ≠ a := by omega
    simp [this]

/-- Bytes of a written range read as they were written. -/
theorem Bytes.read_writeList_inside {m : Bytes} {a i : Nat} {l : List Byte} (hw : Bytes.wf m = true) (h : i < l.length) :
    Bytes.read (Bytes.writeList m a l) (a + i) = l[i] := by
  induction l generalizing m a i with
  | nil => simp at h
  | cons b bs ih =>
    rw [Bytes.writeList]
    cases i with
    | zero =>
      rw [Bytes.read_writeList_outside (Bytes.wf_write hw) (Or.inl (by omega)), Bytes.read_write hw]
      simp
    | succ i =>
      have := ih (m := Bytes.write m a b) (a := a + 1) (i := i) (Bytes.wf_write hw) (by simpa using h)
      rw [show a + (i + 1) = a + 1 + i by omega, this]
      simp

/-- Bytes outside a written number stand. -/
theorem Bytes.read_writeLE_outside {m : Bytes} {a n x k : Nat} (hw : Bytes.wf m = true) (h : k < a ∨ a + n ≤ k) :
    Bytes.read (Bytes.writeLE m a n x) k = Bytes.read m k :=
  Bytes.read_writeList_outside hw (by simpa using h)

theorem Bytes.readList_congr {m m' : Bytes} {a n : Nat} (h : ∀ i, i < n → Bytes.read m (a + i) = Bytes.read m' (a + i)) :
    Bytes.readList m a n = Bytes.readList m' a n := by
  induction n generalizing a with
  | zero => rfl
  | succ n ih =>
    simp only [Bytes.readList]
    rw [show Bytes.read m a = Bytes.read m' a from h 0 (by omega),
      ih (a := a + 1) fun i hi => by have := h (i + 1) (by omega); rwa [show a + (i + 1) = a + 1 + i by omega] at this]

/-- A range reads as the bytes written to it. -/
theorem Bytes.readList_writeList {m : Bytes} {a : Nat} {l : List Byte} (hw : Bytes.wf m = true) :
    Bytes.readList (Bytes.writeList m a l) a l.length = l := by
  induction l generalizing m a with
  | nil => rfl
  | cons b bs ih =>
    simp only [List.length_cons, Bytes.readList, Bytes.writeList]
    rw [ih (Bytes.wf_write hw), Bytes.read_writeList_outside (Bytes.wf_write hw) (Or.inl (by omega)), Bytes.read_write hw]
    simp

theorem leNat_leBytes (n x : Nat) : leNat (leBytes n x) = x % 256 ^ n := by
  induction n generalizing x with
  | zero => simp [leBytes, leNat, Nat.mod_one]
  | succ n ih =>
    simp only [leBytes, leNat, ih, BitVec.toNat_ofNat]
    rw [show (2 : Nat) ^ 8 = 256 from rfl, Nat.pow_succ, Nat.mul_comm (256 ^ n) 256, Nat.mod_mul]

/-- A number reads as it was written, cut to its bytes (R1). -/
theorem Bytes.readLE_writeLE {m : Bytes} {a n x : Nat} (hw : Bytes.wf m = true) :
    Bytes.readLE (Bytes.writeLE m a n x) a n = x % 256 ^ n := by
  have h := Bytes.readList_writeList (m := m) (a := a) (l := leBytes n x) hw
  rw [leBytes_length] at h
  rw [Bytes.readLE, Bytes.writeLE, h, leNat_leBytes]

end Sys2Proof.Machine
end

