-- ==== Sys2Proof/Laws/State.lean ====
section
/-! SUPPORT. What each update of the state leaves in each field, and what reading the updated part gives. -/

namespace Sys2Proof.Machine

/-! ### Setting a train -/

@[simp] theorem State.setTrain_cycle (s : State) (tid : Nat) (t : Train) : (s.setTrain tid t).cycle = s.cycle := rfl
@[simp] theorem State.setTrain_agenda (s : State) (tid : Nat) (t : Train) : (s.setTrain tid t).agenda = s.agenda := rfl
@[simp] theorem State.setTrain_cur (s : State) (tid : Nat) (t : Train) : (s.setTrain tid t).cur = s.cur := rfl
@[simp] theorem State.setTrain_nextId (s : State) (tid : Nat) (t : Train) : (s.setTrain tid t).nextId = s.nextId := rfl
@[simp] theorem State.setTrain_free (s : State) (tid : Nat) (t : Train) : (s.setTrain tid t).free = s.free := rfl
@[simp] theorem State.setTrain_mem (s : State) (tid : Nat) (t : Train) : (s.setTrain tid t).mem = s.mem := rfl
@[simp] theorem State.setTrain_lines (s : State) (tid : Nat) (t : Train) : (s.setTrain tid t).lines = s.lines := rfl
@[simp] theorem State.setTrain_l2 (s : State) (tid : Nat) (t : Train) : (s.setTrain tid t).l2 = s.l2 := rfl
@[simp] theorem State.setTrain_bad (s : State) (tid : Nat) (t : Train) : (s.setTrain tid t).bad = s.bad := rfl
@[simp] theorem State.setTrain_hbmReady (s : State) (tid : Nat) (t : Train) : (s.setTrain tid t).hbmReady = s.hbmReady := rfl
@[simp] theorem State.setTrain_qtable (s : State) (tid : Nat) (t : Train) : (s.setTrain tid t).qtable = s.qtable := rfl
@[simp] theorem State.setTrain_cxlpop (s : State) (tid : Nat) (t : Train) : (s.setTrain tid t).cxlpop = s.cxlpop := rfl
@[simp] theorem State.setTrain_homewin (s : State) (tid : Nat) (t : Train) : (s.setTrain tid t).homewin = s.homewin := rfl
@[simp] theorem State.setTrain_timer (s : State) (tid : Nat) (t : Train) : (s.setTrain tid t).timer = s.timer := rfl
@[simp] theorem State.setTrain_qpTs (s : State) (tid : Nat) (t : Train) : (s.setTrain tid t).qpTs = s.qpTs := rfl
@[simp] theorem State.setTrain_hostTs (s : State) (tid : Nat) (t : Train) : (s.setTrain tid t).hostTs = s.hostTs := rfl
@[simp] theorem State.setTrain_fabTs (s : State) (tid : Nat) (t : Train) : (s.setTrain tid t).fabTs = s.fabTs := rfl
@[simp] theorem State.setTrain_widx (s : State) (tid : Nat) (t : Train) : (s.setTrain tid t).widx = s.widx := rfl
@[simp] theorem State.setTrain_bells (s : State) (tid : Nat) (t : Train) : (s.setTrain tid t).bells = s.bells := rfl
@[simp] theorem State.setTrain_serving (s : State) (tid : Nat) (t : Train) : (s.setTrain tid t).serving = s.serving := rfl
@[simp] theorem State.setTrain_packets (s : State) (tid : Nat) (t : Train) : (s.setTrain tid t).packets = s.packets := rfl
@[simp] theorem State.setTrain_taskLam (s : State) (tid : Nat) (t : Train) : (s.setTrain tid t).taskLam = s.taskLam := rfl
@[simp] theorem State.setTrain_foreign (s : State) (tid : Nat) (t : Train) : (s.setTrain tid t).foreign = s.foreign := rfl
@[simp] theorem State.setTrain_preempting (s : State) (tid : Nat) (t : Train) : (s.setTrain tid t).preempting = s.preempting := rfl
@[simp] theorem State.setTrain_espreHeld (s : State) (tid : Nat) (t : Train) : (s.setTrain tid t).espreHeld = s.espreHeld := rfl
@[simp] theorem State.setTrain_asked (s : State) (tid : Nat) (t : Train) : (s.setTrain tid t).asked = s.asked := rfl
@[simp] theorem State.setTrain_barred (s : State) (tid : Nat) (t : Train) : (s.setTrain tid t).barred = s.barred := rfl
@[simp] theorem State.setTrain_resuming (s : State) (tid : Nat) (t : Train) : (s.setTrain tid t).resuming = s.resuming := rfl
@[simp] theorem State.setTrain_killing (s : State) (tid : Nat) (t : Train) : (s.setTrain tid t).killing = s.killing := rfl
@[simp] theorem State.setTrain_killDone (s : State) (tid : Nat) (t : Train) : (s.setTrain tid t).killDone = s.killDone := rfl
@[simp] theorem State.setTrain_killed (s : State) (tid : Nat) (t : Train) : (s.setTrain tid t).killed = s.killed := rfl
@[simp] theorem State.setTrain_halt (s : State) (tid : Nat) (t : Train) : (s.setTrain tid t).halt = s.halt := rfl
@[simp] theorem State.setTrain_dump (s : State) (tid : Nat) (t : Train) : (s.setTrain tid t).dump = s.dump := rfl
@[simp] theorem State.setTrain_handlers (s : State) (tid : Nat) (t : Train) : (s.setTrain tid t).handlers = s.handlers := rfl
@[simp] theorem State.setTrain_sysEvents (s : State) (tid : Nat) (t : Train) : (s.setTrain tid t).sysEvents = s.sysEvents := rfl
@[simp] theorem State.setTrain_sysOps (s : State) (tid : Nat) (t : Train) : (s.setTrain tid t).sysOps = s.sysOps := rfl
@[simp] theorem State.setTrain_rests (s : State) (tid : Nat) (t : Train) : (s.setTrain tid t).rests = s.rests := rfl
@[simp] theorem State.setTrain_syscalls (s : State) (tid : Nat) (t : Train) : (s.setTrain tid t).syscalls = s.syscalls := rfl
@[simp] theorem State.setTrain_interrupts (s : State) (tid : Nat) (t : Train) : (s.setTrain tid t).interrupts = s.interrupts := rfl
@[simp] theorem State.setTrain_fabricOut (s : State) (tid : Nat) (t : Train) : (s.setTrain tid t).fabricOut = s.fabricOut := rfl
@[simp] theorem State.setTrain_routes (s : State) (tid : Nat) (t : Train) : (s.setTrain tid t).routes = s.routes := rfl
@[simp] theorem State.setTrain_hostOut (s : State) (tid : Nat) (t : Train) : (s.setTrain tid t).hostOut = s.hostOut := rfl
@[simp] theorem State.setTrain_boot (s : State) (tid : Nat) (t : Train) : (s.setTrain tid t).boot = s.boot := rfl
@[simp] theorem State.setTrain_ctxTable (s : State) (tid : Nat) (t : Train) : (s.setTrain tid t).ctxTable = s.ctxTable := rfl
@[simp] theorem State.setTrain_ctxCount (s : State) (tid : Nat) (t : Train) : (s.setTrain tid t).ctxCount = s.ctxCount := rfl
@[simp] theorem State.setTrain_retiredHbm (s : State) (tid : Nat) (t : Train) : (s.setTrain tid t).retiredHbm = s.retiredHbm := rfl
@[simp] theorem State.setTrain_hbmCandidates (s : State) (tid : Nat) (t : Train) : (s.setTrain tid t).hbmCandidates = s.hbmCandidates := rfl
@[simp] theorem State.setTrain_lostPorts (s : State) (tid : Nat) (t : Train) : (s.setTrain tid t).lostPorts = s.lostPorts := rfl
@[simp] theorem State.setTrain_leavingCores (s : State) (tid : Nat) (t : Train) : (s.setTrain tid t).leavingCores = s.leavingCores := rfl
@[simp] theorem State.setTrain_retiredLinks (s : State) (tid : Nat) (t : Train) : (s.setTrain tid t).retiredLinks = s.retiredLinks := rfl
@[simp] theorem State.setTrain_unitErrors (s : State) (tid : Nat) (t : Train) : (s.setTrain tid t).unitErrors = s.unitErrors := rfl
@[simp] theorem State.setTrain_unitFatal (s : State) (tid : Nat) (t : Train) : (s.setTrain tid t).unitFatal = s.unitFatal := rfl
@[simp] theorem State.setTrain_linkErrors (s : State) (tid : Nat) (t : Train) : (s.setTrain tid t).linkErrors = s.linkErrors := rfl
@[simp] theorem State.setTrain_combWait (s : State) (tid : Nat) (t : Train) : (s.setTrain tid t).combWait = s.combWait := rfl
@[simp] theorem State.setTrain_cquota (s : State) (tid : Nat) (t : Train) : (s.setTrain tid t).cquota = s.cquota := rfl
@[simp] theorem State.setTrain_retiredCores (s : State) (tid : Nat) (t : Train) : (s.setTrain tid t).retiredCores = s.retiredCores := rfl
@[simp] theorem State.setTrain_retiredSlices (s : State) (tid : Nat) (t : Train) : (s.setTrain tid t).retiredSlices = s.retiredSlices := rfl
@[simp] theorem State.setTrain_clusterTlb (s : State) (tid : Nat) (t : Train) : (s.setTrain tid t).clusterTlb = s.clusterTlb := rfl
@[simp] theorem State.setTrain_loads (s : State) (tid : Nat) (t : Train) : (s.setTrain tid t).loads = s.loads := rfl
@[simp] theorem State.setTrain_updates (s : State) (tid : Nat) (t : Train) : (s.setTrain tid t).updates = s.updates := rfl
@[simp] theorem State.setTrain_atoms (s : State) (tid : Nat) (t : Train) : (s.setTrain tid t).atoms = s.atoms := rfl
@[simp] theorem State.setTrain_copyOps (s : State) (tid : Nat) (t : Train) : (s.setTrain tid t).copyOps = s.copyOps := rfl
@[simp] theorem State.setTrain_mdecs (s : State) (tid : Nat) (t : Train) : (s.setTrain tid t).mdecs = s.mdecs := rfl
@[simp] theorem State.setTrain_traces (s : State) (tid : Nat) (t : Train) : (s.setTrain tid t).traces = s.traces := rfl
@[simp] theorem State.setTrain_blends (s : State) (tid : Nat) (t : Train) : (s.setTrain tid t).blends = s.blends := rfl
@[simp] theorem State.setTrain_accGroups (s : State) (tid : Nat) (t : Train) : (s.setTrain tid t).accGroups = s.accGroups := rfl
@[simp] theorem State.setTrain_accQueues (s : State) (tid : Nat) (t : Train) : (s.setTrain tid t).accQueues = s.accQueues := rfl
@[simp] theorem State.setTrain_accSeq (s : State) (tid : Nat) (t : Train) : (s.setTrain tid t).accSeq = s.accSeq := rfl
@[simp] theorem State.setTrain_accOut (s : State) (tid : Nat) (t : Train) : (s.setTrain tid t).accOut = s.accOut := rfl
@[simp] theorem State.setTrain_accOps (s : State) (tid : Nat) (t : Train) : (s.setTrain tid t).accOps = s.accOps := rfl
@[simp] theorem State.setTrain_accReplies (s : State) (tid : Nat) (t : Train) : (s.setTrain tid t).accReplies = s.accReplies := rfl
@[simp] theorem State.setTrain_shuffles (s : State) (tid : Nat) (t : Train) : (s.setTrain tid t).shuffles = s.shuffles := rfl
@[simp] theorem State.setTrain_esSlots (s : State) (tid : Nat) (t : Train) : (s.setTrain tid t).esSlots = s.esSlots := rfl
@[simp] theorem State.setTrain_esChans (s : State) (tid : Nat) (t : Train) : (s.setTrain tid t).esChans = s.esChans := rfl
@[simp] theorem State.setTrain_esMsgs (s : State) (tid : Nat) (t : Train) : (s.setTrain tid t).esMsgs = s.esMsgs := rfl
@[simp] theorem State.setTrain_replaceReq (s : State) (tid : Nat) (t : Train) : (s.setTrain tid t).replaceReq = s.replaceReq := rfl
@[simp] theorem State.setTrain_mats (s : State) (tid : Nat) (t : Train) : (s.setTrain tid t).mats = s.mats := rfl
@[simp] theorem State.setTrain_walks (s : State) (tid : Nat) (t : Train) : (s.setTrain tid t).walks = s.walks := rfl
@[simp] theorem State.setTrain_cores (s : State) (tid : Nat) (t : Train) : (s.setTrain tid t).cores = s.cores := rfl
@[simp] theorem State.setTrain_launches (s : State) (tid : Nat) (t : Train) : (s.setTrain tid t).launches = s.launches := rfl
@[simp] theorem State.setTrain_rays (s : State) (tid : Nat) (t : Train) : (s.setTrain tid t).rays = s.rays := rfl
@[simp] theorem State.setTrain_wgs (s : State) (tid : Nat) (t : Train) : (s.setTrain tid t).wgs = s.wgs := rfl
@[simp] theorem State.setTrain_ctxs (s : State) (tid : Nat) (t : Train) : (s.setTrain tid t).ctxs = s.ctxs := rfl

/-! ### Changing a train -/

@[simp] theorem State.updTrain_cycle (s : State) (tid : Nat) (f : Train → Train) : (s.updTrain tid f).cycle = s.cycle := rfl
@[simp] theorem State.updTrain_agenda (s : State) (tid : Nat) (f : Train → Train) : (s.updTrain tid f).agenda = s.agenda := rfl
@[simp] theorem State.updTrain_cur (s : State) (tid : Nat) (f : Train → Train) : (s.updTrain tid f).cur = s.cur := rfl
@[simp] theorem State.updTrain_nextId (s : State) (tid : Nat) (f : Train → Train) : (s.updTrain tid f).nextId = s.nextId := rfl
@[simp] theorem State.updTrain_free (s : State) (tid : Nat) (f : Train → Train) : (s.updTrain tid f).free = s.free := rfl
@[simp] theorem State.updTrain_mem (s : State) (tid : Nat) (f : Train → Train) : (s.updTrain tid f).mem = s.mem := rfl
@[simp] theorem State.updTrain_lines (s : State) (tid : Nat) (f : Train → Train) : (s.updTrain tid f).lines = s.lines := rfl
@[simp] theorem State.updTrain_l2 (s : State) (tid : Nat) (f : Train → Train) : (s.updTrain tid f).l2 = s.l2 := rfl
@[simp] theorem State.updTrain_bad (s : State) (tid : Nat) (f : Train → Train) : (s.updTrain tid f).bad = s.bad := rfl
@[simp] theorem State.updTrain_hbmReady (s : State) (tid : Nat) (f : Train → Train) : (s.updTrain tid f).hbmReady = s.hbmReady := rfl
@[simp] theorem State.updTrain_qtable (s : State) (tid : Nat) (f : Train → Train) : (s.updTrain tid f).qtable = s.qtable := rfl
@[simp] theorem State.updTrain_cxlpop (s : State) (tid : Nat) (f : Train → Train) : (s.updTrain tid f).cxlpop = s.cxlpop := rfl
@[simp] theorem State.updTrain_homewin (s : State) (tid : Nat) (f : Train → Train) : (s.updTrain tid f).homewin = s.homewin := rfl
@[simp] theorem State.updTrain_timer (s : State) (tid : Nat) (f : Train → Train) : (s.updTrain tid f).timer = s.timer := rfl
@[simp] theorem State.updTrain_qpTs (s : State) (tid : Nat) (f : Train → Train) : (s.updTrain tid f).qpTs = s.qpTs := rfl
@[simp] theorem State.updTrain_hostTs (s : State) (tid : Nat) (f : Train → Train) : (s.updTrain tid f).hostTs = s.hostTs := rfl
@[simp] theorem State.updTrain_fabTs (s : State) (tid : Nat) (f : Train → Train) : (s.updTrain tid f).fabTs = s.fabTs := rfl
@[simp] theorem State.updTrain_widx (s : State) (tid : Nat) (f : Train → Train) : (s.updTrain tid f).widx = s.widx := rfl
@[simp] theorem State.updTrain_bells (s : State) (tid : Nat) (f : Train → Train) : (s.updTrain tid f).bells = s.bells := rfl
@[simp] theorem State.updTrain_serving (s : State) (tid : Nat) (f : Train → Train) : (s.updTrain tid f).serving = s.serving := rfl
@[simp] theorem State.updTrain_packets (s : State) (tid : Nat) (f : Train → Train) : (s.updTrain tid f).packets = s.packets := rfl
@[simp] theorem State.updTrain_taskLam (s : State) (tid : Nat) (f : Train → Train) : (s.updTrain tid f).taskLam = s.taskLam := rfl
@[simp] theorem State.updTrain_foreign (s : State) (tid : Nat) (f : Train → Train) : (s.updTrain tid f).foreign = s.foreign := rfl
@[simp] theorem State.updTrain_preempting (s : State) (tid : Nat) (f : Train → Train) : (s.updTrain tid f).preempting = s.preempting := rfl
@[simp] theorem State.updTrain_espreHeld (s : State) (tid : Nat) (f : Train → Train) : (s.updTrain tid f).espreHeld = s.espreHeld := rfl
@[simp] theorem State.updTrain_asked (s : State) (tid : Nat) (f : Train → Train) : (s.updTrain tid f).asked = s.asked := rfl
@[simp] theorem State.updTrain_barred (s : State) (tid : Nat) (f : Train → Train) : (s.updTrain tid f).barred = s.barred := rfl
@[simp] theorem State.updTrain_resuming (s : State) (tid : Nat) (f : Train → Train) : (s.updTrain tid f).resuming = s.resuming := rfl
@[simp] theorem State.updTrain_killing (s : State) (tid : Nat) (f : Train → Train) : (s.updTrain tid f).killing = s.killing := rfl
@[simp] theorem State.updTrain_killDone (s : State) (tid : Nat) (f : Train → Train) : (s.updTrain tid f).killDone = s.killDone := rfl
@[simp] theorem State.updTrain_killed (s : State) (tid : Nat) (f : Train → Train) : (s.updTrain tid f).killed = s.killed := rfl
@[simp] theorem State.updTrain_halt (s : State) (tid : Nat) (f : Train → Train) : (s.updTrain tid f).halt = s.halt := rfl
@[simp] theorem State.updTrain_dump (s : State) (tid : Nat) (f : Train → Train) : (s.updTrain tid f).dump = s.dump := rfl
@[simp] theorem State.updTrain_handlers (s : State) (tid : Nat) (f : Train → Train) : (s.updTrain tid f).handlers = s.handlers := rfl
@[simp] theorem State.updTrain_sysEvents (s : State) (tid : Nat) (f : Train → Train) : (s.updTrain tid f).sysEvents = s.sysEvents := rfl
@[simp] theorem State.updTrain_sysOps (s : State) (tid : Nat) (f : Train → Train) : (s.updTrain tid f).sysOps = s.sysOps := rfl
@[simp] theorem State.updTrain_rests (s : State) (tid : Nat) (f : Train → Train) : (s.updTrain tid f).rests = s.rests := rfl
@[simp] theorem State.updTrain_syscalls (s : State) (tid : Nat) (f : Train → Train) : (s.updTrain tid f).syscalls = s.syscalls := rfl
@[simp] theorem State.updTrain_interrupts (s : State) (tid : Nat) (f : Train → Train) : (s.updTrain tid f).interrupts = s.interrupts := rfl
@[simp] theorem State.updTrain_fabricOut (s : State) (tid : Nat) (f : Train → Train) : (s.updTrain tid f).fabricOut = s.fabricOut := rfl
@[simp] theorem State.updTrain_routes (s : State) (tid : Nat) (f : Train → Train) : (s.updTrain tid f).routes = s.routes := rfl
@[simp] theorem State.updTrain_hostOut (s : State) (tid : Nat) (f : Train → Train) : (s.updTrain tid f).hostOut = s.hostOut := rfl
@[simp] theorem State.updTrain_boot (s : State) (tid : Nat) (f : Train → Train) : (s.updTrain tid f).boot = s.boot := rfl
@[simp] theorem State.updTrain_ctxTable (s : State) (tid : Nat) (f : Train → Train) : (s.updTrain tid f).ctxTable = s.ctxTable := rfl
@[simp] theorem State.updTrain_ctxCount (s : State) (tid : Nat) (f : Train → Train) : (s.updTrain tid f).ctxCount = s.ctxCount := rfl
@[simp] theorem State.updTrain_retiredHbm (s : State) (tid : Nat) (f : Train → Train) : (s.updTrain tid f).retiredHbm = s.retiredHbm := rfl
@[simp] theorem State.updTrain_hbmCandidates (s : State) (tid : Nat) (f : Train → Train) : (s.updTrain tid f).hbmCandidates = s.hbmCandidates := rfl
@[simp] theorem State.updTrain_lostPorts (s : State) (tid : Nat) (f : Train → Train) : (s.updTrain tid f).lostPorts = s.lostPorts := rfl
@[simp] theorem State.updTrain_leavingCores (s : State) (tid : Nat) (f : Train → Train) : (s.updTrain tid f).leavingCores = s.leavingCores := rfl
@[simp] theorem State.updTrain_retiredLinks (s : State) (tid : Nat) (f : Train → Train) : (s.updTrain tid f).retiredLinks = s.retiredLinks := rfl
@[simp] theorem State.updTrain_unitErrors (s : State) (tid : Nat) (f : Train → Train) : (s.updTrain tid f).unitErrors = s.unitErrors := rfl
@[simp] theorem State.updTrain_unitFatal (s : State) (tid : Nat) (f : Train → Train) : (s.updTrain tid f).unitFatal = s.unitFatal := rfl
@[simp] theorem State.updTrain_linkErrors (s : State) (tid : Nat) (f : Train → Train) : (s.updTrain tid f).linkErrors = s.linkErrors := rfl
@[simp] theorem State.updTrain_combWait (s : State) (tid : Nat) (f : Train → Train) : (s.updTrain tid f).combWait = s.combWait := rfl
@[simp] theorem State.updTrain_cquota (s : State) (tid : Nat) (f : Train → Train) : (s.updTrain tid f).cquota = s.cquota := rfl
@[simp] theorem State.updTrain_retiredCores (s : State) (tid : Nat) (f : Train → Train) : (s.updTrain tid f).retiredCores = s.retiredCores := rfl
@[simp] theorem State.updTrain_retiredSlices (s : State) (tid : Nat) (f : Train → Train) : (s.updTrain tid f).retiredSlices = s.retiredSlices := rfl
@[simp] theorem State.updTrain_clusterTlb (s : State) (tid : Nat) (f : Train → Train) : (s.updTrain tid f).clusterTlb = s.clusterTlb := rfl
@[simp] theorem State.updTrain_loads (s : State) (tid : Nat) (f : Train → Train) : (s.updTrain tid f).loads = s.loads := rfl
@[simp] theorem State.updTrain_updates (s : State) (tid : Nat) (f : Train → Train) : (s.updTrain tid f).updates = s.updates := rfl
@[simp] theorem State.updTrain_atoms (s : State) (tid : Nat) (f : Train → Train) : (s.updTrain tid f).atoms = s.atoms := rfl
@[simp] theorem State.updTrain_copyOps (s : State) (tid : Nat) (f : Train → Train) : (s.updTrain tid f).copyOps = s.copyOps := rfl
@[simp] theorem State.updTrain_mdecs (s : State) (tid : Nat) (f : Train → Train) : (s.updTrain tid f).mdecs = s.mdecs := rfl
@[simp] theorem State.updTrain_traces (s : State) (tid : Nat) (f : Train → Train) : (s.updTrain tid f).traces = s.traces := rfl
@[simp] theorem State.updTrain_blends (s : State) (tid : Nat) (f : Train → Train) : (s.updTrain tid f).blends = s.blends := rfl
@[simp] theorem State.updTrain_accGroups (s : State) (tid : Nat) (f : Train → Train) : (s.updTrain tid f).accGroups = s.accGroups := rfl
@[simp] theorem State.updTrain_accQueues (s : State) (tid : Nat) (f : Train → Train) : (s.updTrain tid f).accQueues = s.accQueues := rfl
@[simp] theorem State.updTrain_accSeq (s : State) (tid : Nat) (f : Train → Train) : (s.updTrain tid f).accSeq = s.accSeq := rfl
@[simp] theorem State.updTrain_accOut (s : State) (tid : Nat) (f : Train → Train) : (s.updTrain tid f).accOut = s.accOut := rfl
@[simp] theorem State.updTrain_accOps (s : State) (tid : Nat) (f : Train → Train) : (s.updTrain tid f).accOps = s.accOps := rfl
@[simp] theorem State.updTrain_accReplies (s : State) (tid : Nat) (f : Train → Train) : (s.updTrain tid f).accReplies = s.accReplies := rfl
@[simp] theorem State.updTrain_shuffles (s : State) (tid : Nat) (f : Train → Train) : (s.updTrain tid f).shuffles = s.shuffles := rfl
@[simp] theorem State.updTrain_esSlots (s : State) (tid : Nat) (f : Train → Train) : (s.updTrain tid f).esSlots = s.esSlots := rfl
@[simp] theorem State.updTrain_esChans (s : State) (tid : Nat) (f : Train → Train) : (s.updTrain tid f).esChans = s.esChans := rfl
@[simp] theorem State.updTrain_esMsgs (s : State) (tid : Nat) (f : Train → Train) : (s.updTrain tid f).esMsgs = s.esMsgs := rfl
@[simp] theorem State.updTrain_replaceReq (s : State) (tid : Nat) (f : Train → Train) : (s.updTrain tid f).replaceReq = s.replaceReq := rfl
@[simp] theorem State.updTrain_mats (s : State) (tid : Nat) (f : Train → Train) : (s.updTrain tid f).mats = s.mats := rfl
@[simp] theorem State.updTrain_walks (s : State) (tid : Nat) (f : Train → Train) : (s.updTrain tid f).walks = s.walks := rfl
@[simp] theorem State.updTrain_cores (s : State) (tid : Nat) (f : Train → Train) : (s.updTrain tid f).cores = s.cores := rfl
@[simp] theorem State.updTrain_launches (s : State) (tid : Nat) (f : Train → Train) : (s.updTrain tid f).launches = s.launches := rfl
@[simp] theorem State.updTrain_rays (s : State) (tid : Nat) (f : Train → Train) : (s.updTrain tid f).rays = s.rays := rfl
@[simp] theorem State.updTrain_wgs (s : State) (tid : Nat) (f : Train → Train) : (s.updTrain tid f).wgs = s.wgs := rfl
@[simp] theorem State.updTrain_ctxs (s : State) (tid : Nat) (f : Train → Train) : (s.updTrain tid f).ctxs = s.ctxs := rfl

/-! ### Changing a core -/

@[simp] theorem State.updCore_cycle (s : State) (c : Nat) (f : Core → Core) : (s.updCore c f).cycle = s.cycle := rfl
@[simp] theorem State.updCore_agenda (s : State) (c : Nat) (f : Core → Core) : (s.updCore c f).agenda = s.agenda := rfl
@[simp] theorem State.updCore_cur (s : State) (c : Nat) (f : Core → Core) : (s.updCore c f).cur = s.cur := rfl
@[simp] theorem State.updCore_nextId (s : State) (c : Nat) (f : Core → Core) : (s.updCore c f).nextId = s.nextId := rfl
@[simp] theorem State.updCore_free (s : State) (c : Nat) (f : Core → Core) : (s.updCore c f).free = s.free := rfl
@[simp] theorem State.updCore_mem (s : State) (c : Nat) (f : Core → Core) : (s.updCore c f).mem = s.mem := rfl
@[simp] theorem State.updCore_lines (s : State) (c : Nat) (f : Core → Core) : (s.updCore c f).lines = s.lines := rfl
@[simp] theorem State.updCore_l2 (s : State) (c : Nat) (f : Core → Core) : (s.updCore c f).l2 = s.l2 := rfl
@[simp] theorem State.updCore_bad (s : State) (c : Nat) (f : Core → Core) : (s.updCore c f).bad = s.bad := rfl
@[simp] theorem State.updCore_hbmReady (s : State) (c : Nat) (f : Core → Core) : (s.updCore c f).hbmReady = s.hbmReady := rfl
@[simp] theorem State.updCore_qtable (s : State) (c : Nat) (f : Core → Core) : (s.updCore c f).qtable = s.qtable := rfl
@[simp] theorem State.updCore_cxlpop (s : State) (c : Nat) (f : Core → Core) : (s.updCore c f).cxlpop = s.cxlpop := rfl
@[simp] theorem State.updCore_homewin (s : State) (c : Nat) (f : Core → Core) : (s.updCore c f).homewin = s.homewin := rfl
@[simp] theorem State.updCore_timer (s : State) (c : Nat) (f : Core → Core) : (s.updCore c f).timer = s.timer := rfl
@[simp] theorem State.updCore_qpTs (s : State) (c : Nat) (f : Core → Core) : (s.updCore c f).qpTs = s.qpTs := rfl
@[simp] theorem State.updCore_hostTs (s : State) (c : Nat) (f : Core → Core) : (s.updCore c f).hostTs = s.hostTs := rfl
@[simp] theorem State.updCore_fabTs (s : State) (c : Nat) (f : Core → Core) : (s.updCore c f).fabTs = s.fabTs := rfl
@[simp] theorem State.updCore_widx (s : State) (c : Nat) (f : Core → Core) : (s.updCore c f).widx = s.widx := rfl
@[simp] theorem State.updCore_bells (s : State) (c : Nat) (f : Core → Core) : (s.updCore c f).bells = s.bells := rfl
@[simp] theorem State.updCore_serving (s : State) (c : Nat) (f : Core → Core) : (s.updCore c f).serving = s.serving := rfl
@[simp] theorem State.updCore_packets (s : State) (c : Nat) (f : Core → Core) : (s.updCore c f).packets = s.packets := rfl
@[simp] theorem State.updCore_taskLam (s : State) (c : Nat) (f : Core → Core) : (s.updCore c f).taskLam = s.taskLam := rfl
@[simp] theorem State.updCore_foreign (s : State) (c : Nat) (f : Core → Core) : (s.updCore c f).foreign = s.foreign := rfl
@[simp] theorem State.updCore_preempting (s : State) (c : Nat) (f : Core → Core) : (s.updCore c f).preempting = s.preempting := rfl
@[simp] theorem State.updCore_espreHeld (s : State) (c : Nat) (f : Core → Core) : (s.updCore c f).espreHeld = s.espreHeld := rfl
@[simp] theorem State.updCore_asked (s : State) (c : Nat) (f : Core → Core) : (s.updCore c f).asked = s.asked := rfl
@[simp] theorem State.updCore_barred (s : State) (c : Nat) (f : Core → Core) : (s.updCore c f).barred = s.barred := rfl
@[simp] theorem State.updCore_resuming (s : State) (c : Nat) (f : Core → Core) : (s.updCore c f).resuming = s.resuming := rfl
@[simp] theorem State.updCore_killing (s : State) (c : Nat) (f : Core → Core) : (s.updCore c f).killing = s.killing := rfl
@[simp] theorem State.updCore_killDone (s : State) (c : Nat) (f : Core → Core) : (s.updCore c f).killDone = s.killDone := rfl
@[simp] theorem State.updCore_killed (s : State) (c : Nat) (f : Core → Core) : (s.updCore c f).killed = s.killed := rfl
@[simp] theorem State.updCore_halt (s : State) (c : Nat) (f : Core → Core) : (s.updCore c f).halt = s.halt := rfl
@[simp] theorem State.updCore_dump (s : State) (c : Nat) (f : Core → Core) : (s.updCore c f).dump = s.dump := rfl
@[simp] theorem State.updCore_handlers (s : State) (c : Nat) (f : Core → Core) : (s.updCore c f).handlers = s.handlers := rfl
@[simp] theorem State.updCore_sysEvents (s : State) (c : Nat) (f : Core → Core) : (s.updCore c f).sysEvents = s.sysEvents := rfl
@[simp] theorem State.updCore_sysOps (s : State) (c : Nat) (f : Core → Core) : (s.updCore c f).sysOps = s.sysOps := rfl
@[simp] theorem State.updCore_rests (s : State) (c : Nat) (f : Core → Core) : (s.updCore c f).rests = s.rests := rfl
@[simp] theorem State.updCore_syscalls (s : State) (c : Nat) (f : Core → Core) : (s.updCore c f).syscalls = s.syscalls := rfl
@[simp] theorem State.updCore_interrupts (s : State) (c : Nat) (f : Core → Core) : (s.updCore c f).interrupts = s.interrupts := rfl
@[simp] theorem State.updCore_fabricOut (s : State) (c : Nat) (f : Core → Core) : (s.updCore c f).fabricOut = s.fabricOut := rfl
@[simp] theorem State.updCore_routes (s : State) (c : Nat) (f : Core → Core) : (s.updCore c f).routes = s.routes := rfl
@[simp] theorem State.updCore_hostOut (s : State) (c : Nat) (f : Core → Core) : (s.updCore c f).hostOut = s.hostOut := rfl
@[simp] theorem State.updCore_boot (s : State) (c : Nat) (f : Core → Core) : (s.updCore c f).boot = s.boot := rfl
@[simp] theorem State.updCore_ctxTable (s : State) (c : Nat) (f : Core → Core) : (s.updCore c f).ctxTable = s.ctxTable := rfl
@[simp] theorem State.updCore_ctxCount (s : State) (c : Nat) (f : Core → Core) : (s.updCore c f).ctxCount = s.ctxCount := rfl
@[simp] theorem State.updCore_retiredHbm (s : State) (c : Nat) (f : Core → Core) : (s.updCore c f).retiredHbm = s.retiredHbm := rfl
@[simp] theorem State.updCore_hbmCandidates (s : State) (c : Nat) (f : Core → Core) : (s.updCore c f).hbmCandidates = s.hbmCandidates := rfl
@[simp] theorem State.updCore_lostPorts (s : State) (c : Nat) (f : Core → Core) : (s.updCore c f).lostPorts = s.lostPorts := rfl
@[simp] theorem State.updCore_leavingCores (s : State) (c : Nat) (f : Core → Core) : (s.updCore c f).leavingCores = s.leavingCores := rfl
@[simp] theorem State.updCore_retiredLinks (s : State) (c : Nat) (f : Core → Core) : (s.updCore c f).retiredLinks = s.retiredLinks := rfl
@[simp] theorem State.updCore_unitErrors (s : State) (c : Nat) (f : Core → Core) : (s.updCore c f).unitErrors = s.unitErrors := rfl
@[simp] theorem State.updCore_unitFatal (s : State) (c : Nat) (f : Core → Core) : (s.updCore c f).unitFatal = s.unitFatal := rfl
@[simp] theorem State.updCore_linkErrors (s : State) (c : Nat) (f : Core → Core) : (s.updCore c f).linkErrors = s.linkErrors := rfl
@[simp] theorem State.updCore_combWait (s : State) (c : Nat) (f : Core → Core) : (s.updCore c f).combWait = s.combWait := rfl
@[simp] theorem State.updCore_cquota (s : State) (c : Nat) (f : Core → Core) : (s.updCore c f).cquota = s.cquota := rfl
@[simp] theorem State.updCore_retiredCores (s : State) (c : Nat) (f : Core → Core) : (s.updCore c f).retiredCores = s.retiredCores := rfl
@[simp] theorem State.updCore_retiredSlices (s : State) (c : Nat) (f : Core → Core) : (s.updCore c f).retiredSlices = s.retiredSlices := rfl
@[simp] theorem State.updCore_clusterTlb (s : State) (c : Nat) (f : Core → Core) : (s.updCore c f).clusterTlb = s.clusterTlb := rfl
@[simp] theorem State.updCore_loads (s : State) (c : Nat) (f : Core → Core) : (s.updCore c f).loads = s.loads := rfl
@[simp] theorem State.updCore_updates (s : State) (c : Nat) (f : Core → Core) : (s.updCore c f).updates = s.updates := rfl
@[simp] theorem State.updCore_atoms (s : State) (c : Nat) (f : Core → Core) : (s.updCore c f).atoms = s.atoms := rfl
@[simp] theorem State.updCore_copyOps (s : State) (c : Nat) (f : Core → Core) : (s.updCore c f).copyOps = s.copyOps := rfl
@[simp] theorem State.updCore_mdecs (s : State) (c : Nat) (f : Core → Core) : (s.updCore c f).mdecs = s.mdecs := rfl
@[simp] theorem State.updCore_traces (s : State) (c : Nat) (f : Core → Core) : (s.updCore c f).traces = s.traces := rfl
@[simp] theorem State.updCore_blends (s : State) (c : Nat) (f : Core → Core) : (s.updCore c f).blends = s.blends := rfl
@[simp] theorem State.updCore_accGroups (s : State) (c : Nat) (f : Core → Core) : (s.updCore c f).accGroups = s.accGroups := rfl
@[simp] theorem State.updCore_accQueues (s : State) (c : Nat) (f : Core → Core) : (s.updCore c f).accQueues = s.accQueues := rfl
@[simp] theorem State.updCore_accSeq (s : State) (c : Nat) (f : Core → Core) : (s.updCore c f).accSeq = s.accSeq := rfl
@[simp] theorem State.updCore_accOut (s : State) (c : Nat) (f : Core → Core) : (s.updCore c f).accOut = s.accOut := rfl
@[simp] theorem State.updCore_accOps (s : State) (c : Nat) (f : Core → Core) : (s.updCore c f).accOps = s.accOps := rfl
@[simp] theorem State.updCore_accReplies (s : State) (c : Nat) (f : Core → Core) : (s.updCore c f).accReplies = s.accReplies := rfl
@[simp] theorem State.updCore_shuffles (s : State) (c : Nat) (f : Core → Core) : (s.updCore c f).shuffles = s.shuffles := rfl
@[simp] theorem State.updCore_esSlots (s : State) (c : Nat) (f : Core → Core) : (s.updCore c f).esSlots = s.esSlots := rfl
@[simp] theorem State.updCore_esChans (s : State) (c : Nat) (f : Core → Core) : (s.updCore c f).esChans = s.esChans := rfl
@[simp] theorem State.updCore_esMsgs (s : State) (c : Nat) (f : Core → Core) : (s.updCore c f).esMsgs = s.esMsgs := rfl
@[simp] theorem State.updCore_replaceReq (s : State) (c : Nat) (f : Core → Core) : (s.updCore c f).replaceReq = s.replaceReq := rfl
@[simp] theorem State.updCore_mats (s : State) (c : Nat) (f : Core → Core) : (s.updCore c f).mats = s.mats := rfl
@[simp] theorem State.updCore_walks (s : State) (c : Nat) (f : Core → Core) : (s.updCore c f).walks = s.walks := rfl
@[simp] theorem State.updCore_trains (s : State) (c : Nat) (f : Core → Core) : (s.updCore c f).trains = s.trains := rfl
@[simp] theorem State.updCore_launches (s : State) (c : Nat) (f : Core → Core) : (s.updCore c f).launches = s.launches := rfl
@[simp] theorem State.updCore_rays (s : State) (c : Nat) (f : Core → Core) : (s.updCore c f).rays = s.rays := rfl
@[simp] theorem State.updCore_wgs (s : State) (c : Nat) (f : Core → Core) : (s.updCore c f).wgs = s.wgs := rfl
@[simp] theorem State.updCore_ctxs (s : State) (c : Nat) (f : Core → Core) : (s.updCore c f).ctxs = s.ctxs := rfl

/-! ### Changing a scheduler -/

@[simp] theorem State.updSched_cycle (s : State) (c k : Nat) (f : Sched → Sched) : (s.updSched c k f).cycle = s.cycle := rfl
@[simp] theorem State.updSched_agenda (s : State) (c k : Nat) (f : Sched → Sched) : (s.updSched c k f).agenda = s.agenda := rfl
@[simp] theorem State.updSched_cur (s : State) (c k : Nat) (f : Sched → Sched) : (s.updSched c k f).cur = s.cur := rfl
@[simp] theorem State.updSched_nextId (s : State) (c k : Nat) (f : Sched → Sched) : (s.updSched c k f).nextId = s.nextId := rfl
@[simp] theorem State.updSched_free (s : State) (c k : Nat) (f : Sched → Sched) : (s.updSched c k f).free = s.free := rfl
@[simp] theorem State.updSched_mem (s : State) (c k : Nat) (f : Sched → Sched) : (s.updSched c k f).mem = s.mem := rfl
@[simp] theorem State.updSched_lines (s : State) (c k : Nat) (f : Sched → Sched) : (s.updSched c k f).lines = s.lines := rfl
@[simp] theorem State.updSched_l2 (s : State) (c k : Nat) (f : Sched → Sched) : (s.updSched c k f).l2 = s.l2 := rfl
@[simp] theorem State.updSched_bad (s : State) (c k : Nat) (f : Sched → Sched) : (s.updSched c k f).bad = s.bad := rfl
@[simp] theorem State.updSched_hbmReady (s : State) (c k : Nat) (f : Sched → Sched) : (s.updSched c k f).hbmReady = s.hbmReady := rfl
@[simp] theorem State.updSched_qtable (s : State) (c k : Nat) (f : Sched → Sched) : (s.updSched c k f).qtable = s.qtable := rfl
@[simp] theorem State.updSched_cxlpop (s : State) (c k : Nat) (f : Sched → Sched) : (s.updSched c k f).cxlpop = s.cxlpop := rfl
@[simp] theorem State.updSched_homewin (s : State) (c k : Nat) (f : Sched → Sched) : (s.updSched c k f).homewin = s.homewin := rfl
@[simp] theorem State.updSched_timer (s : State) (c k : Nat) (f : Sched → Sched) : (s.updSched c k f).timer = s.timer := rfl
@[simp] theorem State.updSched_qpTs (s : State) (c k : Nat) (f : Sched → Sched) : (s.updSched c k f).qpTs = s.qpTs := rfl
@[simp] theorem State.updSched_hostTs (s : State) (c k : Nat) (f : Sched → Sched) : (s.updSched c k f).hostTs = s.hostTs := rfl
@[simp] theorem State.updSched_fabTs (s : State) (c k : Nat) (f : Sched → Sched) : (s.updSched c k f).fabTs = s.fabTs := rfl
@[simp] theorem State.updSched_widx (s : State) (c k : Nat) (f : Sched → Sched) : (s.updSched c k f).widx = s.widx := rfl
@[simp] theorem State.updSched_bells (s : State) (c k : Nat) (f : Sched → Sched) : (s.updSched c k f).bells = s.bells := rfl
@[simp] theorem State.updSched_serving (s : State) (c k : Nat) (f : Sched → Sched) : (s.updSched c k f).serving = s.serving := rfl
@[simp] theorem State.updSched_packets (s : State) (c k : Nat) (f : Sched → Sched) : (s.updSched c k f).packets = s.packets := rfl
@[simp] theorem State.updSched_taskLam (s : State) (c k : Nat) (f : Sched → Sched) : (s.updSched c k f).taskLam = s.taskLam := rfl
@[simp] theorem State.updSched_foreign (s : State) (c k : Nat) (f : Sched → Sched) : (s.updSched c k f).foreign = s.foreign := rfl
@[simp] theorem State.updSched_preempting (s : State) (c k : Nat) (f : Sched → Sched) : (s.updSched c k f).preempting = s.preempting := rfl
@[simp] theorem State.updSched_espreHeld (s : State) (c k : Nat) (f : Sched → Sched) : (s.updSched c k f).espreHeld = s.espreHeld := rfl
@[simp] theorem State.updSched_asked (s : State) (c k : Nat) (f : Sched → Sched) : (s.updSched c k f).asked = s.asked := rfl
@[simp] theorem State.updSched_barred (s : State) (c k : Nat) (f : Sched → Sched) : (s.updSched c k f).barred = s.barred := rfl
@[simp] theorem State.updSched_resuming (s : State) (c k : Nat) (f : Sched → Sched) : (s.updSched c k f).resuming = s.resuming := rfl
@[simp] theorem State.updSched_killing (s : State) (c k : Nat) (f : Sched → Sched) : (s.updSched c k f).killing = s.killing := rfl
@[simp] theorem State.updSched_killDone (s : State) (c k : Nat) (f : Sched → Sched) : (s.updSched c k f).killDone = s.killDone := rfl
@[simp] theorem State.updSched_killed (s : State) (c k : Nat) (f : Sched → Sched) : (s.updSched c k f).killed = s.killed := rfl
@[simp] theorem State.updSched_halt (s : State) (c k : Nat) (f : Sched → Sched) : (s.updSched c k f).halt = s.halt := rfl
@[simp] theorem State.updSched_dump (s : State) (c k : Nat) (f : Sched → Sched) : (s.updSched c k f).dump = s.dump := rfl
@[simp] theorem State.updSched_handlers (s : State) (c k : Nat) (f : Sched → Sched) : (s.updSched c k f).handlers = s.handlers := rfl
@[simp] theorem State.updSched_sysEvents (s : State) (c k : Nat) (f : Sched → Sched) : (s.updSched c k f).sysEvents = s.sysEvents := rfl
@[simp] theorem State.updSched_sysOps (s : State) (c k : Nat) (f : Sched → Sched) : (s.updSched c k f).sysOps = s.sysOps := rfl
@[simp] theorem State.updSched_rests (s : State) (c k : Nat) (f : Sched → Sched) : (s.updSched c k f).rests = s.rests := rfl
@[simp] theorem State.updSched_syscalls (s : State) (c k : Nat) (f : Sched → Sched) : (s.updSched c k f).syscalls = s.syscalls := rfl
@[simp] theorem State.updSched_interrupts (s : State) (c k : Nat) (f : Sched → Sched) : (s.updSched c k f).interrupts = s.interrupts := rfl
@[simp] theorem State.updSched_fabricOut (s : State) (c k : Nat) (f : Sched → Sched) : (s.updSched c k f).fabricOut = s.fabricOut := rfl
@[simp] theorem State.updSched_routes (s : State) (c k : Nat) (f : Sched → Sched) : (s.updSched c k f).routes = s.routes := rfl
@[simp] theorem State.updSched_hostOut (s : State) (c k : Nat) (f : Sched → Sched) : (s.updSched c k f).hostOut = s.hostOut := rfl
@[simp] theorem State.updSched_boot (s : State) (c k : Nat) (f : Sched → Sched) : (s.updSched c k f).boot = s.boot := rfl
@[simp] theorem State.updSched_ctxTable (s : State) (c k : Nat) (f : Sched → Sched) : (s.updSched c k f).ctxTable = s.ctxTable := rfl
@[simp] theorem State.updSched_ctxCount (s : State) (c k : Nat) (f : Sched → Sched) : (s.updSched c k f).ctxCount = s.ctxCount := rfl
@[simp] theorem State.updSched_retiredHbm (s : State) (c k : Nat) (f : Sched → Sched) : (s.updSched c k f).retiredHbm = s.retiredHbm := rfl
@[simp] theorem State.updSched_hbmCandidates (s : State) (c k : Nat) (f : Sched → Sched) : (s.updSched c k f).hbmCandidates = s.hbmCandidates := rfl
@[simp] theorem State.updSched_lostPorts (s : State) (c k : Nat) (f : Sched → Sched) : (s.updSched c k f).lostPorts = s.lostPorts := rfl
@[simp] theorem State.updSched_leavingCores (s : State) (c k : Nat) (f : Sched → Sched) : (s.updSched c k f).leavingCores = s.leavingCores := rfl
@[simp] theorem State.updSched_retiredLinks (s : State) (c k : Nat) (f : Sched → Sched) : (s.updSched c k f).retiredLinks = s.retiredLinks := rfl
@[simp] theorem State.updSched_unitErrors (s : State) (c k : Nat) (f : Sched → Sched) : (s.updSched c k f).unitErrors = s.unitErrors := rfl
@[simp] theorem State.updSched_unitFatal (s : State) (c k : Nat) (f : Sched → Sched) : (s.updSched c k f).unitFatal = s.unitFatal := rfl
@[simp] theorem State.updSched_linkErrors (s : State) (c k : Nat) (f : Sched → Sched) : (s.updSched c k f).linkErrors = s.linkErrors := rfl
@[simp] theorem State.updSched_combWait (s : State) (c k : Nat) (f : Sched → Sched) : (s.updSched c k f).combWait = s.combWait := rfl
@[simp] theorem State.updSched_cquota (s : State) (c k : Nat) (f : Sched → Sched) : (s.updSched c k f).cquota = s.cquota := rfl
@[simp] theorem State.updSched_retiredCores (s : State) (c k : Nat) (f : Sched → Sched) : (s.updSched c k f).retiredCores = s.retiredCores := rfl
@[simp] theorem State.updSched_retiredSlices (s : State) (c k : Nat) (f : Sched → Sched) : (s.updSched c k f).retiredSlices = s.retiredSlices := rfl
@[simp] theorem State.updSched_clusterTlb (s : State) (c k : Nat) (f : Sched → Sched) : (s.updSched c k f).clusterTlb = s.clusterTlb := rfl
@[simp] theorem State.updSched_loads (s : State) (c k : Nat) (f : Sched → Sched) : (s.updSched c k f).loads = s.loads := rfl
@[simp] theorem State.updSched_updates (s : State) (c k : Nat) (f : Sched → Sched) : (s.updSched c k f).updates = s.updates := rfl
@[simp] theorem State.updSched_atoms (s : State) (c k : Nat) (f : Sched → Sched) : (s.updSched c k f).atoms = s.atoms := rfl
@[simp] theorem State.updSched_copyOps (s : State) (c k : Nat) (f : Sched → Sched) : (s.updSched c k f).copyOps = s.copyOps := rfl
@[simp] theorem State.updSched_mdecs (s : State) (c k : Nat) (f : Sched → Sched) : (s.updSched c k f).mdecs = s.mdecs := rfl
@[simp] theorem State.updSched_traces (s : State) (c k : Nat) (f : Sched → Sched) : (s.updSched c k f).traces = s.traces := rfl
@[simp] theorem State.updSched_blends (s : State) (c k : Nat) (f : Sched → Sched) : (s.updSched c k f).blends = s.blends := rfl
@[simp] theorem State.updSched_accGroups (s : State) (c k : Nat) (f : Sched → Sched) : (s.updSched c k f).accGroups = s.accGroups := rfl
@[simp] theorem State.updSched_accQueues (s : State) (c k : Nat) (f : Sched → Sched) : (s.updSched c k f).accQueues = s.accQueues := rfl
@[simp] theorem State.updSched_accSeq (s : State) (c k : Nat) (f : Sched → Sched) : (s.updSched c k f).accSeq = s.accSeq := rfl
@[simp] theorem State.updSched_accOut (s : State) (c k : Nat) (f : Sched → Sched) : (s.updSched c k f).accOut = s.accOut := rfl
@[simp] theorem State.updSched_accOps (s : State) (c k : Nat) (f : Sched → Sched) : (s.updSched c k f).accOps = s.accOps := rfl
@[simp] theorem State.updSched_accReplies (s : State) (c k : Nat) (f : Sched → Sched) : (s.updSched c k f).accReplies = s.accReplies := rfl
@[simp] theorem State.updSched_shuffles (s : State) (c k : Nat) (f : Sched → Sched) : (s.updSched c k f).shuffles = s.shuffles := rfl
@[simp] theorem State.updSched_esSlots (s : State) (c k : Nat) (f : Sched → Sched) : (s.updSched c k f).esSlots = s.esSlots := rfl
@[simp] theorem State.updSched_esChans (s : State) (c k : Nat) (f : Sched → Sched) : (s.updSched c k f).esChans = s.esChans := rfl
@[simp] theorem State.updSched_esMsgs (s : State) (c k : Nat) (f : Sched → Sched) : (s.updSched c k f).esMsgs = s.esMsgs := rfl
@[simp] theorem State.updSched_replaceReq (s : State) (c k : Nat) (f : Sched → Sched) : (s.updSched c k f).replaceReq = s.replaceReq := rfl
@[simp] theorem State.updSched_mats (s : State) (c k : Nat) (f : Sched → Sched) : (s.updSched c k f).mats = s.mats := rfl
@[simp] theorem State.updSched_walks (s : State) (c k : Nat) (f : Sched → Sched) : (s.updSched c k f).walks = s.walks := rfl
@[simp] theorem State.updSched_trains (s : State) (c k : Nat) (f : Sched → Sched) : (s.updSched c k f).trains = s.trains := rfl
@[simp] theorem State.updSched_launches (s : State) (c k : Nat) (f : Sched → Sched) : (s.updSched c k f).launches = s.launches := rfl
@[simp] theorem State.updSched_rays (s : State) (c k : Nat) (f : Sched → Sched) : (s.updSched c k f).rays = s.rays := rfl
@[simp] theorem State.updSched_wgs (s : State) (c k : Nat) (f : Sched → Sched) : (s.updSched c k f).wgs = s.wgs := rfl
@[simp] theorem State.updSched_ctxs (s : State) (c k : Nat) (f : Sched → Sched) : (s.updSched c k f).ctxs = s.ctxs := rfl

/-! ### Changing a launch -/

@[simp] theorem State.updLaunch_cycle (s : State) (l : Nat) (f : Launch → Launch) : (s.updLaunch l f).cycle = s.cycle := rfl
@[simp] theorem State.updLaunch_agenda (s : State) (l : Nat) (f : Launch → Launch) : (s.updLaunch l f).agenda = s.agenda := rfl
@[simp] theorem State.updLaunch_cur (s : State) (l : Nat) (f : Launch → Launch) : (s.updLaunch l f).cur = s.cur := rfl
@[simp] theorem State.updLaunch_nextId (s : State) (l : Nat) (f : Launch → Launch) : (s.updLaunch l f).nextId = s.nextId := rfl
@[simp] theorem State.updLaunch_free (s : State) (l : Nat) (f : Launch → Launch) : (s.updLaunch l f).free = s.free := rfl
@[simp] theorem State.updLaunch_mem (s : State) (l : Nat) (f : Launch → Launch) : (s.updLaunch l f).mem = s.mem := rfl
@[simp] theorem State.updLaunch_lines (s : State) (l : Nat) (f : Launch → Launch) : (s.updLaunch l f).lines = s.lines := rfl
@[simp] theorem State.updLaunch_l2 (s : State) (l : Nat) (f : Launch → Launch) : (s.updLaunch l f).l2 = s.l2 := rfl
@[simp] theorem State.updLaunch_bad (s : State) (l : Nat) (f : Launch → Launch) : (s.updLaunch l f).bad = s.bad := rfl
@[simp] theorem State.updLaunch_hbmReady (s : State) (l : Nat) (f : Launch → Launch) : (s.updLaunch l f).hbmReady = s.hbmReady := rfl
@[simp] theorem State.updLaunch_qtable (s : State) (l : Nat) (f : Launch → Launch) : (s.updLaunch l f).qtable = s.qtable := rfl
@[simp] theorem State.updLaunch_cxlpop (s : State) (l : Nat) (f : Launch → Launch) : (s.updLaunch l f).cxlpop = s.cxlpop := rfl
@[simp] theorem State.updLaunch_homewin (s : State) (l : Nat) (f : Launch → Launch) : (s.updLaunch l f).homewin = s.homewin := rfl
@[simp] theorem State.updLaunch_timer (s : State) (l : Nat) (f : Launch → Launch) : (s.updLaunch l f).timer = s.timer := rfl
@[simp] theorem State.updLaunch_qpTs (s : State) (l : Nat) (f : Launch → Launch) : (s.updLaunch l f).qpTs = s.qpTs := rfl
@[simp] theorem State.updLaunch_hostTs (s : State) (l : Nat) (f : Launch → Launch) : (s.updLaunch l f).hostTs = s.hostTs := rfl
@[simp] theorem State.updLaunch_fabTs (s : State) (l : Nat) (f : Launch → Launch) : (s.updLaunch l f).fabTs = s.fabTs := rfl
@[simp] theorem State.updLaunch_widx (s : State) (l : Nat) (f : Launch → Launch) : (s.updLaunch l f).widx = s.widx := rfl
@[simp] theorem State.updLaunch_bells (s : State) (l : Nat) (f : Launch → Launch) : (s.updLaunch l f).bells = s.bells := rfl
@[simp] theorem State.updLaunch_serving (s : State) (l : Nat) (f : Launch → Launch) : (s.updLaunch l f).serving = s.serving := rfl
@[simp] theorem State.updLaunch_packets (s : State) (l : Nat) (f : Launch → Launch) : (s.updLaunch l f).packets = s.packets := rfl
@[simp] theorem State.updLaunch_taskLam (s : State) (l : Nat) (f : Launch → Launch) : (s.updLaunch l f).taskLam = s.taskLam := rfl
@[simp] theorem State.updLaunch_foreign (s : State) (l : Nat) (f : Launch → Launch) : (s.updLaunch l f).foreign = s.foreign := rfl
@[simp] theorem State.updLaunch_preempting (s : State) (l : Nat) (f : Launch → Launch) : (s.updLaunch l f).preempting = s.preempting := rfl
@[simp] theorem State.updLaunch_espreHeld (s : State) (l : Nat) (f : Launch → Launch) : (s.updLaunch l f).espreHeld = s.espreHeld := rfl
@[simp] theorem State.updLaunch_asked (s : State) (l : Nat) (f : Launch → Launch) : (s.updLaunch l f).asked = s.asked := rfl
@[simp] theorem State.updLaunch_barred (s : State) (l : Nat) (f : Launch → Launch) : (s.updLaunch l f).barred = s.barred := rfl
@[simp] theorem State.updLaunch_resuming (s : State) (l : Nat) (f : Launch → Launch) : (s.updLaunch l f).resuming = s.resuming := rfl
@[simp] theorem State.updLaunch_killing (s : State) (l : Nat) (f : Launch → Launch) : (s.updLaunch l f).killing = s.killing := rfl
@[simp] theorem State.updLaunch_killDone (s : State) (l : Nat) (f : Launch → Launch) : (s.updLaunch l f).killDone = s.killDone := rfl
@[simp] theorem State.updLaunch_killed (s : State) (l : Nat) (f : Launch → Launch) : (s.updLaunch l f).killed = s.killed := rfl
@[simp] theorem State.updLaunch_halt (s : State) (l : Nat) (f : Launch → Launch) : (s.updLaunch l f).halt = s.halt := rfl
@[simp] theorem State.updLaunch_dump (s : State) (l : Nat) (f : Launch → Launch) : (s.updLaunch l f).dump = s.dump := rfl
@[simp] theorem State.updLaunch_handlers (s : State) (l : Nat) (f : Launch → Launch) : (s.updLaunch l f).handlers = s.handlers := rfl
@[simp] theorem State.updLaunch_sysEvents (s : State) (l : Nat) (f : Launch → Launch) : (s.updLaunch l f).sysEvents = s.sysEvents := rfl
@[simp] theorem State.updLaunch_sysOps (s : State) (l : Nat) (f : Launch → Launch) : (s.updLaunch l f).sysOps = s.sysOps := rfl
@[simp] theorem State.updLaunch_rests (s : State) (l : Nat) (f : Launch → Launch) : (s.updLaunch l f).rests = s.rests := rfl
@[simp] theorem State.updLaunch_syscalls (s : State) (l : Nat) (f : Launch → Launch) : (s.updLaunch l f).syscalls = s.syscalls := rfl
@[simp] theorem State.updLaunch_interrupts (s : State) (l : Nat) (f : Launch → Launch) : (s.updLaunch l f).interrupts = s.interrupts := rfl
@[simp] theorem State.updLaunch_fabricOut (s : State) (l : Nat) (f : Launch → Launch) : (s.updLaunch l f).fabricOut = s.fabricOut := rfl
@[simp] theorem State.updLaunch_routes (s : State) (l : Nat) (f : Launch → Launch) : (s.updLaunch l f).routes = s.routes := rfl
@[simp] theorem State.updLaunch_hostOut (s : State) (l : Nat) (f : Launch → Launch) : (s.updLaunch l f).hostOut = s.hostOut := rfl
@[simp] theorem State.updLaunch_boot (s : State) (l : Nat) (f : Launch → Launch) : (s.updLaunch l f).boot = s.boot := rfl
@[simp] theorem State.updLaunch_ctxTable (s : State) (l : Nat) (f : Launch → Launch) : (s.updLaunch l f).ctxTable = s.ctxTable := rfl
@[simp] theorem State.updLaunch_ctxCount (s : State) (l : Nat) (f : Launch → Launch) : (s.updLaunch l f).ctxCount = s.ctxCount := rfl
@[simp] theorem State.updLaunch_retiredHbm (s : State) (l : Nat) (f : Launch → Launch) : (s.updLaunch l f).retiredHbm = s.retiredHbm := rfl
@[simp] theorem State.updLaunch_hbmCandidates (s : State) (l : Nat) (f : Launch → Launch) : (s.updLaunch l f).hbmCandidates = s.hbmCandidates := rfl
@[simp] theorem State.updLaunch_lostPorts (s : State) (l : Nat) (f : Launch → Launch) : (s.updLaunch l f).lostPorts = s.lostPorts := rfl
@[simp] theorem State.updLaunch_leavingCores (s : State) (l : Nat) (f : Launch → Launch) : (s.updLaunch l f).leavingCores = s.leavingCores := rfl
@[simp] theorem State.updLaunch_retiredLinks (s : State) (l : Nat) (f : Launch → Launch) : (s.updLaunch l f).retiredLinks = s.retiredLinks := rfl
@[simp] theorem State.updLaunch_unitErrors (s : State) (l : Nat) (f : Launch → Launch) : (s.updLaunch l f).unitErrors = s.unitErrors := rfl
@[simp] theorem State.updLaunch_unitFatal (s : State) (l : Nat) (f : Launch → Launch) : (s.updLaunch l f).unitFatal = s.unitFatal := rfl
@[simp] theorem State.updLaunch_linkErrors (s : State) (l : Nat) (f : Launch → Launch) : (s.updLaunch l f).linkErrors = s.linkErrors := rfl
@[simp] theorem State.updLaunch_combWait (s : State) (l : Nat) (f : Launch → Launch) : (s.updLaunch l f).combWait = s.combWait := rfl
@[simp] theorem State.updLaunch_cquota (s : State) (l : Nat) (f : Launch → Launch) : (s.updLaunch l f).cquota = s.cquota := rfl
@[simp] theorem State.updLaunch_retiredCores (s : State) (l : Nat) (f : Launch → Launch) : (s.updLaunch l f).retiredCores = s.retiredCores := rfl
@[simp] theorem State.updLaunch_retiredSlices (s : State) (l : Nat) (f : Launch → Launch) : (s.updLaunch l f).retiredSlices = s.retiredSlices := rfl
@[simp] theorem State.updLaunch_clusterTlb (s : State) (l : Nat) (f : Launch → Launch) : (s.updLaunch l f).clusterTlb = s.clusterTlb := rfl
@[simp] theorem State.updLaunch_loads (s : State) (l : Nat) (f : Launch → Launch) : (s.updLaunch l f).loads = s.loads := rfl
@[simp] theorem State.updLaunch_updates (s : State) (l : Nat) (f : Launch → Launch) : (s.updLaunch l f).updates = s.updates := rfl
@[simp] theorem State.updLaunch_atoms (s : State) (l : Nat) (f : Launch → Launch) : (s.updLaunch l f).atoms = s.atoms := rfl
@[simp] theorem State.updLaunch_copyOps (s : State) (l : Nat) (f : Launch → Launch) : (s.updLaunch l f).copyOps = s.copyOps := rfl
@[simp] theorem State.updLaunch_mdecs (s : State) (l : Nat) (f : Launch → Launch) : (s.updLaunch l f).mdecs = s.mdecs := rfl
@[simp] theorem State.updLaunch_traces (s : State) (l : Nat) (f : Launch → Launch) : (s.updLaunch l f).traces = s.traces := rfl
@[simp] theorem State.updLaunch_blends (s : State) (l : Nat) (f : Launch → Launch) : (s.updLaunch l f).blends = s.blends := rfl
@[simp] theorem State.updLaunch_accGroups (s : State) (l : Nat) (f : Launch → Launch) : (s.updLaunch l f).accGroups = s.accGroups := rfl
@[simp] theorem State.updLaunch_accQueues (s : State) (l : Nat) (f : Launch → Launch) : (s.updLaunch l f).accQueues = s.accQueues := rfl
@[simp] theorem State.updLaunch_accSeq (s : State) (l : Nat) (f : Launch → Launch) : (s.updLaunch l f).accSeq = s.accSeq := rfl
@[simp] theorem State.updLaunch_accOut (s : State) (l : Nat) (f : Launch → Launch) : (s.updLaunch l f).accOut = s.accOut := rfl
@[simp] theorem State.updLaunch_accOps (s : State) (l : Nat) (f : Launch → Launch) : (s.updLaunch l f).accOps = s.accOps := rfl
@[simp] theorem State.updLaunch_accReplies (s : State) (l : Nat) (f : Launch → Launch) : (s.updLaunch l f).accReplies = s.accReplies := rfl
@[simp] theorem State.updLaunch_shuffles (s : State) (l : Nat) (f : Launch → Launch) : (s.updLaunch l f).shuffles = s.shuffles := rfl
@[simp] theorem State.updLaunch_esSlots (s : State) (l : Nat) (f : Launch → Launch) : (s.updLaunch l f).esSlots = s.esSlots := rfl
@[simp] theorem State.updLaunch_esChans (s : State) (l : Nat) (f : Launch → Launch) : (s.updLaunch l f).esChans = s.esChans := rfl
@[simp] theorem State.updLaunch_esMsgs (s : State) (l : Nat) (f : Launch → Launch) : (s.updLaunch l f).esMsgs = s.esMsgs := rfl
@[simp] theorem State.updLaunch_replaceReq (s : State) (l : Nat) (f : Launch → Launch) : (s.updLaunch l f).replaceReq = s.replaceReq := rfl
@[simp] theorem State.updLaunch_mats (s : State) (l : Nat) (f : Launch → Launch) : (s.updLaunch l f).mats = s.mats := rfl
@[simp] theorem State.updLaunch_walks (s : State) (l : Nat) (f : Launch → Launch) : (s.updLaunch l f).walks = s.walks := rfl
@[simp] theorem State.updLaunch_trains (s : State) (l : Nat) (f : Launch → Launch) : (s.updLaunch l f).trains = s.trains := rfl
@[simp] theorem State.updLaunch_cores (s : State) (l : Nat) (f : Launch → Launch) : (s.updLaunch l f).cores = s.cores := rfl
@[simp] theorem State.updLaunch_rays (s : State) (l : Nat) (f : Launch → Launch) : (s.updLaunch l f).rays = s.rays := rfl
@[simp] theorem State.updLaunch_wgs (s : State) (l : Nat) (f : Launch → Launch) : (s.updLaunch l f).wgs = s.wgs := rfl
@[simp] theorem State.updLaunch_ctxs (s : State) (l : Nat) (f : Launch → Launch) : (s.updLaunch l f).ctxs = s.ctxs := rfl

/-! ### Changing a workgroup -/

@[simp] theorem State.updWg_cycle (s : State) (w : Nat) (f : Workgroup → Workgroup) : (s.updWg w f).cycle = s.cycle := rfl
@[simp] theorem State.updWg_agenda (s : State) (w : Nat) (f : Workgroup → Workgroup) : (s.updWg w f).agenda = s.agenda := rfl
@[simp] theorem State.updWg_cur (s : State) (w : Nat) (f : Workgroup → Workgroup) : (s.updWg w f).cur = s.cur := rfl
@[simp] theorem State.updWg_nextId (s : State) (w : Nat) (f : Workgroup → Workgroup) : (s.updWg w f).nextId = s.nextId := rfl
@[simp] theorem State.updWg_free (s : State) (w : Nat) (f : Workgroup → Workgroup) : (s.updWg w f).free = s.free := rfl
@[simp] theorem State.updWg_mem (s : State) (w : Nat) (f : Workgroup → Workgroup) : (s.updWg w f).mem = s.mem := rfl
@[simp] theorem State.updWg_lines (s : State) (w : Nat) (f : Workgroup → Workgroup) : (s.updWg w f).lines = s.lines := rfl
@[simp] theorem State.updWg_l2 (s : State) (w : Nat) (f : Workgroup → Workgroup) : (s.updWg w f).l2 = s.l2 := rfl
@[simp] theorem State.updWg_bad (s : State) (w : Nat) (f : Workgroup → Workgroup) : (s.updWg w f).bad = s.bad := rfl
@[simp] theorem State.updWg_hbmReady (s : State) (w : Nat) (f : Workgroup → Workgroup) : (s.updWg w f).hbmReady = s.hbmReady := rfl
@[simp] theorem State.updWg_qtable (s : State) (w : Nat) (f : Workgroup → Workgroup) : (s.updWg w f).qtable = s.qtable := rfl
@[simp] theorem State.updWg_cxlpop (s : State) (w : Nat) (f : Workgroup → Workgroup) : (s.updWg w f).cxlpop = s.cxlpop := rfl
@[simp] theorem State.updWg_homewin (s : State) (w : Nat) (f : Workgroup → Workgroup) : (s.updWg w f).homewin = s.homewin := rfl
@[simp] theorem State.updWg_timer (s : State) (w : Nat) (f : Workgroup → Workgroup) : (s.updWg w f).timer = s.timer := rfl
@[simp] theorem State.updWg_qpTs (s : State) (w : Nat) (f : Workgroup → Workgroup) : (s.updWg w f).qpTs = s.qpTs := rfl
@[simp] theorem State.updWg_hostTs (s : State) (w : Nat) (f : Workgroup → Workgroup) : (s.updWg w f).hostTs = s.hostTs := rfl
@[simp] theorem State.updWg_fabTs (s : State) (w : Nat) (f : Workgroup → Workgroup) : (s.updWg w f).fabTs = s.fabTs := rfl
@[simp] theorem State.updWg_widx (s : State) (w : Nat) (f : Workgroup → Workgroup) : (s.updWg w f).widx = s.widx := rfl
@[simp] theorem State.updWg_bells (s : State) (w : Nat) (f : Workgroup → Workgroup) : (s.updWg w f).bells = s.bells := rfl
@[simp] theorem State.updWg_serving (s : State) (w : Nat) (f : Workgroup → Workgroup) : (s.updWg w f).serving = s.serving := rfl
@[simp] theorem State.updWg_packets (s : State) (w : Nat) (f : Workgroup → Workgroup) : (s.updWg w f).packets = s.packets := rfl
@[simp] theorem State.updWg_taskLam (s : State) (w : Nat) (f : Workgroup → Workgroup) : (s.updWg w f).taskLam = s.taskLam := rfl
@[simp] theorem State.updWg_foreign (s : State) (w : Nat) (f : Workgroup → Workgroup) : (s.updWg w f).foreign = s.foreign := rfl
@[simp] theorem State.updWg_preempting (s : State) (w : Nat) (f : Workgroup → Workgroup) : (s.updWg w f).preempting = s.preempting := rfl
@[simp] theorem State.updWg_espreHeld (s : State) (w : Nat) (f : Workgroup → Workgroup) : (s.updWg w f).espreHeld = s.espreHeld := rfl
@[simp] theorem State.updWg_asked (s : State) (w : Nat) (f : Workgroup → Workgroup) : (s.updWg w f).asked = s.asked := rfl
@[simp] theorem State.updWg_barred (s : State) (w : Nat) (f : Workgroup → Workgroup) : (s.updWg w f).barred = s.barred := rfl
@[simp] theorem State.updWg_resuming (s : State) (w : Nat) (f : Workgroup → Workgroup) : (s.updWg w f).resuming = s.resuming := rfl
@[simp] theorem State.updWg_killing (s : State) (w : Nat) (f : Workgroup → Workgroup) : (s.updWg w f).killing = s.killing := rfl
@[simp] theorem State.updWg_killDone (s : State) (w : Nat) (f : Workgroup → Workgroup) : (s.updWg w f).killDone = s.killDone := rfl
@[simp] theorem State.updWg_killed (s : State) (w : Nat) (f : Workgroup → Workgroup) : (s.updWg w f).killed = s.killed := rfl
@[simp] theorem State.updWg_halt (s : State) (w : Nat) (f : Workgroup → Workgroup) : (s.updWg w f).halt = s.halt := rfl
@[simp] theorem State.updWg_dump (s : State) (w : Nat) (f : Workgroup → Workgroup) : (s.updWg w f).dump = s.dump := rfl
@[simp] theorem State.updWg_handlers (s : State) (w : Nat) (f : Workgroup → Workgroup) : (s.updWg w f).handlers = s.handlers := rfl
@[simp] theorem State.updWg_sysEvents (s : State) (w : Nat) (f : Workgroup → Workgroup) : (s.updWg w f).sysEvents = s.sysEvents := rfl
@[simp] theorem State.updWg_sysOps (s : State) (w : Nat) (f : Workgroup → Workgroup) : (s.updWg w f).sysOps = s.sysOps := rfl
@[simp] theorem State.updWg_rests (s : State) (w : Nat) (f : Workgroup → Workgroup) : (s.updWg w f).rests = s.rests := rfl
@[simp] theorem State.updWg_syscalls (s : State) (w : Nat) (f : Workgroup → Workgroup) : (s.updWg w f).syscalls = s.syscalls := rfl
@[simp] theorem State.updWg_interrupts (s : State) (w : Nat) (f : Workgroup → Workgroup) : (s.updWg w f).interrupts = s.interrupts := rfl
@[simp] theorem State.updWg_fabricOut (s : State) (w : Nat) (f : Workgroup → Workgroup) : (s.updWg w f).fabricOut = s.fabricOut := rfl
@[simp] theorem State.updWg_routes (s : State) (w : Nat) (f : Workgroup → Workgroup) : (s.updWg w f).routes = s.routes := rfl
@[simp] theorem State.updWg_hostOut (s : State) (w : Nat) (f : Workgroup → Workgroup) : (s.updWg w f).hostOut = s.hostOut := rfl
@[simp] theorem State.updWg_boot (s : State) (w : Nat) (f : Workgroup → Workgroup) : (s.updWg w f).boot = s.boot := rfl
@[simp] theorem State.updWg_ctxTable (s : State) (w : Nat) (f : Workgroup → Workgroup) : (s.updWg w f).ctxTable = s.ctxTable := rfl
@[simp] theorem State.updWg_ctxCount (s : State) (w : Nat) (f : Workgroup → Workgroup) : (s.updWg w f).ctxCount = s.ctxCount := rfl
@[simp] theorem State.updWg_retiredHbm (s : State) (w : Nat) (f : Workgroup → Workgroup) : (s.updWg w f).retiredHbm = s.retiredHbm := rfl
@[simp] theorem State.updWg_hbmCandidates (s : State) (w : Nat) (f : Workgroup → Workgroup) : (s.updWg w f).hbmCandidates = s.hbmCandidates := rfl
@[simp] theorem State.updWg_lostPorts (s : State) (w : Nat) (f : Workgroup → Workgroup) : (s.updWg w f).lostPorts = s.lostPorts := rfl
@[simp] theorem State.updWg_leavingCores (s : State) (w : Nat) (f : Workgroup → Workgroup) : (s.updWg w f).leavingCores = s.leavingCores := rfl
@[simp] theorem State.updWg_retiredLinks (s : State) (w : Nat) (f : Workgroup → Workgroup) : (s.updWg w f).retiredLinks = s.retiredLinks := rfl
@[simp] theorem State.updWg_unitErrors (s : State) (w : Nat) (f : Workgroup → Workgroup) : (s.updWg w f).unitErrors = s.unitErrors := rfl
@[simp] theorem State.updWg_unitFatal (s : State) (w : Nat) (f : Workgroup → Workgroup) : (s.updWg w f).unitFatal = s.unitFatal := rfl
@[simp] theorem State.updWg_linkErrors (s : State) (w : Nat) (f : Workgroup → Workgroup) : (s.updWg w f).linkErrors = s.linkErrors := rfl
@[simp] theorem State.updWg_combWait (s : State) (w : Nat) (f : Workgroup → Workgroup) : (s.updWg w f).combWait = s.combWait := rfl
@[simp] theorem State.updWg_cquota (s : State) (w : Nat) (f : Workgroup → Workgroup) : (s.updWg w f).cquota = s.cquota := rfl
@[simp] theorem State.updWg_retiredCores (s : State) (w : Nat) (f : Workgroup → Workgroup) : (s.updWg w f).retiredCores = s.retiredCores := rfl
@[simp] theorem State.updWg_retiredSlices (s : State) (w : Nat) (f : Workgroup → Workgroup) : (s.updWg w f).retiredSlices = s.retiredSlices := rfl
@[simp] theorem State.updWg_clusterTlb (s : State) (w : Nat) (f : Workgroup → Workgroup) : (s.updWg w f).clusterTlb = s.clusterTlb := rfl
@[simp] theorem State.updWg_loads (s : State) (w : Nat) (f : Workgroup → Workgroup) : (s.updWg w f).loads = s.loads := rfl
@[simp] theorem State.updWg_updates (s : State) (w : Nat) (f : Workgroup → Workgroup) : (s.updWg w f).updates = s.updates := rfl
@[simp] theorem State.updWg_atoms (s : State) (w : Nat) (f : Workgroup → Workgroup) : (s.updWg w f).atoms = s.atoms := rfl
@[simp] theorem State.updWg_copyOps (s : State) (w : Nat) (f : Workgroup → Workgroup) : (s.updWg w f).copyOps = s.copyOps := rfl
@[simp] theorem State.updWg_mdecs (s : State) (w : Nat) (f : Workgroup → Workgroup) : (s.updWg w f).mdecs = s.mdecs := rfl
@[simp] theorem State.updWg_traces (s : State) (w : Nat) (f : Workgroup → Workgroup) : (s.updWg w f).traces = s.traces := rfl
@[simp] theorem State.updWg_blends (s : State) (w : Nat) (f : Workgroup → Workgroup) : (s.updWg w f).blends = s.blends := rfl
@[simp] theorem State.updWg_accGroups (s : State) (w : Nat) (f : Workgroup → Workgroup) : (s.updWg w f).accGroups = s.accGroups := rfl
@[simp] theorem State.updWg_accQueues (s : State) (w : Nat) (f : Workgroup → Workgroup) : (s.updWg w f).accQueues = s.accQueues := rfl
@[simp] theorem State.updWg_accSeq (s : State) (w : Nat) (f : Workgroup → Workgroup) : (s.updWg w f).accSeq = s.accSeq := rfl
@[simp] theorem State.updWg_accOut (s : State) (w : Nat) (f : Workgroup → Workgroup) : (s.updWg w f).accOut = s.accOut := rfl
@[simp] theorem State.updWg_accOps (s : State) (w : Nat) (f : Workgroup → Workgroup) : (s.updWg w f).accOps = s.accOps := rfl
@[simp] theorem State.updWg_accReplies (s : State) (w : Nat) (f : Workgroup → Workgroup) : (s.updWg w f).accReplies = s.accReplies := rfl
@[simp] theorem State.updWg_shuffles (s : State) (w : Nat) (f : Workgroup → Workgroup) : (s.updWg w f).shuffles = s.shuffles := rfl
@[simp] theorem State.updWg_esSlots (s : State) (w : Nat) (f : Workgroup → Workgroup) : (s.updWg w f).esSlots = s.esSlots := rfl
@[simp] theorem State.updWg_esChans (s : State) (w : Nat) (f : Workgroup → Workgroup) : (s.updWg w f).esChans = s.esChans := rfl
@[simp] theorem State.updWg_esMsgs (s : State) (w : Nat) (f : Workgroup → Workgroup) : (s.updWg w f).esMsgs = s.esMsgs := rfl
@[simp] theorem State.updWg_replaceReq (s : State) (w : Nat) (f : Workgroup → Workgroup) : (s.updWg w f).replaceReq = s.replaceReq := rfl
@[simp] theorem State.updWg_mats (s : State) (w : Nat) (f : Workgroup → Workgroup) : (s.updWg w f).mats = s.mats := rfl
@[simp] theorem State.updWg_walks (s : State) (w : Nat) (f : Workgroup → Workgroup) : (s.updWg w f).walks = s.walks := rfl
@[simp] theorem State.updWg_trains (s : State) (w : Nat) (f : Workgroup → Workgroup) : (s.updWg w f).trains = s.trains := rfl
@[simp] theorem State.updWg_cores (s : State) (w : Nat) (f : Workgroup → Workgroup) : (s.updWg w f).cores = s.cores := rfl
@[simp] theorem State.updWg_launches (s : State) (w : Nat) (f : Workgroup → Workgroup) : (s.updWg w f).launches = s.launches := rfl
@[simp] theorem State.updWg_rays (s : State) (w : Nat) (f : Workgroup → Workgroup) : (s.updWg w f).rays = s.rays := rfl
@[simp] theorem State.updWg_ctxs (s : State) (w : Nat) (f : Workgroup → Workgroup) : (s.updWg w f).ctxs = s.ctxs := rfl

/-! ### Changing a context -/

@[simp] theorem State.updCtx_cycle (s : State) (c : Nat) (f : Ctx → Ctx) : (s.updCtx c f).cycle = s.cycle := rfl
@[simp] theorem State.updCtx_agenda (s : State) (c : Nat) (f : Ctx → Ctx) : (s.updCtx c f).agenda = s.agenda := rfl
@[simp] theorem State.updCtx_cur (s : State) (c : Nat) (f : Ctx → Ctx) : (s.updCtx c f).cur = s.cur := rfl
@[simp] theorem State.updCtx_nextId (s : State) (c : Nat) (f : Ctx → Ctx) : (s.updCtx c f).nextId = s.nextId := rfl
@[simp] theorem State.updCtx_free (s : State) (c : Nat) (f : Ctx → Ctx) : (s.updCtx c f).free = s.free := rfl
@[simp] theorem State.updCtx_mem (s : State) (c : Nat) (f : Ctx → Ctx) : (s.updCtx c f).mem = s.mem := rfl
@[simp] theorem State.updCtx_lines (s : State) (c : Nat) (f : Ctx → Ctx) : (s.updCtx c f).lines = s.lines := rfl
@[simp] theorem State.updCtx_l2 (s : State) (c : Nat) (f : Ctx → Ctx) : (s.updCtx c f).l2 = s.l2 := rfl
@[simp] theorem State.updCtx_bad (s : State) (c : Nat) (f : Ctx → Ctx) : (s.updCtx c f).bad = s.bad := rfl
@[simp] theorem State.updCtx_hbmReady (s : State) (c : Nat) (f : Ctx → Ctx) : (s.updCtx c f).hbmReady = s.hbmReady := rfl
@[simp] theorem State.updCtx_qtable (s : State) (c : Nat) (f : Ctx → Ctx) : (s.updCtx c f).qtable = s.qtable := rfl
@[simp] theorem State.updCtx_cxlpop (s : State) (c : Nat) (f : Ctx → Ctx) : (s.updCtx c f).cxlpop = s.cxlpop := rfl
@[simp] theorem State.updCtx_homewin (s : State) (c : Nat) (f : Ctx → Ctx) : (s.updCtx c f).homewin = s.homewin := rfl
@[simp] theorem State.updCtx_timer (s : State) (c : Nat) (f : Ctx → Ctx) : (s.updCtx c f).timer = s.timer := rfl
@[simp] theorem State.updCtx_qpTs (s : State) (c : Nat) (f : Ctx → Ctx) : (s.updCtx c f).qpTs = s.qpTs := rfl
@[simp] theorem State.updCtx_hostTs (s : State) (c : Nat) (f : Ctx → Ctx) : (s.updCtx c f).hostTs = s.hostTs := rfl
@[simp] theorem State.updCtx_fabTs (s : State) (c : Nat) (f : Ctx → Ctx) : (s.updCtx c f).fabTs = s.fabTs := rfl
@[simp] theorem State.updCtx_widx (s : State) (c : Nat) (f : Ctx → Ctx) : (s.updCtx c f).widx = s.widx := rfl
@[simp] theorem State.updCtx_bells (s : State) (c : Nat) (f : Ctx → Ctx) : (s.updCtx c f).bells = s.bells := rfl
@[simp] theorem State.updCtx_serving (s : State) (c : Nat) (f : Ctx → Ctx) : (s.updCtx c f).serving = s.serving := rfl
@[simp] theorem State.updCtx_packets (s : State) (c : Nat) (f : Ctx → Ctx) : (s.updCtx c f).packets = s.packets := rfl
@[simp] theorem State.updCtx_taskLam (s : State) (c : Nat) (f : Ctx → Ctx) : (s.updCtx c f).taskLam = s.taskLam := rfl
@[simp] theorem State.updCtx_foreign (s : State) (c : Nat) (f : Ctx → Ctx) : (s.updCtx c f).foreign = s.foreign := rfl
@[simp] theorem State.updCtx_preempting (s : State) (c : Nat) (f : Ctx → Ctx) : (s.updCtx c f).preempting = s.preempting := rfl
@[simp] theorem State.updCtx_espreHeld (s : State) (c : Nat) (f : Ctx → Ctx) : (s.updCtx c f).espreHeld = s.espreHeld := rfl
@[simp] theorem State.updCtx_asked (s : State) (c : Nat) (f : Ctx → Ctx) : (s.updCtx c f).asked = s.asked := rfl
@[simp] theorem State.updCtx_barred (s : State) (c : Nat) (f : Ctx → Ctx) : (s.updCtx c f).barred = s.barred := rfl
@[simp] theorem State.updCtx_resuming (s : State) (c : Nat) (f : Ctx → Ctx) : (s.updCtx c f).resuming = s.resuming := rfl
@[simp] theorem State.updCtx_killing (s : State) (c : Nat) (f : Ctx → Ctx) : (s.updCtx c f).killing = s.killing := rfl
@[simp] theorem State.updCtx_killDone (s : State) (c : Nat) (f : Ctx → Ctx) : (s.updCtx c f).killDone = s.killDone := rfl
@[simp] theorem State.updCtx_killed (s : State) (c : Nat) (f : Ctx → Ctx) : (s.updCtx c f).killed = s.killed := rfl
@[simp] theorem State.updCtx_halt (s : State) (c : Nat) (f : Ctx → Ctx) : (s.updCtx c f).halt = s.halt := rfl
@[simp] theorem State.updCtx_dump (s : State) (c : Nat) (f : Ctx → Ctx) : (s.updCtx c f).dump = s.dump := rfl
@[simp] theorem State.updCtx_handlers (s : State) (c : Nat) (f : Ctx → Ctx) : (s.updCtx c f).handlers = s.handlers := rfl
@[simp] theorem State.updCtx_sysEvents (s : State) (c : Nat) (f : Ctx → Ctx) : (s.updCtx c f).sysEvents = s.sysEvents := rfl
@[simp] theorem State.updCtx_sysOps (s : State) (c : Nat) (f : Ctx → Ctx) : (s.updCtx c f).sysOps = s.sysOps := rfl
@[simp] theorem State.updCtx_rests (s : State) (c : Nat) (f : Ctx → Ctx) : (s.updCtx c f).rests = s.rests := rfl
@[simp] theorem State.updCtx_syscalls (s : State) (c : Nat) (f : Ctx → Ctx) : (s.updCtx c f).syscalls = s.syscalls := rfl
@[simp] theorem State.updCtx_interrupts (s : State) (c : Nat) (f : Ctx → Ctx) : (s.updCtx c f).interrupts = s.interrupts := rfl
@[simp] theorem State.updCtx_fabricOut (s : State) (c : Nat) (f : Ctx → Ctx) : (s.updCtx c f).fabricOut = s.fabricOut := rfl
@[simp] theorem State.updCtx_routes (s : State) (c : Nat) (f : Ctx → Ctx) : (s.updCtx c f).routes = s.routes := rfl
@[simp] theorem State.updCtx_hostOut (s : State) (c : Nat) (f : Ctx → Ctx) : (s.updCtx c f).hostOut = s.hostOut := rfl
@[simp] theorem State.updCtx_boot (s : State) (c : Nat) (f : Ctx → Ctx) : (s.updCtx c f).boot = s.boot := rfl
@[simp] theorem State.updCtx_ctxTable (s : State) (c : Nat) (f : Ctx → Ctx) : (s.updCtx c f).ctxTable = s.ctxTable := rfl
@[simp] theorem State.updCtx_ctxCount (s : State) (c : Nat) (f : Ctx → Ctx) : (s.updCtx c f).ctxCount = s.ctxCount := rfl
@[simp] theorem State.updCtx_retiredHbm (s : State) (c : Nat) (f : Ctx → Ctx) : (s.updCtx c f).retiredHbm = s.retiredHbm := rfl
@[simp] theorem State.updCtx_hbmCandidates (s : State) (c : Nat) (f : Ctx → Ctx) : (s.updCtx c f).hbmCandidates = s.hbmCandidates := rfl
@[simp] theorem State.updCtx_lostPorts (s : State) (c : Nat) (f : Ctx → Ctx) : (s.updCtx c f).lostPorts = s.lostPorts := rfl
@[simp] theorem State.updCtx_leavingCores (s : State) (c : Nat) (f : Ctx → Ctx) : (s.updCtx c f).leavingCores = s.leavingCores := rfl
@[simp] theorem State.updCtx_retiredLinks (s : State) (c : Nat) (f : Ctx → Ctx) : (s.updCtx c f).retiredLinks = s.retiredLinks := rfl
@[simp] theorem State.updCtx_unitErrors (s : State) (c : Nat) (f : Ctx → Ctx) : (s.updCtx c f).unitErrors = s.unitErrors := rfl
@[simp] theorem State.updCtx_unitFatal (s : State) (c : Nat) (f : Ctx → Ctx) : (s.updCtx c f).unitFatal = s.unitFatal := rfl
@[simp] theorem State.updCtx_linkErrors (s : State) (c : Nat) (f : Ctx → Ctx) : (s.updCtx c f).linkErrors = s.linkErrors := rfl
@[simp] theorem State.updCtx_combWait (s : State) (c : Nat) (f : Ctx → Ctx) : (s.updCtx c f).combWait = s.combWait := rfl
@[simp] theorem State.updCtx_cquota (s : State) (c : Nat) (f : Ctx → Ctx) : (s.updCtx c f).cquota = s.cquota := rfl
@[simp] theorem State.updCtx_retiredCores (s : State) (c : Nat) (f : Ctx → Ctx) : (s.updCtx c f).retiredCores = s.retiredCores := rfl
@[simp] theorem State.updCtx_retiredSlices (s : State) (c : Nat) (f : Ctx → Ctx) : (s.updCtx c f).retiredSlices = s.retiredSlices := rfl
@[simp] theorem State.updCtx_clusterTlb (s : State) (c : Nat) (f : Ctx → Ctx) : (s.updCtx c f).clusterTlb = s.clusterTlb := rfl
@[simp] theorem State.updCtx_loads (s : State) (c : Nat) (f : Ctx → Ctx) : (s.updCtx c f).loads = s.loads := rfl
@[simp] theorem State.updCtx_updates (s : State) (c : Nat) (f : Ctx → Ctx) : (s.updCtx c f).updates = s.updates := rfl
@[simp] theorem State.updCtx_atoms (s : State) (c : Nat) (f : Ctx → Ctx) : (s.updCtx c f).atoms = s.atoms := rfl
@[simp] theorem State.updCtx_copyOps (s : State) (c : Nat) (f : Ctx → Ctx) : (s.updCtx c f).copyOps = s.copyOps := rfl
@[simp] theorem State.updCtx_mdecs (s : State) (c : Nat) (f : Ctx → Ctx) : (s.updCtx c f).mdecs = s.mdecs := rfl
@[simp] theorem State.updCtx_traces (s : State) (c : Nat) (f : Ctx → Ctx) : (s.updCtx c f).traces = s.traces := rfl
@[simp] theorem State.updCtx_blends (s : State) (c : Nat) (f : Ctx → Ctx) : (s.updCtx c f).blends = s.blends := rfl
@[simp] theorem State.updCtx_accGroups (s : State) (c : Nat) (f : Ctx → Ctx) : (s.updCtx c f).accGroups = s.accGroups := rfl
@[simp] theorem State.updCtx_accQueues (s : State) (c : Nat) (f : Ctx → Ctx) : (s.updCtx c f).accQueues = s.accQueues := rfl
@[simp] theorem State.updCtx_accSeq (s : State) (c : Nat) (f : Ctx → Ctx) : (s.updCtx c f).accSeq = s.accSeq := rfl
@[simp] theorem State.updCtx_accOut (s : State) (c : Nat) (f : Ctx → Ctx) : (s.updCtx c f).accOut = s.accOut := rfl
@[simp] theorem State.updCtx_accOps (s : State) (c : Nat) (f : Ctx → Ctx) : (s.updCtx c f).accOps = s.accOps := rfl
@[simp] theorem State.updCtx_accReplies (s : State) (c : Nat) (f : Ctx → Ctx) : (s.updCtx c f).accReplies = s.accReplies := rfl
@[simp] theorem State.updCtx_shuffles (s : State) (c : Nat) (f : Ctx → Ctx) : (s.updCtx c f).shuffles = s.shuffles := rfl
@[simp] theorem State.updCtx_esSlots (s : State) (c : Nat) (f : Ctx → Ctx) : (s.updCtx c f).esSlots = s.esSlots := rfl
@[simp] theorem State.updCtx_esChans (s : State) (c : Nat) (f : Ctx → Ctx) : (s.updCtx c f).esChans = s.esChans := rfl
@[simp] theorem State.updCtx_esMsgs (s : State) (c : Nat) (f : Ctx → Ctx) : (s.updCtx c f).esMsgs = s.esMsgs := rfl
@[simp] theorem State.updCtx_replaceReq (s : State) (c : Nat) (f : Ctx → Ctx) : (s.updCtx c f).replaceReq = s.replaceReq := rfl
@[simp] theorem State.updCtx_mats (s : State) (c : Nat) (f : Ctx → Ctx) : (s.updCtx c f).mats = s.mats := rfl
@[simp] theorem State.updCtx_walks (s : State) (c : Nat) (f : Ctx → Ctx) : (s.updCtx c f).walks = s.walks := rfl
@[simp] theorem State.updCtx_trains (s : State) (c : Nat) (f : Ctx → Ctx) : (s.updCtx c f).trains = s.trains := rfl
@[simp] theorem State.updCtx_cores (s : State) (c : Nat) (f : Ctx → Ctx) : (s.updCtx c f).cores = s.cores := rfl
@[simp] theorem State.updCtx_launches (s : State) (c : Nat) (f : Ctx → Ctx) : (s.updCtx c f).launches = s.launches := rfl
@[simp] theorem State.updCtx_rays (s : State) (c : Nat) (f : Ctx → Ctx) : (s.updCtx c f).rays = s.rays := rfl
@[simp] theorem State.updCtx_wgs (s : State) (c : Nat) (f : Ctx → Ctx) : (s.updCtx c f).wgs = s.wgs := rfl

/-! ### Changing the issuing split -/

@[simp] theorem State.updSplit_cycle (s : State) (me : Me) (f : Split → Split) : (s.updSplit me f).cycle = s.cycle := rfl
@[simp] theorem State.updSplit_agenda (s : State) (me : Me) (f : Split → Split) : (s.updSplit me f).agenda = s.agenda := rfl
@[simp] theorem State.updSplit_cur (s : State) (me : Me) (f : Split → Split) : (s.updSplit me f).cur = s.cur := rfl
@[simp] theorem State.updSplit_nextId (s : State) (me : Me) (f : Split → Split) : (s.updSplit me f).nextId = s.nextId := rfl
@[simp] theorem State.updSplit_free (s : State) (me : Me) (f : Split → Split) : (s.updSplit me f).free = s.free := rfl
@[simp] theorem State.updSplit_mem (s : State) (me : Me) (f : Split → Split) : (s.updSplit me f).mem = s.mem := rfl
@[simp] theorem State.updSplit_lines (s : State) (me : Me) (f : Split → Split) : (s.updSplit me f).lines = s.lines := rfl
@[simp] theorem State.updSplit_l2 (s : State) (me : Me) (f : Split → Split) : (s.updSplit me f).l2 = s.l2 := rfl
@[simp] theorem State.updSplit_bad (s : State) (me : Me) (f : Split → Split) : (s.updSplit me f).bad = s.bad := rfl
@[simp] theorem State.updSplit_hbmReady (s : State) (me : Me) (f : Split → Split) : (s.updSplit me f).hbmReady = s.hbmReady := rfl
@[simp] theorem State.updSplit_qtable (s : State) (me : Me) (f : Split → Split) : (s.updSplit me f).qtable = s.qtable := rfl
@[simp] theorem State.updSplit_cxlpop (s : State) (me : Me) (f : Split → Split) : (s.updSplit me f).cxlpop = s.cxlpop := rfl
@[simp] theorem State.updSplit_homewin (s : State) (me : Me) (f : Split → Split) : (s.updSplit me f).homewin = s.homewin := rfl
@[simp] theorem State.updSplit_timer (s : State) (me : Me) (f : Split → Split) : (s.updSplit me f).timer = s.timer := rfl
@[simp] theorem State.updSplit_qpTs (s : State) (me : Me) (f : Split → Split) : (s.updSplit me f).qpTs = s.qpTs := rfl
@[simp] theorem State.updSplit_hostTs (s : State) (me : Me) (f : Split → Split) : (s.updSplit me f).hostTs = s.hostTs := rfl
@[simp] theorem State.updSplit_fabTs (s : State) (me : Me) (f : Split → Split) : (s.updSplit me f).fabTs = s.fabTs := rfl
@[simp] theorem State.updSplit_widx (s : State) (me : Me) (f : Split → Split) : (s.updSplit me f).widx = s.widx := rfl
@[simp] theorem State.updSplit_bells (s : State) (me : Me) (f : Split → Split) : (s.updSplit me f).bells = s.bells := rfl
@[simp] theorem State.updSplit_serving (s : State) (me : Me) (f : Split → Split) : (s.updSplit me f).serving = s.serving := rfl
@[simp] theorem State.updSplit_packets (s : State) (me : Me) (f : Split → Split) : (s.updSplit me f).packets = s.packets := rfl
@[simp] theorem State.updSplit_taskLam (s : State) (me : Me) (f : Split → Split) : (s.updSplit me f).taskLam = s.taskLam := rfl
@[simp] theorem State.updSplit_foreign (s : State) (me : Me) (f : Split → Split) : (s.updSplit me f).foreign = s.foreign := rfl
@[simp] theorem State.updSplit_preempting (s : State) (me : Me) (f : Split → Split) : (s.updSplit me f).preempting = s.preempting := rfl
@[simp] theorem State.updSplit_espreHeld (s : State) (me : Me) (f : Split → Split) : (s.updSplit me f).espreHeld = s.espreHeld := rfl
@[simp] theorem State.updSplit_asked (s : State) (me : Me) (f : Split → Split) : (s.updSplit me f).asked = s.asked := rfl
@[simp] theorem State.updSplit_barred (s : State) (me : Me) (f : Split → Split) : (s.updSplit me f).barred = s.barred := rfl
@[simp] theorem State.updSplit_resuming (s : State) (me : Me) (f : Split → Split) : (s.updSplit me f).resuming = s.resuming := rfl
@[simp] theorem State.updSplit_killing (s : State) (me : Me) (f : Split → Split) : (s.updSplit me f).killing = s.killing := rfl
@[simp] theorem State.updSplit_killDone (s : State) (me : Me) (f : Split → Split) : (s.updSplit me f).killDone = s.killDone := rfl
@[simp] theorem State.updSplit_killed (s : State) (me : Me) (f : Split → Split) : (s.updSplit me f).killed = s.killed := rfl
@[simp] theorem State.updSplit_halt (s : State) (me : Me) (f : Split → Split) : (s.updSplit me f).halt = s.halt := rfl
@[simp] theorem State.updSplit_dump (s : State) (me : Me) (f : Split → Split) : (s.updSplit me f).dump = s.dump := rfl
@[simp] theorem State.updSplit_handlers (s : State) (me : Me) (f : Split → Split) : (s.updSplit me f).handlers = s.handlers := rfl
@[simp] theorem State.updSplit_sysEvents (s : State) (me : Me) (f : Split → Split) : (s.updSplit me f).sysEvents = s.sysEvents := rfl
@[simp] theorem State.updSplit_sysOps (s : State) (me : Me) (f : Split → Split) : (s.updSplit me f).sysOps = s.sysOps := rfl
@[simp] theorem State.updSplit_rests (s : State) (me : Me) (f : Split → Split) : (s.updSplit me f).rests = s.rests := rfl
@[simp] theorem State.updSplit_syscalls (s : State) (me : Me) (f : Split → Split) : (s.updSplit me f).syscalls = s.syscalls := rfl
@[simp] theorem State.updSplit_interrupts (s : State) (me : Me) (f : Split → Split) : (s.updSplit me f).interrupts = s.interrupts := rfl
@[simp] theorem State.updSplit_fabricOut (s : State) (me : Me) (f : Split → Split) : (s.updSplit me f).fabricOut = s.fabricOut := rfl
@[simp] theorem State.updSplit_routes (s : State) (me : Me) (f : Split → Split) : (s.updSplit me f).routes = s.routes := rfl
@[simp] theorem State.updSplit_hostOut (s : State) (me : Me) (f : Split → Split) : (s.updSplit me f).hostOut = s.hostOut := rfl
@[simp] theorem State.updSplit_boot (s : State) (me : Me) (f : Split → Split) : (s.updSplit me f).boot = s.boot := rfl
@[simp] theorem State.updSplit_ctxTable (s : State) (me : Me) (f : Split → Split) : (s.updSplit me f).ctxTable = s.ctxTable := rfl
@[simp] theorem State.updSplit_ctxCount (s : State) (me : Me) (f : Split → Split) : (s.updSplit me f).ctxCount = s.ctxCount := rfl
@[simp] theorem State.updSplit_retiredHbm (s : State) (me : Me) (f : Split → Split) : (s.updSplit me f).retiredHbm = s.retiredHbm := rfl
@[simp] theorem State.updSplit_hbmCandidates (s : State) (me : Me) (f : Split → Split) : (s.updSplit me f).hbmCandidates = s.hbmCandidates := rfl
@[simp] theorem State.updSplit_lostPorts (s : State) (me : Me) (f : Split → Split) : (s.updSplit me f).lostPorts = s.lostPorts := rfl
@[simp] theorem State.updSplit_leavingCores (s : State) (me : Me) (f : Split → Split) : (s.updSplit me f).leavingCores = s.leavingCores := rfl
@[simp] theorem State.updSplit_retiredLinks (s : State) (me : Me) (f : Split → Split) : (s.updSplit me f).retiredLinks = s.retiredLinks := rfl
@[simp] theorem State.updSplit_unitErrors (s : State) (me : Me) (f : Split → Split) : (s.updSplit me f).unitErrors = s.unitErrors := rfl
@[simp] theorem State.updSplit_unitFatal (s : State) (me : Me) (f : Split → Split) : (s.updSplit me f).unitFatal = s.unitFatal := rfl
@[simp] theorem State.updSplit_linkErrors (s : State) (me : Me) (f : Split → Split) : (s.updSplit me f).linkErrors = s.linkErrors := rfl
@[simp] theorem State.updSplit_combWait (s : State) (me : Me) (f : Split → Split) : (s.updSplit me f).combWait = s.combWait := rfl
@[simp] theorem State.updSplit_cquota (s : State) (me : Me) (f : Split → Split) : (s.updSplit me f).cquota = s.cquota := rfl
@[simp] theorem State.updSplit_retiredCores (s : State) (me : Me) (f : Split → Split) : (s.updSplit me f).retiredCores = s.retiredCores := rfl
@[simp] theorem State.updSplit_retiredSlices (s : State) (me : Me) (f : Split → Split) : (s.updSplit me f).retiredSlices = s.retiredSlices := rfl
@[simp] theorem State.updSplit_clusterTlb (s : State) (me : Me) (f : Split → Split) : (s.updSplit me f).clusterTlb = s.clusterTlb := rfl
@[simp] theorem State.updSplit_loads (s : State) (me : Me) (f : Split → Split) : (s.updSplit me f).loads = s.loads := rfl
@[simp] theorem State.updSplit_updates (s : State) (me : Me) (f : Split → Split) : (s.updSplit me f).updates = s.updates := rfl
@[simp] theorem State.updSplit_atoms (s : State) (me : Me) (f : Split → Split) : (s.updSplit me f).atoms = s.atoms := rfl
@[simp] theorem State.updSplit_copyOps (s : State) (me : Me) (f : Split → Split) : (s.updSplit me f).copyOps = s.copyOps := rfl
@[simp] theorem State.updSplit_mdecs (s : State) (me : Me) (f : Split → Split) : (s.updSplit me f).mdecs = s.mdecs := rfl
@[simp] theorem State.updSplit_traces (s : State) (me : Me) (f : Split → Split) : (s.updSplit me f).traces = s.traces := rfl
@[simp] theorem State.updSplit_blends (s : State) (me : Me) (f : Split → Split) : (s.updSplit me f).blends = s.blends := rfl
@[simp] theorem State.updSplit_accGroups (s : State) (me : Me) (f : Split → Split) : (s.updSplit me f).accGroups = s.accGroups := rfl
@[simp] theorem State.updSplit_accQueues (s : State) (me : Me) (f : Split → Split) : (s.updSplit me f).accQueues = s.accQueues := rfl
@[simp] theorem State.updSplit_accSeq (s : State) (me : Me) (f : Split → Split) : (s.updSplit me f).accSeq = s.accSeq := rfl
@[simp] theorem State.updSplit_accOut (s : State) (me : Me) (f : Split → Split) : (s.updSplit me f).accOut = s.accOut := rfl
@[simp] theorem State.updSplit_accOps (s : State) (me : Me) (f : Split → Split) : (s.updSplit me f).accOps = s.accOps := rfl
@[simp] theorem State.updSplit_accReplies (s : State) (me : Me) (f : Split → Split) : (s.updSplit me f).accReplies = s.accReplies := rfl
@[simp] theorem State.updSplit_shuffles (s : State) (me : Me) (f : Split → Split) : (s.updSplit me f).shuffles = s.shuffles := rfl
@[simp] theorem State.updSplit_esSlots (s : State) (me : Me) (f : Split → Split) : (s.updSplit me f).esSlots = s.esSlots := rfl
@[simp] theorem State.updSplit_esChans (s : State) (me : Me) (f : Split → Split) : (s.updSplit me f).esChans = s.esChans := rfl
@[simp] theorem State.updSplit_esMsgs (s : State) (me : Me) (f : Split → Split) : (s.updSplit me f).esMsgs = s.esMsgs := rfl
@[simp] theorem State.updSplit_replaceReq (s : State) (me : Me) (f : Split → Split) : (s.updSplit me f).replaceReq = s.replaceReq := rfl
@[simp] theorem State.updSplit_mats (s : State) (me : Me) (f : Split → Split) : (s.updSplit me f).mats = s.mats := rfl
@[simp] theorem State.updSplit_walks (s : State) (me : Me) (f : Split → Split) : (s.updSplit me f).walks = s.walks := rfl
@[simp] theorem State.updSplit_cores (s : State) (me : Me) (f : Split → Split) : (s.updSplit me f).cores = s.cores := rfl
@[simp] theorem State.updSplit_launches (s : State) (me : Me) (f : Split → Split) : (s.updSplit me f).launches = s.launches := rfl
@[simp] theorem State.updSplit_rays (s : State) (me : Me) (f : Split → Split) : (s.updSplit me f).rays = s.rays := rfl
@[simp] theorem State.updSplit_wgs (s : State) (me : Me) (f : Split → Split) : (s.updSplit me f).wgs = s.wgs := rfl
@[simp] theorem State.updSplit_ctxs (s : State) (me : Me) (f : Split → Split) : (s.updSplit me f).ctxs = s.ctxs := rfl

/-! ### Queueing an event -/

@[simp] theorem State.later_cycle (s : State) (i : Instr) : (s.later i).cycle = s.cycle := rfl
@[simp] theorem State.later_cur (s : State) (i : Instr) : (s.later i).cur = s.cur := rfl
@[simp] theorem State.later_nextId (s : State) (i : Instr) : (s.later i).nextId = s.nextId := rfl
@[simp] theorem State.later_free (s : State) (i : Instr) : (s.later i).free = s.free := rfl
@[simp] theorem State.later_mem (s : State) (i : Instr) : (s.later i).mem = s.mem := rfl
@[simp] theorem State.later_lines (s : State) (i : Instr) : (s.later i).lines = s.lines := rfl
@[simp] theorem State.later_l2 (s : State) (i : Instr) : (s.later i).l2 = s.l2 := rfl
@[simp] theorem State.later_bad (s : State) (i : Instr) : (s.later i).bad = s.bad := rfl
@[simp] theorem State.later_hbmReady (s : State) (i : Instr) : (s.later i).hbmReady = s.hbmReady := rfl
@[simp] theorem State.later_qtable (s : State) (i : Instr) : (s.later i).qtable = s.qtable := rfl
@[simp] theorem State.later_cxlpop (s : State) (i : Instr) : (s.later i).cxlpop = s.cxlpop := rfl
@[simp] theorem State.later_homewin (s : State) (i : Instr) : (s.later i).homewin = s.homewin := rfl
@[simp] theorem State.later_timer (s : State) (i : Instr) : (s.later i).timer = s.timer := rfl
@[simp] theorem State.later_qpTs (s : State) (i : Instr) : (s.later i).qpTs = s.qpTs := rfl
@[simp] theorem State.later_hostTs (s : State) (i : Instr) : (s.later i).hostTs = s.hostTs := rfl
@[simp] theorem State.later_fabTs (s : State) (i : Instr) : (s.later i).fabTs = s.fabTs := rfl
@[simp] theorem State.later_widx (s : State) (i : Instr) : (s.later i).widx = s.widx := rfl
@[simp] theorem State.later_bells (s : State) (i : Instr) : (s.later i).bells = s.bells := rfl
@[simp] theorem State.later_serving (s : State) (i : Instr) : (s.later i).serving = s.serving := rfl
@[simp] theorem State.later_packets (s : State) (i : Instr) : (s.later i).packets = s.packets := rfl
@[simp] theorem State.later_taskLam (s : State) (i : Instr) : (s.later i).taskLam = s.taskLam := rfl
@[simp] theorem State.later_foreign (s : State) (i : Instr) : (s.later i).foreign = s.foreign := rfl
@[simp] theorem State.later_preempting (s : State) (i : Instr) : (s.later i).preempting = s.preempting := rfl
@[simp] theorem State.later_espreHeld (s : State) (i : Instr) : (s.later i).espreHeld = s.espreHeld := rfl
@[simp] theorem State.later_asked (s : State) (i : Instr) : (s.later i).asked = s.asked := rfl
@[simp] theorem State.later_barred (s : State) (i : Instr) : (s.later i).barred = s.barred := rfl
@[simp] theorem State.later_resuming (s : State) (i : Instr) : (s.later i).resuming = s.resuming := rfl
@[simp] theorem State.later_killing (s : State) (i : Instr) : (s.later i).killing = s.killing := rfl
@[simp] theorem State.later_killDone (s : State) (i : Instr) : (s.later i).killDone = s.killDone := rfl
@[simp] theorem State.later_killed (s : State) (i : Instr) : (s.later i).killed = s.killed := rfl
@[simp] theorem State.later_halt (s : State) (i : Instr) : (s.later i).halt = s.halt := rfl
@[simp] theorem State.later_dump (s : State) (i : Instr) : (s.later i).dump = s.dump := rfl
@[simp] theorem State.later_handlers (s : State) (i : Instr) : (s.later i).handlers = s.handlers := rfl
@[simp] theorem State.later_sysEvents (s : State) (i : Instr) : (s.later i).sysEvents = s.sysEvents := rfl
@[simp] theorem State.later_sysOps (s : State) (i : Instr) : (s.later i).sysOps = s.sysOps := rfl
@[simp] theorem State.later_rests (s : State) (i : Instr) : (s.later i).rests = s.rests := rfl
@[simp] theorem State.later_syscalls (s : State) (i : Instr) : (s.later i).syscalls = s.syscalls := rfl
@[simp] theorem State.later_interrupts (s : State) (i : Instr) : (s.later i).interrupts = s.interrupts := rfl
@[simp] theorem State.later_fabricOut (s : State) (i : Instr) : (s.later i).fabricOut = s.fabricOut := rfl
@[simp] theorem State.later_routes (s : State) (i : Instr) : (s.later i).routes = s.routes := rfl
@[simp] theorem State.later_hostOut (s : State) (i : Instr) : (s.later i).hostOut = s.hostOut := rfl
@[simp] theorem State.later_boot (s : State) (i : Instr) : (s.later i).boot = s.boot := rfl
@[simp] theorem State.later_ctxTable (s : State) (i : Instr) : (s.later i).ctxTable = s.ctxTable := rfl
@[simp] theorem State.later_ctxCount (s : State) (i : Instr) : (s.later i).ctxCount = s.ctxCount := rfl
@[simp] theorem State.later_retiredHbm (s : State) (i : Instr) : (s.later i).retiredHbm = s.retiredHbm := rfl
@[simp] theorem State.later_hbmCandidates (s : State) (i : Instr) : (s.later i).hbmCandidates = s.hbmCandidates := rfl
@[simp] theorem State.later_lostPorts (s : State) (i : Instr) : (s.later i).lostPorts = s.lostPorts := rfl
@[simp] theorem State.later_leavingCores (s : State) (i : Instr) : (s.later i).leavingCores = s.leavingCores := rfl
@[simp] theorem State.later_retiredLinks (s : State) (i : Instr) : (s.later i).retiredLinks = s.retiredLinks := rfl
@[simp] theorem State.later_unitErrors (s : State) (i : Instr) : (s.later i).unitErrors = s.unitErrors := rfl
@[simp] theorem State.later_unitFatal (s : State) (i : Instr) : (s.later i).unitFatal = s.unitFatal := rfl
@[simp] theorem State.later_linkErrors (s : State) (i : Instr) : (s.later i).linkErrors = s.linkErrors := rfl
@[simp] theorem State.later_combWait (s : State) (i : Instr) : (s.later i).combWait = s.combWait := rfl
@[simp] theorem State.later_cquota (s : State) (i : Instr) : (s.later i).cquota = s.cquota := rfl
@[simp] theorem State.later_retiredCores (s : State) (i : Instr) : (s.later i).retiredCores = s.retiredCores := rfl
@[simp] theorem State.later_retiredSlices (s : State) (i : Instr) : (s.later i).retiredSlices = s.retiredSlices := rfl
@[simp] theorem State.later_clusterTlb (s : State) (i : Instr) : (s.later i).clusterTlb = s.clusterTlb := rfl
@[simp] theorem State.later_loads (s : State) (i : Instr) : (s.later i).loads = s.loads := rfl
@[simp] theorem State.later_updates (s : State) (i : Instr) : (s.later i).updates = s.updates := rfl
@[simp] theorem State.later_atoms (s : State) (i : Instr) : (s.later i).atoms = s.atoms := rfl
@[simp] theorem State.later_copyOps (s : State) (i : Instr) : (s.later i).copyOps = s.copyOps := rfl
@[simp] theorem State.later_mdecs (s : State) (i : Instr) : (s.later i).mdecs = s.mdecs := rfl
@[simp] theorem State.later_traces (s : State) (i : Instr) : (s.later i).traces = s.traces := rfl
@[simp] theorem State.later_blends (s : State) (i : Instr) : (s.later i).blends = s.blends := rfl
@[simp] theorem State.later_accGroups (s : State) (i : Instr) : (s.later i).accGroups = s.accGroups := rfl
@[simp] theorem State.later_accQueues (s : State) (i : Instr) : (s.later i).accQueues = s.accQueues := rfl
@[simp] theorem State.later_accSeq (s : State) (i : Instr) : (s.later i).accSeq = s.accSeq := rfl
@[simp] theorem State.later_accOut (s : State) (i : Instr) : (s.later i).accOut = s.accOut := rfl
@[simp] theorem State.later_accOps (s : State) (i : Instr) : (s.later i).accOps = s.accOps := rfl
@[simp] theorem State.later_accReplies (s : State) (i : Instr) : (s.later i).accReplies = s.accReplies := rfl
@[simp] theorem State.later_shuffles (s : State) (i : Instr) : (s.later i).shuffles = s.shuffles := rfl
@[simp] theorem State.later_esSlots (s : State) (i : Instr) : (s.later i).esSlots = s.esSlots := rfl
@[simp] theorem State.later_esChans (s : State) (i : Instr) : (s.later i).esChans = s.esChans := rfl
@[simp] theorem State.later_esMsgs (s : State) (i : Instr) : (s.later i).esMsgs = s.esMsgs := rfl
@[simp] theorem State.later_replaceReq (s : State) (i : Instr) : (s.later i).replaceReq = s.replaceReq := rfl
@[simp] theorem State.later_mats (s : State) (i : Instr) : (s.later i).mats = s.mats := rfl
@[simp] theorem State.later_walks (s : State) (i : Instr) : (s.later i).walks = s.walks := rfl
@[simp] theorem State.later_trains (s : State) (i : Instr) : (s.later i).trains = s.trains := rfl
@[simp] theorem State.later_cores (s : State) (i : Instr) : (s.later i).cores = s.cores := rfl
@[simp] theorem State.later_launches (s : State) (i : Instr) : (s.later i).launches = s.launches := rfl
@[simp] theorem State.later_rays (s : State) (i : Instr) : (s.later i).rays = s.rays := rfl
@[simp] theorem State.later_wgs (s : State) (i : Instr) : (s.later i).wgs = s.wgs := rfl
@[simp] theorem State.later_ctxs (s : State) (i : Instr) : (s.later i).ctxs = s.ctxs := rfl

/-! ### Reading the updated part -/

@[simp] theorem State.train_setTrain_same (s : State) (tid : Nat) (t : Train) : (s.setTrain tid t).train tid = t := by
  simp [State.train, State.setTrain]

theorem State.train_setTrain (s : State) (tid k : Nat) (t : Train) :
    (s.setTrain tid t).train k = if k = tid then t else s.train k := by
  simp [State.train, State.setTrain, Tab.get_put]

@[simp] theorem State.train_updTrain_same (s : State) (tid : Nat) (f : Train → Train) :
    (s.updTrain tid f).train tid = f (s.train tid) := by
  simp [State.updTrain]

theorem State.train_updTrain (s : State) (tid k : Nat) (f : Train → Train) :
    (s.updTrain tid f).train k = if k = tid then f (s.train tid) else s.train k := by
  simp [State.updTrain, State.train_setTrain]

theorem State.train_updSplit (s : State) (me : Me) (k : Nat) (f : Split → Split) :
    (s.updSplit me f).train k = if k = me.tid then (s.train me.tid).updSplit me.sid f else s.train k := by
  simp [State.updSplit, State.train_updTrain]

@[simp] theorem State.core_updCore_same (s : State) (c : Nat) (f : Core → Core) :
    (s.updCore c f).core c = f (s.core c) := by
  simp [State.core, State.updCore]

theorem State.core_updCore (s : State) (c k : Nat) (f : Core → Core) :
    (s.updCore c f).core k = if k = c then f (s.core c) else s.core k := by
  simp [State.core, State.updCore, Tab.get_put]

@[simp] theorem State.wg_updWg_same (s : State) (w : Nat) (f : Workgroup → Workgroup) :
    (s.updWg w f).wg w = f (s.wg w) := by
  simp [State.wg, State.updWg]

theorem State.wg_updWg (s : State) (w k : Nat) (f : Workgroup → Workgroup) :
    (s.updWg w f).wg k = if k = w then f (s.wg w) else s.wg k := by
  simp [State.wg, State.updWg, Tab.get_put]

@[simp] theorem State.ctx_updCtx_same (s : State) (c : Nat) (f : Ctx → Ctx) : (s.updCtx c f).ctx c = f (s.ctx c) := by
  simp [State.ctx, State.updCtx]

theorem State.ctx_updCtx (s : State) (c k : Nat) (f : Ctx → Ctx) :
    (s.updCtx c f).ctx k = if k = c then f (s.ctx c) else s.ctx k := by
  simp [State.ctx, State.updCtx, Tab.get_put]

@[simp] theorem State.launch_updLaunch_same (s : State) (l : Nat) (f : Launch → Launch) :
    (s.updLaunch l f).launch l = f (s.launch l) := by
  simp [State.launch, State.updLaunch]

theorem State.launch_updLaunch (s : State) (l k : Nat) (f : Launch → Launch) :
    (s.updLaunch l f).launch k = if k = l then f (s.launch l) else s.launch k := by
  simp [State.launch, State.updLaunch, Tab.get_put]

/-! ### The updates that do not touch a part -/

@[simp] theorem State.core_setTrain_other (s : State) (tid : Nat) (t : Train) (j : Nat) : (s.setTrain tid t).core j = s.core j := rfl
@[simp] theorem State.launch_setTrain_other (s : State) (tid : Nat) (t : Train) (j : Nat) : (s.setTrain tid t).launch j = s.launch j := rfl
@[simp] theorem State.wg_setTrain_other (s : State) (tid : Nat) (t : Train) (j : Nat) : (s.setTrain tid t).wg j = s.wg j := rfl
@[simp] theorem State.ctx_setTrain_other (s : State) (tid : Nat) (t : Train) (j : Nat) : (s.setTrain tid t).ctx j = s.ctx j := rfl
@[simp] theorem State.core_updTrain_other (s : State) (tid : Nat) (f : Train → Train) (j : Nat) : (s.updTrain tid f).core j = s.core j := rfl
@[simp] theorem State.launch_updTrain_other (s : State) (tid : Nat) (f : Train → Train) (j : Nat) : (s.updTrain tid f).launch j = s.launch j := rfl
@[simp] theorem State.wg_updTrain_other (s : State) (tid : Nat) (f : Train → Train) (j : Nat) : (s.updTrain tid f).wg j = s.wg j := rfl
@[simp] theorem State.ctx_updTrain_other (s : State) (tid : Nat) (f : Train → Train) (j : Nat) : (s.updTrain tid f).ctx j = s.ctx j := rfl
@[simp] theorem State.train_updCore_other (s : State) (c : Nat) (f : Core → Core) (j : Nat) : (s.updCore c f).train j = s.train j := rfl
@[simp] theorem State.launch_updCore_other (s : State) (c : Nat) (f : Core → Core) (j : Nat) : (s.updCore c f).launch j = s.launch j := rfl
@[simp] theorem State.wg_updCore_other (s : State) (c : Nat) (f : Core → Core) (j : Nat) : (s.updCore c f).wg j = s.wg j := rfl
@[simp] theorem State.ctx_updCore_other (s : State) (c : Nat) (f : Core → Core) (j : Nat) : (s.updCore c f).ctx j = s.ctx j := rfl
@[simp] theorem State.train_updSched_other (s : State) (c k : Nat) (f : Sched → Sched) (j : Nat) : (s.updSched c k f).train j = s.train j := rfl
@[simp] theorem State.launch_updSched_other (s : State) (c k : Nat) (f : Sched → Sched) (j : Nat) : (s.updSched c k f).launch j = s.launch j := rfl
@[simp] theorem State.wg_updSched_other (s : State) (c k : Nat) (f : Sched → Sched) (j : Nat) : (s.updSched c k f).wg j = s.wg j := rfl
@[simp] theorem State.ctx_updSched_other (s : State) (c k : Nat) (f : Sched → Sched) (j : Nat) : (s.updSched c k f).ctx j = s.ctx j := rfl
@[simp] theorem State.train_updLaunch_other (s : State) (l : Nat) (f : Launch → Launch) (j : Nat) : (s.updLaunch l f).train j = s.train j := rfl
@[simp] theorem State.core_updLaunch_other (s : State) (l : Nat) (f : Launch → Launch) (j : Nat) : (s.updLaunch l f).core j = s.core j := rfl
@[simp] theorem State.wg_updLaunch_other (s : State) (l : Nat) (f : Launch → Launch) (j : Nat) : (s.updLaunch l f).wg j = s.wg j := rfl
@[simp] theorem State.ctx_updLaunch_other (s : State) (l : Nat) (f : Launch → Launch) (j : Nat) : (s.updLaunch l f).ctx j = s.ctx j := rfl
@[simp] theorem State.train_updWg_other (s : State) (w : Nat) (f : Workgroup → Workgroup) (j : Nat) : (s.updWg w f).train j = s.train j := rfl
@[simp] theorem State.core_updWg_other (s : State) (w : Nat) (f : Workgroup → Workgroup) (j : Nat) : (s.updWg w f).core j = s.core j := rfl
@[simp] theorem State.launch_updWg_other (s : State) (w : Nat) (f : Workgroup → Workgroup) (j : Nat) : (s.updWg w f).launch j = s.launch j := rfl
@[simp] theorem State.ctx_updWg_other (s : State) (w : Nat) (f : Workgroup → Workgroup) (j : Nat) : (s.updWg w f).ctx j = s.ctx j := rfl
@[simp] theorem State.train_updCtx_other (s : State) (c : Nat) (f : Ctx → Ctx) (j : Nat) : (s.updCtx c f).train j = s.train j := rfl
@[simp] theorem State.core_updCtx_other (s : State) (c : Nat) (f : Ctx → Ctx) (j : Nat) : (s.updCtx c f).core j = s.core j := rfl
@[simp] theorem State.launch_updCtx_other (s : State) (c : Nat) (f : Ctx → Ctx) (j : Nat) : (s.updCtx c f).launch j = s.launch j := rfl
@[simp] theorem State.wg_updCtx_other (s : State) (c : Nat) (f : Ctx → Ctx) (j : Nat) : (s.updCtx c f).wg j = s.wg j := rfl
@[simp] theorem State.core_updSplit_other (s : State) (me : Me) (f : Split → Split) (j : Nat) : (s.updSplit me f).core j = s.core j := rfl
@[simp] theorem State.launch_updSplit_other (s : State) (me : Me) (f : Split → Split) (j : Nat) : (s.updSplit me f).launch j = s.launch j := rfl
@[simp] theorem State.wg_updSplit_other (s : State) (me : Me) (f : Split → Split) (j : Nat) : (s.updSplit me f).wg j = s.wg j := rfl
@[simp] theorem State.ctx_updSplit_other (s : State) (me : Me) (f : Split → Split) (j : Nat) : (s.updSplit me f).ctx j = s.ctx j := rfl
@[simp] theorem State.train_later_other (s : State) (i : Instr) (j : Nat) : (s.later i).train j = s.train j := rfl
@[simp] theorem State.core_later_other (s : State) (i : Instr) (j : Nat) : (s.later i).core j = s.core j := rfl
@[simp] theorem State.launch_later_other (s : State) (i : Instr) (j : Nat) : (s.later i).launch j = s.launch j := rfl
@[simp] theorem State.wg_later_other (s : State) (i : Instr) (j : Nat) : (s.later i).wg j = s.wg j := rfl
@[simp] theorem State.ctx_later_other (s : State) (i : Instr) (j : Nat) : (s.later i).ctx j = s.ctx j := rfl

end Sys2Proof.Machine
end

