-- ==== Sys2Proof/Laws/Issue.lean ====
section
/-! SUPPORT. What the shared operations of an issuing word do: the answers of `issue`, and what a stall, the retirement of a
word, a branch and the taking of a fault leave unchanged. -/

namespace Sys2Proof.Machine

/-- All that `issue` answers: the fault of no run in issue, a stall, what comes before an operand can be read, or the effect. -/
theorem issue_cases (i : Instr) (s : State) (e : Me → State → State) :
    (issuer s = none ∧ issue i s e = .fault .noRunInIssue) ∨
    (∃ me k, issuer s = some me ∧ stallOf i me s = some k ∧ issue i s e = .next (stall k me s)) ∨
    (∃ me, issuer s = some me ∧ stallOf i me s = none ∧ operandsOk i me s = false ∧
      issue i s e = .next (operandsFirst i me s)) ∨
    (∃ me, issuer s = some me ∧ stallOf i me s = none ∧ operandsOk i me s = true ∧ issue i s e = .next (e me s)) := by
  unfold issue
  cases h : issuer s with
  | none => exact .inl ⟨rfl, rfl⟩
  | some me =>
    cases h' : stallOf i me s with
    | some k => exact .inr (.inl ⟨me, k, rfl, h', by simp [h']⟩)
    | none =>
      cases h'' : operandsOk i me s with
      | false => exact .inr (.inr (.inl ⟨me, rfl, h', h'', by simp [h', h'']⟩))
      | true => exact .inr (.inr (.inr ⟨me, rfl, h', h'', by simp [h', h'']⟩))

/-- A word whose operands are ready and can be read has its effect. -/
theorem issue_ready {i : Instr} {s : State} {e : Me → State → State} {me : Me} (h : issuer s = some me)
    (h' : stallOf i me s = none) (h'' : operandsOk i me s = true) : issue i s e = .next (e me s) := by
  simp [issue, h, h', h'']

/-- A word whose operands are ready but cannot be read as they stand has no effect yet. -/
theorem issue_first {i : Instr} {s : State} {e : Me → State → State} {me : Me} (h : issuer s = some me)
    (h' : stallOf i me s = none) (h'' : operandsOk i me s = false) : issue i s e = .next (operandsFirst i me s) := by
  simp [issue, h, h', h'']

/-- A word that meets a stall changes nothing but the stall reason. -/
theorem issue_stalled {i : Instr} {s : State} {e : Me → State → State} {me : Me} {k : Nat} (h : issuer s = some me)
    (h' : stallOf i me s = some k) : issue i s e = .next (stall k me s) := by
  simp [issue, h, h']

/-- Without a run in issue no word issues. -/
theorem issue_none {i : Instr} {s : State} {e : Me → State → State} (h : issuer s = none) :
    issue i s e = .fault .noRunInIssue := by
  simp [issue, h]

/-- A next state of `issue` comes from a stall, from what comes before the operands can be read, or from the effect. -/
theorem issue_next {i : Instr} {s t : State} {e : Me → State → State} (h : issue i s e = .next t) :
    ∃ me, issuer s = some me ∧ ((∃ k, t = stall k me s) ∨ (operandsOk i me s = false ∧ t = operandsFirst i me s) ∨
      (stallOf i me s = none ∧ operandsOk i me s = true ∧ t = e me s)) := by
  rcases issue_cases i s e with ⟨_, hf⟩ | ⟨me, k, h1, _, h3⟩ | ⟨me, h1, _, h2, h3⟩ | ⟨me, h1, h2, h2', h3⟩
  · rw [hf] at h; cases h
  · rw [h3] at h; cases h; exact ⟨me, h1, .inl ⟨k, rfl⟩⟩
  · rw [h3] at h; cases h; exact ⟨me, h1, .inr (.inl ⟨h2, rfl⟩)⟩
  · rw [h3] at h; cases h; exact ⟨me, h1, .inr (.inr ⟨h2, h2', rfl⟩)⟩

/-- Registers that carry timestamps are observed by the train alone. -/
theorem operandsFirst_reads {i : Instr} {me : Me} {s : State} (h : unreadOf i me s ≠ []) :
    operandsFirst i me s = s.updTrain me.tid fun t => t.readCarried (unreadOf i me s) := by
  simp [operandsFirst, h]

/-- An error in a register that is read faults. -/
theorem operandsFirst_broken {i : Instr} {me : Me} {s : State} (h : unreadOf i me s = []) :
    operandsFirst i me s = brokenFault (brokenOf i me s) me s := by
  simp [operandsFirst, h]

/-- Observing what registers carry raises the train's timestamp and changes no register. -/
theorem readCarried_regs (t : Train) (ks : List Nat) : (t.readCarried ks).sregs = t.sregs ∧ (t.readCarried ks).vregs = t.vregs ∧
    (t.readCarried ks).splits = t.splits ∧ t.pts ≤ (t.readCarried ks).pts :=
  ⟨rfl, rfl, rfl, Nat.le_max_left ..⟩

/-! ### A stall -/

@[simp] theorem stall_cycle (k : Nat) (me : Me) (s : State) : (stall k me s).cycle = s.cycle := rfl
@[simp] theorem stall_agenda (k : Nat) (me : Me) (s : State) : (stall k me s).agenda = s.agenda := rfl
@[simp] theorem stall_nextId (k : Nat) (me : Me) (s : State) : (stall k me s).nextId = s.nextId := rfl
@[simp] theorem stall_free (k : Nat) (me : Me) (s : State) : (stall k me s).free = s.free := rfl
@[simp] theorem stall_mem (k : Nat) (me : Me) (s : State) : (stall k me s).mem = s.mem := rfl
@[simp] theorem stall_lines (k : Nat) (me : Me) (s : State) : (stall k me s).lines = s.lines := rfl
@[simp] theorem stall_l2 (k : Nat) (me : Me) (s : State) : (stall k me s).l2 = s.l2 := rfl
@[simp] theorem stall_bad (k : Nat) (me : Me) (s : State) : (stall k me s).bad = s.bad := rfl
@[simp] theorem stall_hbmReady (k : Nat) (me : Me) (s : State) : (stall k me s).hbmReady = s.hbmReady := rfl
@[simp] theorem stall_qtable (k : Nat) (me : Me) (s : State) : (stall k me s).qtable = s.qtable := rfl
@[simp] theorem stall_cxlpop (k : Nat) (me : Me) (s : State) : (stall k me s).cxlpop = s.cxlpop := rfl
@[simp] theorem stall_homewin (k : Nat) (me : Me) (s : State) : (stall k me s).homewin = s.homewin := rfl
@[simp] theorem stall_timer (k : Nat) (me : Me) (s : State) : (stall k me s).timer = s.timer := rfl
@[simp] theorem stall_qpTs (k : Nat) (me : Me) (s : State) : (stall k me s).qpTs = s.qpTs := rfl
@[simp] theorem stall_hostTs (k : Nat) (me : Me) (s : State) : (stall k me s).hostTs = s.hostTs := rfl
@[simp] theorem stall_fabTs (k : Nat) (me : Me) (s : State) : (stall k me s).fabTs = s.fabTs := rfl
@[simp] theorem stall_widx (k : Nat) (me : Me) (s : State) : (stall k me s).widx = s.widx := rfl
@[simp] theorem stall_bells (k : Nat) (me : Me) (s : State) : (stall k me s).bells = s.bells := rfl
@[simp] theorem stall_serving (k : Nat) (me : Me) (s : State) : (stall k me s).serving = s.serving := rfl
@[simp] theorem stall_packets (k : Nat) (me : Me) (s : State) : (stall k me s).packets = s.packets := rfl
@[simp] theorem stall_taskLam (k : Nat) (me : Me) (s : State) : (stall k me s).taskLam = s.taskLam := rfl
@[simp] theorem stall_foreign (k : Nat) (me : Me) (s : State) : (stall k me s).foreign = s.foreign := rfl
@[simp] theorem stall_preempting (k : Nat) (me : Me) (s : State) : (stall k me s).preempting = s.preempting := rfl
@[simp] theorem stall_espreHeld (k : Nat) (me : Me) (s : State) : (stall k me s).espreHeld = s.espreHeld := rfl
@[simp] theorem stall_asked (k : Nat) (me : Me) (s : State) : (stall k me s).asked = s.asked := rfl
@[simp] theorem stall_barred (k : Nat) (me : Me) (s : State) : (stall k me s).barred = s.barred := rfl
@[simp] theorem stall_resuming (k : Nat) (me : Me) (s : State) : (stall k me s).resuming = s.resuming := rfl
@[simp] theorem stall_killing (k : Nat) (me : Me) (s : State) : (stall k me s).killing = s.killing := rfl
@[simp] theorem stall_killDone (k : Nat) (me : Me) (s : State) : (stall k me s).killDone = s.killDone := rfl
@[simp] theorem stall_killed (k : Nat) (me : Me) (s : State) : (stall k me s).killed = s.killed := rfl
@[simp] theorem stall_halt (k : Nat) (me : Me) (s : State) : (stall k me s).halt = s.halt := rfl
@[simp] theorem stall_dump (k : Nat) (me : Me) (s : State) : (stall k me s).dump = s.dump := rfl
@[simp] theorem stall_handlers (k : Nat) (me : Me) (s : State) : (stall k me s).handlers = s.handlers := rfl
@[simp] theorem stall_sysEvents (k : Nat) (me : Me) (s : State) : (stall k me s).sysEvents = s.sysEvents := rfl
@[simp] theorem stall_sysOps (k : Nat) (me : Me) (s : State) : (stall k me s).sysOps = s.sysOps := rfl
@[simp] theorem stall_rests (k : Nat) (me : Me) (s : State) : (stall k me s).rests = s.rests := rfl
@[simp] theorem stall_syscalls (k : Nat) (me : Me) (s : State) : (stall k me s).syscalls = s.syscalls := rfl
@[simp] theorem stall_interrupts (k : Nat) (me : Me) (s : State) : (stall k me s).interrupts = s.interrupts := rfl
@[simp] theorem stall_fabricOut (k : Nat) (me : Me) (s : State) : (stall k me s).fabricOut = s.fabricOut := rfl
@[simp] theorem stall_routes (k : Nat) (me : Me) (s : State) : (stall k me s).routes = s.routes := rfl
@[simp] theorem stall_hostOut (k : Nat) (me : Me) (s : State) : (stall k me s).hostOut = s.hostOut := rfl
@[simp] theorem stall_boot (k : Nat) (me : Me) (s : State) : (stall k me s).boot = s.boot := rfl
@[simp] theorem stall_ctxTable (k : Nat) (me : Me) (s : State) : (stall k me s).ctxTable = s.ctxTable := rfl
@[simp] theorem stall_ctxCount (k : Nat) (me : Me) (s : State) : (stall k me s).ctxCount = s.ctxCount := rfl
@[simp] theorem stall_retiredHbm (k : Nat) (me : Me) (s : State) : (stall k me s).retiredHbm = s.retiredHbm := rfl
@[simp] theorem stall_hbmCandidates (k : Nat) (me : Me) (s : State) : (stall k me s).hbmCandidates = s.hbmCandidates := rfl
@[simp] theorem stall_lostPorts (k : Nat) (me : Me) (s : State) : (stall k me s).lostPorts = s.lostPorts := rfl
@[simp] theorem stall_leavingCores (k : Nat) (me : Me) (s : State) : (stall k me s).leavingCores = s.leavingCores := rfl
@[simp] theorem stall_retiredLinks (k : Nat) (me : Me) (s : State) : (stall k me s).retiredLinks = s.retiredLinks := rfl
@[simp] theorem stall_unitErrors (k : Nat) (me : Me) (s : State) : (stall k me s).unitErrors = s.unitErrors := rfl
@[simp] theorem stall_unitFatal (k : Nat) (me : Me) (s : State) : (stall k me s).unitFatal = s.unitFatal := rfl
@[simp] theorem stall_linkErrors (k : Nat) (me : Me) (s : State) : (stall k me s).linkErrors = s.linkErrors := rfl
@[simp] theorem stall_combWait (k : Nat) (me : Me) (s : State) : (stall k me s).combWait = s.combWait := rfl
@[simp] theorem stall_cquota (k : Nat) (me : Me) (s : State) : (stall k me s).cquota = s.cquota := rfl
@[simp] theorem stall_retiredCores (k : Nat) (me : Me) (s : State) : (stall k me s).retiredCores = s.retiredCores := rfl
@[simp] theorem stall_retiredSlices (k : Nat) (me : Me) (s : State) : (stall k me s).retiredSlices = s.retiredSlices := rfl
@[simp] theorem stall_clusterTlb (k : Nat) (me : Me) (s : State) : (stall k me s).clusterTlb = s.clusterTlb := rfl
@[simp] theorem stall_loads (k : Nat) (me : Me) (s : State) : (stall k me s).loads = s.loads := rfl
@[simp] theorem stall_updates (k : Nat) (me : Me) (s : State) : (stall k me s).updates = s.updates := rfl
@[simp] theorem stall_atoms (k : Nat) (me : Me) (s : State) : (stall k me s).atoms = s.atoms := rfl
@[simp] theorem stall_copyOps (k : Nat) (me : Me) (s : State) : (stall k me s).copyOps = s.copyOps := rfl
@[simp] theorem stall_mdecs (k : Nat) (me : Me) (s : State) : (stall k me s).mdecs = s.mdecs := rfl
@[simp] theorem stall_traces (k : Nat) (me : Me) (s : State) : (stall k me s).traces = s.traces := rfl
@[simp] theorem stall_blends (k : Nat) (me : Me) (s : State) : (stall k me s).blends = s.blends := rfl
@[simp] theorem stall_accGroups (k : Nat) (me : Me) (s : State) : (stall k me s).accGroups = s.accGroups := rfl
@[simp] theorem stall_accQueues (k : Nat) (me : Me) (s : State) : (stall k me s).accQueues = s.accQueues := rfl
@[simp] theorem stall_accSeq (k : Nat) (me : Me) (s : State) : (stall k me s).accSeq = s.accSeq := rfl
@[simp] theorem stall_accOut (k : Nat) (me : Me) (s : State) : (stall k me s).accOut = s.accOut := rfl
@[simp] theorem stall_accOps (k : Nat) (me : Me) (s : State) : (stall k me s).accOps = s.accOps := rfl
@[simp] theorem stall_accReplies (k : Nat) (me : Me) (s : State) : (stall k me s).accReplies = s.accReplies := rfl
@[simp] theorem stall_shuffles (k : Nat) (me : Me) (s : State) : (stall k me s).shuffles = s.shuffles := rfl
@[simp] theorem stall_esSlots (k : Nat) (me : Me) (s : State) : (stall k me s).esSlots = s.esSlots := rfl
@[simp] theorem stall_esChans (k : Nat) (me : Me) (s : State) : (stall k me s).esChans = s.esChans := rfl
@[simp] theorem stall_esMsgs (k : Nat) (me : Me) (s : State) : (stall k me s).esMsgs = s.esMsgs := rfl
@[simp] theorem stall_replaceReq (k : Nat) (me : Me) (s : State) : (stall k me s).replaceReq = s.replaceReq := rfl
@[simp] theorem stall_mats (k : Nat) (me : Me) (s : State) : (stall k me s).mats = s.mats := rfl
@[simp] theorem stall_walks (k : Nat) (me : Me) (s : State) : (stall k me s).walks = s.walks := rfl
@[simp] theorem stall_trains (k : Nat) (me : Me) (s : State) : (stall k me s).trains = s.trains := rfl
@[simp] theorem stall_launches (k : Nat) (me : Me) (s : State) : (stall k me s).launches = s.launches := rfl
@[simp] theorem stall_rays (k : Nat) (me : Me) (s : State) : (stall k me s).rays = s.rays := rfl
@[simp] theorem stall_wgs (k : Nat) (me : Me) (s : State) : (stall k me s).wgs = s.wgs := rfl
@[simp] theorem stall_ctxs (k : Nat) (me : Me) (s : State) : (stall k me s).ctxs = s.ctxs := rfl

/-! ### The end of a run -/

@[simp] theorem endRun_cycle (s : State) (me : Me) : (s.endRun me).cycle = s.cycle := rfl
@[simp] theorem endRun_agenda (s : State) (me : Me) : (s.endRun me).agenda = s.agenda := rfl
@[simp] theorem endRun_nextId (s : State) (me : Me) : (s.endRun me).nextId = s.nextId := rfl
@[simp] theorem endRun_free (s : State) (me : Me) : (s.endRun me).free = s.free := rfl
@[simp] theorem endRun_mem (s : State) (me : Me) : (s.endRun me).mem = s.mem := rfl
@[simp] theorem endRun_lines (s : State) (me : Me) : (s.endRun me).lines = s.lines := rfl
@[simp] theorem endRun_l2 (s : State) (me : Me) : (s.endRun me).l2 = s.l2 := rfl
@[simp] theorem endRun_bad (s : State) (me : Me) : (s.endRun me).bad = s.bad := rfl
@[simp] theorem endRun_hbmReady (s : State) (me : Me) : (s.endRun me).hbmReady = s.hbmReady := rfl
@[simp] theorem endRun_qtable (s : State) (me : Me) : (s.endRun me).qtable = s.qtable := rfl
@[simp] theorem endRun_cxlpop (s : State) (me : Me) : (s.endRun me).cxlpop = s.cxlpop := rfl
@[simp] theorem endRun_homewin (s : State) (me : Me) : (s.endRun me).homewin = s.homewin := rfl
@[simp] theorem endRun_timer (s : State) (me : Me) : (s.endRun me).timer = s.timer := rfl
@[simp] theorem endRun_qpTs (s : State) (me : Me) : (s.endRun me).qpTs = s.qpTs := rfl
@[simp] theorem endRun_hostTs (s : State) (me : Me) : (s.endRun me).hostTs = s.hostTs := rfl
@[simp] theorem endRun_fabTs (s : State) (me : Me) : (s.endRun me).fabTs = s.fabTs := rfl
@[simp] theorem endRun_widx (s : State) (me : Me) : (s.endRun me).widx = s.widx := rfl
@[simp] theorem endRun_bells (s : State) (me : Me) : (s.endRun me).bells = s.bells := rfl
@[simp] theorem endRun_serving (s : State) (me : Me) : (s.endRun me).serving = s.serving := rfl
@[simp] theorem endRun_packets (s : State) (me : Me) : (s.endRun me).packets = s.packets := rfl
@[simp] theorem endRun_taskLam (s : State) (me : Me) : (s.endRun me).taskLam = s.taskLam := rfl
@[simp] theorem endRun_foreign (s : State) (me : Me) : (s.endRun me).foreign = s.foreign := rfl
@[simp] theorem endRun_preempting (s : State) (me : Me) : (s.endRun me).preempting = s.preempting := rfl
@[simp] theorem endRun_espreHeld (s : State) (me : Me) : (s.endRun me).espreHeld = s.espreHeld := rfl
@[simp] theorem endRun_asked (s : State) (me : Me) : (s.endRun me).asked = s.asked := rfl
@[simp] theorem endRun_barred (s : State) (me : Me) : (s.endRun me).barred = s.barred := rfl
@[simp] theorem endRun_resuming (s : State) (me : Me) : (s.endRun me).resuming = s.resuming := rfl
@[simp] theorem endRun_killing (s : State) (me : Me) : (s.endRun me).killing = s.killing := rfl
@[simp] theorem endRun_killDone (s : State) (me : Me) : (s.endRun me).killDone = s.killDone := rfl
@[simp] theorem endRun_killed (s : State) (me : Me) : (s.endRun me).killed = s.killed := rfl
@[simp] theorem endRun_halt (s : State) (me : Me) : (s.endRun me).halt = s.halt := rfl
@[simp] theorem endRun_dump (s : State) (me : Me) : (s.endRun me).dump = s.dump := rfl
@[simp] theorem endRun_handlers (s : State) (me : Me) : (s.endRun me).handlers = s.handlers := rfl
@[simp] theorem endRun_sysEvents (s : State) (me : Me) : (s.endRun me).sysEvents = s.sysEvents := rfl
@[simp] theorem endRun_sysOps (s : State) (me : Me) : (s.endRun me).sysOps = s.sysOps := rfl
@[simp] theorem endRun_rests (s : State) (me : Me) : (s.endRun me).rests = s.rests := rfl
@[simp] theorem endRun_syscalls (s : State) (me : Me) : (s.endRun me).syscalls = s.syscalls := rfl
@[simp] theorem endRun_interrupts (s : State) (me : Me) : (s.endRun me).interrupts = s.interrupts := rfl
@[simp] theorem endRun_fabricOut (s : State) (me : Me) : (s.endRun me).fabricOut = s.fabricOut := rfl
@[simp] theorem endRun_routes (s : State) (me : Me) : (s.endRun me).routes = s.routes := rfl
@[simp] theorem endRun_hostOut (s : State) (me : Me) : (s.endRun me).hostOut = s.hostOut := rfl
@[simp] theorem endRun_boot (s : State) (me : Me) : (s.endRun me).boot = s.boot := rfl
@[simp] theorem endRun_ctxTable (s : State) (me : Me) : (s.endRun me).ctxTable = s.ctxTable := rfl
@[simp] theorem endRun_ctxCount (s : State) (me : Me) : (s.endRun me).ctxCount = s.ctxCount := rfl
@[simp] theorem endRun_retiredHbm (s : State) (me : Me) : (s.endRun me).retiredHbm = s.retiredHbm := rfl
@[simp] theorem endRun_hbmCandidates (s : State) (me : Me) : (s.endRun me).hbmCandidates = s.hbmCandidates := rfl
@[simp] theorem endRun_lostPorts (s : State) (me : Me) : (s.endRun me).lostPorts = s.lostPorts := rfl
@[simp] theorem endRun_leavingCores (s : State) (me : Me) : (s.endRun me).leavingCores = s.leavingCores := rfl
@[simp] theorem endRun_retiredLinks (s : State) (me : Me) : (s.endRun me).retiredLinks = s.retiredLinks := rfl
@[simp] theorem endRun_unitErrors (s : State) (me : Me) : (s.endRun me).unitErrors = s.unitErrors := rfl
@[simp] theorem endRun_unitFatal (s : State) (me : Me) : (s.endRun me).unitFatal = s.unitFatal := rfl
@[simp] theorem endRun_linkErrors (s : State) (me : Me) : (s.endRun me).linkErrors = s.linkErrors := rfl
@[simp] theorem endRun_combWait (s : State) (me : Me) : (s.endRun me).combWait = s.combWait := rfl
@[simp] theorem endRun_cquota (s : State) (me : Me) : (s.endRun me).cquota = s.cquota := rfl
@[simp] theorem endRun_retiredCores (s : State) (me : Me) : (s.endRun me).retiredCores = s.retiredCores := rfl
@[simp] theorem endRun_retiredSlices (s : State) (me : Me) : (s.endRun me).retiredSlices = s.retiredSlices := rfl
@[simp] theorem endRun_clusterTlb (s : State) (me : Me) : (s.endRun me).clusterTlb = s.clusterTlb := rfl
@[simp] theorem endRun_loads (s : State) (me : Me) : (s.endRun me).loads = s.loads := rfl
@[simp] theorem endRun_updates (s : State) (me : Me) : (s.endRun me).updates = s.updates := rfl
@[simp] theorem endRun_atoms (s : State) (me : Me) : (s.endRun me).atoms = s.atoms := rfl
@[simp] theorem endRun_copyOps (s : State) (me : Me) : (s.endRun me).copyOps = s.copyOps := rfl
@[simp] theorem endRun_mdecs (s : State) (me : Me) : (s.endRun me).mdecs = s.mdecs := rfl
@[simp] theorem endRun_traces (s : State) (me : Me) : (s.endRun me).traces = s.traces := rfl
@[simp] theorem endRun_blends (s : State) (me : Me) : (s.endRun me).blends = s.blends := rfl
@[simp] theorem endRun_accGroups (s : State) (me : Me) : (s.endRun me).accGroups = s.accGroups := rfl
@[simp] theorem endRun_accQueues (s : State) (me : Me) : (s.endRun me).accQueues = s.accQueues := rfl
@[simp] theorem endRun_accSeq (s : State) (me : Me) : (s.endRun me).accSeq = s.accSeq := rfl
@[simp] theorem endRun_accOut (s : State) (me : Me) : (s.endRun me).accOut = s.accOut := rfl
@[simp] theorem endRun_accOps (s : State) (me : Me) : (s.endRun me).accOps = s.accOps := rfl
@[simp] theorem endRun_accReplies (s : State) (me : Me) : (s.endRun me).accReplies = s.accReplies := rfl
@[simp] theorem endRun_shuffles (s : State) (me : Me) : (s.endRun me).shuffles = s.shuffles := rfl
@[simp] theorem endRun_esSlots (s : State) (me : Me) : (s.endRun me).esSlots = s.esSlots := rfl
@[simp] theorem endRun_esChans (s : State) (me : Me) : (s.endRun me).esChans = s.esChans := rfl
@[simp] theorem endRun_esMsgs (s : State) (me : Me) : (s.endRun me).esMsgs = s.esMsgs := rfl
@[simp] theorem endRun_replaceReq (s : State) (me : Me) : (s.endRun me).replaceReq = s.replaceReq := rfl
@[simp] theorem endRun_mats (s : State) (me : Me) : (s.endRun me).mats = s.mats := rfl
@[simp] theorem endRun_walks (s : State) (me : Me) : (s.endRun me).walks = s.walks := rfl
@[simp] theorem endRun_trains (s : State) (me : Me) : (s.endRun me).trains = s.trains := rfl
@[simp] theorem endRun_launches (s : State) (me : Me) : (s.endRun me).launches = s.launches := rfl
@[simp] theorem endRun_rays (s : State) (me : Me) : (s.endRun me).rays = s.rays := rfl
@[simp] theorem endRun_wgs (s : State) (me : Me) : (s.endRun me).wgs = s.wgs := rfl
@[simp] theorem endRun_ctxs (s : State) (me : Me) : (s.endRun me).ctxs = s.ctxs := rfl

/-! ### The retirement of a word -/

theorem retire_shape (me : Me) (s : State) : ∃ tr co cu, retire me s =
    { s with trains := tr, cores := co, cur := cu } := by
  unfold retire; simp only []; split
  · exact ⟨_, _, _, rfl⟩
  · exact ⟨_, _, _, rfl⟩

@[simp] theorem retire_cycle (me : Me) (s : State) : (retire me s).cycle = s.cycle := by
  obtain ⟨_, _, _, h⟩ := retire_shape me s; rw [h]
@[simp] theorem retire_agenda (me : Me) (s : State) : (retire me s).agenda = s.agenda := by
  obtain ⟨_, _, _, h⟩ := retire_shape me s; rw [h]
@[simp] theorem retire_free (me : Me) (s : State) : (retire me s).free = s.free := by
  obtain ⟨_, _, _, h⟩ := retire_shape me s; rw [h]
@[simp] theorem retire_mem (me : Me) (s : State) : (retire me s).mem = s.mem := by
  obtain ⟨_, _, _, h⟩ := retire_shape me s; rw [h]
@[simp] theorem retire_lines (me : Me) (s : State) : (retire me s).lines = s.lines := by
  obtain ⟨_, _, _, h⟩ := retire_shape me s; rw [h]
@[simp] theorem retire_l2 (me : Me) (s : State) : (retire me s).l2 = s.l2 := by
  obtain ⟨_, _, _, h⟩ := retire_shape me s; rw [h]
@[simp] theorem retire_bad (me : Me) (s : State) : (retire me s).bad = s.bad := by
  obtain ⟨_, _, _, h⟩ := retire_shape me s; rw [h]
@[simp] theorem retire_timer (me : Me) (s : State) : (retire me s).timer = s.timer := by
  obtain ⟨_, _, _, h⟩ := retire_shape me s; rw [h]
@[simp] theorem retire_packets (me : Me) (s : State) : (retire me s).packets = s.packets := by
  obtain ⟨_, _, _, h⟩ := retire_shape me s; rw [h]
@[simp] theorem retire_halt (me : Me) (s : State) : (retire me s).halt = s.halt := by
  obtain ⟨_, _, _, h⟩ := retire_shape me s; rw [h]
@[simp] theorem retire_handlers (me : Me) (s : State) : (retire me s).handlers = s.handlers := by
  obtain ⟨_, _, _, h⟩ := retire_shape me s; rw [h]
@[simp] theorem retire_fabricOut (me : Me) (s : State) : (retire me s).fabricOut = s.fabricOut := by
  obtain ⟨_, _, _, h⟩ := retire_shape me s; rw [h]
@[simp] theorem retire_routes (me : Me) (s : State) : (retire me s).routes = s.routes := by
  obtain ⟨_, _, _, h⟩ := retire_shape me s; rw [h]
@[simp] theorem retire_boot (me : Me) (s : State) : (retire me s).boot = s.boot := by
  obtain ⟨_, _, _, h⟩ := retire_shape me s; rw [h]
@[simp] theorem retire_cquota (me : Me) (s : State) : (retire me s).cquota = s.cquota := by
  obtain ⟨_, _, _, h⟩ := retire_shape me s; rw [h]
@[simp] theorem retire_loads (me : Me) (s : State) : (retire me s).loads = s.loads := by
  obtain ⟨_, _, _, h⟩ := retire_shape me s; rw [h]
@[simp] theorem retire_updates (me : Me) (s : State) : (retire me s).updates = s.updates := by
  obtain ⟨_, _, _, h⟩ := retire_shape me s; rw [h]
@[simp] theorem retire_atoms (me : Me) (s : State) : (retire me s).atoms = s.atoms := by
  obtain ⟨_, _, _, h⟩ := retire_shape me s; rw [h]
@[simp] theorem retire_esSlots (me : Me) (s : State) : (retire me s).esSlots = s.esSlots := by
  obtain ⟨_, _, _, h⟩ := retire_shape me s; rw [h]
@[simp] theorem retire_esChans (me : Me) (s : State) : (retire me s).esChans = s.esChans := by
  obtain ⟨_, _, _, h⟩ := retire_shape me s; rw [h]
@[simp] theorem retire_launches (me : Me) (s : State) : (retire me s).launches = s.launches := by
  obtain ⟨_, _, _, h⟩ := retire_shape me s; rw [h]
@[simp] theorem retire_rays (me : Me) (s : State) : (retire me s).rays = s.rays := by
  obtain ⟨_, _, _, h⟩ := retire_shape me s; rw [h]
@[simp] theorem retire_wgs (me : Me) (s : State) : (retire me s).wgs = s.wgs := by
  obtain ⟨_, _, _, h⟩ := retire_shape me s; rw [h]
@[simp] theorem retire_ctxs (me : Me) (s : State) : (retire me s).ctxs = s.ctxs := by
  obtain ⟨_, _, _, h⟩ := retire_shape me s; rw [h]

/-! ### A branch -/

@[simp] theorem goto_cycle (pc : Nat) (me : Me) (s : State) : (goto pc me s).cycle = s.cycle := rfl
@[simp] theorem goto_agenda (pc : Nat) (me : Me) (s : State) : (goto pc me s).agenda = s.agenda := rfl
@[simp] theorem goto_nextId (pc : Nat) (me : Me) (s : State) : (goto pc me s).nextId = s.nextId := rfl
@[simp] theorem goto_free (pc : Nat) (me : Me) (s : State) : (goto pc me s).free = s.free := rfl
@[simp] theorem goto_mem (pc : Nat) (me : Me) (s : State) : (goto pc me s).mem = s.mem := rfl
@[simp] theorem goto_lines (pc : Nat) (me : Me) (s : State) : (goto pc me s).lines = s.lines := rfl
@[simp] theorem goto_l2 (pc : Nat) (me : Me) (s : State) : (goto pc me s).l2 = s.l2 := rfl
@[simp] theorem goto_bad (pc : Nat) (me : Me) (s : State) : (goto pc me s).bad = s.bad := rfl
@[simp] theorem goto_hbmReady (pc : Nat) (me : Me) (s : State) : (goto pc me s).hbmReady = s.hbmReady := rfl
@[simp] theorem goto_qtable (pc : Nat) (me : Me) (s : State) : (goto pc me s).qtable = s.qtable := rfl
@[simp] theorem goto_cxlpop (pc : Nat) (me : Me) (s : State) : (goto pc me s).cxlpop = s.cxlpop := rfl
@[simp] theorem goto_homewin (pc : Nat) (me : Me) (s : State) : (goto pc me s).homewin = s.homewin := rfl
@[simp] theorem goto_timer (pc : Nat) (me : Me) (s : State) : (goto pc me s).timer = s.timer := rfl
@[simp] theorem goto_qpTs (pc : Nat) (me : Me) (s : State) : (goto pc me s).qpTs = s.qpTs := rfl
@[simp] theorem goto_hostTs (pc : Nat) (me : Me) (s : State) : (goto pc me s).hostTs = s.hostTs := rfl
@[simp] theorem goto_fabTs (pc : Nat) (me : Me) (s : State) : (goto pc me s).fabTs = s.fabTs := rfl
@[simp] theorem goto_widx (pc : Nat) (me : Me) (s : State) : (goto pc me s).widx = s.widx := rfl
@[simp] theorem goto_bells (pc : Nat) (me : Me) (s : State) : (goto pc me s).bells = s.bells := rfl
@[simp] theorem goto_serving (pc : Nat) (me : Me) (s : State) : (goto pc me s).serving = s.serving := rfl
@[simp] theorem goto_packets (pc : Nat) (me : Me) (s : State) : (goto pc me s).packets = s.packets := rfl
@[simp] theorem goto_taskLam (pc : Nat) (me : Me) (s : State) : (goto pc me s).taskLam = s.taskLam := rfl
@[simp] theorem goto_foreign (pc : Nat) (me : Me) (s : State) : (goto pc me s).foreign = s.foreign := rfl
@[simp] theorem goto_preempting (pc : Nat) (me : Me) (s : State) : (goto pc me s).preempting = s.preempting := rfl
@[simp] theorem goto_espreHeld (pc : Nat) (me : Me) (s : State) : (goto pc me s).espreHeld = s.espreHeld := rfl
@[simp] theorem goto_asked (pc : Nat) (me : Me) (s : State) : (goto pc me s).asked = s.asked := rfl
@[simp] theorem goto_barred (pc : Nat) (me : Me) (s : State) : (goto pc me s).barred = s.barred := rfl
@[simp] theorem goto_resuming (pc : Nat) (me : Me) (s : State) : (goto pc me s).resuming = s.resuming := rfl
@[simp] theorem goto_killing (pc : Nat) (me : Me) (s : State) : (goto pc me s).killing = s.killing := rfl
@[simp] theorem goto_killDone (pc : Nat) (me : Me) (s : State) : (goto pc me s).killDone = s.killDone := rfl
@[simp] theorem goto_killed (pc : Nat) (me : Me) (s : State) : (goto pc me s).killed = s.killed := rfl
@[simp] theorem goto_halt (pc : Nat) (me : Me) (s : State) : (goto pc me s).halt = s.halt := rfl
@[simp] theorem goto_dump (pc : Nat) (me : Me) (s : State) : (goto pc me s).dump = s.dump := rfl
@[simp] theorem goto_handlers (pc : Nat) (me : Me) (s : State) : (goto pc me s).handlers = s.handlers := rfl
@[simp] theorem goto_sysEvents (pc : Nat) (me : Me) (s : State) : (goto pc me s).sysEvents = s.sysEvents := rfl
@[simp] theorem goto_sysOps (pc : Nat) (me : Me) (s : State) : (goto pc me s).sysOps = s.sysOps := rfl
@[simp] theorem goto_rests (pc : Nat) (me : Me) (s : State) : (goto pc me s).rests = s.rests := rfl
@[simp] theorem goto_syscalls (pc : Nat) (me : Me) (s : State) : (goto pc me s).syscalls = s.syscalls := rfl
@[simp] theorem goto_interrupts (pc : Nat) (me : Me) (s : State) : (goto pc me s).interrupts = s.interrupts := rfl
@[simp] theorem goto_fabricOut (pc : Nat) (me : Me) (s : State) : (goto pc me s).fabricOut = s.fabricOut := rfl
@[simp] theorem goto_routes (pc : Nat) (me : Me) (s : State) : (goto pc me s).routes = s.routes := rfl
@[simp] theorem goto_hostOut (pc : Nat) (me : Me) (s : State) : (goto pc me s).hostOut = s.hostOut := rfl
@[simp] theorem goto_boot (pc : Nat) (me : Me) (s : State) : (goto pc me s).boot = s.boot := rfl
@[simp] theorem goto_ctxTable (pc : Nat) (me : Me) (s : State) : (goto pc me s).ctxTable = s.ctxTable := rfl
@[simp] theorem goto_ctxCount (pc : Nat) (me : Me) (s : State) : (goto pc me s).ctxCount = s.ctxCount := rfl
@[simp] theorem goto_retiredHbm (pc : Nat) (me : Me) (s : State) : (goto pc me s).retiredHbm = s.retiredHbm := rfl
@[simp] theorem goto_hbmCandidates (pc : Nat) (me : Me) (s : State) : (goto pc me s).hbmCandidates = s.hbmCandidates := rfl
@[simp] theorem goto_lostPorts (pc : Nat) (me : Me) (s : State) : (goto pc me s).lostPorts = s.lostPorts := rfl
@[simp] theorem goto_leavingCores (pc : Nat) (me : Me) (s : State) : (goto pc me s).leavingCores = s.leavingCores := rfl
@[simp] theorem goto_retiredLinks (pc : Nat) (me : Me) (s : State) : (goto pc me s).retiredLinks = s.retiredLinks := rfl
@[simp] theorem goto_unitErrors (pc : Nat) (me : Me) (s : State) : (goto pc me s).unitErrors = s.unitErrors := rfl
@[simp] theorem goto_unitFatal (pc : Nat) (me : Me) (s : State) : (goto pc me s).unitFatal = s.unitFatal := rfl
@[simp] theorem goto_linkErrors (pc : Nat) (me : Me) (s : State) : (goto pc me s).linkErrors = s.linkErrors := rfl
@[simp] theorem goto_combWait (pc : Nat) (me : Me) (s : State) : (goto pc me s).combWait = s.combWait := rfl
@[simp] theorem goto_cquota (pc : Nat) (me : Me) (s : State) : (goto pc me s).cquota = s.cquota := rfl
@[simp] theorem goto_retiredCores (pc : Nat) (me : Me) (s : State) : (goto pc me s).retiredCores = s.retiredCores := rfl
@[simp] theorem goto_retiredSlices (pc : Nat) (me : Me) (s : State) : (goto pc me s).retiredSlices = s.retiredSlices := rfl
@[simp] theorem goto_clusterTlb (pc : Nat) (me : Me) (s : State) : (goto pc me s).clusterTlb = s.clusterTlb := rfl
@[simp] theorem goto_loads (pc : Nat) (me : Me) (s : State) : (goto pc me s).loads = s.loads := rfl
@[simp] theorem goto_updates (pc : Nat) (me : Me) (s : State) : (goto pc me s).updates = s.updates := rfl
@[simp] theorem goto_atoms (pc : Nat) (me : Me) (s : State) : (goto pc me s).atoms = s.atoms := rfl
@[simp] theorem goto_copyOps (pc : Nat) (me : Me) (s : State) : (goto pc me s).copyOps = s.copyOps := rfl
@[simp] theorem goto_mdecs (pc : Nat) (me : Me) (s : State) : (goto pc me s).mdecs = s.mdecs := rfl
@[simp] theorem goto_traces (pc : Nat) (me : Me) (s : State) : (goto pc me s).traces = s.traces := rfl
@[simp] theorem goto_blends (pc : Nat) (me : Me) (s : State) : (goto pc me s).blends = s.blends := rfl
@[simp] theorem goto_accGroups (pc : Nat) (me : Me) (s : State) : (goto pc me s).accGroups = s.accGroups := rfl
@[simp] theorem goto_accQueues (pc : Nat) (me : Me) (s : State) : (goto pc me s).accQueues = s.accQueues := rfl
@[simp] theorem goto_accSeq (pc : Nat) (me : Me) (s : State) : (goto pc me s).accSeq = s.accSeq := rfl
@[simp] theorem goto_accOut (pc : Nat) (me : Me) (s : State) : (goto pc me s).accOut = s.accOut := rfl
@[simp] theorem goto_accOps (pc : Nat) (me : Me) (s : State) : (goto pc me s).accOps = s.accOps := rfl
@[simp] theorem goto_accReplies (pc : Nat) (me : Me) (s : State) : (goto pc me s).accReplies = s.accReplies := rfl
@[simp] theorem goto_shuffles (pc : Nat) (me : Me) (s : State) : (goto pc me s).shuffles = s.shuffles := rfl
@[simp] theorem goto_esSlots (pc : Nat) (me : Me) (s : State) : (goto pc me s).esSlots = s.esSlots := rfl
@[simp] theorem goto_esChans (pc : Nat) (me : Me) (s : State) : (goto pc me s).esChans = s.esChans := rfl
@[simp] theorem goto_esMsgs (pc : Nat) (me : Me) (s : State) : (goto pc me s).esMsgs = s.esMsgs := rfl
@[simp] theorem goto_replaceReq (pc : Nat) (me : Me) (s : State) : (goto pc me s).replaceReq = s.replaceReq := rfl
@[simp] theorem goto_mats (pc : Nat) (me : Me) (s : State) : (goto pc me s).mats = s.mats := rfl
@[simp] theorem goto_walks (pc : Nat) (me : Me) (s : State) : (goto pc me s).walks = s.walks := rfl
@[simp] theorem goto_launches (pc : Nat) (me : Me) (s : State) : (goto pc me s).launches = s.launches := rfl
@[simp] theorem goto_rays (pc : Nat) (me : Me) (s : State) : (goto pc me s).rays = s.rays := rfl
@[simp] theorem goto_wgs (pc : Nat) (me : Me) (s : State) : (goto pc me s).wgs = s.wgs := rfl
@[simp] theorem goto_ctxs (pc : Nat) (me : Me) (s : State) : (goto pc me s).ctxs = s.ctxs := rfl

/-! ### Raising an event -/

theorem raiseEvent_shape (s : State) (c : Nat) (e : Event) : ∃ cx ni, s.raiseEvent c e =
    { s with ctxs := cx, nextId := ni } := by
  unfold State.raiseEvent State.traceAdd; simp only []; split
  · exact ⟨_, _, rfl⟩
  · exact ⟨_, _, rfl⟩

@[simp] theorem raiseEvent_cycle (s : State) (c : Nat) (e : Event) : (s.raiseEvent c e).cycle = s.cycle := by
  obtain ⟨_, _, h⟩ := raiseEvent_shape s c e; rw [h]
@[simp] theorem raiseEvent_agenda (s : State) (c : Nat) (e : Event) : (s.raiseEvent c e).agenda = s.agenda := by
  obtain ⟨_, _, h⟩ := raiseEvent_shape s c e; rw [h]
@[simp] theorem raiseEvent_free (s : State) (c : Nat) (e : Event) : (s.raiseEvent c e).free = s.free := by
  obtain ⟨_, _, h⟩ := raiseEvent_shape s c e; rw [h]
@[simp] theorem raiseEvent_mem (s : State) (c : Nat) (e : Event) : (s.raiseEvent c e).mem = s.mem := by
  obtain ⟨_, _, h⟩ := raiseEvent_shape s c e; rw [h]
@[simp] theorem raiseEvent_lines (s : State) (c : Nat) (e : Event) : (s.raiseEvent c e).lines = s.lines := by
  obtain ⟨_, _, h⟩ := raiseEvent_shape s c e; rw [h]
@[simp] theorem raiseEvent_l2 (s : State) (c : Nat) (e : Event) : (s.raiseEvent c e).l2 = s.l2 := by
  obtain ⟨_, _, h⟩ := raiseEvent_shape s c e; rw [h]
@[simp] theorem raiseEvent_bad (s : State) (c : Nat) (e : Event) : (s.raiseEvent c e).bad = s.bad := by
  obtain ⟨_, _, h⟩ := raiseEvent_shape s c e; rw [h]
@[simp] theorem raiseEvent_timer (s : State) (c : Nat) (e : Event) : (s.raiseEvent c e).timer = s.timer := by
  obtain ⟨_, _, h⟩ := raiseEvent_shape s c e; rw [h]
@[simp] theorem raiseEvent_packets (s : State) (c : Nat) (e : Event) : (s.raiseEvent c e).packets = s.packets := by
  obtain ⟨_, _, h⟩ := raiseEvent_shape s c e; rw [h]
@[simp] theorem raiseEvent_halt (s : State) (c : Nat) (e : Event) : (s.raiseEvent c e).halt = s.halt := by
  obtain ⟨_, _, h⟩ := raiseEvent_shape s c e; rw [h]
@[simp] theorem raiseEvent_handlers (s : State) (c : Nat) (e : Event) : (s.raiseEvent c e).handlers = s.handlers := by
  obtain ⟨_, _, h⟩ := raiseEvent_shape s c e; rw [h]
@[simp] theorem raiseEvent_fabricOut (s : State) (c : Nat) (e : Event) : (s.raiseEvent c e).fabricOut = s.fabricOut := by
  obtain ⟨_, _, h⟩ := raiseEvent_shape s c e; rw [h]
@[simp] theorem raiseEvent_routes (s : State) (c : Nat) (e : Event) : (s.raiseEvent c e).routes = s.routes := by
  obtain ⟨_, _, h⟩ := raiseEvent_shape s c e; rw [h]
@[simp] theorem raiseEvent_boot (s : State) (c : Nat) (e : Event) : (s.raiseEvent c e).boot = s.boot := by
  obtain ⟨_, _, h⟩ := raiseEvent_shape s c e; rw [h]
@[simp] theorem raiseEvent_cquota (s : State) (c : Nat) (e : Event) : (s.raiseEvent c e).cquota = s.cquota := by
  obtain ⟨_, _, h⟩ := raiseEvent_shape s c e; rw [h]
@[simp] theorem raiseEvent_loads (s : State) (c : Nat) (e : Event) : (s.raiseEvent c e).loads = s.loads := by
  obtain ⟨_, _, h⟩ := raiseEvent_shape s c e; rw [h]
@[simp] theorem raiseEvent_updates (s : State) (c : Nat) (e : Event) : (s.raiseEvent c e).updates = s.updates := by
  obtain ⟨_, _, h⟩ := raiseEvent_shape s c e; rw [h]
@[simp] theorem raiseEvent_atoms (s : State) (c : Nat) (e : Event) : (s.raiseEvent c e).atoms = s.atoms := by
  obtain ⟨_, _, h⟩ := raiseEvent_shape s c e; rw [h]
@[simp] theorem raiseEvent_esSlots (s : State) (c : Nat) (e : Event) : (s.raiseEvent c e).esSlots = s.esSlots := by
  obtain ⟨_, _, h⟩ := raiseEvent_shape s c e; rw [h]
@[simp] theorem raiseEvent_esChans (s : State) (c : Nat) (e : Event) : (s.raiseEvent c e).esChans = s.esChans := by
  obtain ⟨_, _, h⟩ := raiseEvent_shape s c e; rw [h]
@[simp] theorem raiseEvent_trains (s : State) (c : Nat) (e : Event) : (s.raiseEvent c e).trains = s.trains := by
  obtain ⟨_, _, h⟩ := raiseEvent_shape s c e; rw [h]
@[simp] theorem raiseEvent_cores (s : State) (c : Nat) (e : Event) : (s.raiseEvent c e).cores = s.cores := by
  obtain ⟨_, _, h⟩ := raiseEvent_shape s c e; rw [h]
@[simp] theorem raiseEvent_launches (s : State) (c : Nat) (e : Event) : (s.raiseEvent c e).launches = s.launches := by
  obtain ⟨_, _, h⟩ := raiseEvent_shape s c e; rw [h]
@[simp] theorem raiseEvent_rays (s : State) (c : Nat) (e : Event) : (s.raiseEvent c e).rays = s.rays := by
  obtain ⟨_, _, h⟩ := raiseEvent_shape s c e; rw [h]
@[simp] theorem raiseEvent_wgs (s : State) (c : Nat) (e : Event) : (s.raiseEvent c e).wgs = s.wgs := by
  obtain ⟨_, _, h⟩ := raiseEvent_shape s c e; rw [h]

/-! ### Parking a split -/

theorem parkSplit_shape (me : Me) (r : List FaultRec) (s : State) : ∃ tr cx ni se ha du, parkSplit me r s =
    { s with trains := tr, ctxs := cx, nextId := ni, sysEvents := se, handlers := ha, dump := du } := by
  unfold parkSplit; split
  · exact ⟨_, _, _, _, _, _, rfl⟩
  · simp only []
    obtain ⟨_, _, h⟩ := raiseEvent_shape ((s.updSplit me fun sp => { sp with state := .parked, recs := r }).updTrain me.tid
      fun t => { t with state := .parked }) _ _
    rw [h]; exact ⟨_, _, _, _, _, _, rfl⟩

@[simp] theorem parkSplit_cycle (me : Me) (r : List FaultRec) (s : State) : (parkSplit me r s).cycle = s.cycle := by
  obtain ⟨_, _, _, _, _, _, h⟩ := parkSplit_shape me r s; rw [h]
@[simp] theorem parkSplit_agenda (me : Me) (r : List FaultRec) (s : State) : (parkSplit me r s).agenda = s.agenda := by
  obtain ⟨_, _, _, _, _, _, h⟩ := parkSplit_shape me r s; rw [h]
@[simp] theorem parkSplit_free (me : Me) (r : List FaultRec) (s : State) : (parkSplit me r s).free = s.free := by
  obtain ⟨_, _, _, _, _, _, h⟩ := parkSplit_shape me r s; rw [h]
@[simp] theorem parkSplit_mem (me : Me) (r : List FaultRec) (s : State) : (parkSplit me r s).mem = s.mem := by
  obtain ⟨_, _, _, _, _, _, h⟩ := parkSplit_shape me r s; rw [h]
@[simp] theorem parkSplit_lines (me : Me) (r : List FaultRec) (s : State) : (parkSplit me r s).lines = s.lines := by
  obtain ⟨_, _, _, _, _, _, h⟩ := parkSplit_shape me r s; rw [h]
@[simp] theorem parkSplit_l2 (me : Me) (r : List FaultRec) (s : State) : (parkSplit me r s).l2 = s.l2 := by
  obtain ⟨_, _, _, _, _, _, h⟩ := parkSplit_shape me r s; rw [h]
@[simp] theorem parkSplit_bad (me : Me) (r : List FaultRec) (s : State) : (parkSplit me r s).bad = s.bad := by
  obtain ⟨_, _, _, _, _, _, h⟩ := parkSplit_shape me r s; rw [h]
@[simp] theorem parkSplit_timer (me : Me) (r : List FaultRec) (s : State) : (parkSplit me r s).timer = s.timer := by
  obtain ⟨_, _, _, _, _, _, h⟩ := parkSplit_shape me r s; rw [h]
@[simp] theorem parkSplit_packets (me : Me) (r : List FaultRec) (s : State) : (parkSplit me r s).packets = s.packets := by
  obtain ⟨_, _, _, _, _, _, h⟩ := parkSplit_shape me r s; rw [h]
@[simp] theorem parkSplit_halt (me : Me) (r : List FaultRec) (s : State) : (parkSplit me r s).halt = s.halt := by
  obtain ⟨_, _, _, _, _, _, h⟩ := parkSplit_shape me r s; rw [h]
@[simp] theorem parkSplit_fabricOut (me : Me) (r : List FaultRec) (s : State) : (parkSplit me r s).fabricOut = s.fabricOut := by
  obtain ⟨_, _, _, _, _, _, h⟩ := parkSplit_shape me r s; rw [h]
@[simp] theorem parkSplit_routes (me : Me) (r : List FaultRec) (s : State) : (parkSplit me r s).routes = s.routes := by
  obtain ⟨_, _, _, _, _, _, h⟩ := parkSplit_shape me r s; rw [h]
@[simp] theorem parkSplit_boot (me : Me) (r : List FaultRec) (s : State) : (parkSplit me r s).boot = s.boot := by
  obtain ⟨_, _, _, _, _, _, h⟩ := parkSplit_shape me r s; rw [h]
@[simp] theorem parkSplit_cquota (me : Me) (r : List FaultRec) (s : State) : (parkSplit me r s).cquota = s.cquota := by
  obtain ⟨_, _, _, _, _, _, h⟩ := parkSplit_shape me r s; rw [h]
@[simp] theorem parkSplit_loads (me : Me) (r : List FaultRec) (s : State) : (parkSplit me r s).loads = s.loads := by
  obtain ⟨_, _, _, _, _, _, h⟩ := parkSplit_shape me r s; rw [h]
@[simp] theorem parkSplit_updates (me : Me) (r : List FaultRec) (s : State) : (parkSplit me r s).updates = s.updates := by
  obtain ⟨_, _, _, _, _, _, h⟩ := parkSplit_shape me r s; rw [h]
@[simp] theorem parkSplit_atoms (me : Me) (r : List FaultRec) (s : State) : (parkSplit me r s).atoms = s.atoms := by
  obtain ⟨_, _, _, _, _, _, h⟩ := parkSplit_shape me r s; rw [h]
@[simp] theorem parkSplit_esSlots (me : Me) (r : List FaultRec) (s : State) : (parkSplit me r s).esSlots = s.esSlots := by
  obtain ⟨_, _, _, _, _, _, h⟩ := parkSplit_shape me r s; rw [h]
@[simp] theorem parkSplit_esChans (me : Me) (r : List FaultRec) (s : State) : (parkSplit me r s).esChans = s.esChans := by
  obtain ⟨_, _, _, _, _, _, h⟩ := parkSplit_shape me r s; rw [h]
@[simp] theorem parkSplit_cores (me : Me) (r : List FaultRec) (s : State) : (parkSplit me r s).cores = s.cores := by
  obtain ⟨_, _, _, _, _, _, h⟩ := parkSplit_shape me r s; rw [h]
@[simp] theorem parkSplit_launches (me : Me) (r : List FaultRec) (s : State) : (parkSplit me r s).launches = s.launches := by
  obtain ⟨_, _, _, _, _, _, h⟩ := parkSplit_shape me r s; rw [h]
@[simp] theorem parkSplit_rays (me : Me) (r : List FaultRec) (s : State) : (parkSplit me r s).rays = s.rays := by
  obtain ⟨_, _, _, _, _, _, h⟩ := parkSplit_shape me r s; rw [h]
@[simp] theorem parkSplit_wgs (me : Me) (r : List FaultRec) (s : State) : (parkSplit me r s).wgs = s.wgs := by
  obtain ⟨_, _, _, _, _, _, h⟩ := parkSplit_shape me r s; rw [h]

/-! ### Taking a fault -/

theorem takeFault_shape (s : State) (me : Me) (r : List FaultRec) : ∃ tr cx ni se ha du co cu, takeFault s me r =
    { s with trains := tr, ctxs := cx, nextId := ni, sysEvents := se, handlers := ha, dump := du, cores := co, cur := cu } := by
  obtain ⟨_, _, _, _, _, _, h⟩ := parkSplit_shape me r s
  unfold takeFault; rw [h]; exact ⟨_, _, _, _, _, _, _, _, rfl⟩

@[simp] theorem takeFault_cycle (s : State) (me : Me) (r : List FaultRec) : (takeFault s me r).cycle = s.cycle := by
  obtain ⟨_, _, _, _, _, _, _, _, h⟩ := takeFault_shape s me r; rw [h]
@[simp] theorem takeFault_agenda (s : State) (me : Me) (r : List FaultRec) : (takeFault s me r).agenda = s.agenda := by
  obtain ⟨_, _, _, _, _, _, _, _, h⟩ := takeFault_shape s me r; rw [h]
@[simp] theorem takeFault_free (s : State) (me : Me) (r : List FaultRec) : (takeFault s me r).free = s.free := by
  obtain ⟨_, _, _, _, _, _, _, _, h⟩ := takeFault_shape s me r; rw [h]
@[simp] theorem takeFault_mem (s : State) (me : Me) (r : List FaultRec) : (takeFault s me r).mem = s.mem := by
  obtain ⟨_, _, _, _, _, _, _, _, h⟩ := takeFault_shape s me r; rw [h]
@[simp] theorem takeFault_lines (s : State) (me : Me) (r : List FaultRec) : (takeFault s me r).lines = s.lines := by
  obtain ⟨_, _, _, _, _, _, _, _, h⟩ := takeFault_shape s me r; rw [h]
@[simp] theorem takeFault_l2 (s : State) (me : Me) (r : List FaultRec) : (takeFault s me r).l2 = s.l2 := by
  obtain ⟨_, _, _, _, _, _, _, _, h⟩ := takeFault_shape s me r; rw [h]
@[simp] theorem takeFault_bad (s : State) (me : Me) (r : List FaultRec) : (takeFault s me r).bad = s.bad := by
  obtain ⟨_, _, _, _, _, _, _, _, h⟩ := takeFault_shape s me r; rw [h]
@[simp] theorem takeFault_timer (s : State) (me : Me) (r : List FaultRec) : (takeFault s me r).timer = s.timer := by
  obtain ⟨_, _, _, _, _, _, _, _, h⟩ := takeFault_shape s me r; rw [h]
@[simp] theorem takeFault_packets (s : State) (me : Me) (r : List FaultRec) : (takeFault s me r).packets = s.packets := by
  obtain ⟨_, _, _, _, _, _, _, _, h⟩ := takeFault_shape s me r; rw [h]
@[simp] theorem takeFault_halt (s : State) (me : Me) (r : List FaultRec) : (takeFault s me r).halt = s.halt := by
  obtain ⟨_, _, _, _, _, _, _, _, h⟩ := takeFault_shape s me r; rw [h]
@[simp] theorem takeFault_fabricOut (s : State) (me : Me) (r : List FaultRec) : (takeFault s me r).fabricOut = s.fabricOut := by
  obtain ⟨_, _, _, _, _, _, _, _, h⟩ := takeFault_shape s me r; rw [h]
@[simp] theorem takeFault_routes (s : State) (me : Me) (r : List FaultRec) : (takeFault s me r).routes = s.routes := by
  obtain ⟨_, _, _, _, _, _, _, _, h⟩ := takeFault_shape s me r; rw [h]
@[simp] theorem takeFault_boot (s : State) (me : Me) (r : List FaultRec) : (takeFault s me r).boot = s.boot := by
  obtain ⟨_, _, _, _, _, _, _, _, h⟩ := takeFault_shape s me r; rw [h]
@[simp] theorem takeFault_cquota (s : State) (me : Me) (r : List FaultRec) : (takeFault s me r).cquota = s.cquota := by
  obtain ⟨_, _, _, _, _, _, _, _, h⟩ := takeFault_shape s me r; rw [h]
@[simp] theorem takeFault_loads (s : State) (me : Me) (r : List FaultRec) : (takeFault s me r).loads = s.loads := by
  obtain ⟨_, _, _, _, _, _, _, _, h⟩ := takeFault_shape s me r; rw [h]
@[simp] theorem takeFault_updates (s : State) (me : Me) (r : List FaultRec) : (takeFault s me r).updates = s.updates := by
  obtain ⟨_, _, _, _, _, _, _, _, h⟩ := takeFault_shape s me r; rw [h]
@[simp] theorem takeFault_atoms (s : State) (me : Me) (r : List FaultRec) : (takeFault s me r).atoms = s.atoms := by
  obtain ⟨_, _, _, _, _, _, _, _, h⟩ := takeFault_shape s me r; rw [h]
@[simp] theorem takeFault_esSlots (s : State) (me : Me) (r : List FaultRec) : (takeFault s me r).esSlots = s.esSlots := by
  obtain ⟨_, _, _, _, _, _, _, _, h⟩ := takeFault_shape s me r; rw [h]
@[simp] theorem takeFault_esChans (s : State) (me : Me) (r : List FaultRec) : (takeFault s me r).esChans = s.esChans := by
  obtain ⟨_, _, _, _, _, _, _, _, h⟩ := takeFault_shape s me r; rw [h]
@[simp] theorem takeFault_launches (s : State) (me : Me) (r : List FaultRec) : (takeFault s me r).launches = s.launches := by
  obtain ⟨_, _, _, _, _, _, _, _, h⟩ := takeFault_shape s me r; rw [h]
@[simp] theorem takeFault_rays (s : State) (me : Me) (r : List FaultRec) : (takeFault s me r).rays = s.rays := by
  obtain ⟨_, _, _, _, _, _, _, _, h⟩ := takeFault_shape s me r; rw [h]
@[simp] theorem takeFault_wgs (s : State) (me : Me) (r : List FaultRec) : (takeFault s me r).wgs = s.wgs := by
  obtain ⟨_, _, _, _, _, _, _, _, h⟩ := takeFault_shape s me r; rw [h]

/-! ### Taking the fault of an instruction -/

theorem faultWith_shape (s : State) (me : Me) (r : List FaultRec) : ∃ tr cx ni se ha du co cu, faultWith s me r =
    { s with trains := tr, ctxs := cx, nextId := ni, sysEvents := se, handlers := ha, dump := du, cores := co, cur := cu } := by
  unfold faultWith; simp only []; split
  · obtain ⟨_, _, _, _, _, _, _, _, h⟩ := takeFault_shape (s.updSplit me _) me r
    rw [h]; exact ⟨_, _, _, _, _, _, _, _, rfl⟩
  · obtain ⟨_, _, _, _, _, _, _, _, h⟩ := takeFault_shape (s.updSplit me _) me r
    rw [h]; exact ⟨_, _, _, _, _, _, _, _, rfl⟩
  · obtain ⟨_, _, _, _, _, _, _, _, h⟩ := takeFault_shape s me r
    rw [h]; exact ⟨_, _, _, _, _, _, _, _, rfl⟩

@[simp] theorem faultWith_cycle (s : State) (me : Me) (r : List FaultRec) : (faultWith s me r).cycle = s.cycle := by
  obtain ⟨_, _, _, _, _, _, _, _, h⟩ := faultWith_shape s me r; rw [h]
@[simp] theorem faultWith_agenda (s : State) (me : Me) (r : List FaultRec) : (faultWith s me r).agenda = s.agenda := by
  obtain ⟨_, _, _, _, _, _, _, _, h⟩ := faultWith_shape s me r; rw [h]
@[simp] theorem faultWith_free (s : State) (me : Me) (r : List FaultRec) : (faultWith s me r).free = s.free := by
  obtain ⟨_, _, _, _, _, _, _, _, h⟩ := faultWith_shape s me r; rw [h]
@[simp] theorem faultWith_mem (s : State) (me : Me) (r : List FaultRec) : (faultWith s me r).mem = s.mem := by
  obtain ⟨_, _, _, _, _, _, _, _, h⟩ := faultWith_shape s me r; rw [h]
@[simp] theorem faultWith_lines (s : State) (me : Me) (r : List FaultRec) : (faultWith s me r).lines = s.lines := by
  obtain ⟨_, _, _, _, _, _, _, _, h⟩ := faultWith_shape s me r; rw [h]
@[simp] theorem faultWith_l2 (s : State) (me : Me) (r : List FaultRec) : (faultWith s me r).l2 = s.l2 := by
  obtain ⟨_, _, _, _, _, _, _, _, h⟩ := faultWith_shape s me r; rw [h]
@[simp] theorem faultWith_bad (s : State) (me : Me) (r : List FaultRec) : (faultWith s me r).bad = s.bad := by
  obtain ⟨_, _, _, _, _, _, _, _, h⟩ := faultWith_shape s me r; rw [h]
@[simp] theorem faultWith_timer (s : State) (me : Me) (r : List FaultRec) : (faultWith s me r).timer = s.timer := by
  obtain ⟨_, _, _, _, _, _, _, _, h⟩ := faultWith_shape s me r; rw [h]
@[simp] theorem faultWith_packets (s : State) (me : Me) (r : List FaultRec) : (faultWith s me r).packets = s.packets := by
  obtain ⟨_, _, _, _, _, _, _, _, h⟩ := faultWith_shape s me r; rw [h]
@[simp] theorem faultWith_halt (s : State) (me : Me) (r : List FaultRec) : (faultWith s me r).halt = s.halt := by
  obtain ⟨_, _, _, _, _, _, _, _, h⟩ := faultWith_shape s me r; rw [h]
@[simp] theorem faultWith_fabricOut (s : State) (me : Me) (r : List FaultRec) : (faultWith s me r).fabricOut = s.fabricOut := by
  obtain ⟨_, _, _, _, _, _, _, _, h⟩ := faultWith_shape s me r; rw [h]
@[simp] theorem faultWith_routes (s : State) (me : Me) (r : List FaultRec) : (faultWith s me r).routes = s.routes := by
  obtain ⟨_, _, _, _, _, _, _, _, h⟩ := faultWith_shape s me r; rw [h]
@[simp] theorem faultWith_boot (s : State) (me : Me) (r : List FaultRec) : (faultWith s me r).boot = s.boot := by
  obtain ⟨_, _, _, _, _, _, _, _, h⟩ := faultWith_shape s me r; rw [h]
@[simp] theorem faultWith_cquota (s : State) (me : Me) (r : List FaultRec) : (faultWith s me r).cquota = s.cquota := by
  obtain ⟨_, _, _, _, _, _, _, _, h⟩ := faultWith_shape s me r; rw [h]
@[simp] theorem faultWith_loads (s : State) (me : Me) (r : List FaultRec) : (faultWith s me r).loads = s.loads := by
  obtain ⟨_, _, _, _, _, _, _, _, h⟩ := faultWith_shape s me r; rw [h]
@[simp] theorem faultWith_updates (s : State) (me : Me) (r : List FaultRec) : (faultWith s me r).updates = s.updates := by
  obtain ⟨_, _, _, _, _, _, _, _, h⟩ := faultWith_shape s me r; rw [h]
@[simp] theorem faultWith_atoms (s : State) (me : Me) (r : List FaultRec) : (faultWith s me r).atoms = s.atoms := by
  obtain ⟨_, _, _, _, _, _, _, _, h⟩ := faultWith_shape s me r; rw [h]
@[simp] theorem faultWith_esSlots (s : State) (me : Me) (r : List FaultRec) : (faultWith s me r).esSlots = s.esSlots := by
  obtain ⟨_, _, _, _, _, _, _, _, h⟩ := faultWith_shape s me r; rw [h]
@[simp] theorem faultWith_esChans (s : State) (me : Me) (r : List FaultRec) : (faultWith s me r).esChans = s.esChans := by
  obtain ⟨_, _, _, _, _, _, _, _, h⟩ := faultWith_shape s me r; rw [h]
@[simp] theorem faultWith_launches (s : State) (me : Me) (r : List FaultRec) : (faultWith s me r).launches = s.launches := by
  obtain ⟨_, _, _, _, _, _, _, _, h⟩ := faultWith_shape s me r; rw [h]
@[simp] theorem faultWith_rays (s : State) (me : Me) (r : List FaultRec) : (faultWith s me r).rays = s.rays := by
  obtain ⟨_, _, _, _, _, _, _, _, h⟩ := faultWith_shape s me r; rw [h]
@[simp] theorem faultWith_wgs (s : State) (me : Me) (r : List FaultRec) : (faultWith s me r).wgs = s.wgs := by
  obtain ⟨_, _, _, _, _, _, _, _, h⟩ := faultWith_shape s me r; rw [h]

/-! ### A train-level fault with an address -/

theorem faultAt_shape (k : Kind) (a : DWord) (n : Nat) (i : Word) (me : Me) (s : State) : ∃ tr cx ni se ha du co cu, faultAt k a n i me s =
    { s with trains := tr, ctxs := cx, nextId := ni, sysEvents := se, handlers := ha, dump := du, cores := co, cur := cu } := faultWith_shape s me _

@[simp] theorem faultAt_cycle (k : Kind) (a : DWord) (n : Nat) (i : Word) (me : Me) (s : State) : (faultAt k a n i me s).cycle = s.cycle := by
  obtain ⟨_, _, _, _, _, _, _, _, h⟩ := faultAt_shape k a n i me s; rw [h]
@[simp] theorem faultAt_agenda (k : Kind) (a : DWord) (n : Nat) (i : Word) (me : Me) (s : State) : (faultAt k a n i me s).agenda = s.agenda := by
  obtain ⟨_, _, _, _, _, _, _, _, h⟩ := faultAt_shape k a n i me s; rw [h]
@[simp] theorem faultAt_free (k : Kind) (a : DWord) (n : Nat) (i : Word) (me : Me) (s : State) : (faultAt k a n i me s).free = s.free := by
  obtain ⟨_, _, _, _, _, _, _, _, h⟩ := faultAt_shape k a n i me s; rw [h]
@[simp] theorem faultAt_mem (k : Kind) (a : DWord) (n : Nat) (i : Word) (me : Me) (s : State) : (faultAt k a n i me s).mem = s.mem := by
  obtain ⟨_, _, _, _, _, _, _, _, h⟩ := faultAt_shape k a n i me s; rw [h]
@[simp] theorem faultAt_lines (k : Kind) (a : DWord) (n : Nat) (i : Word) (me : Me) (s : State) : (faultAt k a n i me s).lines = s.lines := by
  obtain ⟨_, _, _, _, _, _, _, _, h⟩ := faultAt_shape k a n i me s; rw [h]
@[simp] theorem faultAt_l2 (k : Kind) (a : DWord) (n : Nat) (i : Word) (me : Me) (s : State) : (faultAt k a n i me s).l2 = s.l2 := by
  obtain ⟨_, _, _, _, _, _, _, _, h⟩ := faultAt_shape k a n i me s; rw [h]
@[simp] theorem faultAt_bad (k : Kind) (a : DWord) (n : Nat) (i : Word) (me : Me) (s : State) : (faultAt k a n i me s).bad = s.bad := by
  obtain ⟨_, _, _, _, _, _, _, _, h⟩ := faultAt_shape k a n i me s; rw [h]
@[simp] theorem faultAt_timer (k : Kind) (a : DWord) (n : Nat) (i : Word) (me : Me) (s : State) : (faultAt k a n i me s).timer = s.timer := by
  obtain ⟨_, _, _, _, _, _, _, _, h⟩ := faultAt_shape k a n i me s; rw [h]
@[simp] theorem faultAt_packets (k : Kind) (a : DWord) (n : Nat) (i : Word) (me : Me) (s : State) : (faultAt k a n i me s).packets = s.packets := by
  obtain ⟨_, _, _, _, _, _, _, _, h⟩ := faultAt_shape k a n i me s; rw [h]
@[simp] theorem faultAt_halt (k : Kind) (a : DWord) (n : Nat) (i : Word) (me : Me) (s : State) : (faultAt k a n i me s).halt = s.halt := by
  obtain ⟨_, _, _, _, _, _, _, _, h⟩ := faultAt_shape k a n i me s; rw [h]
@[simp] theorem faultAt_fabricOut (k : Kind) (a : DWord) (n : Nat) (i : Word) (me : Me) (s : State) : (faultAt k a n i me s).fabricOut = s.fabricOut := by
  obtain ⟨_, _, _, _, _, _, _, _, h⟩ := faultAt_shape k a n i me s; rw [h]
@[simp] theorem faultAt_routes (k : Kind) (a : DWord) (n : Nat) (i : Word) (me : Me) (s : State) : (faultAt k a n i me s).routes = s.routes := by
  obtain ⟨_, _, _, _, _, _, _, _, h⟩ := faultAt_shape k a n i me s; rw [h]
@[simp] theorem faultAt_boot (k : Kind) (a : DWord) (n : Nat) (i : Word) (me : Me) (s : State) : (faultAt k a n i me s).boot = s.boot := by
  obtain ⟨_, _, _, _, _, _, _, _, h⟩ := faultAt_shape k a n i me s; rw [h]
@[simp] theorem faultAt_cquota (k : Kind) (a : DWord) (n : Nat) (i : Word) (me : Me) (s : State) : (faultAt k a n i me s).cquota = s.cquota := by
  obtain ⟨_, _, _, _, _, _, _, _, h⟩ := faultAt_shape k a n i me s; rw [h]
@[simp] theorem faultAt_loads (k : Kind) (a : DWord) (n : Nat) (i : Word) (me : Me) (s : State) : (faultAt k a n i me s).loads = s.loads := by
  obtain ⟨_, _, _, _, _, _, _, _, h⟩ := faultAt_shape k a n i me s; rw [h]
@[simp] theorem faultAt_updates (k : Kind) (a : DWord) (n : Nat) (i : Word) (me : Me) (s : State) : (faultAt k a n i me s).updates = s.updates := by
  obtain ⟨_, _, _, _, _, _, _, _, h⟩ := faultAt_shape k a n i me s; rw [h]
@[simp] theorem faultAt_atoms (k : Kind) (a : DWord) (n : Nat) (i : Word) (me : Me) (s : State) : (faultAt k a n i me s).atoms = s.atoms := by
  obtain ⟨_, _, _, _, _, _, _, _, h⟩ := faultAt_shape k a n i me s; rw [h]
@[simp] theorem faultAt_esSlots (k : Kind) (a : DWord) (n : Nat) (i : Word) (me : Me) (s : State) : (faultAt k a n i me s).esSlots = s.esSlots := by
  obtain ⟨_, _, _, _, _, _, _, _, h⟩ := faultAt_shape k a n i me s; rw [h]
@[simp] theorem faultAt_esChans (k : Kind) (a : DWord) (n : Nat) (i : Word) (me : Me) (s : State) : (faultAt k a n i me s).esChans = s.esChans := by
  obtain ⟨_, _, _, _, _, _, _, _, h⟩ := faultAt_shape k a n i me s; rw [h]
@[simp] theorem faultAt_launches (k : Kind) (a : DWord) (n : Nat) (i : Word) (me : Me) (s : State) : (faultAt k a n i me s).launches = s.launches := by
  obtain ⟨_, _, _, _, _, _, _, _, h⟩ := faultAt_shape k a n i me s; rw [h]
@[simp] theorem faultAt_rays (k : Kind) (a : DWord) (n : Nat) (i : Word) (me : Me) (s : State) : (faultAt k a n i me s).rays = s.rays := by
  obtain ⟨_, _, _, _, _, _, _, _, h⟩ := faultAt_shape k a n i me s; rw [h]
@[simp] theorem faultAt_wgs (k : Kind) (a : DWord) (n : Nat) (i : Word) (me : Me) (s : State) : (faultAt k a n i me s).wgs = s.wgs := by
  obtain ⟨_, _, _, _, _, _, _, _, h⟩ := faultAt_shape k a n i me s; rw [h]

/-! ### A train-level fault -/

theorem faultTrain_shape (k : Kind) (i : Word) (me : Me) (s : State) : ∃ tr cx ni se ha du co cu, faultTrain k i me s =
    { s with trains := tr, ctxs := cx, nextId := ni, sysEvents := se, handlers := ha, dump := du, cores := co, cur := cu } := faultAt_shape k 0 0 i me s

@[simp] theorem faultTrain_cycle (k : Kind) (i : Word) (me : Me) (s : State) : (faultTrain k i me s).cycle = s.cycle := by
  obtain ⟨_, _, _, _, _, _, _, _, h⟩ := faultTrain_shape k i me s; rw [h]
@[simp] theorem faultTrain_agenda (k : Kind) (i : Word) (me : Me) (s : State) : (faultTrain k i me s).agenda = s.agenda := by
  obtain ⟨_, _, _, _, _, _, _, _, h⟩ := faultTrain_shape k i me s; rw [h]
@[simp] theorem faultTrain_free (k : Kind) (i : Word) (me : Me) (s : State) : (faultTrain k i me s).free = s.free := by
  obtain ⟨_, _, _, _, _, _, _, _, h⟩ := faultTrain_shape k i me s; rw [h]
@[simp] theorem faultTrain_mem (k : Kind) (i : Word) (me : Me) (s : State) : (faultTrain k i me s).mem = s.mem := by
  obtain ⟨_, _, _, _, _, _, _, _, h⟩ := faultTrain_shape k i me s; rw [h]
@[simp] theorem faultTrain_lines (k : Kind) (i : Word) (me : Me) (s : State) : (faultTrain k i me s).lines = s.lines := by
  obtain ⟨_, _, _, _, _, _, _, _, h⟩ := faultTrain_shape k i me s; rw [h]
@[simp] theorem faultTrain_l2 (k : Kind) (i : Word) (me : Me) (s : State) : (faultTrain k i me s).l2 = s.l2 := by
  obtain ⟨_, _, _, _, _, _, _, _, h⟩ := faultTrain_shape k i me s; rw [h]
@[simp] theorem faultTrain_bad (k : Kind) (i : Word) (me : Me) (s : State) : (faultTrain k i me s).bad = s.bad := by
  obtain ⟨_, _, _, _, _, _, _, _, h⟩ := faultTrain_shape k i me s; rw [h]
@[simp] theorem faultTrain_timer (k : Kind) (i : Word) (me : Me) (s : State) : (faultTrain k i me s).timer = s.timer := by
  obtain ⟨_, _, _, _, _, _, _, _, h⟩ := faultTrain_shape k i me s; rw [h]
@[simp] theorem faultTrain_packets (k : Kind) (i : Word) (me : Me) (s : State) : (faultTrain k i me s).packets = s.packets := by
  obtain ⟨_, _, _, _, _, _, _, _, h⟩ := faultTrain_shape k i me s; rw [h]
@[simp] theorem faultTrain_halt (k : Kind) (i : Word) (me : Me) (s : State) : (faultTrain k i me s).halt = s.halt := by
  obtain ⟨_, _, _, _, _, _, _, _, h⟩ := faultTrain_shape k i me s; rw [h]
@[simp] theorem faultTrain_fabricOut (k : Kind) (i : Word) (me : Me) (s : State) : (faultTrain k i me s).fabricOut = s.fabricOut := by
  obtain ⟨_, _, _, _, _, _, _, _, h⟩ := faultTrain_shape k i me s; rw [h]
@[simp] theorem faultTrain_routes (k : Kind) (i : Word) (me : Me) (s : State) : (faultTrain k i me s).routes = s.routes := by
  obtain ⟨_, _, _, _, _, _, _, _, h⟩ := faultTrain_shape k i me s; rw [h]
@[simp] theorem faultTrain_boot (k : Kind) (i : Word) (me : Me) (s : State) : (faultTrain k i me s).boot = s.boot := by
  obtain ⟨_, _, _, _, _, _, _, _, h⟩ := faultTrain_shape k i me s; rw [h]
@[simp] theorem faultTrain_cquota (k : Kind) (i : Word) (me : Me) (s : State) : (faultTrain k i me s).cquota = s.cquota := by
  obtain ⟨_, _, _, _, _, _, _, _, h⟩ := faultTrain_shape k i me s; rw [h]
@[simp] theorem faultTrain_loads (k : Kind) (i : Word) (me : Me) (s : State) : (faultTrain k i me s).loads = s.loads := by
  obtain ⟨_, _, _, _, _, _, _, _, h⟩ := faultTrain_shape k i me s; rw [h]
@[simp] theorem faultTrain_updates (k : Kind) (i : Word) (me : Me) (s : State) : (faultTrain k i me s).updates = s.updates := by
  obtain ⟨_, _, _, _, _, _, _, _, h⟩ := faultTrain_shape k i me s; rw [h]
@[simp] theorem faultTrain_atoms (k : Kind) (i : Word) (me : Me) (s : State) : (faultTrain k i me s).atoms = s.atoms := by
  obtain ⟨_, _, _, _, _, _, _, _, h⟩ := faultTrain_shape k i me s; rw [h]
@[simp] theorem faultTrain_esSlots (k : Kind) (i : Word) (me : Me) (s : State) : (faultTrain k i me s).esSlots = s.esSlots := by
  obtain ⟨_, _, _, _, _, _, _, _, h⟩ := faultTrain_shape k i me s; rw [h]
@[simp] theorem faultTrain_esChans (k : Kind) (i : Word) (me : Me) (s : State) : (faultTrain k i me s).esChans = s.esChans := by
  obtain ⟨_, _, _, _, _, _, _, _, h⟩ := faultTrain_shape k i me s; rw [h]
@[simp] theorem faultTrain_launches (k : Kind) (i : Word) (me : Me) (s : State) : (faultTrain k i me s).launches = s.launches := by
  obtain ⟨_, _, _, _, _, _, _, _, h⟩ := faultTrain_shape k i me s; rw [h]
@[simp] theorem faultTrain_rays (k : Kind) (i : Word) (me : Me) (s : State) : (faultTrain k i me s).rays = s.rays := by
  obtain ⟨_, _, _, _, _, _, _, _, h⟩ := faultTrain_shape k i me s; rw [h]
@[simp] theorem faultTrain_wgs (k : Kind) (i : Word) (me : Me) (s : State) : (faultTrain k i me s).wgs = s.wgs := by
  obtain ⟨_, _, _, _, _, _, _, _, h⟩ := faultTrain_shape k i me s; rw [h]

end Sys2Proof.Machine
end

