-- ==== Sys2Proof/Laws/Registers.lean ====
section
/-! SUPPORT. What reading a register gives after each write of one, and which registers the shared operations of a word
keep. -/

namespace Sys2Proof.Machine

/-! ### Lists -/

theorem listSet_length {α : Type} (l : List α) (i : Nat) (v : α) : (listSet l i v).length = l.length := by
  induction l generalizing i with
  | nil => rfl
  | cons x t ih => cases i <;> simp [listSet, ih]

theorem getD_listSet {α : Type} (l : List α) (i j : Nat) (v d : α) :
    (listSet l i v).getD j d = if j = i ∧ i < l.length then v else l.getD j d := by
  induction l generalizing i j with
  | nil => simp [listSet]
  | cons x t ih =>
    cases i with
    | zero => cases j <;> simp [listSet]
    | succ i =>
      cases j with
      | zero => simp [listSet]
      | succ j => simpa [listSet] using ih i j

/-! ### Splits -/

/-- Another split stands; the changed one is as told, if the train has it. -/
theorem Train.split_updSplit (t : Train) (n m : Nat) (f : Split → Split) :
    (t.updSplit n f).split m = if m = n ∧ n < t.splits.length then f (t.split n) else t.split m := by
  simp only [Train.split, Train.updSplit, Train.setSplit, getD_listSet]

@[simp] theorem Train.updSplit_vregs (t : Train) (n : Nat) (f : Split → Split) : (t.updSplit n f).vregs = t.vregs := rfl
@[simp] theorem Train.updSplit_sregs (t : Train) (n : Nat) (f : Split → Split) : (t.updSplit n f).sregs = t.sregs := rfl
@[simp] theorem Train.updSplit_fix (t : Train) (n : Nat) (f : Split → Split) : (t.updSplit n f).fix = t.fix := rfl
@[simp] theorem Train.updSplit_gens (t : Train) (n : Nat) (f : Split → Split) : (t.updSplit n f).gens = t.gens := rfl
@[simp] theorem Train.updSplit_readV (t : Train) (n r l : Nat) (f : Split → Split) :
    (t.updSplit n f).readV r l = t.readV r l := rfl

/-- A change of a split that keeps its ACTIVE mask keeps what every split reads in its scalar registers. -/
theorem Train.readS_updSplit (t : Train) (n sid r : Nat) (f : Split → Split)
    (h : (f (t.split n)).active = (t.split n).active) : (t.updSplit n f).readS sid r = t.readS sid r := by
  unfold Train.readS
  rw [Train.split_updSplit]
  by_cases hs : sid = n ∧ n < t.splits.length
  · rw [if_pos hs, h, hs.1]; rfl
  · rw [if_neg hs]; rfl

/-! ### Vector registers -/

@[simp] theorem updLanes_getD (m : LaneMask) (old : List Word) (f : Nat → Word) (l : Nat) (hl : l < 96) :
    (updLanes m old f).getD l 0 = if m.getLsbD l then f l else old.getD l 0 := by
  simp [updLanes, List.getD, hl]

/-- v0 reads zero (R54). -/
@[simp] theorem Train.readV_zero (t : Train) (l : Nat) : t.readV 0 l = 0 := rfl

/-- Reading a vector register after a write of one (R54, R91). -/
theorem Train.readV_writeV (t : Train) (m : LaneMask) (n r l : Nat) (f : Nat → Word) (hl : l < 96) :
    (t.writeV m n f).readV r l = if r = n ∧ n ≠ 0 ∧ m.getLsbD l then f l else t.readV r l := by
  unfold Train.writeV Train.readV
  by_cases hn : n = 0
  · simp [hn]
  · by_cases hr : r = n
    · subst hr
      simp only [beq_iff_eq, hn, if_false, Tab.get_put_same, updLanes_getD _ _ _ l hl]
      simp [hn]
    · simp [hn, hr, Tab.get_put]

theorem Train.readV_writeV_other (t : Train) (m : LaneMask) (n r l : Nat) (f : Nat → Word) (h : r ≠ n) :
    (t.writeV m n f).readV r l = t.readV r l := by
  unfold Train.writeV Train.readV
  by_cases hn : n = 0
  · simp [hn]
  · simp [hn, h, Tab.get_put]

@[simp] theorem Train.writeV_splits (t : Train) (m : LaneMask) (n : Nat) (f : Nat → Word) :
    (t.writeV m n f).splits = t.splits := by
  unfold Train.writeV; split <;> rfl
@[simp] theorem Train.writeV_sregs (t : Train) (m : LaneMask) (n : Nat) (f : Nat → Word) :
    (t.writeV m n f).sregs = t.sregs := by
  unfold Train.writeV; split <;> rfl
@[simp] theorem Train.writeV_fix (t : Train) (m : LaneMask) (n : Nat) (f : Nat → Word) : (t.writeV m n f).fix = t.fix := by
  unfold Train.writeV; split <;> rfl
@[simp] theorem Train.writeV_gens (t : Train) (m : LaneMask) (n : Nat) (f : Nat → Word) :
    (t.writeV m n f).gens = t.gens := by
  unfold Train.writeV; split <;> rfl

@[simp] theorem Train.writeVN_splits (t : Train) (m : LaneMask) (n : Nat) (f : Nat → Nat) (k : Nat) :
    (t.writeVN m n f k).splits = t.splits := by
  induction k with
  | zero => rfl
  | succ k ih => simp [Train.writeVN, ih]
@[simp] theorem Train.writeVN_sregs (t : Train) (m : LaneMask) (n : Nat) (f : Nat → Nat) (k : Nat) :
    (t.writeVN m n f k).sregs = t.sregs := by
  induction k with
  | zero => rfl
  | succ k ih => simp [Train.writeVN, ih]
@[simp] theorem Train.writeVN_fix (t : Train) (m : LaneMask) (n : Nat) (f : Nat → Nat) (k : Nat) :
    (t.writeVN m n f k).fix = t.fix := by
  induction k with
  | zero => rfl
  | succ k ih => simp [Train.writeVN, ih]
@[simp] theorem Train.writeVN_gens (t : Train) (m : LaneMask) (n : Nat) (f : Nat → Nat) (k : Nat) :
    (t.writeVN m n f k).gens = t.gens := by
  induction k with
  | zero => rfl
  | succ k ih => simp [Train.writeVN, ih]

theorem Train.readV_writeVN_other (t : Train) (m : LaneMask) (n r l k : Nat) (f : Nat → Nat) (h : r < n ∨ n + k ≤ r) :
    (t.writeVN m n f k).readV r l = t.readV r l := by
  induction k with
  | zero => rfl
  | succ k ih =>
    rw [Train.writeVN, Train.readV_writeV_other _ _ _ _ _ _ (by omega), ih (by omega)]

/-- A write of `k` registers puts word `i` of each lane's value into register `n + i` (R26). -/
theorem Train.readV_writeVN (t : Train) (m : LaneMask) (n l k i : Nat) (f : Nat → Nat) (hl : l < 96) (hi : i < k)
    (hn : n + i ≠ 0) :
    (t.writeVN m n f k).readV (n + i) l =
      if m.getLsbD l then BitVec.ofNat 32 (f l / 2 ^ (32 * i)) else t.readV (n + i) l := by
  induction k with
  | zero => omega
  | succ k ih =>
    rw [Train.writeVN, Train.readV_writeV _ _ _ _ _ _ hl]
    by_cases hk : i = k
    · subst hk
      rw [Train.readV_writeVN_other _ _ _ _ _ _ _ (by omega)]
      simp only [ne_eq, hn, not_false_eq_true, true_and]
    · rw [if_neg (by omega), ih (by omega)]

/-! ### Scalar registers -/

/-- s0 reads zero (R56). -/
@[simp] theorem Train.readS_zero (t : Train) (sid : Nat) : t.readS sid 0 = 0 := rfl

@[simp] theorem Train.writeS_vregs (t : Train) (sid n : Nat) (v : Word) : (t.writeS sid n v).vregs = t.vregs := by
  unfold Train.writeS; repeat' split
  all_goals rfl
@[simp] theorem Train.writeS_readV (t : Train) (sid n r l : Nat) (v : Word) :
    (t.writeS sid n v).readV r l = t.readV r l := by
  simp [Train.readV]
@[simp] theorem Train.writeS_fix (t : Train) (sid n : Nat) (v : Word) : (t.writeS sid n v).fix = t.fix := by
  unfold Train.writeS; repeat' split
  all_goals rfl
@[simp] theorem Train.writeS_gens (t : Train) (sid n : Nat) (v : Word) : (t.writeS sid n v).gens = t.gens := by
  unfold Train.writeS; repeat' split
  all_goals rfl

/-- A scalar register other than the ACTIVE words reads as it was written (R56, R58). -/
theorem Train.readS_writeS_same (t : Train) (sid n : Nat) (v : Word) (h0 : n ≠ 0) (h1 : n < 120 ∨ 127 ≤ n) :
    (t.writeS sid n v).readS sid n = v := by
  unfold Train.writeS Train.readS
  have b : n ≠ 120 := by omega
  have c : ¬ (124 ≤ n ∧ n ≤ 126) := by omega
  have d : ¬ (121 ≤ n ∧ n ≤ 123) := by omega
  simp [h0, b, c, d]

/-- Writing a scalar register that is no ACTIVE word keeps every other register of every split. -/
theorem Train.readS_writeS_other (t : Train) (sid sid' n r : Nat) (v : Word) (h : r ≠ n) (h1 : n < 124 ∨ 127 ≤ n) :
    (t.writeS sid n v).readS sid' r = t.readS sid' r := by
  have c : ¬ (124 ≤ n ∧ n ≤ 126) := by omega
  unfold Train.writeS
  split
  · rfl
  · split
    · rename_i h2; simp only [beq_iff_eq] at h2; subst h2; simp [Train.readS, Tab.get_put, h, Train.split]
    · simp [c, Train.readS, Tab.get_put, h, Train.split]

/-! ### Destinations -/

@[simp] theorem writeDst_sregs (t : Train) (m : LaneMask) (c : Nat) (w : Bool) (v : Nat → Nat) :
    (writeDst t m c w v).sregs = t.sregs := by
  unfold writeDst; repeat' split
  all_goals simp
@[simp] theorem writeDst_splits (t : Train) (m : LaneMask) (c : Nat) (w : Bool) (v : Nat → Nat) :
    (writeDst t m c w v).splits = t.splits := by
  unfold writeDst; repeat' split
  all_goals simp
@[simp] theorem writeDst_gens (t : Train) (m : LaneMask) (c : Nat) (w : Bool) (v : Nat → Nat) :
    (writeDst t m c w v).gens = t.gens := by
  unfold writeDst; repeat' split
  all_goals simp
@[simp] theorem writeDst_readS (t : Train) (m : LaneMask) (c sid r : Nat) (w : Bool) (v : Nat → Nat) :
    (writeDst t m c w v).readS sid r = t.readS sid r := by
  simp [Train.readS, Train.split]

/-- A vector-class destination keeps every v register that it does not name. -/
theorem readV_writeDst_other (t : Train) (m : LaneMask) (c r l : Nat) (w : Bool) (v : Nat → Nat)
    (h : r ≠ c ∧ (w = true → r ≠ c + 1)) : (writeDst t m c w v).readV r l = t.readV r l := by
  unfold writeDst
  split
  · cases w
    · exact Train.readV_writeVN_other _ _ _ _ _ _ _ (by simp; omega)
    · exact Train.readV_writeVN_other _ _ _ _ _ _ _ (by have := h.2 rfl; simp; omega)
  · split <;> rfl

/-! ### The words of a run -/

/-- The train of the issuer after the retirement of a word: its split alone has changed, and not in its lanes. -/
theorem retire_train (me : Me) (s : State) : ∃ f : Split → Split,
    (∀ sp, (f sp).member = sp.member ∧ (f sp).active = sp.active ∧ (f sp).valid = sp.valid ∧ (f sp).state = sp.state ∧
      (f sp).recs = sp.recs) ∧
    ∀ k, (retire me s).train k = if k = me.tid then (s.train me.tid).updSplit me.sid f else s.train k := by
  refine ⟨fun sp => { sp with
      pc := if me.wordsLeft s ≤ 1 then sp.back.getD (sp.pc + 1) else sp.pc + 1, replay := none,
              partialEnd := if me.wordsLeft s ≤ 1 then none else sp.partialEnd,
      back := if me.wordsLeft s ≤ 1 then none else sp.back }, fun sp => ⟨rfl, rfl, rfl, rfl, rfl⟩, fun k => ?_⟩
  rw [← State.train_updSplit]
  unfold retire
  simp only []
  split <;> rfl

@[simp] theorem retire_readV (me : Me) (s : State) (k r l : Nat) :
    ((retire me s).train k).readV r l = (s.train k).readV r l := by
  obtain ⟨f, _, h⟩ := retire_train me s
  rw [h]; split <;> simp_all

@[simp] theorem retire_readS (me : Me) (s : State) (k sid r : Nat) :
    ((retire me s).train k).readS sid r = (s.train k).readS sid r := by
  obtain ⟨f, hf, h⟩ := retire_train me s
  rw [h]; split
  · rename_i hk; subst hk; exact Train.readS_updSplit _ _ _ _ _ (hf _).2.1
  · rfl

theorem goto_train (pc : Nat) (me : Me) (s : State) (k : Nat) : (goto pc me s).train k =
    if k = me.tid then (s.train me.tid).updSplit me.sid fun sp => { sp with pc := pc, replay := none, partialEnd := none }
    else s.train k := by
  rw [← State.train_updSplit]; rfl

@[simp] theorem goto_readV (pc : Nat) (me : Me) (s : State) (k r l : Nat) :
    ((goto pc me s).train k).readV r l = (s.train k).readV r l := by
  rw [goto_train]; split <;> simp_all

@[simp] theorem goto_readS (pc : Nat) (me : Me) (s : State) (k sid r : Nat) :
    ((goto pc me s).train k).readS sid r = (s.train k).readS sid r := by
  rw [goto_train]; split
  · rename_i hk; subst hk; exact Train.readS_updSplit _ _ _ _ _ rfl
  · rfl

@[simp] theorem stall_train (k : Nat) (me : Me) (s : State) (tid : Nat) : (stall k me s).train tid = s.train tid := rfl

end Sys2Proof.Machine
end

