-- ==== Sys2Proof/Laws/Floats.lean ====
section
/-! SUPPORT. What a floating word does when no trap is enabled, when one is met, and what parking a split keeps. -/

namespace Sys2Proof.Machine

/-- With no trap enabled no lane traps (R41). -/
theorem trapLanes_none {mode : Word} {act : LaneMask} {fl : Nat → Flags} (h : trapEnables mode = 0) :
    trapLanes mode act fl = 0 := by
  have hp : ∀ n : Nat, maskOf.packBits (List.replicate n false) = 0 := by
    intro n
    induction n with
    | zero => rfl
    | succ n ih => simp [List.replicate_succ, maskOf.packBits, ih]
  have : (maskOf fun l => (fl l &&& trapEnables mode) != 0) = 0 := by
    simp only [h, maskOf]
    have : (List.range numLanes).map (fun l => (fl l &&& 0) != 0) = List.replicate numLanes false := by
      simp [List.map_const']
    rw [this, hp]; rfl
  unfold trapLanes
  rw [this]; simp

/-- Without an enabled trap a floating word writes its active lanes and its sticky bits, and retires (R41, R121). -/
theorem completeFloat_untrapped {me : Me} {act : LaneMask} {fl : Nat → Flags} {write : Train → LaneMask → Train} {s : State}
    (h : trapEnables (me.train s).mode = 0) :
    completeFloat me act fl write s =
      retire me (s.updTrain me.tid fun t => Safety.sticky (orFlags act fl) (write t act)) := by
  have ha : act &&& ~~~(0 : LaneMask) = act := BitVec.and_allOnes
  unfold completeFloat
  simp only [trapLanes_none h, beq_self_eq_true, if_true, ha]
  rfl

/-! ### Parking -/

theorem parkSplit_train (me : Me) (recs : List FaultRec) (s : State) (h : s.holdsEvent me.tid = false) (k : Nat) :
    (parkSplit me recs s).train k =
      if k = me.tid then
        { (s.train me.tid).updSplit me.sid fun sp => { sp with state := .parked, recs := recs } with state := .parked }
      else s.train k := by
  have hshape : ∀ (u : State) (c : Nat) (e : Event), (u.raiseEvent c e).train k = u.train k := by
    intro u c e; simp only [State.train, raiseEvent_trains]
  unfold parkSplit
  rw [h]
  simp only [Bool.false_eq_true, if_false, hshape]
  rw [State.train_updTrain, State.train_updSplit, State.train_updSplit]
  split <;> simp_all

theorem parkNested_train (me : Me) (r : FaultRec) (s : State) (k : Nat) :
    (parkNested me r s).train k =
      if k = me.tid then
        { (s.train me.tid).updSplit me.sid fun sp => { sp with state := .parked, recs := [nestedRec r] } with state := .parked }
      else s.train k := by
  have : (parkNested me r s).train k = ((s.updSplit me fun sp => { sp with state := .parked, recs := [nestedRec r] }).updTrain
    me.tid fun t => { t with state := .parked }).train k := rfl
  rw [this, State.train_updTrain, State.train_updSplit, State.train_updSplit]
  split <;> simp_all

theorem Train.readS_state (t : Train) (x : SlotState) (sid r : Nat) :
    ({ t with state := x } : Train).readS sid r = t.readS sid r := rfl

/-- Parking keeps every register. -/
@[simp] theorem parkSplit_readV (me : Me) (recs : List FaultRec) (s : State) (k r l : Nat) :
    ((parkSplit me recs s).train k).readV r l = (s.train k).readV r l := by
  by_cases h : s.holdsEvent me.tid = false
  · rw [parkSplit_train _ _ _ h]; split
    · rename_i hk; subst hk; rfl
    · rfl
  · have : parkSplit me recs s = parkNested me (recs.headD default) s := by simp [parkSplit, h]
    rw [this, parkNested_train]; split
    · rename_i hk; subst hk; rfl
    · rfl

@[simp] theorem parkSplit_readS (me : Me) (recs : List FaultRec) (s : State) (k sid r : Nat) :
    ((parkSplit me recs s).train k).readS sid r = (s.train k).readS sid r := by
  by_cases h : s.holdsEvent me.tid = false
  · rw [parkSplit_train _ _ _ h]; split
    · rename_i hk; subst hk; rw [Train.readS_state, Train.readS_updSplit _ _ _ _ _ (by rfl)]
    · rfl
  · have : parkSplit me recs s = parkNested me (recs.headD default) s := by simp [parkSplit, h]
    rw [this, parkNested_train]; split
    · rename_i hk; subst hk; rw [Train.readS_state, Train.readS_updSplit _ _ _ _ _ (by rfl)]
    · rfl

theorem takeFault_train (s : State) (me : Me) (recs : List FaultRec) (k : Nat) :
    (takeFault s me recs).train k = (parkSplit me recs s).train k := by
  unfold takeFault State.train; rw [endRun_trains]

@[simp] theorem takeFault_readV (s : State) (me : Me) (recs : List FaultRec) (k r l : Nat) :
    ((takeFault s me recs).train k).readV r l = (s.train k).readV r l := by
  rw [takeFault_train, parkSplit_readV]
@[simp] theorem takeFault_readS (s : State) (me : Me) (recs : List FaultRec) (k sid r : Nat) :
    ((takeFault s me recs).train k).readS sid r = (s.train k).readS sid r := by
  rw [takeFault_train, parkSplit_readS]

theorem updSplit_readV (s : State) (me : Me) (f : Split → Split) (k r l : Nat) :
    ((s.updSplit me f).train k).readV r l = (s.train k).readV r l := by
  rw [State.train_updSplit]; split
  · rename_i hk; subst hk; rfl
  · rfl

theorem updSplit_readS (s : State) (me : Me) (f : Split → Split) (k sid r : Nat)
    (h : (f (me.split s)).active = (me.split s).active) :
    ((s.updSplit me f).train k).readS sid r = (s.train k).readS sid r := by
  rw [State.train_updSplit]; split
  · rename_i hk; subst hk; exact Train.readS_updSplit _ _ _ _ _ h
  · rfl

/-- Taking the fault of an instruction keeps every register. -/
@[simp] theorem faultWith_readV (s : State) (me : Me) (recs : List FaultRec) (k r l : Nat) :
    ((faultWith s me recs).train k).readV r l = (s.train k).readV r l := by
  unfold faultWith; simp only []; split <;> simp [updSplit_readV]

@[simp] theorem faultWith_readS (s : State) (me : Me) (recs : List FaultRec) (k sid r : Nat) :
    ((faultWith s me recs).train k).readS sid r = (s.train k).readS sid r := by
  unfold faultWith; simp only []; split
  · rw [takeFault_readS, updSplit_readS]; rfl
  · rw [takeFault_readS, updSplit_readS]; rfl
  · rw [takeFault_readS]

/-- The faults and observations that come before a word keep memory and every register. -/
theorem operandsFirst_frame (i : Instr) (me : Me) (s : State) :
    Safety.sameMemory s (operandsFirst i me s) ∧ Safety.sameV (fun _ _ => False) s (operandsFirst i me s) ∧
      Safety.sameS (fun _ _ => False) s (operandsFirst i me s) := by
  have hf : ∀ recs, Safety.sameMemory s (faultWith s me recs) ∧ Safety.sameV (fun _ _ => False) s (faultWith s me recs) ∧
      Safety.sameS (fun _ _ => False) s (faultWith s me recs) := fun recs =>
    ⟨⟨faultWith_mem .., faultWith_lines .., faultWith_wgs ..⟩, fun _ _ _ _ => faultWith_readV .., fun _ _ _ _ => faultWith_readS ..⟩
  unfold operandsFirst
  split
  · unfold brokenFault
    split <;> exact hf _
  · refine ⟨⟨rfl, rfl, rfl⟩, fun k r l _ => ?_, fun k sid r _ => ?_⟩ <;>
    · rw [State.train_updTrain]; split <;> simp_all [Train.readCarried, Train.observe, Train.readV, Train.readS, Train.split]

end Sys2Proof.Machine
end

