-- ==== Sys2Proof/Laws/PerInstr.lean ====
section
/-! SUPPORT. Facts that hold of every instruction, one lemma for each constructor. -/

namespace Sys2Proof.Laws

/-- RoundTrip: an event has no major; any other instruction has one, under which the decoder reads the instruction back from its
body, every operand field included (spec/04_formats_opcode_map.md R71, R75, R84). -/
def RoundTrip.Statement (i : Instr) : Prop :=
  (Machine.classOf i = .event ∧ majorOf i = none) ∨
    (Machine.classOf i ≠ .event ∧ ∃ m, majorOf i = some m ∧ ofMajor m.toNat (bodyOf i) = some i)

/-- RoundTrip of an instruction that has a word, from its class, its major and its body. -/
theorem roundTrip_word {i : Instr} {m : BitVec 8} (hc : (Machine.classOf i == .event) = false)
    (hm : majorOf i = some m) (hd : ofMajor m.toNat (bodyOf i) = some i) : RoundTrip.Statement i :=
  .inr ⟨by simpa using hc, m, hm, hd⟩

theorem RoundTrip.vadd (f : FmtV3) : RoundTrip.Statement (.vadd f) :=
  roundTrip_word rfl rfl (congrArg (fun x => some (Instr.vadd x)) (unpackV3_pack f))
theorem RoundTrip.vsub (f : FmtV3) : RoundTrip.Statement (.vsub f) :=
  roundTrip_word rfl rfl (congrArg (fun x => some (Instr.vsub x)) (unpackV3_pack f))
theorem RoundTrip.vmul (f : FmtV3) : RoundTrip.Statement (.vmul f) :=
  roundTrip_word rfl rfl (congrArg (fun x => some (Instr.vmul x)) (unpackV3_pack f))
theorem RoundTrip.vmulhi (f : FmtV3) : RoundTrip.Statement (.vmulhi f) :=
  roundTrip_word rfl rfl (congrArg (fun x => some (Instr.vmulhi x)) (unpackV3_pack f))
theorem RoundTrip.vmad (f : FmtV3) : RoundTrip.Statement (.vmad f) :=
  roundTrip_word rfl rfl (congrArg (fun x => some (Instr.vmad x)) (unpackV3_pack f))
theorem RoundTrip.vmin (f : FmtV3) : RoundTrip.Statement (.vmin f) :=
  roundTrip_word rfl rfl (congrArg (fun x => some (Instr.vmin x)) (unpackV3_pack f))
theorem RoundTrip.vmax (f : FmtV3) : RoundTrip.Statement (.vmax f) :=
  roundTrip_word rfl rfl (congrArg (fun x => some (Instr.vmax x)) (unpackV3_pack f))
theorem RoundTrip.vabsd (f : FmtV3) : RoundTrip.Statement (.vabsd f) :=
  roundTrip_word rfl rfl (congrArg (fun x => some (Instr.vabsd x)) (unpackV3_pack f))
theorem RoundTrip.vand (f : FmtV3) : RoundTrip.Statement (.vand f) :=
  roundTrip_word rfl rfl (congrArg (fun x => some (Instr.vand x)) (unpackV3_pack f))
theorem RoundTrip.vor (f : FmtV3) : RoundTrip.Statement (.vor f) :=
  roundTrip_word rfl rfl (congrArg (fun x => some (Instr.vor x)) (unpackV3_pack f))
theorem RoundTrip.vxor (f : FmtV3) : RoundTrip.Statement (.vxor f) :=
  roundTrip_word rfl rfl (congrArg (fun x => some (Instr.vxor x)) (unpackV3_pack f))
theorem RoundTrip.vshl (f : FmtV3) : RoundTrip.Statement (.vshl f) :=
  roundTrip_word rfl rfl (congrArg (fun x => some (Instr.vshl x)) (unpackV3_pack f))
theorem RoundTrip.vshr (f : FmtV3) : RoundTrip.Statement (.vshr f) :=
  roundTrip_word rfl rfl (congrArg (fun x => some (Instr.vshr x)) (unpackV3_pack f))
theorem RoundTrip.vrot (f : FmtV3) : RoundTrip.Statement (.vrot f) :=
  roundTrip_word rfl rfl (congrArg (fun x => some (Instr.vrot x)) (unpackV3_pack f))
theorem RoundTrip.vfun (f : FmtV3) : RoundTrip.Statement (.vfun f) :=
  roundTrip_word rfl rfl (congrArg (fun x => some (Instr.vfun x)) (unpackV3_pack f))
theorem RoundTrip.vbfx (f : FmtV3) : RoundTrip.Statement (.vbfx f) :=
  roundTrip_word rfl rfl (congrArg (fun x => some (Instr.vbfx x)) (unpackV3_pack f))
theorem RoundTrip.vbfi (f : FmtV3) : RoundTrip.Statement (.vbfi f) :=
  roundTrip_word rfl rfl (congrArg (fun x => some (Instr.vbfi x)) (unpackV3_pack f))
theorem RoundTrip.vclz (f : FmtV3) : RoundTrip.Statement (.vclz f) :=
  roundTrip_word rfl rfl (congrArg (fun x => some (Instr.vclz x)) (unpackV3_pack f))
theorem RoundTrip.vctz (f : FmtV3) : RoundTrip.Statement (.vctz f) :=
  roundTrip_word rfl rfl (congrArg (fun x => some (Instr.vctz x)) (unpackV3_pack f))
theorem RoundTrip.vffs (f : FmtV3) : RoundTrip.Statement (.vffs f) :=
  roundTrip_word rfl rfl (congrArg (fun x => some (Instr.vffs x)) (unpackV3_pack f))
theorem RoundTrip.vpopc (f : FmtV3) : RoundTrip.Statement (.vpopc f) :=
  roundTrip_word rfl rfl (congrArg (fun x => some (Instr.vpopc x)) (unpackV3_pack f))
theorem RoundTrip.vbrev (f : FmtV3) : RoundTrip.Statement (.vbrev f) :=
  roundTrip_word rfl rfl (congrArg (fun x => some (Instr.vbrev x)) (unpackV3_pack f))
theorem RoundTrip.vcmp (f : FmtV3) : RoundTrip.Statement (.vcmp f) :=
  roundTrip_word rfl rfl (congrArg (fun x => some (Instr.vcmp x)) (unpackV3_pack f))
theorem RoundTrip.vsel (f : FmtV3) : RoundTrip.Statement (.vsel f) :=
  roundTrip_word rfl rfl (congrArg (fun x => some (Instr.vsel x)) (unpackV3_pack f))
theorem RoundTrip.vmov (f : FmtV3) : RoundTrip.Statement (.vmov f) :=
  roundTrip_word rfl rfl (congrArg (fun x => some (Instr.vmov x)) (unpackV3_pack f))
theorem RoundTrip.vmovi (f : FmtVI) : RoundTrip.Statement (.vmovi f) :=
  roundTrip_word rfl rfl (congrArg (fun x => some (Instr.vmovi x)) (unpackVI_pack f))
theorem RoundTrip.vaddi (f : FmtVI) : RoundTrip.Statement (.vaddi f) :=
  roundTrip_word rfl rfl (congrArg (fun x => some (Instr.vaddi x)) (unpackVI_pack f))
theorem RoundTrip.vcvti (f : FmtV3) : RoundTrip.Statement (.vcvti f) :=
  roundTrip_word rfl rfl (congrArg (fun x => some (Instr.vcvti x)) (unpackV3_pack f))
theorem RoundTrip.vbsinit (f : FmtV3) : RoundTrip.Statement (.vbsinit f) :=
  roundTrip_word rfl rfl (congrArg (fun x => some (Instr.vbsinit x)) (unpackV3_pack f))
theorem RoundTrip.vbsrd (f : FmtV3) : RoundTrip.Statement (.vbsrd f) :=
  roundTrip_word rfl rfl (congrArg (fun x => some (Instr.vbsrd x)) (unpackV3_pack f))
theorem RoundTrip.sadd (f : FmtS3) : RoundTrip.Statement (.sadd f) :=
  roundTrip_word rfl rfl (congrArg (fun x => some (Instr.sadd x)) (unpackS3_pack f))
theorem RoundTrip.ssub (f : FmtS3) : RoundTrip.Statement (.ssub f) :=
  roundTrip_word rfl rfl (congrArg (fun x => some (Instr.ssub x)) (unpackS3_pack f))
theorem RoundTrip.smul (f : FmtS3) : RoundTrip.Statement (.smul f) :=
  roundTrip_word rfl rfl (congrArg (fun x => some (Instr.smul x)) (unpackS3_pack f))
theorem RoundTrip.smulhi (f : FmtS3) : RoundTrip.Statement (.smulhi f) :=
  roundTrip_word rfl rfl (congrArg (fun x => some (Instr.smulhi x)) (unpackS3_pack f))
theorem RoundTrip.sand (f : FmtS3) : RoundTrip.Statement (.sand f) :=
  roundTrip_word rfl rfl (congrArg (fun x => some (Instr.sand x)) (unpackS3_pack f))
theorem RoundTrip.sor (f : FmtS3) : RoundTrip.Statement (.sor f) :=
  roundTrip_word rfl rfl (congrArg (fun x => some (Instr.sor x)) (unpackS3_pack f))
theorem RoundTrip.sxor (f : FmtS3) : RoundTrip.Statement (.sxor f) :=
  roundTrip_word rfl rfl (congrArg (fun x => some (Instr.sxor x)) (unpackS3_pack f))
theorem RoundTrip.sshl (f : FmtS3) : RoundTrip.Statement (.sshl f) :=
  roundTrip_word rfl rfl (congrArg (fun x => some (Instr.sshl x)) (unpackS3_pack f))
theorem RoundTrip.sshr (f : FmtS3) : RoundTrip.Statement (.sshr f) :=
  roundTrip_word rfl rfl (congrArg (fun x => some (Instr.sshr x)) (unpackS3_pack f))
theorem RoundTrip.sbfx (f : FmtS3) : RoundTrip.Statement (.sbfx f) :=
  roundTrip_word rfl rfl (congrArg (fun x => some (Instr.sbfx x)) (unpackS3_pack f))
theorem RoundTrip.sbfi (f : FmtS3) : RoundTrip.Statement (.sbfi f) :=
  roundTrip_word rfl rfl (congrArg (fun x => some (Instr.sbfi x)) (unpackS3_pack f))
theorem RoundTrip.sclz (f : FmtS3) : RoundTrip.Statement (.sclz f) :=
  roundTrip_word rfl rfl (congrArg (fun x => some (Instr.sclz x)) (unpackS3_pack f))
theorem RoundTrip.spopc (f : FmtS3) : RoundTrip.Statement (.spopc f) :=
  roundTrip_word rfl rfl (congrArg (fun x => some (Instr.spopc x)) (unpackS3_pack f))
theorem RoundTrip.sffs (f : FmtS3) : RoundTrip.Statement (.sffs f) :=
  roundTrip_word rfl rfl (congrArg (fun x => some (Instr.sffs x)) (unpackS3_pack f))
theorem RoundTrip.smin (f : FmtS3) : RoundTrip.Statement (.smin f) :=
  roundTrip_word rfl rfl (congrArg (fun x => some (Instr.smin x)) (unpackS3_pack f))
theorem RoundTrip.smax (f : FmtS3) : RoundTrip.Statement (.smax f) :=
  roundTrip_word rfl rfl (congrArg (fun x => some (Instr.smax x)) (unpackS3_pack f))
theorem RoundTrip.scmp (f : FmtS3) : RoundTrip.Statement (.scmp f) :=
  roundTrip_word rfl rfl (congrArg (fun x => some (Instr.scmp x)) (unpackS3_pack f))
theorem RoundTrip.smov (f : FmtS3) : RoundTrip.Statement (.smov f) :=
  roundTrip_word rfl rfl (congrArg (fun x => some (Instr.smov x)) (unpackS3_pack f))
theorem RoundTrip.smovi (f : FmtSI) : RoundTrip.Statement (.smovi f) :=
  roundTrip_word rfl rfl (congrArg (fun x => some (Instr.smovi x)) (unpackSI_pack f))
theorem RoundTrip.saddi (f : FmtSI) : RoundTrip.Statement (.saddi f) :=
  roundTrip_word rfl rfl (congrArg (fun x => some (Instr.saddi x)) (unpackSI_pack f))
theorem RoundTrip.ssel (f : FmtS3) : RoundTrip.Statement (.ssel f) :=
  roundTrip_word rfl rfl (congrArg (fun x => some (Instr.ssel x)) (unpackS3_pack f))
theorem RoundTrip.smcnt (f : FmtS3) : RoundTrip.Statement (.smcnt f) :=
  roundTrip_word rfl rfl (congrArg (fun x => some (Instr.smcnt x)) (unpackS3_pack f))
theorem RoundTrip.smfirst (f : FmtS3) : RoundTrip.Statement (.smfirst f) :=
  roundTrip_word rfl rfl (congrArg (fun x => some (Instr.smfirst x)) (unpackS3_pack f))
theorem RoundTrip.vfadd (f : FmtV3) : RoundTrip.Statement (.vfadd f) :=
  roundTrip_word rfl rfl (congrArg (fun x => some (Instr.vfadd x)) (unpackV3_pack f))
theorem RoundTrip.vfsub (f : FmtV3) : RoundTrip.Statement (.vfsub f) :=
  roundTrip_word rfl rfl (congrArg (fun x => some (Instr.vfsub x)) (unpackV3_pack f))
theorem RoundTrip.vfmul (f : FmtV3) : RoundTrip.Statement (.vfmul f) :=
  roundTrip_word rfl rfl (congrArg (fun x => some (Instr.vfmul x)) (unpackV3_pack f))
theorem RoundTrip.vfma (f : FmtV3) : RoundTrip.Statement (.vfma f) :=
  roundTrip_word rfl rfl (congrArg (fun x => some (Instr.vfma x)) (unpackV3_pack f))
theorem RoundTrip.vfmin (f : FmtV3) : RoundTrip.Statement (.vfmin f) :=
  roundTrip_word rfl rfl (congrArg (fun x => some (Instr.vfmin x)) (unpackV3_pack f))
theorem RoundTrip.vfmax (f : FmtV3) : RoundTrip.Statement (.vfmax f) :=
  roundTrip_word rfl rfl (congrArg (fun x => some (Instr.vfmax x)) (unpackV3_pack f))
theorem RoundTrip.vfcmp (f : FmtV3) : RoundTrip.Statement (.vfcmp f) :=
  roundTrip_word rfl rfl (congrArg (fun x => some (Instr.vfcmp x)) (unpackV3_pack f))
theorem RoundTrip.vfclass (f : FmtV3) : RoundTrip.Statement (.vfclass f) :=
  roundTrip_word rfl rfl (congrArg (fun x => some (Instr.vfclass x)) (unpackV3_pack f))
theorem RoundTrip.vfdiv (f : FmtV3) : RoundTrip.Statement (.vfdiv f) :=
  roundTrip_word rfl rfl (congrArg (fun x => some (Instr.vfdiv x)) (unpackV3_pack f))
theorem RoundTrip.vfsqrt (f : FmtV3) : RoundTrip.Statement (.vfsqrt f) :=
  roundTrip_word rfl rfl (congrArg (fun x => some (Instr.vfsqrt x)) (unpackV3_pack f))
theorem RoundTrip.vfrcp (f : FmtV3) : RoundTrip.Statement (.vfrcp f) :=
  roundTrip_word rfl rfl (congrArg (fun x => some (Instr.vfrcp x)) (unpackV3_pack f))
theorem RoundTrip.vfrsq (f : FmtV3) : RoundTrip.Statement (.vfrsq f) :=
  roundTrip_word rfl rfl (congrArg (fun x => some (Instr.vfrsq x)) (unpackV3_pack f))
theorem RoundTrip.vfexp2 (f : FmtV3) : RoundTrip.Statement (.vfexp2 f) :=
  roundTrip_word rfl rfl (congrArg (fun x => some (Instr.vfexp2 x)) (unpackV3_pack f))
theorem RoundTrip.vflog2 (f : FmtV3) : RoundTrip.Statement (.vflog2 f) :=
  roundTrip_word rfl rfl (congrArg (fun x => some (Instr.vflog2 x)) (unpackV3_pack f))
theorem RoundTrip.vfsin (f : FmtV3) : RoundTrip.Statement (.vfsin f) :=
  roundTrip_word rfl rfl (congrArg (fun x => some (Instr.vfsin x)) (unpackV3_pack f))
theorem RoundTrip.vfcos (f : FmtV3) : RoundTrip.Statement (.vfcos f) :=
  roundTrip_word rfl rfl (congrArg (fun x => some (Instr.vfcos x)) (unpackV3_pack f))
theorem RoundTrip.vfrnd (f : FmtV3) : RoundTrip.Statement (.vfrnd f) :=
  roundTrip_word rfl rfl (congrArg (fun x => some (Instr.vfrnd x)) (unpackV3_pack f))
theorem RoundTrip.vffract (f : FmtV3) : RoundTrip.Statement (.vffract f) :=
  roundTrip_word rfl rfl (congrArg (fun x => some (Instr.vffract x)) (unpackV3_pack f))
theorem RoundTrip.vfldexp (f : FmtV3) : RoundTrip.Statement (.vfldexp f) :=
  roundTrip_word rfl rfl (congrArg (fun x => some (Instr.vfldexp x)) (unpackV3_pack f))
theorem RoundTrip.vfcvt (f : FmtV3) : RoundTrip.Statement (.vfcvt f) :=
  roundTrip_word rfl rfl (congrArg (fun x => some (Instr.vfcvt x)) (unpackV3_pack f))
theorem RoundTrip.vcvtfi (f : FmtV3) : RoundTrip.Statement (.vcvtfi f) :=
  roundTrip_word rfl rfl (congrArg (fun x => some (Instr.vcvtfi x)) (unpackV3_pack f))
theorem RoundTrip.vcvtif (f : FmtV3) : RoundTrip.Statement (.vcvtif f) :=
  roundTrip_word rfl rfl (congrArg (fun x => some (Instr.vcvtif x)) (unpackV3_pack f))
theorem RoundTrip.vpack (f : FmtV3) : RoundTrip.Statement (.vpack f) :=
  roundTrip_word rfl rfl (congrArg (fun x => some (Instr.vpack x)) (unpackV3_pack f))
theorem RoundTrip.vunpk (f : FmtV3) : RoundTrip.Statement (.vunpk f) :=
  roundTrip_word rfl rfl (congrArg (fun x => some (Instr.vunpk x)) (unpackV3_pack f))
theorem RoundTrip.vfdot2 (f : FmtV3) : RoundTrip.Statement (.vfdot2 f) :=
  roundTrip_word rfl rfl (congrArg (fun x => some (Instr.vfdot2 x)) (unpackV3_pack f))
theorem RoundTrip.vshuf (f : FmtV3) : RoundTrip.Statement (.vshuf f) :=
  roundTrip_word rfl rfl (congrArg (fun x => some (Instr.vshuf x)) (unpackV3_pack f))
theorem RoundTrip.vbcast (f : FmtV3) : RoundTrip.Statement (.vbcast f) :=
  roundTrip_word rfl rfl (congrArg (fun x => some (Instr.vbcast x)) (unpackV3_pack f))
theorem RoundTrip.vredu (f : FmtV3) : RoundTrip.Statement (.vredu f) :=
  roundTrip_word rfl rfl (congrArg (fun x => some (Instr.vredu x)) (unpackV3_pack f))
theorem RoundTrip.vscan (f : FmtV3) : RoundTrip.Statement (.vscan f) :=
  roundTrip_word rfl rfl (congrArg (fun x => some (Instr.vscan x)) (unpackV3_pack f))
theorem RoundTrip.vxshuf (f : FmtV3) : RoundTrip.Statement (.vxshuf f) :=
  roundTrip_word rfl rfl (congrArg (fun x => some (Instr.vxshuf x)) (unpackV3_pack f))
theorem RoundTrip.vderiv (f : FmtV3) : RoundTrip.Statement (.vderiv f) :=
  roundTrip_word rfl rfl (congrArg (fun x => some (Instr.vderiv x)) (unpackV3_pack f))
theorem RoundTrip.vinterp (f : FmtV3) : RoundTrip.Statement (.vinterp f) :=
  roundTrip_word rfl rfl (congrArg (fun x => some (Instr.vinterp x)) (unpackV3_pack f))
theorem RoundTrip.nop (f : FmtX) : RoundTrip.Statement (.nop f) :=
  roundTrip_word rfl rfl (congrArg (fun x => some (Instr.nop x)) (unpackX_pack f))
theorem RoundTrip.br (f : FmtC) : RoundTrip.Statement (.br f) :=
  roundTrip_word rfl rfl (congrArg (fun x => some (Instr.br x)) (unpackC_pack f))
theorem RoundTrip.brs (f : FmtC) : RoundTrip.Statement (.brs f) :=
  roundTrip_word rfl rfl (congrArg (fun x => some (Instr.brs x)) (unpackC_pack f))
theorem RoundTrip.brv (f : FmtC) : RoundTrip.Statement (.brv f) :=
  roundTrip_word rfl rfl (congrArg (fun x => some (Instr.brv x)) (unpackC_pack f))
theorem RoundTrip.brm (f : FmtC) : RoundTrip.Statement (.brm f) :=
  roundTrip_word rfl rfl (congrArg (fun x => some (Instr.brm x)) (unpackC_pack f))
theorem RoundTrip.call (f : FmtC) : RoundTrip.Statement (.call f) :=
  roundTrip_word rfl rfl (congrArg (fun x => some (Instr.call x)) (unpackC_pack f))
theorem RoundTrip.ret (f : FmtC) : RoundTrip.Statement (.ret f) :=
  roundTrip_word rfl rfl (congrArg (fun x => some (Instr.ret x)) (unpackC_pack f))
theorem RoundTrip.jmpi (f : FmtC) : RoundTrip.Statement (.jmpi f) :=
  roundTrip_word rfl rfl (congrArg (fun x => some (Instr.jmpi x)) (unpackC_pack f))
theorem RoundTrip.sjoin (f : FmtC) : RoundTrip.Statement (.sjoin f) :=
  roundTrip_word rfl rfl (congrArg (fun x => some (Instr.sjoin x)) (unpackC_pack f))
theorem RoundTrip.wait (f : FmtC) : RoundTrip.Statement (.wait f) :=
  roundTrip_word rfl rfl (congrArg (fun x => some (Instr.wait x)) (unpackC_pack f))
theorem RoundTrip.exit (f : FmtC) : RoundTrip.Statement (.exit f) :=
  roundTrip_word rfl rfl (congrArg (fun x => some (Instr.exit x)) (unpackC_pack f))
theorem RoundTrip.yield (f : FmtC) : RoundTrip.Statement (.yield f) :=
  roundTrip_word rfl rfl (congrArg (fun x => some (Instr.yield x)) (unpackC_pack f))
theorem RoundTrip.reggrow (f : FmtC) : RoundTrip.Statement (.reggrow f) :=
  roundTrip_word rfl rfl (congrArg (fun x => some (Instr.reggrow x)) (unpackC_pack f))
theorem RoundTrip.regtrim (f : FmtC) : RoundTrip.Statement (.regtrim f) :=
  roundTrip_word rfl rfl (congrArg (fun x => some (Instr.regtrim x)) (unpackC_pack f))
theorem RoundTrip.kills (f : FmtC) : RoundTrip.Statement (.kills f) :=
  roundTrip_word rfl rfl (congrArg (fun x => some (Instr.kills x)) (unpackC_pack f))
theorem RoundTrip.emitv (f : FmtC) : RoundTrip.Statement (.emitv f) :=
  roundTrip_word rfl rfl (congrArg (fun x => some (Instr.emitv x)) (unpackC_pack f))
theorem RoundTrip.emitp (f : FmtC) : RoundTrip.Statement (.emitp f) :=
  roundTrip_word rfl rfl (congrArg (fun x => some (Instr.emitp x)) (unpackC_pack f))
theorem RoundTrip.fxrel (f : FmtC) : RoundTrip.Statement (.fxrel f) :=
  roundTrip_word rfl rfl (congrArg (fun x => some (Instr.fxrel x)) (unpackC_pack f))
theorem RoundTrip.tdec (f : FmtC) : RoundTrip.Statement (.tdec f) :=
  roundTrip_word rfl rfl (congrArg (fun x => some (Instr.tdec x)) (unpackC_pack f))
theorem RoundTrip.tinc (f : FmtC) : RoundTrip.Statement (.tinc f) :=
  roundTrip_word rfl rfl (congrArg (fun x => some (Instr.tinc x)) (unpackC_pack f))
theorem RoundTrip.ld (f : FmtM) : RoundTrip.Statement (.ld f) :=
  roundTrip_word rfl rfl (congrArg (fun x => some (Instr.ld x)) (unpackM_pack f))
theorem RoundTrip.st (f : FmtM) : RoundTrip.Statement (.st f) :=
  roundTrip_word rfl rfl (congrArg (fun x => some (Instr.st x)) (unpackM_pack f))
theorem RoundTrip.sld (f : FmtM) : RoundTrip.Statement (.sld f) :=
  roundTrip_word rfl rfl (congrArg (fun x => some (Instr.sld x)) (unpackM_pack f))
theorem RoundTrip.sst (f : FmtM) : RoundTrip.Statement (.sst f) :=
  roundTrip_word rfl rfl (congrArg (fun x => some (Instr.sst x)) (unpackM_pack f))
theorem RoundTrip.atom (f : FmtMA) : RoundTrip.Statement (.atom f) :=
  roundTrip_word rfl rfl (congrArg (fun x => some (Instr.atom x)) (unpackMA_pack f))
theorem RoundTrip.satom (f : FmtMA) : RoundTrip.Statement (.satom f) :=
  roundTrip_word rfl rfl (congrArg (fun x => some (Instr.satom x)) (unpackMA_pack f))
theorem RoundTrip.acall (f : FmtMA) : RoundTrip.Statement (.acall f) :=
  roundTrip_word rfl rfl (congrArg (fun x => some (Instr.acall x)) (unpackMA_pack f))
theorem RoundTrip.pref (f : FmtM) : RoundTrip.Statement (.pref f) :=
  roundTrip_word rfl rfl (congrArg (fun x => some (Instr.pref x)) (unpackM_pack f))
theorem RoundTrip.lpin (f : FmtM) : RoundTrip.Statement (.lpin f) :=
  roundTrip_word rfl rfl (congrArg (fun x => some (Instr.lpin x)) (unpackM_pack f))
theorem RoundTrip.lunpin (f : FmtM) : RoundTrip.Statement (.lunpin f) :=
  roundTrip_word rfl rfl (congrArg (fun x => some (Instr.lunpin x)) (unpackM_pack f))
theorem RoundTrip.blst (f : FmtM) : RoundTrip.Statement (.blst f) :=
  roundTrip_word rfl rfl (congrArg (fun x => some (Instr.blst x)) (unpackM_pack f))
theorem RoundTrip.stkpsh (f : FmtM) : RoundTrip.Statement (.stkpsh f) :=
  roundTrip_word rfl rfl (congrArg (fun x => some (Instr.stkpsh x)) (unpackM_pack f))
theorem RoundTrip.stkpop (f : FmtM) : RoundTrip.Statement (.stkpop f) :=
  roundTrip_word rfl rfl (congrArg (fun x => some (Instr.stkpop x)) (unpackM_pack f))
theorem RoundTrip.cpy (f : FmtA) : RoundTrip.Statement (.cpy f) :=
  roundTrip_word rfl rfl (congrArg (fun x => some (Instr.cpy x)) (unpackA_pack f))
theorem RoundTrip.cpyg (f : FmtA) : RoundTrip.Statement (.cpyg f) :=
  roundTrip_word rfl rfl (congrArg (fun x => some (Instr.cpyg x)) (unpackA_pack f))
theorem RoundTrip.cpys (f : FmtA) : RoundTrip.Statement (.cpys f) :=
  roundTrip_word rfl rfl (congrArg (fun x => some (Instr.cpys x)) (unpackA_pack f))
theorem RoundTrip.cpyr (f : FmtA) : RoundTrip.Statement (.cpyr f) :=
  roundTrip_word rfl rfl (congrArg (fun x => some (Instr.cpyr x)) (unpackA_pack f))
theorem RoundTrip.cpyx (f : FmtA) : RoundTrip.Statement (.cpyx f) :=
  roundTrip_word rfl rfl (congrArg (fun x => some (Instr.cpyx x)) (unpackA_pack f))
theorem RoundTrip.mdec (f : FmtA) : RoundTrip.Statement (.mdec f) :=
  roundTrip_word rfl rfl (congrArg (fun x => some (Instr.mdec x)) (unpackA_pack f))
theorem RoundTrip.nbinit (f : FmtA) : RoundTrip.Statement (.nbinit f) :=
  roundTrip_word rfl rfl (congrArg (fun x => some (Instr.nbinit x)) (unpackA_pack f))
theorem RoundTrip.nbarr (f : FmtA) : RoundTrip.Statement (.nbarr f) :=
  roundTrip_word rfl rfl (congrArg (fun x => some (Instr.nbarr x)) (unpackA_pack f))
theorem RoundTrip.nbwait (f : FmtA) : RoundTrip.Statement (.nbwait f) :=
  roundTrip_word rfl rfl (congrArg (fun x => some (Instr.nbwait x)) (unpackA_pack f))
theorem RoundTrip.nbinv (f : FmtA) : RoundTrip.Statement (.nbinv f) :=
  roundTrip_word rfl rfl (congrArg (fun x => some (Instr.nbinv x)) (unpackA_pack f))
theorem RoundTrip.trace (f : FmtA) : RoundTrip.Statement (.trace f) :=
  roundTrip_word rfl rfl (congrArg (fun x => some (Instr.trace x)) (unpackA_pack f))
theorem RoundTrip.mma (f : FmtA) : RoundTrip.Statement (.mma f) :=
  roundTrip_word rfl rfl (congrArg (fun x => some (Instr.mma x)) (unpackA_pack f))
theorem RoundTrip.mzero (f : FmtA) : RoundTrip.Statement (.mzero f) :=
  roundTrip_word rfl rfl (congrArg (fun x => some (Instr.mzero x)) (unpackA_pack f))
theorem RoundTrip.mlda (f : FmtA) : RoundTrip.Statement (.mlda f) :=
  roundTrip_word rfl rfl (congrArg (fun x => some (Instr.mlda x)) (unpackA_pack f))
theorem RoundTrip.msta (f : FmtA) : RoundTrip.Statement (.msta f) :=
  roundTrip_word rfl rfl (congrArg (fun x => some (Instr.msta x)) (unpackA_pack f))
theorem RoundTrip.mcvt (f : FmtA) : RoundTrip.Statement (.mcvt f) :=
  roundTrip_word rfl rfl (congrArg (fun x => some (Instr.mcvt x)) (unpackA_pack f))
theorem RoundTrip.mqnt (f : FmtA) : RoundTrip.Statement (.mqnt f) :=
  roundTrip_word rfl rfl (congrArg (fun x => some (Instr.mqnt x)) (unpackA_pack f))
theorem RoundTrip.boxt (f : FmtV3) : RoundTrip.Statement (.boxt f) :=
  roundTrip_word rfl rfl (congrArg (fun x => some (Instr.boxt x)) (unpackV3_pack f))
theorem RoundTrip.trit (f : FmtV3) : RoundTrip.Statement (.trit f) :=
  roundTrip_word rfl rfl (congrArg (fun x => some (Instr.trit x)) (unpackV3_pack f))
theorem RoundTrip.regrp (f : FmtA) : RoundTrip.Statement (.regrp f) :=
  roundTrip_word rfl rfl (congrArg (fun x => some (Instr.regrp x)) (unpackA_pack f))
theorem RoundTrip.ringoff (f : FmtA) : RoundTrip.Statement (.ringoff f) :=
  roundTrip_word rfl rfl (congrArg (fun x => some (Instr.ringoff x)) (unpackA_pack f))
theorem RoundTrip.ringtake (f : FmtA) : RoundTrip.Statement (.ringtake f) :=
  roundTrip_word rfl rfl (congrArg (fun x => some (Instr.ringtake x)) (unpackA_pack f))
theorem RoundTrip.rhit (f : FmtV3) : RoundTrip.Statement (.rhit f) :=
  roundTrip_word rfl rfl (congrArg (fun x => some (Instr.rhit x)) (unpackV3_pack f))
theorem RoundTrip.arecv (f : FmtA) : RoundTrip.Statement (.arecv f) :=
  roundTrip_word rfl rfl (congrArg (fun x => some (Instr.arecv x)) (unpackA_pack f))
theorem RoundTrip.areply (f : FmtA) : RoundTrip.Statement (.areply f) :=
  roundTrip_word rfl rfl (congrArg (fun x => some (Instr.areply x)) (unpackA_pack f))
theorem RoundTrip.afail (f : FmtA) : RoundTrip.Statement (.afail f) :=
  roundTrip_word rfl rfl (congrArg (fun x => some (Instr.afail x)) (unpackA_pack f))
theorem RoundTrip.esarr (f : FmtSI) : RoundTrip.Statement (.esarr f) :=
  roundTrip_word rfl rfl (congrArg (fun x => some (Instr.esarr x)) (unpackSI_pack f))
theorem RoundTrip.eswait (f : FmtSI) : RoundTrip.Statement (.eswait f) :=
  roundTrip_word rfl rfl (congrArg (fun x => some (Instr.eswait x)) (unpackSI_pack f))
theorem RoundTrip.esbar (f : FmtSI) : RoundTrip.Statement (.esbar f) :=
  roundTrip_word rfl rfl (congrArg (fun x => some (Instr.esbar x)) (unpackSI_pack f))
theorem RoundTrip.esbcst (f : FmtSI) : RoundTrip.Statement (.esbcst f) :=
  roundTrip_word rfl rfl (congrArg (fun x => some (Instr.esbcst x)) (unpackSI_pack f))
theorem RoundTrip.esrecv (f : FmtSI) : RoundTrip.Statement (.esrecv f) :=
  roundTrip_word rfl rfl (congrArg (fun x => some (Instr.esrecv x)) (unpackSI_pack f))
theorem RoundTrip.esred (f : FmtSI) : RoundTrip.Statement (.esred f) :=
  roundTrip_word rfl rfl (congrArg (fun x => some (Instr.esred x)) (unpackSI_pack f))
theorem RoundTrip.estick (f : FmtSI) : RoundTrip.Statement (.estick f) :=
  roundTrip_word rfl rfl (congrArg (fun x => some (Instr.estick x)) (unpackSI_pack f))
theorem RoundTrip.trec (f : FmtSI) : RoundTrip.Statement (.trec f) :=
  roundTrip_word rfl rfl (congrArg (fun x => some (Instr.trec x)) (unpackSI_pack f))
theorem RoundTrip.clkrd (f : FmtSI) : RoundTrip.Statement (.clkrd f) :=
  roundTrip_word rfl rfl (congrArg (fun x => some (Instr.clkrd x)) (unpackSI_pack f))
theorem RoundTrip.brk (f : FmtSI) : RoundTrip.Statement (.brk f) :=
  roundTrip_word rfl rfl (congrArg (fun x => some (Instr.brk x)) (unpackSI_pack f))
theorem RoundTrip.trap (f : FmtX) : RoundTrip.Statement (.trap f) :=
  roundTrip_word rfl rfl (congrArg (fun x => some (Instr.trap x)) (unpackX_pack f))
theorem RoundTrip.syscall (f : FmtX) : RoundTrip.Statement (.syscall f) :=
  roundTrip_word rfl rfl (congrArg (fun x => some (Instr.syscall x)) (unpackX_pack f))
theorem RoundTrip.mfsr (f : FmtX) : RoundTrip.Statement (.mfsr f) :=
  roundTrip_word rfl rfl (congrArg (fun x => some (Instr.mfsr x)) (unpackX_pack f))
theorem RoundTrip.mtsr (f : FmtX) : RoundTrip.Statement (.mtsr f) :=
  roundTrip_word rfl rfl (congrArg (fun x => some (Instr.mtsr x)) (unpackX_pack f))
theorem RoundTrip.eret (f : FmtX) : RoundTrip.Statement (.eret f) :=
  roundTrip_word rfl rfl (congrArg (fun x => some (Instr.eret x)) (unpackX_pack f))
theorem RoundTrip.fltrd (f : FmtX) : RoundTrip.Statement (.fltrd f) :=
  roundTrip_word rfl rfl (congrArg (fun x => some (Instr.fltrd x)) (unpackX_pack f))
theorem RoundTrip.tresume (f : FmtX) : RoundTrip.Statement (.tresume f) :=
  roundTrip_word rfl rfl (congrArg (fun x => some (Instr.tresume x)) (unpackX_pack f))
theorem RoundTrip.tkill (f : FmtX) : RoundTrip.Statement (.tkill f) :=
  roundTrip_word rfl rfl (congrArg (fun x => some (Instr.tkill x)) (unpackX_pack f))
theorem RoundTrip.tsnap (f : FmtX) : RoundTrip.Statement (.tsnap f) :=
  roundTrip_word rfl rfl (congrArg (fun x => some (Instr.tsnap x)) (unpackX_pack f))
theorem RoundTrip.ctxsave (f : FmtX) : RoundTrip.Statement (.ctxsave f) :=
  roundTrip_word rfl rfl (congrArg (fun x => some (Instr.ctxsave x)) (unpackX_pack f))
theorem RoundTrip.ctxrest (f : FmtX) : RoundTrip.Statement (.ctxrest f) :=
  roundTrip_word rfl rfl (congrArg (fun x => some (Instr.ctxrest x)) (unpackX_pack f))
theorem RoundTrip.espre (f : FmtX) : RoundTrip.Statement (.espre f) :=
  roundTrip_word rfl rfl (congrArg (fun x => some (Instr.espre x)) (unpackX_pack f))
theorem RoundTrip.tlbinv (f : FmtX) : RoundTrip.Statement (.tlbinv f) :=
  roundTrip_word rfl rfl (congrArg (fun x => some (Instr.tlbinv x)) (unpackX_pack f))
theorem RoundTrip.haltall (f : FmtX) : RoundTrip.Statement (.haltall f) :=
  roundTrip_word rfl rfl (congrArg (fun x => some (Instr.haltall x)) (unpackX_pack f))
theorem RoundTrip.schedulerPick (core sched : Nat) : RoundTrip.Statement (.schedulerPick core sched) := .inl ⟨rfl, rfl⟩
theorem RoundTrip.splitMerge (core slot : Nat) : RoundTrip.Statement (.splitMerge core slot) := .inl ⟨rfl, rfl⟩
theorem RoundTrip.joinRelease (core slot : Nat) : RoundTrip.Statement (.joinRelease core slot) := .inl ⟨rfl, rfl⟩
theorem RoundTrip.yieldLimit (core slot sid : Nat) : RoundTrip.Statement (.yieldLimit core slot sid) := .inl ⟨rfl, rfl⟩
theorem RoundTrip.reggrowGrant (core : Nat) : RoundTrip.Statement (.reggrowGrant core) := .inl ⟨rfl, rfl⟩
theorem RoundTrip.reggrowStarvation (core : Nat) : RoundTrip.Statement (.reggrowStarvation core) := .inl ⟨rfl, rfl⟩
theorem RoundTrip.regtrimComplete (core slot sid : Nat) : RoundTrip.Statement (.regtrimComplete core slot sid) := .inl ⟨rfl, rfl⟩
theorem RoundTrip.trainEnd (core slot : Nat) : RoundTrip.Statement (.trainEnd core slot) := .inl ⟨rfl, rfl⟩
theorem RoundTrip.computePassStart (core slot : Nat) : RoundTrip.Statement (.computePassStart core slot) := .inl ⟨rfl, rfl⟩
theorem RoundTrip.rungSequencerSpawn (launch rung core : Nat) : RoundTrip.Statement (.rungSequencerSpawn launch rung core) := .inl ⟨rfl, rfl⟩
theorem RoundTrip.fixativeRefillComplete (core rec : Nat) : RoundTrip.Statement (.fixativeRefillComplete core rec) := .inl ⟨rfl, rfl⟩
theorem RoundTrip.rasterPrimitive (launch : Nat) : RoundTrip.Statement (.rasterPrimitive launch) := .inl ⟨rfl, rfl⟩
theorem RoundTrip.loadValueArrival (id : Nat) : RoundTrip.Statement (.loadValueArrival id) := .inl ⟨rfl, rfl⟩
theorem RoundTrip.sliceBatchApply (line : Nat) : RoundTrip.Statement (.sliceBatchApply line) := .inl ⟨rfl, rfl⟩
theorem RoundTrip.atomicReply (id : Nat) : RoundTrip.Statement (.atomicReply id) := .inl ⟨rfl, rfl⟩
theorem RoundTrip.pageWalkComplete (id : Nat) : RoundTrip.Statement (.pageWalkComplete id) := .inl ⟨rfl, rfl⟩
theorem RoundTrip.tlbInvalidationComplete (id : Nat) : RoundTrip.Statement (.tlbInvalidationComplete id) := .inl ⟨rfl, rfl⟩
theorem RoundTrip.copyCompletion (id upTo : Nat) : RoundTrip.Statement (.copyCompletion id upTo) := .inl ⟨rfl, rfl⟩
theorem RoundTrip.mdecCompletion (id : Nat) : RoundTrip.Statement (.mdecCompletion id) := .inl ⟨rfl, rfl⟩
theorem RoundTrip.matrixOpCompletion (id : Nat) : RoundTrip.Statement (.matrixOpCompletion id) := .inl ⟨rfl, rfl⟩
theorem RoundTrip.nbTokenRelease (wg bar : Nat) : RoundTrip.Statement (.nbTokenRelease wg bar) := .inl ⟨rfl, rfl⟩
theorem RoundTrip.nbarrHeldCount (core slot : Nat) : RoundTrip.Statement (.nbarrHeldCount core slot) := .inl ⟨rfl, rfl⟩
theorem RoundTrip.rayTrainStart (core launch : Nat) : RoundTrip.Statement (.rayTrainStart core launch) := .inl ⟨rfl, rfl⟩
theorem RoundTrip.rayRecordDelivery (id : Nat) : RoundTrip.Statement (.rayRecordDelivery id) := .inl ⟨rfl, rfl⟩
theorem RoundTrip.regrpSort (core : Nat) : RoundTrip.Statement (.regrpSort core) := .inl ⟨rfl, rfl⟩
theorem RoundTrip.regrpWaitLimit (core : Nat) : RoundTrip.Statement (.regrpWaitLimit core) := .inl ⟨rfl, rfl⟩
theorem RoundTrip.ringOfferWithdrawal (core : Nat) : RoundTrip.Statement (.ringOfferWithdrawal core) := .inl ⟨rfl, rfl⟩
theorem RoundTrip.blendApply (id : Nat) : RoundTrip.Statement (.blendApply id) := .inl ⟨rfl, rfl⟩
theorem RoundTrip.registrationClose (launch prim tx ty : Nat) : RoundTrip.Statement (.registrationClose launch prim tx ty) := .inl ⟨rfl, rfl⟩
theorem RoundTrip.accordRequestArrival (id : Nat) : RoundTrip.Statement (.accordRequestArrival id) := .inl ⟨rfl, rfl⟩
theorem RoundTrip.accordBatchDelivery (cluster : Nat) : RoundTrip.Statement (.accordBatchDelivery cluster) := .inl ⟨rfl, rfl⟩
theorem RoundTrip.accordReplyArrival (id : Nat) : RoundTrip.Statement (.accordReplyArrival id) := .inl ⟨rfl, rfl⟩
theorem RoundTrip.combinerStart (cluster : Nat) : RoundTrip.Statement (.combinerStart cluster) := .inl ⟨rfl, rfl⟩
theorem RoundTrip.combinerSlotPass (cluster : Nat) : RoundTrip.Statement (.combinerSlotPass cluster) := .inl ⟨rfl, rfl⟩
theorem RoundTrip.vxshufPairing (first second : Nat) : RoundTrip.Statement (.vxshufPairing first second) := .inl ⟨rfl, rfl⟩
theorem RoundTrip.vxshufDelivery (id : Nat) : RoundTrip.Statement (.vxshufDelivery id) := .inl ⟨rfl, rfl⟩
theorem RoundTrip.shuffleTimeout (id : Nat) : RoundTrip.Statement (.shuffleTimeout id) := .inl ⟨rfl, rfl⟩
theorem RoundTrip.escapementTick : RoundTrip.Statement (.escapementTick) := .inl ⟨rfl, rfl⟩
theorem RoundTrip.escapementEntry (id : Nat) : RoundTrip.Statement (.escapementEntry id) := .inl ⟨rfl, rfl⟩
theorem RoundTrip.escapementReleaseDelivery (id : Nat) : RoundTrip.Statement (.escapementReleaseDelivery id) := .inl ⟨rfl, rfl⟩
theorem RoundTrip.escapementBroadcastDelivery (id : Nat) : RoundTrip.Statement (.escapementBroadcastDelivery id) := .inl ⟨rfl, rfl⟩
theorem RoundTrip.escapementUncorrectableError (id : Nat) : RoundTrip.Statement (.escapementUncorrectableError id) := .inl ⟨rfl, rfl⟩
theorem RoundTrip.escapementSignalRepeat (id : Nat) : RoundTrip.Statement (.escapementSignalRepeat id) := .inl ⟨rfl, rfl⟩
theorem RoundTrip.linkRetirement (link : LinkId) : RoundTrip.Statement (.linkRetirement link) := .inl ⟨rfl, rfl⟩
theorem RoundTrip.correctableError (unit : UnitId) : RoundTrip.Statement (.correctableError unit) := .inl ⟨rfl, rfl⟩
theorem RoundTrip.unitRetirement (unit : UnitId) : RoundTrip.Statement (.unitRetirement unit) := .inl ⟨rfl, rfl⟩
theorem RoundTrip.watchdog (core slot sid : Nat) : RoundTrip.Statement (.watchdog core slot sid) := .inl ⟨rfl, rfl⟩
theorem RoundTrip.eventDelivery (ctx : Nat) : RoundTrip.Statement (.eventDelivery ctx) := .inl ⟨rfl, rfl⟩
theorem RoundTrip.truncatedDumpClose (ctx : Nat) : RoundTrip.Statement (.truncatedDumpClose ctx) := .inl ⟨rfl, rfl⟩
theorem RoundTrip.haltBroadcastArrival : RoundTrip.Statement (.haltBroadcastArrival) := .inl ⟨rfl, rfl⟩
theorem RoundTrip.haltComplete : RoundTrip.Statement (.haltComplete) := .inl ⟨rfl, rfl⟩
theorem RoundTrip.contextSaveEffect (core slot : Nat) : RoundTrip.Statement (.contextSaveEffect core slot) := .inl ⟨rfl, rfl⟩
theorem RoundTrip.syscallReply (id : Nat) (reply : BitVec 64) : RoundTrip.Statement (.syscallReply id reply) := .inl ⟨rfl, rfl⟩
theorem RoundTrip.fput (id : Nat) : RoundTrip.Statement (.fput id) := .inl ⟨rfl, rfl⟩
theorem RoundTrip.fget (id : Nat) (bytes : List (BitVec 8)) : RoundTrip.Statement (.fget id bytes) := .inl ⟨rfl, rfl⟩
theorem RoundTrip.fatom (id : Nat) : RoundTrip.Statement (.fatom id) := .inl ⟨rfl, rfl⟩
theorem RoundTrip.fabricReply (id : Nat) (value status : BitVec 32) : RoundTrip.Statement (.fabricReply id value status) := .inl ⟨rfl, rfl⟩
theorem RoundTrip.traceRecordAppend (ctx : Nat) : RoundTrip.Statement (.traceRecordAppend ctx) := .inl ⟨rfl, rfl⟩
theorem RoundTrip.doorbell (q : Nat) : RoundTrip.Statement (.doorbell q) := .inl ⟨rfl, rfl⟩
theorem RoundTrip.queueProcessorStep : RoundTrip.Statement (.queueProcessorStep) := .inl ⟨rfl, rfl⟩
theorem RoundTrip.launchPacket (q : Nat) : RoundTrip.Statement (.launchPacket q) := .inl ⟨rfl, rfl⟩
theorem RoundTrip.launchIndirect (q : Nat) : RoundTrip.Statement (.launchIndirect q) := .inl ⟨rfl, rfl⟩
theorem RoundTrip.prologueRerun (id : Nat) : RoundTrip.Statement (.prologueRerun id) := .inl ⟨rfl, rfl⟩
theorem RoundTrip.prologueWatchdog (id : Nat) : RoundTrip.Statement (.prologueWatchdog id) := .inl ⟨rfl, rfl⟩
theorem RoundTrip.taskPacket (q : Nat) : RoundTrip.Statement (.taskPacket q) := .inl ⟨rfl, rfl⟩
theorem RoundTrip.tdecPacket (q : Nat) : RoundTrip.Statement (.tdecPacket q) := .inl ⟨rfl, rfl⟩
theorem RoundTrip.signalPacket (q : Nat) : RoundTrip.Statement (.signalPacket q) := .inl ⟨rfl, rfl⟩
theorem RoundTrip.waitMemory (id : Nat) : RoundTrip.Statement (.waitMemory id) := .inl ⟨rfl, rfl⟩
theorem RoundTrip.waitMemoryTimeout (id : Nat) : RoundTrip.Statement (.waitMemoryTimeout id) := .inl ⟨rfl, rfl⟩
theorem RoundTrip.copyPacket (q : Nat) : RoundTrip.Statement (.copyPacket q) := .inl ⟨rfl, rfl⟩
theorem RoundTrip.handoverPacket (q : Nat) : RoundTrip.Statement (.handoverPacket q) := .inl ⟨rfl, rfl⟩
theorem RoundTrip.preemptPoint (q : Nat) : RoundTrip.Statement (.preemptPoint q) := .inl ⟨rfl, rfl⟩
theorem RoundTrip.packetCompletion (id : Nat) : RoundTrip.Statement (.packetCompletion id) := .inl ⟨rfl, rfl⟩
theorem RoundTrip.packetBindingsFit (id : Nat) : RoundTrip.Statement (.packetBindingsFit id) := .inl ⟨rfl, rfl⟩
theorem RoundTrip.workgroupPlacement : RoundTrip.Statement (.workgroupPlacement) := .inl ⟨rfl, rfl⟩
theorem RoundTrip.automaticPreemption (q : Nat) : RoundTrip.Statement (.automaticPreemption q) := .inl ⟨rfl, rfl⟩
theorem RoundTrip.preemptQueue (q : Nat) : RoundTrip.Statement (.preemptQueue q) := .inl ⟨rfl, rfl⟩
theorem RoundTrip.resumeQueue (q : Nat) : RoundTrip.Statement (.resumeQueue q) := .inl ⟨rfl, rfl⟩
theorem RoundTrip.preemptionSignalArrival (wg : Nat) : RoundTrip.Statement (.preemptionSignalArrival wg) := .inl ⟨rfl, rfl⟩
theorem RoundTrip.drainBudgetExpiry (wg : Nat) : RoundTrip.Statement (.drainBudgetExpiry wg) := .inl ⟨rfl, rfl⟩
theorem RoundTrip.workgroupSaved (wg : Nat) : RoundTrip.Statement (.workgroupSaved wg) := .inl ⟨rfl, rfl⟩
theorem RoundTrip.discardDone (wg : Nat) : RoundTrip.Statement (.discardDone wg) := .inl ⟨rfl, rfl⟩
theorem RoundTrip.killContext (ctx : Nat) : RoundTrip.Statement (.killContext ctx) := .inl ⟨rfl, rfl⟩
theorem RoundTrip.killDone : RoundTrip.Statement (.killDone) := .inl ⟨rfl, rfl⟩
theorem RoundTrip.haltRelease (ctx : Nat) : RoundTrip.Statement (.haltRelease ctx) := .inl ⟨rfl, rfl⟩
theorem RoundTrip.profctlClr (core : Nat) : RoundTrip.Statement (.profctlClr core) := .inl ⟨rfl, rfl⟩
theorem RoundTrip.profctlEn (core : Nat) (on : Bool) : RoundTrip.Statement (.profctlEn core on) := .inl ⟨rfl, rfl⟩
theorem RoundTrip.profilingCapture (core slot number : Nat) : RoundTrip.Statement (.profilingCapture core slot number) := .inl ⟨rfl, rfl⟩
theorem RoundTrip.leaseWrite (ctx : Nat) (value : BitVec 32) : RoundTrip.Statement (.leaseWrite ctx value) := .inl ⟨rfl, rfl⟩
theorem RoundTrip.cquotaWrite (ctx : Nat) (value : BitVec 32) : RoundTrip.Statement (.cquotaWrite ctx value) := .inl ⟨rfl, rfl⟩
theorem RoundTrip.barerrClear (wg : Nat) : RoundTrip.Statement (.barerrClear wg) := .inl ⟨rfl, rfl⟩
theorem RoundTrip.pinmissClear (ctx : Nat) : RoundTrip.Statement (.pinmissClear ctx) := .inl ⟨rfl, rfl⟩
theorem RoundTrip.evlostClear (ctx : Nat) : RoundTrip.Statement (.evlostClear ctx) := .inl ⟨rfl, rfl⟩
theorem RoundTrip.traceEnable (ctx : Nat) (value : BitVec 32) : RoundTrip.Statement (.traceEnable ctx value) := .inl ⟨rfl, rfl⟩
theorem RoundTrip.trposClear (ctx : Nat) : RoundTrip.Statement (.trposClear ctx) := .inl ⟨rfl, rfl⟩
theorem RoundTrip.trlostClear (ctx : Nat) : RoundTrip.Statement (.trlostClear ctx) := .inl ⟨rfl, rfl⟩
theorem RoundTrip.apertureWrite (byHost : Bool) (offset : Nat) (value : BitVec 32) : RoundTrip.Statement (.apertureWrite byHost offset value) := .inl ⟨rfl, rfl⟩
theorem RoundTrip.hostCxlMemAccess (addr : Nat) (write : Option (List (BitVec 8))) (count : Nat) : RoundTrip.Statement (.hostCxlMemAccess addr write count) := .inl ⟨rfl, rfl⟩
theorem RoundTrip.quoteRequest : RoundTrip.Statement (.quoteRequest) := .inl ⟨rfl, rfl⟩
theorem RoundTrip.powerOn (boot : BootInput) : RoundTrip.Statement (.powerOn boot) := .inl ⟨rfl, rfl⟩
theorem RoundTrip.hbmTrainingComplete (retire : List Nat) : RoundTrip.Statement (.hbmTrainingComplete retire) := .inl ⟨rfl, rfl⟩
theorem RoundTrip.selfTestComplete (test : Nat) : RoundTrip.Statement (.selfTestComplete test) := .inl ⟨rfl, rfl⟩
theorem RoundTrip.cxlLinkLoss (port : Nat) : RoundTrip.Statement (.cxlLinkLoss port) := .inl ⟨rfl, rfl⟩
theorem RoundTrip.thermalThrottle : RoundTrip.Statement (.thermalThrottle) := .inl ⟨rfl, rfl⟩
theorem RoundTrip.thermalShutdown : RoundTrip.Statement (.thermalShutdown) := .inl ⟨rfl, rfl⟩
theorem RoundTrip.instructionFetchFill (core slot sid : Nat) : RoundTrip.Statement (.instructionFetchFill core slot sid) := .inl ⟨rfl, rfl⟩
theorem RoundTrip.ctxrestLoadComplete (id : Nat) : RoundTrip.Statement (.ctxrestLoadComplete id) := .inl ⟨rfl, rfl⟩
theorem RoundTrip.uncorrectableErrorFound (unit : UnitId) : RoundTrip.Statement (.uncorrectableErrorFound unit) := .inl ⟨rfl, rfl⟩
theorem RoundTrip.linkFlitRetry (link : LinkId) : RoundTrip.Statement (.linkFlitRetry link) := .inl ⟨rfl, rfl⟩
theorem RoundTrip.thermalThrottleEnd : RoundTrip.Statement (.thermalThrottleEnd) := .inl ⟨rfl, rfl⟩
theorem RoundTrip.queueEnable (q : Nat) (ridx : Option (BitVec 32)) : RoundTrip.Statement (.queueEnable q ridx) := .inl ⟨rfl, rfl⟩
theorem RoundTrip.fabricInboundRequest (ctx : Nat) (addr : BitVec 64) (req : FabricReq) : RoundTrip.Statement (.fabricInboundRequest ctx addr req) := .inl ⟨rfl, rfl⟩
theorem RoundTrip.contextEnd (ctx : Nat) : RoundTrip.Statement (.contextEnd ctx) := .inl ⟨rfl, rfl⟩

end Sys2Proof.Laws
end

