-- ==== Sys2Proof/Tests/Slice0.lean ====
section
/-! SUPPORT. Tests: words of the spec that decode to what they stand for, ill-formed terms that WellFormed refuses, worked
examples of the spec, and a witness for every statement that has hypotheses. -/

namespace Sys2Proof.Tests

set_option Elab.async false

open Sys2Proof Sys2Proof.Machine Sys2Proof.Safety

/-! ### A small machine -/

/-- The split whose word issues in the tests. -/
def tMe : Me := { core := 0, sched := 0, slot := 0, sid := 0 }

/-- A LANE train with lanes 0 to 3 live and all but lane 2 active. -/
def tTrain : Train :=
  { state := .resident, granules := 16, rung := 5, live := 0xF, launch := 1, wg := 1, sregs := [(120, 1)],
    splits := [{ valid := true, member := 0xF, active := 0xB }, {}, {}, {}] }

/-- Its launch: two runs of one word, privileged, its one role with both rights. -/
def tLaunch : Launch :=
  { priv := true, codeWords := 3, wgCount := 1, nextWg := 1, trainsPerWg := 1, packet := 1,
    runMaps := [(5, [{ start := 0, len := 1 }, { start := 1, len := 1 }])],
    roles := [{ entry := 0, granules := 16, trains := 1, producer := true, stream := true }] }

/-- Its workgroup. -/
def tWg : Workgroup := { launch := 1, localSize := 4096, tileCount := 4 }

/-- The machine in which a train, in a launch and a workgroup, issues the one word of its run; translation is off. -/
def tState (t : Train) (l : Launch := tLaunch) (g : Workgroup := tWg) : State :=
  { State.reset with
    cur := some 0, nextId := 2, trains := [(0, t)], launches := [(1, l)], wgs := [(1, g)],
    ctxs := [(0, { physical := true, begun := true, priv := true, pinq := 64 })],
    boot := { State.reset.boot with step := 5 }, hbmReady := true,
    cores := [(0, { scheds := [(0, { run := some { slot := 0, sid := 0, words := [0] } })] })] }

/-- The train after an instruction has issued. -/
def tAfter (i : Instr) (t : Train) : Option Train :=
  match exec i (tState t) with
  | .next u => some (u.train 0)
  | _ => none

/-- Lanes 0 to 3 of a vector register after an instruction. -/
def tLanes (i : Instr) (t : Train) (r : Nat) : Option (List Nat) :=
  (tAfter i t).map fun u => (List.range 4).map fun l => (u.readV r l).toNat

/-- Scalar registers after an instruction. -/
def tScalars (i : Instr) (t : Train) (rs : List Nat) : Option (List Nat) :=
  (tAfter i t).map fun u => rs.map fun r => (u.readS 0 r).toNat


/-- Vector integer words, laid out by Tables 4.1, 4.2 and the opcode map from a value for each field. -/
theorem test_decode_vector_integer_0 :
    [0x010AAAB0075A2F84, 0x011C839C7D959447, 0x012E5C88F3D0EB02, 0x01303575680B51C5, 0x01420E61DE46A680,
      0x0153E74E54811D43, 0x0165B83ACABC6206, 0x0177912740F7D8C1, 0x01896A13B7322F94, 0x019B42FC2D6D9457,
      0x01AD1BE8A3A8EB0A, 0x01BEF4D519E351C5, 0x01C0CDC18E1EA680, 0x01D2A6AE04591D4B].map (decodeTableWord 64) =
    [some (.vadd ⟨0x155, 0xac, 3, 0x15a, 1, 0, 7, 6, 0, 4⟩), some (.vsub ⟨0x190, 0xe7, 0x3e, 0x195, 4, 1, 2, 1, 0, 7⟩),
      some (.vmul ⟨0x1cb, 0x122, 0x79, 0x1d0, 7, 0, 5, 4, 0, 2⟩), some (.vmulhi ⟨6, 0x15d, 0xb4, 11, 2, 1, 0, 7, 0, 5⟩),
      some (.vmad ⟨0x41, 0x198, 0xef, 0x46, 5, 0, 3, 2, 0, 0⟩), some (.vmin ⟨0x7c, 0x1d3, 0x12a, 0x81, 0, 1, 6, 5, 0, 3⟩),
      some (.vmax ⟨0xb7, 14, 0x165, 0xbc, 3, 0, 1, 0, 0, 6⟩), some (.vabsd ⟨0xf2, 0x49, 0x1a0, 0xf7, 6, 1, 4, 3, 0, 1⟩),
      some (.vand ⟨0x12d, 0x84, 0x1db, 0x132, 1, 0, 7, 6, 2, 4⟩), some (.vor ⟨0x168, 0xbf, 0x16, 0x16d, 4, 1, 2, 1, 2, 7⟩),
      some (.vxor ⟨0x1a3, 0xfa, 0x51, 0x1a8, 7, 0, 5, 4, 1, 2⟩), some (.vshl ⟨0x1de, 0x135, 0x8c, 0x1e3, 2, 1, 0, 7, 0, 5⟩),
      some (.vshr ⟨0x19, 0x170, 0xc7, 0x1e, 5, 0, 3, 2, 0, 0⟩), some (.vrot ⟨0x54, 0x1ab, 0x102, 0x59, 0, 1, 6, 5, 1, 3⟩)] := by
  decide +kernel

/-- Vector integer words, laid out by Tables 4.1, 4.2 and the opcode map from a value for each field. -/
theorem test_decode_vector_integer_1 :
    [0x01E47F9A7A94620E, 0x01F65086F0CFD8C1, 0x02082973670A2F84, 0x021A025FDD459447, 0x022BDB485380EB02,
      0x023DB434C9BB51C5, 0x024F8D213FF6A680, 0x0251660DB4311D43, 0x02633EFA2A6C622E, 0x027517E6A0A7D8C1,
      0x0286E8D316E22F84, 0x0298C1BD0003171D, 0x02AA9AA800031758, 0x02BC7394799351FD].map (decodeTableWord 64) =
    [some (.vfun ⟨0x8f, 0x1e6, 0x13d, 0x94, 3, 0, 1, 0, 1, 6⟩), some (.vbfx ⟨0xca, 0x21, 0x178, 0xcf, 6, 1, 4, 3, 0, 1⟩),
      some (.vbfi ⟨0x105, 0x5c, 0x1b3, 0x10a, 1, 0, 7, 6, 0, 4⟩), some (.vclz ⟨0x140, 0x97, 0x1ee, 0x145, 4, 1, 2, 1, 0, 7⟩),
      some (.vctz ⟨0x17b, 0xd2, 0x29, 0x180, 7, 0, 5, 4, 0, 2⟩), some (.vffs ⟨0x1b6, 0x10d, 0x64, 0x1bb, 2, 1, 0, 7, 0, 5⟩),
      some (.vpopc ⟨0x1f1, 0x148, 0x9f, 0x1f6, 5, 0, 3, 2, 0, 0⟩), some (.vbrev ⟨0x2c, 0x183, 0xda, 0x31, 0, 1, 6, 5, 0, 3⟩),
      some (.vcmp ⟨0x67, 0x1be, 0x115, 0x6c, 3, 0, 1, 0, 5, 6⟩), some (.vsel ⟨0xa2, 0x1f9, 0x150, 0xa7, 6, 1, 4, 3, 0, 1⟩),
      some (.vmov ⟨0xdd, 0x34, 0x18b, 0xe2, 1, 0, 7, 6, 0, 4⟩), some (.vmovi ⟨0x118, 0x6f, 1, 0x3171d⟩),
      some (.vaddi ⟨0x153, 0xaa, 0, 0x31758⟩), some (.vcvti ⟨0x18e, 0xe5, 0x3c, 0x193, 2, 1, 0, 7, 7, 5⟩)] := by
  decide +kernel

/-- Vector integer words, laid out by Tables 4.1, 4.2 and the opcode map from a value for each field. -/
theorem test_decode_vector_integer_2 :
    [0x02CE4C80EFCEA680, 0x02D0256D64091D43].map (decodeTableWord 64) =
    [some (.vbsrd ⟨0x1c9, 0x120, 0x77, 0x1ce, 5, 0, 3, 2, 0, 0⟩), some (.vbsinit ⟨4, 0x15b, 0xb2, 9, 0, 1, 6, 5, 0, 3⟩)] := by
  decide +kernel

/-- Scalar integer words, laid out by Tables 4.1, 4.2 and the opcode map from a value for each field. -/
theorem test_decode_scalar_integer_0 :
    [0x0306A331BA20316D, 0x031E11CF759009A8, 0x032560ACB0E021E3, 0x033CCF4A6B503A1E, 0x03443E27A6A01259,
      0x035B8CC561102A94, 0x0362FBA29C6002CF, 0x037A4A4057D01B0A, 0x0381B91D92203345, 0x039907FB4D900B80,
      0x03A0769888E023BB, 0x03B7C57643503BF6, 0x03CF3413FEA01431, 0x03D682F139102C6C].map (decodeTableWord 64) =
    [some (.sadd ⟨0x35, 12, 0x63, 0x3a, 1, 0, 0, 6, 0x16d⟩), some (.ssub ⟨0x70, 0x47, 0x1e, 0x75, 4, 1, 0, 1, 0x1a8⟩),
      some (.smul ⟨0x2b, 2, 0x59, 0x30, 7, 0, 0, 4, 0x1e3⟩), some (.smulhi ⟨0x66, 0x3d, 0x14, 0x6b, 2, 1, 0, 7, 0x21e⟩),
      some (.sand ⟨0x21, 0x78, 0x4f, 0x26, 5, 0, 0, 2, 0x259⟩), some (.sor ⟨0x5c, 0x33, 10, 0x61, 0, 1, 0, 5, 0x294⟩),
      some (.sxor ⟨0x17, 0x6e, 0x45, 0x1c, 3, 0, 0, 0, 0x2cf⟩), some (.sshl ⟨0x52, 0x29, 0, 0x57, 6, 1, 0, 3, 0x30a⟩),
      some (.sshr ⟨13, 0x64, 0x3b, 0x12, 1, 0, 0, 6, 0x345⟩), some (.sbfx ⟨0x48, 0x1f, 0x76, 0x4d, 4, 1, 0, 1, 0x380⟩),
      some (.sbfi ⟨3, 0x5a, 0x31, 8, 7, 0, 0, 4, 0x3bb⟩), some (.sclz ⟨0x3e, 0x15, 0x6c, 0x43, 2, 1, 0, 7, 0x3f6⟩),
      some (.spopc ⟨0x79, 0x50, 0x27, 0x7e, 5, 0, 0, 2, 0x431⟩), some (.sffs ⟨0x34, 11, 0x62, 0x39, 0, 1, 0, 5, 0x46c⟩)] := by
  decide +kernel

/-- Scalar integer words, laid out by Tables 4.1, 4.2 and the opcode map from a value for each field. -/
theorem test_decode_scalar_integer_1 :
    [0x03EDF18EF46004A7, 0x03F5406C2FD01CE2, 0x040CAF09EA21751D, 0x04141DE725900D58, 0x042B6C8100031CE0,
      0x0432DB4000031D1B, 0x044A2A3FD6A01609, 0x045198DD11102E44, 0x0468E7BACC60067F].map (decodeTableWord 64) =
    [some (.smin ⟨0x6f, 0x46, 0x1d, 0x74, 3, 0, 0, 0, 0x4a7⟩), some (.smax ⟨0x2a, 1, 0x58, 0x2f, 6, 1, 0, 3, 0x4e2⟩),
      some (.scmp ⟨0x65, 0x3c, 0x13, 0x6a, 1, 0, 5, 6, 0x51d⟩), some (.smov ⟨0x20, 0x77, 0x4e, 0x25, 4, 1, 0, 1, 0x558⟩),
      some (.smovi ⟨0x5b, 0x32, 1, 0x31ce0⟩), some (.saddi ⟨0x16, 0x6d, 0, 0x31d1b⟩),
      some (.ssel ⟨0x51, 0x28, 0x7f, 0x56, 5, 0, 0, 2, 0x609⟩), some (.smcnt ⟨12, 0x63, 0x3a, 0x11, 0, 1, 0, 5, 0x644⟩),
      some (.smfirst ⟨0x47, 0x1e, 0x75, 0x4c, 3, 0, 0, 0, 0x67f⟩)] := by
  decide +kernel

/-- Floating and cross-lane words, laid out by Tables 4.1, 4.2 and the opcode map from a value for each field. -/
theorem test_decode_floating_and_cross_lane_0 :
    [0x0500ADB1861A2F84, 0x0512869DFC559447, 0x05245F8A7290EB02, 0x05363076E8CB51C5, 0x054809635F06A688,
      0x0559E24FD5411D4B, 0x056BBB384B7C623E, 0x057D9424C1B7D8C1, 0x058F6D1137F22F84, 0x059145FDAC2D9447,
      0x05A31EEA2268EB02, 0x05B4F7D698A351C5, 0x05C6C8C30EDEA680, 0x05D8A1AF85191D43].map (decodeTableWord 64) =
    [some (.vfadd ⟨0x15, 0x16c, 0xc3, 0x1a, 1, 0, 7, 6, 0, 4⟩), some (.vfsub ⟨0x50, 0x1a7, 0xfe, 0x55, 4, 1, 2, 1, 0, 7⟩),
      some (.vfmul ⟨0x8b, 0x1e2, 0x139, 0x90, 7, 0, 5, 4, 0, 2⟩), some (.vfma ⟨0xc6, 0x1d, 0x174, 0xcb, 2, 1, 0, 7, 0, 5⟩),
      some (.vfmin ⟨0x101, 0x58, 0x1af, 0x106, 5, 0, 3, 2, 1, 0⟩),
      some (.vfmax ⟨0x13c, 0x93, 0x1ea, 0x141, 0, 1, 6, 5, 1, 3⟩),
      some (.vfcmp ⟨0x177, 0xce, 0x25, 0x17c, 3, 0, 1, 0, 7, 6⟩),
      some (.vfclass ⟨0x1b2, 0x109, 0x60, 0x1b7, 6, 1, 4, 3, 0, 1⟩),
      some (.vfdiv ⟨0x1ed, 0x144, 0x9b, 0x1f2, 1, 0, 7, 6, 0, 4⟩),
      some (.vfsqrt ⟨0x28, 0x17f, 0xd6, 0x2d, 4, 1, 2, 1, 0, 7⟩), some (.vfrcp ⟨0x63, 0x1ba, 0x111, 0x68, 7, 0, 5, 4, 0, 2⟩),
      some (.vfrsq ⟨0x9e, 0x1f5, 0x14c, 0xa3, 2, 1, 0, 7, 0, 5⟩), some (.vfexp2 ⟨0xd9, 0x30, 0x187, 0xde, 5, 0, 3, 2, 0, 0⟩),
      some (.vflog2 ⟨0x114, 0x6b, 0x1c2, 0x119, 0, 1, 6, 5, 0, 3⟩)] := by
  decide +kernel

/-- Floating and cross-lane words, laid out by Tables 4.1, 4.2 and the opcode map from a value for each field. -/
theorem test_decode_floating_and_cross_lane_1 :
    [0x05EA7A9BFB546206, 0x05FC5384718FD8C1, 0x060E2C70E7CA2F84, 0x0610055D5C059447, 0x0621DE49D240EB02,
      0x0633B736487B51ED, 0x06458822BEB6A698, 0x0657610F34F11D7B, 0x066939FBAB2C6226, 0x067B12E42167D8E1,
      0x068CEBD097A22F84, 0x070BAB30477A2F9C, 0x071D841CBDB59447, 0x072F5D0933F0EB3A].map (decodeTableWord 64) =
    [some (.vfsin ⟨0x14f, 0xa6, 0x1fd, 0x154, 3, 0, 1, 0, 0, 6⟩),
      some (.vfcos ⟨0x18a, 0xe1, 0x38, 0x18f, 6, 1, 4, 3, 0, 1⟩),
      some (.vfrnd ⟨0x1c5, 0x11c, 0x73, 0x1ca, 1, 0, 7, 6, 0, 4⟩), some (.vffract ⟨0, 0x157, 0xae, 5, 4, 1, 2, 1, 0, 7⟩),
      some (.vfldexp ⟨0x3b, 0x192, 0xe9, 0x40, 7, 0, 5, 4, 0, 2⟩),
      some (.vfcvt ⟨0x76, 0x1cd, 0x124, 0x7b, 2, 1, 0, 7, 5, 5⟩), some (.vcvtfi ⟨0xb1, 8, 0x15f, 0xb6, 5, 0, 3, 2, 3, 0⟩),
      some (.vcvtif ⟨0xec, 0x43, 0x19a, 0xf1, 0, 1, 6, 5, 7, 3⟩),
      some (.vpack ⟨0x127, 0x7e, 0x1d5, 0x12c, 3, 0, 1, 0, 4, 6⟩),
      some (.vunpk ⟨0x162, 0xb9, 0x10, 0x167, 6, 1, 4, 3, 4, 1⟩),
      some (.vfdot2 ⟨0x19d, 0xf4, 0x4b, 0x1a2, 1, 0, 7, 6, 0, 4⟩),
      some (.vshuf ⟨0x175, 0xcc, 0x23, 0x17a, 1, 0, 7, 6, 3, 4⟩),
      some (.vbcast ⟨0x1b0, 0x107, 0x5e, 0x1b5, 4, 1, 2, 1, 0, 7⟩),
      some (.vredu ⟨0x1eb, 0x142, 0x99, 0x1f0, 7, 0, 5, 4, 7, 2⟩)] := by
  decide +kernel

/-- Floating and cross-lane words, laid out by Tables 4.1, 4.2 and the opcode map from a value for each field. -/
theorem test_decode_floating_and_cross_lane_2 :
    [0x073135F5A82B51FD, 0x07430EE21E66A680, 0x0754E7CE94A11D5B, 0x0766B8BB0ADC6206].map (decodeTableWord 64) =
    [some (.vscan ⟨0x26, 0x17d, 0xd4, 0x2b, 2, 1, 0, 7, 7, 5⟩), some (.vxshuf ⟨0x61, 0x1b8, 0x10f, 0x66, 5, 0, 3, 2, 0, 0⟩),
      some (.vderiv ⟨0x9c, 0x1f3, 0x14a, 0xa1, 0, 1, 6, 5, 3, 3⟩),
      some (.vinterp ⟨0xd7, 0x2e, 0x185, 0xdc, 3, 0, 1, 0, 0, 6⟩)] := by
  decide +kernel

/-- Control words, laid out by Tables 4.1, 4.2 and the opcode map from a value for each field. -/
theorem test_decode_control_0 :
    [0x001006E380030DE5, 0x078D480000032952, 0x0798BE000003298D, 0x07A33400000329C8, 0x07BEAA0000032A03,
      0x07C9200000032A3E, 0x07D4960000032A79, 0x07EF0C0000032AB4, 0x07FA820000032AEF, 0x0805F80000032B2A,
      0x08106E0000032B65, 0x082BE40000032BA0, 0x08365A0000032BDB, 0x0841D00000032C16].map (decodeTableWord 64) =
    [some (.nop ⟨0, 0x37, 14, 0x30de5⟩), some (.br ⟨13, 0x24, 0, 0x32952⟩), some (.brs ⟨8, 0x5f, 0, 0x3298d⟩),
      some (.brv ⟨3, 0x1a, 0, 0x329c8⟩), some (.brm ⟨14, 0x55, 0, 0x32a03⟩), some (.call ⟨9, 0x10, 0, 0x32a3e⟩),
      some (.ret ⟨4, 0x4b, 0, 0x32a79⟩), some (.jmpi ⟨15, 6, 0, 0x32ab4⟩), some (.sjoin ⟨10, 0x41, 0, 0x32aef⟩),
      some (.wait ⟨5, 0x7c, 0, 0x32b2a⟩), some (.exit ⟨0, 0x37, 0, 0x32b65⟩), some (.yield ⟨11, 0x72, 0, 0x32ba0⟩),
      some (.reggrow ⟨6, 0x2d, 0, 0x32bdb⟩), some (.regtrim ⟨1, 0x68, 0, 0x32c16⟩)] := by
  decide +kernel

/-- Control words, laid out by Tables 4.1, 4.2 and the opcode map from a value for each field. -/
theorem test_decode_control_1 :
    [0x085C460000032C51, 0x0867BC0000032C8C, 0x0872320000032CC7, 0x088DA80000032D02, 0x08981E0000032D3D,
      0x08A3940000032D78].map (decodeTableWord 64) =
    [some (.kills ⟨12, 0x23, 0, 0x32c51⟩), some (.emitv ⟨7, 0x5e, 0, 0x32c8c⟩), some (.emitp ⟨2, 0x19, 0, 0x32cc7⟩),
      some (.fxrel ⟨13, 0x54, 0, 0x32d02⟩), some (.tdec ⟨8, 15, 0, 0x32d3d⟩), some (.tinc ⟨3, 0x4a, 0, 0x32d78⟩)] := by
  decide +kernel

/-- Memory words, laid out by Tables 4.1, 4.2 and the opcode map from a value for each field. -/
theorem test_decode_memory :
    [0x0906AACC1A4368DF, 0x0918867DF503691A, 0x092A5A2FC8C36955, 0x093C35D1A3836990, 0x094E09837F1921CB,
      0x0961B8E728F13241, 0x0973949901DD2A7C, 0x0985684ADA536AB7, 0x099743FCB5036AF2, 0x09A91FAE88C36B2D,
      0x09BAF35063A36B68, 0x0BA41DA988C3728D, 0x0BB5F15B638372C8].map (decodeTableWord 64) =
    [some (.ld ⟨0xd5, 0x2c, 0x183, 2, 1, 0, 0x368df⟩), some (.st ⟨0x110, 0x67, 0x1be, 5, 0, 0, 0x3691a⟩),
      some (.sld ⟨0x14b, 0x22, 0x1f9, 0, 3, 0, 0x36955⟩), some (.sst ⟨0x186, 0x5d, 0x34, 3, 2, 0, 0x36990⟩),
      some (.atom ⟨0x1c1, 0x18, 0x6f, 0x1c6, 9, 0, 0x1cb⟩), some (.satom ⟨0x37, 14, 0xe5, 0x3c, 9, 2, 0x241⟩),
      some (.acall ⟨0x72, 0x49, 0x120, 0x77, 9, 1, 0x27c⟩), some (.pref ⟨0xad, 4, 0x15b, 2, 1, 1, 0x36ab7⟩),
      some (.lpin ⟨0xe8, 0x3f, 0x196, 5, 0, 0, 0x36af2⟩), some (.lunpin ⟨0x123, 0x7a, 0x1d1, 0, 3, 0, 0x36b2d⟩),
      some (.blst ⟨0x15e, 0x35, 12, 3, 2, 2, 0x36b68⟩), some (.stkpsh ⟨0x83, 0x5a, 0x131, 0, 3, 0, 0x3728d⟩),
      some (.stkpop ⟨0xbe, 0x15, 0x16c, 3, 2, 0, 0x372c8⟩)] := by
  decide +kernel

/-- Engine words, laid out by Tables 4.1, 4.2 and the opcode map from a value for each field. -/
theorem test_decode_engine_0 :
    [0x0A00B719D4036C8F, 0x0A1805F728036CCA, 0x0A2F749484036D05, 0x0A36C37258C36D40, 0x0A4E320FB4036D7B,
      0x0A5580ED08036DB6, 0x0A6CEF8AE4036DF1, 0x0A745E6838036E2C, 0x0A8BAD0594036E67, 0x0A931BE368036EA2,
      0x0AAA6A80C4036EDD, 0x0B06A331D433703F, 0x0B1E11CF2803707A, 0x0B2560AC841370B5].map (decodeTableWord 64) =
    [some (.cpy ⟨5, 0x5c, 0x33, 10, 1, 0, 0x36c8f⟩), some (.cpyg ⟨0x40, 0x17, 0x6e, 5, 0, 0, 0x36cca⟩),
      some (.cpys ⟨0x7b, 0x52, 0x29, 0, 1, 0, 0x36d05⟩), some (.cpyr ⟨0x36, 13, 0x64, 11, 0, 12, 0x36d40⟩),
      some (.cpyx ⟨0x71, 0x48, 0x1f, 6, 1, 0, 0x36d7b⟩), some (.mdec ⟨0x2c, 3, 0x5a, 1, 0, 0, 0x36db6⟩),
      some (.nbinit ⟨0x67, 0x3e, 0x15, 12, 1, 0, 0x36df1⟩), some (.nbarr ⟨0x22, 0x79, 0x50, 7, 0, 0, 0x36e2c⟩),
      some (.nbwait ⟨0x5d, 0x34, 11, 2, 1, 0, 0x36e67⟩), some (.nbinv ⟨0x18, 0x6f, 0x46, 13, 0, 0, 0x36ea2⟩),
      some (.trace ⟨0x53, 0x2a, 1, 8, 1, 0, 0x36edd⟩), some (.mma ⟨0x35, 12, 0x63, 10, 1, 3, 0x3703f⟩),
      some (.mzero ⟨0x70, 0x47, 0x1e, 5, 0, 0, 0x3707a⟩), some (.mlda ⟨0x2b, 2, 0x59, 0, 1, 1, 0x370b5⟩)] := by
  decide +kernel

/-- Engine words, laid out by Tables 4.1, 4.2 and the opcode map from a value for each field. -/
theorem test_decode_engine_1 :
    [0x0B3CCF4A581370F0, 0x0B443E27B453712B, 0x0B5B8CC508637166, 0x0BCF3413F4037303, 0x0BD682F14803733E,
      0x0BEDF18EA4037379, 0x0C0CAF09D40373EF, 0x0C141DE72803742A, 0x0C2B6C8484037465].map (decodeTableWord 64) =
    [some (.msta ⟨0x66, 0x3d, 0x14, 11, 0, 1, 0x370f0⟩), some (.mcvt ⟨0x21, 0x78, 0x4f, 6, 1, 5, 0x3712b⟩),
      some (.mqnt ⟨0x5c, 0x33, 10, 1, 0, 6, 0x37166⟩), some (.regrp ⟨0x79, 0x50, 0x27, 14, 1, 0, 0x37303⟩),
      some (.ringoff ⟨0x34, 11, 0x62, 9, 0, 0, 0x3733e⟩), some (.ringtake ⟨0x6f, 0x46, 0x1d, 4, 1, 0, 0x37379⟩),
      some (.arecv ⟨0x65, 0x3c, 0x13, 10, 1, 0, 0x373ef⟩), some (.areply ⟨0x20, 0x77, 0x4e, 5, 0, 0, 0x3742a⟩),
      some (.afail ⟨0x5b, 0x32, 9, 0, 1, 0, 0x37465⟩)] := by
  decide +kernel

/-- Ray words, laid out by Tables 4.1, 4.2 and the opcode map from a value for each field. -/
theorem test_decode_ray :
    [0x0B806D9176122F84, 0x0B92467DEC4D9447, 0x0BFD5404B1AFD8C1].map (decodeTableWord 64) =
    [some (.boxt ⟨13, 0x164, 0xbb, 0x12, 1, 0, 7, 6, 0, 4⟩), some (.trit ⟨0x48, 0x19f, 0xf6, 0x4d, 4, 1, 2, 1, 0, 7⟩),
      some (.rhit ⟨0x1aa, 0x101, 0x58, 0x1af, 6, 1, 4, 3, 0, 1⟩)] := by
  decide +kernel

/-- Escapement and trace words, laid out by Tables 4.1, 4.2 and the opcode map from a value for each field. -/
theorem test_decode_escapement_and_trace :
    [0x0C4A2A0000033AD6, 0x0C5198C000033B11, 0x0C68E78000033B4C, 0x0C70564000033B87, 0x0C87A50000033BC2,
      0x0C9F13CA00033BFD, 0x0CA6628000033C38, 0x0CC5200000033CAE, 0x0CDC8EC000033CE9, 0x0CE3FD8000033D24].map (decodeTableWord 64) =
    [some (.esarr ⟨0x51, 0x28, 0, 0x33ad6⟩), some (.eswait ⟨12, 0x63, 0, 0x33b11⟩), some (.esbar ⟨0x47, 0x1e, 0, 0x33b4c⟩),
      some (.esbcst ⟨2, 0x59, 0, 0x33b87⟩), some (.esrecv ⟨0x3d, 0x14, 0, 0x33bc2⟩), some (.esred ⟨0x78, 0x4f, 10, 0x33bfd⟩),
      some (.estick ⟨0x33, 10, 0, 0x33c38⟩), some (.trec ⟨0x29, 0, 0, 0x33cae⟩), some (.clkrd ⟨0x64, 0x3b, 0, 0x33ce9⟩),
      some (.brk ⟨0x1f, 0x76, 0, 0x33d24⟩)] := by
  decide +kernel

/-- System words, laid out by Tables 4.1, 4.2 and the opcode map from a value for each field. -/
theorem test_decode_system :
    [0x0E00039CC003414A, 0x0E100AEB80034185, 0x0E20025A400341C0, 0x0E3009A9000341FB, 0x0E400117C0034236,
      0x0E50086680034271, 0x0E600FD5400342AC, 0x0E700724000342E7, 0x0E800E92C0034322, 0x0E9005E18003435D,
      0x0EA00D5040034398, 0x0EB004BF000343D3, 0x0EC00C0DC003440E, 0x0ED0037C80034449].map (decodeTableWord 64) =
    [some (.trap ⟨0, 0x1c, 0x73, 0x3414a⟩), some (.syscall ⟨0, 0x57, 0x2e, 0x34185⟩), some (.mfsr ⟨0, 0x12, 0x69, 0x341c0⟩),
      some (.mtsr ⟨0, 0x4d, 0x24, 0x341fb⟩), some (.eret ⟨0, 8, 0x5f, 0x34236⟩), some (.fltrd ⟨0, 0x43, 0x1a, 0x34271⟩),
      some (.tresume ⟨0, 0x7e, 0x55, 0x342ac⟩), some (.tkill ⟨0, 0x39, 0x10, 0x342e7⟩),
      some (.tsnap ⟨0, 0x74, 0x4b, 0x34322⟩), some (.ctxsave ⟨0, 0x2f, 6, 0x3435d⟩),
      some (.ctxrest ⟨0, 0x6a, 0x41, 0x34398⟩), some (.espre ⟨0, 0x25, 0x7c, 0x343d3⟩),
      some (.tlbinv ⟨0, 0x60, 0x37, 0x3440e⟩), some (.haltall ⟨0, 0x1b, 0x72, 0x34449⟩)] := by
  decide +kernel


/-! ### Well-formed and ill-formed terms (R55, R56, R63, R75 to R84) -/

/-- Beside each ill-formed term stands a well-formed one that differs from it in the field that the check is about. -/
def wfPairs : List (Instr × Instr) :=
  [-- MINOR not listed
   (.vadd ⟨5, 4, 3, 0, 0, 0, 0, 0, 1, 0⟩, .vadd ⟨5, 4, 3, 0, 0, 0, 0, 0, 0, 0⟩),
   -- OP not listed
   (.atom ⟨7, 4, 2, 9, 15, 0, 16⟩, .atom ⟨7, 4, 2, 9, 14, 0, 16⟩),
   -- an ESRED operation not listed
   (.esred ⟨20, 8, 11, 5⟩, .esred ⟨20, 8, 10, 5⟩),
   -- an unused operand that is not 0
   (.vadd ⟨5, 4, 3, 1, 0, 0, 0, 0, 0, 0⟩, .vadd ⟨5, 4, 3, 0, 0, 0, 0, 0, 0, 0⟩),
   -- a source beyond the last code, and an odd pair
   (.vadd ⟨5, 0x1F8, 3, 0, 0, 0, 0, 0, 0, 0⟩, .vadd ⟨5, 0x1F7, 3, 0, 0, 0, 0, 0, 0, 0⟩),
   (.vadd ⟨4, 5, 2, 0, 0, 0, 0, 0, 0, 6⟩, .vadd ⟨4, 6, 2, 0, 0, 0, 0, 0, 0, 6⟩),
   -- a scalar register as a vector-class destination, and an odd pair
   (.vadd ⟨0x100, 4, 3, 0, 0, 0, 0, 0, 0, 0⟩, .vadd ⟨0x180, 4, 3, 0, 0, 0, 0, 0, 0, 0⟩),
   (.vadd ⟨5, 4, 2, 0, 0, 0, 0, 0, 0, 7⟩, .vadd ⟨6, 4, 2, 0, 0, 0, 0, 0, 0, 7⟩),
   -- a destination of ATOM and of STKPOP that is no v register
   (.atom ⟨0x180, 4, 2, 9, 8, 0, 0⟩, .atom ⟨0xFF, 4, 2, 9, 8, 0, 0⟩),
   (.stkpop ⟨0x180, 4, 2, 2, 1, 0, 0⟩, .stkpop ⟨14, 4, 2, 2, 1, 0, 0⟩),
   -- VMOVI.hi of an odd register
   (.vmovi ⟨5, 0, 1, 7⟩, .vmovi ⟨4, 0, 1, 7⟩),
   -- store data in a scalar register; stack data in an f register
   (.st ⟨0x104, 4, 2, 2, 0, 0, 0⟩, .st ⟨0x184, 4, 2, 2, 0, 0, 0⟩),
   (.stkpsh ⟨0x184, 4, 2, 2, 1, 0, 0⟩, .stkpsh ⟨14, 4, 2, 2, 1, 0, 0⟩),
   -- a triple off a multiple of 4; s120 as a triple destination
   (.vsel ⟨5, 4, 3, 0x109, 0, 0, 0, 0, 0, 0⟩, .vsel ⟨5, 4, 3, 0x108, 0, 0, 0, 0, 0, 0⟩),
   (.vcmp ⟨0x178, 4, 3, 0, 0, 0, 0, 0, 0, 0⟩, .vcmp ⟨0x17C, 4, 3, 0, 0, 0, 0, 0, 0, 0⟩),
   -- an odd scalar pair; s121 as a destination
   (.sadd ⟨2, 5, 4, 0, 0, 0, 0, 6, 0⟩, .sadd ⟨2, 6, 4, 0, 0, 0, 0, 6, 0⟩),
   (.sadd ⟨121, 5, 4, 0, 0, 0, 0, 0, 0⟩, .sadd ⟨120, 5, 4, 0, 0, 0, 0, 0, 0⟩),
   (.satom ⟨0x17B, 4, 0x1C0, 0x109, 0, 0, 0⟩, .satom ⟨0x17C, 4, 0x1C0, 0x109, 0, 0, 0⟩),
   (.emitv ⟨0, 122, 0, 0⟩, .emitv ⟨0, 8, 0, 0⟩),
   (.smovi ⟨9, 0, 1, 7⟩, .smovi ⟨8, 0, 1, 7⟩),
   -- the status of REGGROW, tokens, and a token that may not be s0
   (.reggrow ⟨0, 124, 0, 1⟩, .reggrow ⟨0, 127, 0, 1⟩),
   (.cpy ⟨120, 8, 0, 0, 0, 0, 0⟩, .cpy ⟨0, 8, 0, 0, 0, 0, 0⟩),
   (.nbwait ⟨0, 0, 0, 3, 0, 0, 0⟩, .nbwait ⟨22, 0, 0, 3, 0, 0, 0⟩),
   -- a constant outside its range
   (.vcvti ⟨5, 4, 0x1C4, 0, 0, 0, 0, 0, 2, 0⟩, .vcvti ⟨5, 4, 0x1C3, 0, 0, 0, 0, 0, 2, 0⟩),
   -- the lane of VBCAST in a v register; the operand of ATOM in an f register
   (.vbcast ⟨5, 4, 3, 0, 0, 0, 0, 0, 0, 0⟩, .vbcast ⟨5, 4, 0x1C3, 0, 0, 0, 0, 0, 0, 0⟩),
   (.atom ⟨7, 4, 2, 0x184, 0, 0, 0⟩, .atom ⟨7, 4, 2, 0x1C4, 0, 0, 0⟩),
   -- VINTERP of what is no f register
   (.vinterp ⟨5, 4, 3, 2, 0, 0, 0, 0, 0, 0⟩, .vinterp ⟨5, 0x184, 3, 2, 0, 0, 0, 0, 0, 0⟩),
   -- OFS in an f register; OFS of a train-class access in a v register
   (.ld ⟨5, 4, 0x184, 2, 0, 0, 0⟩, .ld ⟨5, 4, 0x104, 2, 0, 0, 0⟩),
   (.sld ⟨0x105, 4, 5, 2, 0, 0, 0⟩, .sld ⟨0x105, 4, 0x1C0, 2, 0, 0, 0⟩),
   -- blocks of vector registers that pass v255, start at v0 or at an odd register
   (.boxt ⟨240, 1, 12, 10, 0, 0, 0, 0, 0, 0⟩, .boxt ⟨239, 1, 12, 10, 0, 0, 0, 0, 0, 0⟩),
   (.boxt ⟨20, 249, 12, 10, 0, 0, 0, 0, 0, 0⟩, .boxt ⟨20, 248, 12, 10, 0, 0, 0, 0, 0, 0⟩),
   (.trace ⟨20, 8, 0, 0, 0, 0, 0x1400⟩, .trace ⟨20, 8, 0, 0, 0, 0, 0x1401⟩),
   (.trace ⟨20, 8, 0, 0, 0, 0, 0x0001⟩, .trace ⟨20, 8, 0, 0, 0, 0, 0xFA01⟩),
   (.arecv ⟨0, 8, 0, 0, 0, 0, 21⟩, .arecv ⟨0, 8, 0, 0, 0, 0, 20⟩),
   (.areply ⟨0, 8, 0, 0, 0, 0, 0⟩, .areply ⟨0, 8, 0, 0, 0, 0, 20⟩),
   -- stream quads, their source pair and refill pair
   (.vbsinit ⟨0, 4, 0x1C0, 0, 0, 0, 0, 0, 0, 0⟩, .vbsinit ⟨8, 4, 0x1C0, 0, 0, 0, 0, 0, 0, 0⟩),
   (.vbsinit ⟨8, 5, 0x1C0, 0, 0, 0, 0, 0, 0, 0⟩, .vbsinit ⟨8, 4, 0x1C0, 0, 0, 0, 0, 0, 0, 0⟩),
   (.vbsrd ⟨21, 10, 0x110, 14, 0, 0, 0, 0, 0, 0⟩, .vbsrd ⟨21, 8, 0x110, 14, 0, 0, 0, 0, 0, 0⟩),
   -- the root pair of BOXT
   (.boxt ⟨20, 1, 12, 11, 0, 0, 0, 0, 0, 0⟩, .boxt ⟨20, 1, 12, 0x10A, 0, 0, 0, 0, 0, 0⟩),
   -- header quads, format blocks, pairs that are not s0, registers of the system majors
   (.arecv ⟨0, 0, 0, 0, 0, 0, 20⟩, .arecv ⟨0, 4, 0, 0, 0, 0, 20⟩),
   (.areply ⟨0, 120, 0, 0, 0, 0, 20⟩, .areply ⟨0, 116, 0, 0, 0, 0, 20⟩),
   (.mma ⟨30, 12, 0, 0, 0, 0, 4⟩, .mma ⟨30, 16, 0, 0, 0, 0, 4⟩),
   (.clkrd ⟨0, 0, 0, 0⟩, .clkrd ⟨24, 0, 0, 0⟩),
   (.mfsr ⟨0, 121, 0, 0⟩, .mfsr ⟨0, 120, 0, 0⟩),
   (.tkill ⟨0, 0, 0, 0⟩, .tkill ⟨0, 9, 0, 0⟩),
   (.ctxrest ⟨0, 8, 120, 0⟩, .ctxrest ⟨0, 8, 119, 0⟩)]

/-- Fields that are no operands: TYPE, RND, SAT, NEG and ABS, reserved bits, COND, OFFSET, SIZE, SPACE, WIDTH, ARR, NB, IMM. -/
def wfFields : List (Instr × Instr) :=
  [(.vbfx ⟨5, 4, 3, 2, 0, 0, 0, 0, 0, 2⟩, .vbfx ⟨5, 4, 3, 2, 0, 0, 0, 0, 0, 1⟩),
   (.vadd ⟨5, 4, 3, 0, 1, 0, 0, 0, 0, 0⟩, .vfadd ⟨5, 4, 3, 0, 1, 0, 0, 0, 0, 0⟩),
   (.vfadd ⟨5, 4, 3, 0, 7, 0, 0, 0, 0, 0⟩, .vfadd ⟨5, 4, 3, 0, 6, 0, 0, 0, 0, 0⟩),
   (.vand ⟨5, 4, 3, 0, 0, 1, 0, 0, 0, 0⟩, .vadd ⟨5, 4, 3, 0, 0, 1, 0, 0, 0, 0⟩),
   (.vfadd ⟨5, 4, 3, 0, 0, 0, 1, 0, 0, 0⟩, .vfadd ⟨5, 4, 3, 0, 0, 0, 2, 0, 0, 0⟩),
   (.vfsqrt ⟨5, 4, 0, 0, 0, 0, 0, 2, 0, 0⟩, .vfsqrt ⟨5, 4, 0, 0, 0, 0, 0, 4, 0, 0⟩),
   (.sadd ⟨5, 4, 3, 0, 0, 0, 0, 0, 1⟩, .sadd ⟨5, 4, 3, 0, 0, 0, 0, 0, 0⟩),
   (.sand ⟨5, 4, 3, 0, 0, 1, 0, 0, 0⟩, .sadd ⟨5, 4, 3, 0, 0, 1, 0, 0, 0⟩),
   (.sbfx ⟨5, 4, 3, 2, 0, 0, 0, 3, 0⟩, .sbfx ⟨4, 4, 2, 2, 0, 0, 0, 6, 0⟩),
   (.nop ⟨0, 0, 0, 1⟩, .nop ⟨0, 0, 0, 0⟩), (.br ⟨1, 0, 0, 2⟩, .br ⟨0, 0, 0, 2⟩), (.brs ⟨0, 9, 0, 2⟩, .brs ⟨6, 9, 0, 2⟩),
   (.brv ⟨2, 8, 0, 6⟩, .brv ⟨1, 8, 0, 6⟩), (.brm ⟨3, 8, 0, 6⟩, .brm ⟨2, 8, 0, 6⟩), (.ret ⟨0, 0, 0, 1⟩, .ret ⟨0, 0, 0, 0⟩),
   (.wait ⟨0, 0, 0, 0x1000000⟩, .wait ⟨0, 0, 0, 0xFFFFFF⟩), (.reggrow ⟨0, 9, 0, 16⟩, .reggrow ⟨0, 9, 0, 15⟩),
   (.regtrim ⟨0, 0, 0, 0⟩, .regtrim ⟨0, 0, 0, 1⟩), (.tdec ⟨0, 8, 0, 65536⟩, .tdec ⟨0, 8, 0, 65535⟩),
   (.ld ⟨5, 4, 3, 7, 0, 0, 0⟩, .ld ⟨5, 4, 3, 6, 0, 0, 0⟩), (.st ⟨5, 4, 3, 5, 0, 0, 0⟩, .st ⟨8, 4, 3, 4, 0, 0, 0⟩),
   (.ld ⟨5, 4, 3, 2, 3, 0, 0⟩, .ld ⟨5, 4, 3, 2, 2, 0, 0⟩), (.sst ⟨0x105, 4, 0x1C0, 2, 2, 0, 0⟩, .sst ⟨0x105, 4, 0x1C0, 2, 1, 0, 0⟩),
   (.atom ⟨7, 4, 2, 9, 2, 2, 0⟩, .atom ⟨6, 4, 2, 8, 2, 1, 0⟩), (.pref ⟨0, 4, 0x1C0, 3, 1, 0, 0⟩, .pref ⟨0, 4, 0x1C0, 3, 0, 0, 0⟩),
   (.blst ⟨5, 6, 3, 1, 0, 0, 0⟩, .blst ⟨5, 6, 3, 2, 0, 0, 0⟩), (.stkpsh ⟨14, 4, 40, 2, 0, 0, 0⟩, .stkpsh ⟨14, 4, 40, 2, 1, 0, 0⟩),
   (.cpy ⟨20, 8, 0, 3, 0, 0, 0⟩, .cpy ⟨20, 8, 0, 3, 1, 0, 0⟩), (.cpyx ⟨20, 8, 0, 3, 1, 0, 256⟩, .cpyx ⟨20, 8, 0, 3, 1, 0, 255⟩),
   (.nbinit ⟨0, 0, 0, 3, 0, 0, 0⟩, .nbinit ⟨0, 0, 0, 3, 0, 0, 255⟩), (.nbarr ⟨0, 0, 0, 3, 1, 0, 0⟩, .nbarr ⟨0, 0, 0, 3, 0, 0, 0⟩),
   (.mzero ⟨0, 0, 0, 0, 0, 0, 64⟩, .mzero ⟨0, 0, 0, 0, 0, 0, 63⟩), (.mcvt ⟨0, 0, 0, 0, 0, 0, 0x7000⟩, .mcvt ⟨0, 0, 0, 0, 0, 0, 0x6000⟩),
   (.mcvt ⟨0, 0, 0, 0, 0, 3, 1⟩, .mcvt ⟨0, 0, 0, 0, 0, 3, 0⟩), (.mqnt ⟨30, 8, 10, 0, 0, 4, 0x40⟩, .mqnt ⟨30, 8, 10, 0, 0, 4, 0x3F⟩),
   (.ringoff ⟨20, 0, 0, 0, 0, 0, 64⟩, .ringoff ⟨20, 0, 0, 0, 0, 0, 63⟩), (.esarr ⟨0, 0, 0, 256⟩, .esarr ⟨0, 0, 0, 255⟩),
   (.brk ⟨0, 0, 0, 65536⟩, .brk ⟨0, 0, 0, 65535⟩), (.mtsr ⟨0, 9, 0, 4096⟩, .mtsr ⟨0, 9, 0, 4095⟩),
   (.tlbinv ⟨0, 8, 0, 4⟩, .tlbinv ⟨0, 8, 0, 3⟩), (.haltall ⟨0, 0, 0, 1⟩, .haltall ⟨0, 0, 0, 0⟩)]

theorem test_ill_formed_operands : (wfPairs.all fun p => !p.1.wellFormed && p.2.wellFormed) = true := by decide +kernel

theorem test_ill_formed_fields : (wfFields.all fun p => !p.1.wellFormed && p.2.wellFormed) = true := by decide +kernel


/-! ### Worked examples of spec/ -/

/-- The words that spec/ works out, with what they stand for (the rule or table beside each). -/
theorem test_spec_words :
    [0x7100281210000000, 0x5100502C18001004, 0x529020013FF00000, 0x52C0A822200E0000, 0x740282050000B000,
      0x566050100BC32020, 0x5728A01C00000030, 0xF792120 * 2 ^ 36 + 0x0FFFFFFFB, 0xF80000000 * 2 ^ 28 + 0x0FC0FFF,
      0x4750301400000010, 0x590050601B400008, 0xFA0282001C000000, 0x7A82C00018000000, 0xFB03C40014100004, 0xFA5282050C000000,
      0x6BF0005000000000, 0x6B80A004180A0000, 0x6BA0704142400000, 0xFBC000000000001E, 0x49B028601A000000, 0x5970606010246008,
      0x7C00020000000014, 0xFBD2800000000005, 0x7C92820200000005, 0x7CC0020000000012].map (decodeTableWord 64) =
    [some (.vadd ⟨5, 4, 0x108, 0, 0, 0, 0, 0, 0, 0⟩), some (.vadd ⟨10, 11, 12, 0, 0, 1, 0, 0, 0, 4⟩),
      some (.vmovi ⟨4, 0, 1, 0x3FF00000⟩), some (.vbsrd ⟨21, 8, 0x110, 14, 0, 0, 0, 0, 0, 0⟩),
      some (.scmp ⟨20, 8, 10, 0, 0, 0, 2, 6, 0⟩), some (.vpack ⟨10, 4, 5, 0x1C3, 1, 0, 0, 0, 4, 0⟩),
      some (.vredu ⟨0x114, 7, 0, 0, 0, 0, 0, 0, 6, 0⟩), some (.brs ⟨2, 9, 0, 0xFFFFFFFB⟩), some (.wait ⟨0, 0, 0, 0xFC0FFF⟩),
      some (.vderiv ⟨6, 5, 0, 0, 0, 0, 0, 0, 2, 0⟩), some (.ld ⟨10, 6, 3, 3, 1, 0, 8⟩), some (.cpy ⟨20, 8, 0, 3, 1, 0, 0⟩),
      some (.nbwait ⟨22, 0, 0, 3, 0, 0, 0⟩), some (.mma ⟨30, 8 * 2, 0, 2, 1, 1, 4⟩), some (.mdec ⟨20, 8, 10, 1, 1, 0, 0⟩),
      some (.rhit ⟨0, 20, 0, 0, 0, 0, 0, 0, 0, 0⟩), some (.boxt ⟨20, 1, 12, 10, 0, 0, 0, 0, 0, 0⟩),
      some (.stkpsh ⟨14, 4, 40, 2, 1, 0, 0⟩), some (.regrp ⟨0, 0, 0, 0, 0, 0, 30⟩), some (.blst ⟨5, 6, 3, 2, 0, 0, 0⟩),
      some (.acall ⟨12, 6, 2, 9, 3, 0, 8⟩), some (.arecv ⟨0, 8, 0, 0, 0, 0, 20⟩), some (.ringoff ⟨20, 0, 0, 0, 0, 0, 5⟩),
      some (.esred ⟨20, 8, 2, 5⟩), some (.trec ⟨0, 8, 0, 0x12⟩)] := by decide +kernel

/-- Lanes 0 to 3 of v7 hold 3, 1, 4, 1, as in the example after R143. -/
def tScan : Train := { tTrain with vregs := [(7, [3, 1, 4, 1])] }

/-- `VSCAN.add.excl v8, v7` gives 0, 3, (unchanged), 4. -/
theorem test_vscan : tLanes (.vscan ⟨8, 7, 0, 0x1C1, 0, 0, 0, 0, 0, 0⟩) tScan 8 = some [0, 3, 0, 4] := by decide +kernel

/-- `VREDU.add s20, v7` gives 5. -/
theorem test_vredu : tScalars (.vredu ⟨0x114, 7, 0, 0, 0, 0, 0, 0, 0, 0⟩) tScan [20] = some [5] := by decide +kernel

/-- `VBCAST v9, v7, -1` gives 3 in lanes 0, 1 and 3. -/
theorem test_vbcast : tLanes (.vbcast ⟨9, 7, 0x1DF, 0, 0, 0, 0, 0, 0, 0⟩) tScan 9 = some [3, 3, 0, 3] := by decide +kernel

/-- `VSHUF.xor v10, v7, 1` gives lane 3 the value of the inactive lane 2 (R139, R140). -/
theorem test_vshuf : tLanes (.vshuf ⟨10, 7, 0x1C1, 0, 0, 0, 0, 0, 1, 0⟩) tScan 10 = some [1, 3, 0, 4] := by decide +kernel

/-- The tree sum after R44 is one ulp above the sequential one: lanes 0, 2 and 3 hold 1.0, 2^-24 and 2^-24. -/
theorem test_vredu_tree :
    tScalars (.vredu ⟨0x114, 7, 0, 0, 0, 0, 0, 0, 6, 0⟩)
      { tTrain with vregs := [(7, [0x3F800000, 0, 0x33800000, 0x33800000])],
                    splits := [{ valid := true, member := 0xF, active := 0xD }, {}, {}, {}] } [20] = some [0x3F800001] := by
  decide +kernel

/-- `VDERIV.dxf v6, v5` over 1.0, 3.0, 2.0 and 7.0 gives 2.0, 2.0, 5.0 and 5.0 (Table 7.6's example). -/
theorem test_vderiv :
    tLanes (.vderiv ⟨6, 5, 0, 0, 0, 0, 0, 0, 2, 0⟩)
      { tTrain with rung := 4, vregs := [(5, [0x3F800000, 0x40400000, 0x40000000, 0x40E00000])],
                    splits := [{ valid := true, member := 0xF, active := 0xF }, {}, {}, {}] } 6 =
      some [0x40000000, 0x40000000, 0x40A00000, 0x40A00000] := by decide +kernel

/-- VMULHI of 0xFFFF_FFFF and 2 (R95): -1 for `.i32` and 1 for `.n32`. -/
theorem test_vmulhi :
    (tLanes (.vmulhi ⟨5, 4, 0x1C2, 0, 0, 0, 0, 0, 0, 0⟩) { tTrain with vregs := [(4, [0xFFFFFFFF])] } 5,
      tLanes (.vmulhi ⟨5, 4, 0x1C2, 0, 0, 0, 0, 0, 0, 1⟩) { tTrain with vregs := [(4, [0xFFFFFFFF])] } 5) =
    (some [0xFFFFFFFF, 0, 0, 0], some [1, 0, 0, 0]) := by decide +kernel

/-- A vector add wraps, and its saturating form does not (R27, R95). -/
theorem test_vadd_wraps :
    (tLanes (.vadd ⟨5, 4, 0x1C1, 0, 0, 0, 0, 0, 0, 0⟩) { tTrain with vregs := [(4, [0x7FFFFFFF, 0, 9, 5])] } 5,
      tLanes (.vadd ⟨5, 4, 0x1C1, 0, 0, 1, 0, 0, 0, 0⟩) { tTrain with vregs := [(4, [0x7FFFFFFF, 0, 9, 5])] } 5) =
    (some [0x80000000, 1, 0, 6], some [0x7FFFFFFF, 1, 0, 6]) := by decide +kernel

/-- `VMOV.i64 v4:v5, 1.0` writes 0x3FF0_0000_0000_0000 (R34). -/
theorem test_vmov_const :
    (tLanes (.vmov ⟨4, 0x1E3, 0, 0, 0, 0, 0, 0, 0, 6⟩) tTrain 4, tLanes (.vmov ⟨4, 0x1E3, 0, 0, 0, 0, 0, 0, 0, 6⟩) tTrain 5) =
      (some [0, 0, 0, 0], some [0x3FF00000, 0x3FF00000, 0, 0x3FF00000]) := by decide +kernel

/-- `VBSINIT v8:v11, v12:v13, 4` of Table 5.9: window 0x0FED_CBA9_8765_4321, 60 valid bits, no refill. -/
theorem test_vbsinit :
    ([8, 9, 10, 11].map fun r => tLanes (.vbsinit ⟨8, 12, 0x1C4, 0, 0, 0, 0, 0, 0, 0⟩)
      { tTrain with vregs := [(12, [0x76543210]), (13, [0xFEDCBA98])] } r).map (fun x => x.map (·.headD 9)) =
      [some 0x87654321, some 0x0FEDCBA9, some 60, some 0] := by decide +kernel

/-- The last VBSRD of Table 5.9 takes 18 bits of the window and 12 of the refill pair. -/
theorem test_vbsrd :
    ([22, 8, 9, 10, 11].map fun r => tLanes (.vbsrd ⟨22, 8, 0x110, 14, 0, 0, 0, 0, 0, 0⟩)
      { tTrain with vregs := [(8, [0x3FB72]), (9, [0]), (10, [18]), (11, [0]), (14, [0xAB]), (15, [0])],
                    sregs := [(16, 30), (120, 1)] } r).map (fun x => x.map (·.headD 9)) =
      [some 0x02AFFB72, some 0, some 0, some 52, some 1] := by decide +kernel

/-- `SCMP.lt` of -2 and 1 holds for `.i64` and not for `.n64` (the example after R114). -/
theorem test_scmp :
    (tScalars (.scmp ⟨20, 8, 10, 0, 0, 0, 2, 6, 0⟩) { tTrain with sregs := [(8, 0xFFFFFFFE), (9, 0xFFFFFFFF), (10, 1)] } [20],
      tScalars (.scmp ⟨20, 8, 10, 0, 0, 0, 2, 7, 0⟩) { tTrain with sregs := [(8, 0xFFFFFFFE), (9, 0xFFFFFFFF), (10, 1)] } [20]) =
      (some [1], some [0]) := by decide +kernel

/-- `VCMP.gt s8:s10, %lane, 63` in a split of lanes 48 to 89 with lane 50 inactive (the example after Table 5.7), 63 in s12: bits
16 to 31 of s9 become 0, bits 0 to 25 of s10 become 1, and the others stand. -/
theorem test_vcmp_mask :
    tScalars (.vcmp ⟨0x108, 0x1F0, 0x10C, 0, 0, 0, 0, 0, 4, 0⟩)
      { tTrain with sregs := [(8, 0xFFFFFFFF), (9, 0xFFFFFFFF), (10, 0xF0000000), (12, 63)],
                    splits := [{ valid := true, member := 0x3FFFFFFFFFF000000000000,
                                 active := 0x3FFFFFFFFFB000000000000 }, {}, {}, {}] }
      [8, 9, 10] = some [0xFFFFFFFF, 0xFFFF, 0xF3FFFFFF] := by decide +kernel

/-- `VUNPK.e2m1` of the block after R32: nibble 2 is the spare, 12 × 2, and nibble 4 is -6 × 2. -/
theorem test_vunpk :
    [0x1C1, 0x1C2].map (fun c => (tLanes (.vunpk ⟨2, 10, 12, c, 0, 0, 0, 0, 4, 0⟩)
      { tTrain with vregs := [(10, [0xF0872]), (11, [0]), (12, [0x5480])] } 2).map (·.headD 9)) =
      [some 0x41C00000, some 0xC1400000] := by decide +kernel

/-- A write to s120 keeps bits [14:0] and stores rounding code 1 for 7; s0 discards (R40, R56). -/
theorem test_mode_write :
    (tScalars (.smovi ⟨120, 0, 0, 0xFFFFFFFF⟩) tTrain [120], tScalars (.smovi ⟨0, 0, 0, 7⟩) tTrain [0]) =
      (some [0x7FF9], some [0]) := by decide +kernel

/-- CALL leaves the next word's offset in s127 and goes to its target; a backward target counts from the word (R147, R149). -/
theorem test_call :
    (tAfter (.call ⟨0, 0, 0, 0xFFFFFFFF⟩) { tTrain with splits := [{ valid := true, pc := 2, member := 0xF, active := 0xF }, {}, {}, {}] }).map
      (fun t => ((t.split 0).pc, (t.readS 0 127).toNat)) = some (1, 3) := by decide +kernel

/-- BRV with lanes 0 and 1 taken: the lanes 3 go on at the next word in the lowest free split (R151). -/
theorem test_brv :
    (tAfter (.brv ⟨0, 8, 0, 2⟩) { tTrain with sregs := [(8, 3)] }).map (fun t =>
      ((t.split 0).pc, (t.split 0).active, (t.split 1).pc, (t.split 1).active, (t.split 1).state)) =
      some (2, 3, 1, 8, .ready) := by decide +kernel

/-- `WAIT 63, 63, 0` waits for the copies alone (R158). -/
theorem test_wait :
    (tAfter (.wait ⟨0, 0, 0, 0xFC0FFF⟩) tTrain).map (fun t => (t.split 0).hold) = some (.wait 63 63 0 63) := by decide +kernel

/-- TRAP parks its split with SOFTWARE-TRAP and its code, at the next word (R410). -/
theorem test_trap :
    (tAfter (.trap ⟨0, 0, 0, 0x1234⟩) tTrain).map (fun t =>
      ((t.split 0).state == .parked && t.state == .parked && (t.split 0).pc == 1,
        (t.split 0).recs.map fun r => (r.kind, r.trainLevel, r.lane, r.info.toNat))) =
      some (true, [(0x16, true, 0, 0x1234)]) := by decide +kernel

/-- VFDIV of 1.0 by 0 with divide-by-zero enabled parks the split with FP-TRAP and keeps the destination (R41, R121, the example of
spec/22): INFO is bit 1. -/
theorem test_fp_trap :
    (tAfter (.vfdiv ⟨5, 0x1E3, 4, 0, 0, 0, 0, 0, 0, 0⟩)
      { tTrain with sregs := [(120, 0x41)], vregs := [(4, [0x3F800000, 0]), (5, [7, 7])] }).map (fun t =>
        ((t.split 0).recs.map fun r => (r.kind, r.lane, r.info.toNat), (t.readV 5 0).toNat, (t.readV 5 1).toNat)) =
      some ([(0x10, 1, 2), (0x10, 3, 2)], 0x3F800000, 7) := by decide +kernel

/-- A store of 16 bits keeps the bytes beside it, lowest byte first (R1, R203). -/
theorem test_sst :
    (match exec (.sst ⟨0x104, 0, 0x1C0, 1, 1, 0, 0x12⟩) (tState { tTrain with sregs := [(4, 0xAABBCCDD)] }) with
      | .next u => (List.range 4).map fun k => (readLoc u (.loc 1 (0x11 + k)) 1)
      | _ => []) = [0, 0xDD, 0xCC, 0] := by decide +kernel

/-- CLKRD reads the module cycle; ESTICK the tick, a quarter of it (R329, R439). -/
theorem test_clkrd :
    ((match exec (.clkrd ⟨24, 0, 0, 0⟩) { tState tTrain with cycle := 0x300000007 } with
      | .next u => ((u.train 0).readS 0 24, (u.train 0).readS 0 25)
      | _ => (0, 0)),
     (match exec (.estick ⟨24, 0, 0, 0⟩) { tState tTrain with cycle := 0x300000007 } with
      | .next u => ((u.train 0).readS 0 24, (u.train 0).readS 0 25)
      | _ => (0, 0))) = ((7, 3), (0xC0000001, 0)) := by decide +kernel

/-- A signed minimum and an exchange on equality (Table 9.5). -/
theorem test_atomic_new :
    (atomicNew 2 false 5 0xFFFFFFFF 0, atomicNew 8 false 5 9 5, atomicNew 8 false 5 9 6) = (0xFFFFFFFF, 9, 5) := by
  decide +kernel

/-- The walk of Table 20.6 ends at physical 0x39_0040, and its page is an accord page. -/
theorem test_walk :
    (match walk { State.reset with
        hbmReady := true, ctxs := [(0, { ptbase := 0x70000 })],
        mem := (Bytes.writeLE (Bytes.writeLE (Bytes.writeLE (Bytes.writeLE (Bytes.writeLE [] 0x70000 8 0x71001) 0x71000 8 0x72001)
          0x72600 8 0x73001) 0x73000 8 0x73101) 0x73108 8 0x300000000039000F) } 0 0x3000010040 with
      | .ok p => some (p.base + 0x3000010040 % p.size, isAccord p)
      | .error _ => none) = some (0x390040, true) := by decide +kernel

/-- One step fetches and runs the word that withFetchWord places: VMOVI v4, 7 at LANE. -/
theorem test_step_runs_fetched_word :
    (match step (State.reset.withFetchWord 64 0x5290200000000007) with
      | .next u => some ((u.train 0).readV 4 95).toNat
      | _ => none) = some 7 := by decide +kernel


/-! ### Witnesses: for each statement with hypotheses, a state and operands that meet them -/

/-- An instruction leads to a next state. -/
def tRuns (i : Instr) (s : State) : Bool :=
  match exec i s with
  | .next _ => true
  | _ => false

theorem tRuns_next {i : Instr} {s : State} (h : tRuns i s = true) : ∃ u, exec i s = .next u := by
  unfold tRuns at h
  cases hx : exec i s with
  | next u => exact ⟨u, rfl⟩
  | fault x => rw [hx] at h; cases h
  | refused x => rw [hx] at h; cases h

theorem regStall_idle {t : Train} (hp : t.pend = 0) (hb : t.busy = []) (r : Reg) : t.regStall r = none := by
  cases r <;> simp [Train.regStall, Train.busyReason, Train.pending, hp, hb]

theorem stallOf_idle {i : Instr} {me : Me} {s : State} (hp : (me.train s).pend = 0) (hb : (me.train s).busy = []) :
    stallOf i me s = none := by
  have : ((readsOf i ++ writesOf i).find? fun r => ((me.train s).regStall r).isSome) = none :=
    List.find?_eq_none.mpr fun r _ => by simp [regStall_idle hp hb r]
  simp [stallOf, this]

theorem operandsOk_idle {i : Instr} {me : Me} {s : State} (hc : (me.train s).carried = []) (hb : (me.train s).broken = []) :
    operandsOk i me s = true := by
  simp [operandsOk, unreadOf, brokenOf, Train.unread, Tab.find, hc, hb]

/-- Every instruction is ready where no register is awaited, carries a timestamp or holds an error: what VectorArithmeticCompletes,
VectorBitsComplete, VectorMovesComplete, ScalarIntegersComplete and ScalarMovesComplete ask. -/
theorem test_ready (i : Instr) (t : Train) (l : Launch) (g : Workgroup) (hp : t.pend = 0) (hb : t.busy = [])
    (hc : t.carried = [] := by rfl) (he : t.broken = [] := by rfl) :
    ready tMe i (tState t l g) := ⟨rfl, stallOf_idle hp hb, operandsOk_idle hc he⟩

/-- readsFirst in VectorArithmeticCompletes and ScalarIntegersComplete: a source that carries a timestamp, and one that holds an
error. -/
theorem test_witness_reads_first :
    let f : FmtV3 := ⟨5, 4, 0x108, 0, 0, 0, 0, 0, 0, 0⟩
    let g : FmtS3 := ⟨20, 21, 22, 0, 0, 0, 0, 0, 0⟩
    let late := tState { tTrain with carried := [(21, 9), (132, 7)] }
    let broken := tState { tTrain with broken := [132, 21] }
    unreadOf (.vadd f) tMe late = [132] ∧ unreadOf (.sadd g) tMe late = [21] ∧
    unreadOf (.vadd f) tMe broken = [] ∧ brokenOf (.vadd f) tMe broken = [132] ∧
    unreadOf (.sadd g) tMe broken = [] ∧ brokenOf (.sadd g) tMe broken = [21] ∧
      ∀ i, stallOf i tMe late = none ∧ stallOf i tMe broken = none :=
  ⟨by decide, by decide, by decide, by decide, by decide, by decide, fun _ => ⟨stallOf_idle rfl rfl, stallOf_idle rfl rfl⟩⟩

/-- StreamReadNeedsRole: a train of the STREAM role, and one of another role that holds no event. -/
theorem test_witness_stream (f : FmtV3) :
    let other := tState tTrain { tLaunch with roles := [] }
    ready tMe (.vbsrd f) (tState tTrain) ∧ hasStream (tState tTrain) tTrain = true ∧
    ready tMe (.vbsrd f) other ∧ hasStream other tTrain = false ∧ other.holdsEvent 0 = false ∧
      tMe.sid < (tMe.train other).splits.length ∧ ready tMe (.vbsinit f) other :=
  ⟨test_ready _ _ _ _ rfl rfl, by decide, test_ready _ _ _ _ rfl rfl, by decide, by decide, by decide, test_ready _ _ _ _ rfl rfl⟩

/-- VectorLanesTakeResult: an active and an inactive lane, D = v0 and v255, pairs up to v254, sources v0 and v255. -/
theorem test_witness_lanes :
    (∀ v : Train → Nat → Nat, ∀ d wide, ∃ u, lanesDone tMe (tState tTrain) d wide v = .next u) ∧
    (tMe.active (tState tTrain)).getLsbD 0 = true ∧ (tMe.active (tState tTrain)).getLsbD 95 = false ∧
    (∀ i ∈ [Instr.vadd ⟨0, 0, 255, 0, 0, 0, 0, 0, 0, 1⟩, Instr.vsub ⟨255, 255, 0, 0, 0, 0, 0, 0, 0, 0⟩,
        Instr.vmul ⟨255, 255, 0, 0, 0, 0, 0, 0, 0, 1⟩, Instr.vand ⟨5, 4, 3, 0, 0, 0, 0, 0, 0, 0⟩,
        Instr.vor ⟨5, 4, 3, 0, 0, 0, 0, 0, 0, 1⟩, Instr.vxor ⟨5, 4, 3, 0, 0, 0, 0, 0, 0, 0⟩],
      ready tMe i (tState tTrain) ∧ ∃ u, exec i (tState tTrain) = .next u) :=
  ⟨fun _ _ _ => ⟨_, rfl⟩, by decide, by decide, fun i h => ⟨test_ready _ _ _ _ rfl rfl, tRuns_next (by
    revert i; decide +kernel)⟩⟩

/-- VectorIntegerFrame, ScalarFrame, FloatFrame, ControlFrame, LoadFrame and EngineIssueFrame: an instruction of each leads to a
next state; a pair destination is among them, and a stalled word. -/
theorem test_witness_frames :
    (∀ i ∈ [Instr.vadd ⟨4, 2, 6, 0, 0, 0, 0, 0, 0, 6⟩, Instr.vbcast ⟨9, 7, 0x1DF, 0, 0, 0, 0, 0, 0, 0⟩,
        Instr.sadd ⟨4, 2, 6, 0, 0, 0, 0, 7, 0⟩, Instr.smcnt ⟨4, 8, 0, 0, 0, 0, 0, 0, 0⟩,
        Instr.vfadd ⟨4, 2, 6, 0, 0, 0, 0, 0, 0, 3⟩, Instr.vscan ⟨8, 7, 0, 0x1C1, 0, 0, 0, 0, 0, 6⟩,
        Instr.vfrcp ⟨5, 4, 0, 0, 0, 0, 0, 0, 0, 0⟩,
        Instr.nop ⟨0, 0, 0, 0⟩, Instr.br ⟨0, 0, 0, 1⟩, Instr.sjoin ⟨0, 0, 0, 0⟩, Instr.ret ⟨0, 0, 0, 0⟩,
        Instr.ld ⟨5, 0, 0x1C0, 2, 1, 0, 0⟩, Instr.atom ⟨7, 0, 0x1C0, 9, 2, 0, 0⟩, Instr.tdec ⟨0, 8, 0, 1⟩, Instr.lpin ⟨0x105, 0, 0x1C0, 0, 0, 0, 0⟩,
        Instr.cpy ⟨20, 8, 0, 0, 0, 0, 0⟩, Instr.mzero ⟨0, 0, 0, 0, 0, 0, 1⟩, Instr.mma ⟨30, 16, 0, 0, 0, 1, 0⟩],
      ∃ u, exec i (tState tTrain) = .next u) ∧
    (∃ u, exec (.vadd ⟨4, 2, 6, 0, 0, 0, 0, 0, 0, 6⟩)
      (tState { tTrain with busy := [{ isV := true, reg := 2, reason := 9, op := 1 }] }) = .next u) :=
  ⟨fun i h => tRuns_next (by revert i; decide +kernel), tRuns_next (by decide +kernel)⟩

/-- ScalarRegisterTakesResult: D = s0, s119, s120, s124, s126 and s127; and RND, a reserved bit and lanes outside the split in what is stored. -/
theorem test_witness_scalar (i : Instr) (h : i ∈ [Instr.sadd ⟨0, 5, 4, 0, 0, 0, 0, 0, 0⟩, Instr.ssub ⟨119, 5, 4, 0, 0, 0, 0, 1, 0⟩,
    Instr.smul ⟨127, 5, 4, 0, 0, 0, 0, 0, 0⟩, Instr.sand ⟨120, 5, 4, 0, 0, 0, 0, 0, 0⟩, Instr.sor ⟨119, 5, 4, 0, 0, 0, 0, 1, 0⟩,
    Instr.sxor ⟨126, 5, 4, 0, 0, 0, 0, 0, 0⟩, Instr.saddi ⟨127, 5, 0, 9⟩, Instr.saddi ⟨124, 5, 0, 9⟩]) :
    ready tMe i (tState tTrain) ∧ ∃ u, exec i (tState tTrain) = .next u :=
  ⟨test_ready _ _ _ _ rfl rfl, tRuns_next (by revert i; decide +kernel)⟩

/-- s0 + x, stored in a register, as the register then reads. -/
def tStores (d : BitVec 7) (x : BitVec 32) : Option Word :=
  match exec (.saddi ⟨d, 0, 0, x⟩) (tState tTrain) with
  | .next u => some ((u.train 0).readS 0 d.toNat)
  | _ => none

/-- ScalarRegisterTakesResult: what s120 and the member mask of lanes 0 to 3 keep (R40, R58). -/
theorem test_scalar_special : tMe.sid < (tMe.train (tState tTrain)).splits.length ∧ tStores 120 0xFFFFFFFF = some 0x7FF9 ∧
    tStores 120 0x12340 = some 0x2341 ∧ tStores 120 6 = some 6 ∧ tStores 124 0xF6 = some 6 ∧ tStores 125 0xF6 = some 0 := by
  decide +kernel

/-- FloatArithmeticCompletes, FloatConversionsComplete, CrossLaneCompletes: no trap is enabled in s120. -/
theorem test_witness_float (i : Instr) :
    trapEnables (tMe.train (tState tTrain)).mode = 0 ∧ ready tMe i (tState tTrain) :=
  ⟨by decide, test_ready _ _ _ _ rfl rfl⟩

/-- v4 holds +∞ in lane 1. -/
def tInf : State := tState { tTrain with sregs := [(120, 0x21)], vregs := [(4, [0, 0x7F800000])] }

/-- FloatTrapKeepsDestination: with the invalid trap enabled, lane 1 computes ∞ - ∞, and in VFMUL ∞ × 0; it alone traps. -/
theorem test_witness_trap :
    let t := tMe.train tInf
    let flags (op : FNum → FNum → FNum × Bool) (b : Nat) (neg : Bool) (l : Nat) : Flags :=
      (t.roundElems .f32 (effectiveRnd t.mode 0) false l ((List.range 1).map fun k =>
        invFlag (op (fltVal tMe tInf t ⟨5, 4, BitVec.ofNat 9 b, 0, 0, 0, if neg then 2 else 0, 0, 0, 0⟩ .f32 4 2 l k)
          (fltVal tMe tInf t ⟨5, 4, BitVec.ofNat 9 b, 0, 0, 0, if neg then 2 else 0, 0, 0, 0⟩ .f32 (BitVec.ofNat 9 b) 1 l k)))).2
    (∀ i, ready tMe i tInf) ∧ tInf.holdsEvent 0 = false ∧ tMe.sid < t.splits.length ∧
    trapLanes t.mode (tMe.active tInf) (flags (FNum.add false) 4 true) ≠ 0 ∧
    trapLanes t.mode (tMe.active tInf) (flags (fun x y => FNum.add false x y.negate) 4 false) ≠ 0 ∧
    trapLanes t.mode (tMe.active tInf) (flags FNum.mul 0 false) ≠ 0 :=
  ⟨fun _ => test_ready _ _ _ _ rfl rfl, by decide, by decide, by decide +kernel, by decide +kernel, by decide +kernel⟩


/-- Whether an instruction parks the split with FP-TRAP records alone. -/
def tTraps (i : Instr) (s : State) : Bool :=
  match exec i s with
  | .next u => (tMe.split u).state == .parked && !(tMe.split u).recs.isEmpty && (tMe.split u).recs.all fun r => r.kind == 0x10
  | _ => false

/-- FloatTrapKeepsDestination, the other forms: with every trap enabled, v4 holds in lane 1 a word that is a signalling NaN in F32 and in
its lower F16, and as an integer no value of F32. -/
theorem test_witness_trap_forms (i : Instr) (h : i ∈ [Instr.vfma ⟨5, 4, 4, 4, 0, 0, 0, 0, 0, 0⟩, Instr.vfdiv ⟨5, 4, 4, 0, 0, 0, 0, 0, 0, 0⟩,
    Instr.vfsqrt ⟨5, 4, 0, 0, 0, 0, 0, 0, 0, 0⟩, Instr.vfmin ⟨5, 4, 4, 0, 0, 0, 0, 0, 0, 0⟩, Instr.vfmax ⟨5, 4, 4, 0, 0, 0, 0, 0, 0, 0⟩,
    Instr.vfrcp ⟨5, 4, 0, 0, 0, 0, 0, 0, 0, 0⟩, Instr.vfrsq ⟨5, 4, 0, 0, 0, 0, 0, 0, 0, 0⟩, Instr.vfexp2 ⟨5, 4, 0, 0, 0, 0, 0, 0, 0, 0⟩,
    Instr.vflog2 ⟨5, 4, 0, 0, 0, 0, 0, 0, 0, 0⟩, Instr.vfsin ⟨5, 4, 0, 0, 0, 0, 0, 0, 0, 0⟩, Instr.vfcos ⟨5, 4, 0, 0, 0, 0, 0, 0, 0, 0⟩,
    Instr.vfrnd ⟨5, 4, 0, 0, 0, 0, 0, 0, 0, 0⟩, Instr.vffract ⟨5, 4, 0, 0, 0, 0, 0, 0, 0, 0⟩, Instr.vfldexp ⟨5, 4, 0, 0, 0, 0, 0, 0, 0, 0⟩,
    Instr.vfcvt ⟨5, 4, 0x1C0, 0, 0, 0, 0, 0, 1, 0⟩, Instr.vcvtfi ⟨5, 4, 0, 0, 0, 0, 0, 0, 0, 0⟩, Instr.vcvtif ⟨5, 4, 0, 0, 0, 0, 0, 0, 0, 0⟩,
    Instr.vpack ⟨5, 4, 0, 0x1C0, 0, 0, 0, 0, 0, 0⟩, Instr.vunpk ⟨5, 4, 0x1C0, 0, 0, 0, 0, 0, 0, 0⟩,
    Instr.vfdot2 ⟨5, 4, 4, 0, 0, 0, 0, 0, 0, 1⟩, Instr.vderiv ⟨5, 4, 0, 0, 0, 0, 0, 0, 0, 0⟩,
    Instr.vscan ⟨5, 4, 0, 0x1C0, 0, 0, 0, 0, 6, 0⟩, Instr.vredu ⟨0x105, 4, 0, 0, 0, 0, 0, 0, 6, 0⟩,
    Instr.vfcmp ⟨0x108, 4, 4, 0, 0, 0, 0, 0, 0, 0⟩]) :
    ready tMe i (tState { tTrain with sregs := [(120, 0x3E1)], vregs := [(4, [0, 0x7F807C01])] }) ∧
    tTraps i (tState { tTrain with sregs := [(120, 0x3E1)], vregs := [(4, [0, 0x7F807C01])] }) = true :=
  ⟨test_ready _ _ _ _ rfl rfl, by revert i; decide +kernel⟩

/-- BranchesComplete: every condition (`f` is given its COND by the clause), a target that is a run start and one that is none. -/
theorem test_witness_branches :
    (∀ i, ready tMe i (tState tTrain)) ∧
    (let s := tState { tTrain with sregs := [(9, 1), (127, 1)] }
     isTarget s (tMe.train s) ((tMe.train s).readS 0 127).toNat = true ∧ isTarget s (tMe.train s) ((tMe.train s).readS 0 9).toNat = true) ∧
    (let s := tState { tTrain with sregs := [(9, 2), (127, 3)] }
     isTarget s (tMe.train s) ((tMe.train s).readS 0 127).toNat = false ∧
       isTarget s (tMe.train s) ((tMe.train s).readS 0 9).toNat = false) :=
  ⟨fun _ => test_ready _ _ _ _ rfl rfl, by decide, by decide⟩

/-- A state for BRV and KILLS: the triple s8:s10, the other splits and the records. -/
def tDiv (triple : Word) (others : List Split) (stack : List DeferRec) : State :=
  tState { tTrain with sregs := [(8, triple)], splits := { valid := true, member := 0xF, active := 0xB } :: others, stack := stack }

/-- Three splits that fill the split table. -/
def tFull : List Split := [{ valid := true }, { valid := true }, { valid := true }]

/-- Branch records of the issuing split. -/
def tRecs (n : Nat) : List DeferRec := List.replicate n { join := false, sid := 0, pc := 1, lanes := 4 }

/-- DivergenceCompletes: no lane taken, all taken, both sides with a free entry, with none and seven records, and with eight. -/
theorem test_witness_divergence :
    let both (s : State) : Bool :=
      tMe.active s &&& (tMe.train s).readTriple 0 8 != 0 && tMe.active s &&& ~~~(tMe.active s &&& (tMe.train s).readTriple 0 8) != 0
    (∀ i, ready tMe i (tDiv 0 tFull (tRecs 8))) ∧
    tMe.active (tDiv 4 [] []) &&& (tMe.train (tDiv 4 [] [])).readTriple 0 8 = 0 ∧
    tMe.active (tDiv 15 [] []) &&& ~~~(tMe.active (tDiv 15 [] []) &&& (tMe.train (tDiv 15 [] [])).readTriple 0 8) = 0 ∧
    both (tDiv 3 [{}, {}, {}] []) = true ∧ (tMe.train (tDiv 3 [{}, {}, {}] [])).freeSplit = some 1 ∧
    both (tDiv 3 tFull (tRecs 7)) = true ∧ (tMe.train (tDiv 3 tFull (tRecs 7))).freeSplit = none ∧
      (tMe.train (tDiv 3 tFull (tRecs 7))).stack.length < 8 ∧
    both (tDiv 3 tFull (tRecs 8)) = true ∧ (tMe.train (tDiv 3 tFull (tRecs 8))).freeSplit = none ∧
      8 ≤ (tMe.train (tDiv 3 tFull (tRecs 8))).stack.length :=
  ⟨fun _ => test_ready _ _ _ _ rfl rfl, by decide +kernel, by decide +kernel, by decide +kernel, by decide, by decide +kernel, by decide,
    by decide, by decide +kernel, by decide, by decide⟩

/-- A join record of the issuing split at a word. -/
def tJoin (pc : Nat) (lanes : LaneMask) : DeferRec := { join := true, sid := 0, pc := pc, lanes := lanes }

/-- JoinCompletes, nested: below a join record of this word stands a branch record, and a join record of another word. -/
theorem test_witness_join_nested :
    popRec 0 (tRecs 1 ++ [tJoin 1 4]) = some (tJoin 1 4, tRecs 1) ∧ (tJoin 1 4).join = true ∧ (tJoin 1 4).pc = 0 + 1 ∧
    (∃ q more, popRec 0 (tRecs 1) = some (q, more) ∧ q.join = false) ∧
    popRec 0 [tJoin 7 2, tJoin 1 4] = some (tJoin 1 4, [tJoin 7 2]) ∧ popRec 0 [tJoin 7 2] = some (tJoin 7 2, []) ∧
    (tJoin 7 2).pc ≠ 0 + 1 := by
  refine ⟨by decide, rfl, rfl, ⟨_, _, rfl, rfl⟩, by decide, by decide, by decide⟩

/-- JoinCompletes: no record, a branch record, a join record of another word, and one of this word with none below it. -/
theorem test_witness_join :
    (∀ i, ready tMe i (tDiv 0 [] (tRecs 1))) ∧ tMe.sid < (tMe.train (tDiv 0 [] [])).splits.length ∧
    popRec 0 (tDiv 0 [] []).trains.head!.2.stack = none ∧
    (∃ r rest, popRec 0 (tRecs 1) = some (r, rest) ∧ r.join = false) ∧
    (∃ r rest, popRec 0 [{ join := true, sid := 0, pc := 7, lanes := 4 }] = some (r, rest) ∧ r.join = true ∧ r.pc ≠ 0 + 1) ∧
    (∃ r rest, popRec 0 [{ join := true, sid := 0, pc := 1, lanes := 4 }] = some (r, rest) ∧ r.join = true ∧ r.pc = 0 + 1 ∧
      popRec 0 rest = none) :=
  ⟨fun _ => test_ready _ _ _ _ rfl rfl, by decide, by decide, ⟨_, _, rfl, rfl⟩, ⟨_, _, rfl, rfl, by decide⟩,
    ⟨_, _, rfl, rfl, rfl, rfl⟩⟩

/-- HoldsComplete: 1 and 15 granules held, so that a request for 15 fits and does not, and a trim of 1 is and is not too much. -/
theorem test_witness_holds :
    (∀ g i, ready tMe i (tState { tTrain with granules := g })) ∧ 1 + 15 ≤ 16 ∧ 16 < 15 + 2 ∧ 14 < 15 ∧ 15 ≤ 15 ∧
    (tMe.train (tState { tTrain with granules := 1 })).granules = 1 ∧ (15 : BitVec 32).toNat % 32 = 15 :=
  ⟨fun _ _ => test_ready _ _ _ _ rfl rfl, by decide⟩

/-- ExitsComplete: without and with a record; KILLS of every member and of some. -/
theorem test_witness_exits :
    let killed (s : State) := endLanes (tMe.active s &&& (tMe.train s).readTriple 0 8) true tMe.tid s
    (∀ i, ready tMe i (tDiv 3 [] (tRecs 1))) ∧ popRec 0 (tMe.train (tDiv 3 [] [])).stack = none ∧
    (∃ x, popRec 0 (tMe.train (tDiv 3 [] (tRecs 1))).stack = some x) ∧
    (tMe.split (killed (tDiv 3 [] []))).member ≠ 0 ∧
    (tMe.split (killed (tState { tTrain with sregs := [(8, 15)], splits := [{ valid := true, member := 0xF, active := 0xF }] }))).member = 0 :=
  ⟨fun _ => test_ready _ _ _ _ rfl rfl, by decide, ⟨_, rfl⟩, by decide +kernel, by decide +kernel⟩

/-- A CLUSTER train whose lane 0 is `%elem` 7, with a list of one primitive at local address 32 over the vertices 2, 1, 0. -/
def tEmit : State :=
  let mem := Bytes.writeLE (Bytes.writeLE (Bytes.writeLE [] 32 4 1) 52 4 2) 56 4 1
  tState { tTrain with rung := 2, live := 1, sregs := [(8, 32), (9, 256), (10, 0)], elems := [(0, { elem := 7 })],
                       splits := [{ valid := true, member := 1, active := 1 }, {}, {}, {}] }
    { tLaunch with parents := [(elemKey 3 0, 7), (elemKey 3 1, 7), (elemKey 3 2, 7)] } { tWg with mem := mem }

/-- A list at an address that meets what EmitsComplete asks, with its number of primitives. -/
def listOk (v n : Nat) (s : State) : Bool :=
  match listWords tMe 4 v s with
  | .error _ => false
  | .ok (hd, s1) =>
    decide (hd.headD 0 = n) && decide (n ≤ 1024) && (hd.drop 1).all (· == 0) &&
      match listWords tMe (4 * hd.headD 0) (v + 16) s1 with
      | .error _ => false
      | .ok (ws, s2) => (primEntries ws).all (entryNames s2 tMe) && decide ((primEntries ws).length = n)

theorem listOk_eq {v n : Nat} {s : State} (h : listOk v n s = true) :
    ∃ hd s1 ws s2, listWords tMe 4 v s = .ok (hd, s1) ∧ hd.headD 0 ≤ 1024 ∧ (∀ x ∈ hd.drop 1, x = 0) ∧
      listWords tMe (4 * hd.headD 0) (v + 16) s1 = .ok (ws, s2) ∧ ∀ x ∈ primEntries ws, entryNames s2 tMe x = true := by
  unfold listOk at h
  split at h
  · cases h
  next hd s1 h1 =>
    split at h
    · simp at h
    next ws s2 h2 =>
      simp only [Bool.and_eq_true, decide_eq_true_eq, List.all_eq_true, beq_iff_eq] at h
      obtain ⟨⟨⟨h3, h4⟩, h5⟩, h6, _⟩ := h
      exact ⟨hd, s1, ws, s2, h1, h3 ▸ h4, h5, h2, h6⟩

/-- EmitsComplete: 256 and 0 vertices a lane; an empty list, and a list of one primitive of an active lane over its own vertices. -/
theorem test_witness_emits :
    (∀ i, ready tMe i tEmit) ∧ ((tMe.train tEmit).readS 0 9).toNat = 256 ∧ ((tMe.train tEmit).readS 0 10).toNat ≤ 256 ∧
    ((tMe.train tEmit).readS 0 8).toNat = 32 ∧ accessFree tMe tEmit 1 false ∧ listOk 0 0 tEmit = true ∧ listOk 32 1 tEmit = true :=
  ⟨fun _ => test_ready _ _ _ _ rfl rfl, by decide, by decide, by decide,
    by simp [accessFree, unsettled, matsPending, localBusy, tEmit, tState, State.reset], by decide +kernel, by decide +kernel⟩

theorem canonical_tState {t : Train} {l : Launch} {g : Workgroup} (hm : Bytes.wf g.mem = true) (ha : Bytes.wf g.acc = true) :
    memoryCanonical (tState t l g) := by
  refine ⟨rfl, fun w => ?_, fun c => ?_⟩
  · simp only [State.wg, tState, Tab.get, Tab.find]
    split
    · exact ⟨hm, ha⟩
    · split <;> exact ⟨rfl, rfl⟩
  · simp only [State.core, tState, Tab.get, Tab.find]
    split
    · rfl
    · split <;> rfl

/-- MemoryReadsWhatWasWritten: memory with nothing listed, and with one byte. -/
theorem test_witness_memory : Bytes.wf [] = true ∧ Bytes.wf [(7, 9)] = true := by decide

/-- The result of a check, as data. -/
def okLoc (x : Except Kind Loc) (l : Loc) : Bool :=
  match x with
  | .ok y => y == l
  | .error _ => false

/-- A check refuses with a kind. -/
def badLoc (x : Except Kind Loc) (k : Kind) : Bool :=
  match x with
  | .ok _ => false
  | .error y => y == k

theorem okLoc_eq {x : Except Kind Loc} {l : Loc} (h : okLoc x l = true) : x = .ok l := by
  cases x with
  | ok y => simpa [okLoc] using h
  | error e => cases h

theorem badLoc_eq {x : Except Kind Loc} {k : Kind} (h : badLoc x k = true) : x = .error k := by
  cases x with
  | ok y => cases h
  | error e => simpa [badLoc] using h

/-- The result of a checked access, as data. -/
def okData (x : Except (Kind × Word) Loc) (l : Loc) : Bool :=
  match x with
  | .ok y => y == l
  | .error _ => false

theorem okData_eq {x : Except (Kind × Word) Loc} {l : Loc} (h : okData x l = true) : x = .ok l := by
  cases x with
  | ok y => simpa [okData] using h
  | error e => cases h

/-- A checked access is refused with a kind and INFO. -/
def badData (x : Except (Kind × Word) Loc) (e : Kind × Word) : Bool :=
  match x with
  | .ok _ => false
  | .error y => y == e

theorem badData_eq {x : Except (Kind × Word) Loc} {e : Kind × Word} (h : badData x e = true) : x = .error e := by
  cases x with
  | ok y => cases h
  | error y => simpa [badData] using h

/-- s4:s5 hold the last words of the local allotment and of LPDDR-6 memory, s6:s7 an address outside both, s8:s9 a multiple of 64. -/
def tAddr : State :=
  tState { tTrain with sregs := [(2, 4092), (4, 0xAC9FFFFC), (5, 0x7B9), (6, 4093), (8, 0x40000040), (9, 0x400)] }

/-- An atomic update of the test train that is not settled. -/
def tUpdate : Update :=
  { op := 1, loc := .phys 0x40000000000 0 0 0 0, code := 0, wide := false, operand := 1, compare := 0, lane := 0, tid := 0,
    pts := 0, va := 0x40000000000 }

/-- A train with an unsettled atomic. -/
def tUnsettled : State :=
  { tState tTrain with updates := [tUpdate],
                       atoms := [(1, { tid := 0, gen := 0, sid := 0, scalar := false, dest := 0, wide := false, lanes := 1, waiting := 1,
                                       vals := [], ts := 0, queue := 0, pc := 0, size := 4 })] }

theorem free_tState (space : Nat) (store : Bool) : accessFree tMe tAddr space store := by
  simp [accessFree, unsettled, matsPending, localBusy, tAddr, tState, State.reset]

/-- ScalarStoreCompletes: in local and in global space at the last word that is there; a misaligned place; behind an unsettled
access. -/
theorem test_witness_scalar_store (f : FmtM) :
    let g := trainAgent tAddr 0
    (ready tMe (.sst f) tAddr ∧ ready tMe (.sst f) tUnsettled) ∧
    accessFree tMe tAddr f.space.toNat true ∧ memoryCanonical tAddr ∧
    checkStore tAddr (accessCheck tAddr g .write 1 (scalarAddr tAddr tMe 2 0x1C0 20 0).toNat 4) = .ok (.loc 1 4092) ∧
    checkStore tAddr (accessCheck tAddr g .write 0 (scalarAddr tAddr tMe 4 0x1C0 20 0).toNat 4) = .ok (.phys 0x7B9AC9FFFFC 0 0 0 0) ∧
    watchHit (trainStore 0 (.phys 0x7B9AC9FFFFC 0 0 0 0) 4 0 (useTranslation g 0x7B9AC9FFFFC tAddr)) 0 false false true 0x7B9AC9FFFFC 4
      = none ∧
    checkStore tAddr (accessCheck tAddr g .write 1 (scalarAddr tAddr tMe 6 0x1C0 20 0).toNat 4) = .error (.misaligned, 0) ∧
    ¬ accessFree tMe tUnsettled f.space.toNat true :=
  ⟨⟨test_ready _ _ _ _ rfl rfl, rfl, stallOf_idle rfl rfl, operandsOk_idle rfl rfl⟩, free_tState _ _, canonical_tState rfl rfl, okData_eq (by decide +kernel),
    okData_eq (by decide +kernel), by decide +kernel, badData_eq (by decide +kernel), by
      simp [accessFree, unsettled, tUnsettled, tMe, Me.tid, State.train, tState, tTrain, Tab.get, Tab.find]⟩

/-- ScalarLoadCompletes: one register at s1 in local space, and four up to s119 in global space. -/
theorem test_witness_scalar_load (f : FmtM) :
    let g := trainAgent tAddr 0
    ready tMe (.sld f) tAddr ∧ accessFree tMe tAddr f.space.toNat false ∧ tAddr.present (tMe.who tAddr) = true ∧
    0 < 0x101 - 0x100 ∧ (0x101 - 0x100) + accessRegs 2 ≤ 120 ∧ (0x174 - 0x100) + accessRegs 4 ≤ 120 ∧
    checkLoad false tAddr 0 (accessCheck tAddr g .read 1 (scalarAddr tAddr tMe 2 0x1C0 20 0).toNat 4) = .ok (.loc 1 4092) ∧
    checkLoad false tAddr 0 (accessCheck tAddr g .read 0 (scalarAddr tAddr tMe 4 0x1C0 20 0xFFFF4).toNat 16) = .ok (.phys 0x7B9AC9FFFF0 0 0 0 0) ∧
    watchHit (startLoad tMe true 0x74 4 [(0, loadExtend 4 (trainLoad 0 (.phys 0x7B9AC9FFFF0 0 0 0 0) 16 tAddr).1)]
      (trainLoad 0 (.phys 0x7B9AC9FFFF0 0 0 0 0) 16 tAddr).2) 0 false true false 0x7B9AC9FFFF0 16 = none :=
  ⟨test_ready _ _ _ _ rfl rfl, free_tState _ _, by decide, by decide, by decide, by decide, okData_eq (by decide +kernel),
    okData_eq (by decide +kernel), by decide +kernel⟩

/-- VectorAccessCompletes and VectorStoreFrame: LD and ST of 4 bytes a lane at local 0 to 15, with lane 3 a helper. -/
theorem test_witness_vector_access :
    let s := tState { tTrain with elems := [(3, { elem := 3, helper := true })], vregs := [(2, [0, 4, 8, 12])] }
    let f : FmtM := ⟨5, 0, 2, 2, 1, 0, 0⟩
    let xl := (lanesOf (tMe.active s)).foldl (loadLane tMe f) { s := s }
    let xs := (lanesOf (tMe.active s &&& ~~~(tMe.train s).helpers)).foldl (storeLane tMe f) { s := s }
    (∀ i, ready tMe i s) ∧ accessFree tMe s 1 false ∧ accessFree tMe s 1 true ∧ xl.faults.isEmpty = true ∧ xl.hit.isNone = true ∧
      xs.faults.isEmpty = true ∧ xs.hit.isNone = true ∧ issuer s = some tMe ∧ memoryCanonical s ∧ ∃ u, exec (.st f) s = .next u :=
  ⟨fun _ => test_ready _ _ _ _ rfl rfl, by simp [accessFree, unsettled, matsPending, localBusy, tState, State.reset],
    by simp [accessFree, unsettled, matsPending, localBusy, tState, State.reset], by decide +kernel, by decide +kernel,
    by decide +kernel, by decide +kernel, rfl, canonical_tState rfl rfl, tRuns_next (by decide +kernel)⟩

/-- VectorAccessCompletes, the arrival and the f-register: a vector load of two registers is in flight, and LD of one lane's word to f0
meets no fault. -/
theorem test_witness_vector_arrival :
    let o : LoadOp := { tid := 0, gen := 0, sid := 0, scalar := false, dest := 6, regs := 2, lanes := 5, vals := [(0, 7), (2, 2 ^ 40)] }
    let s : State := { tState tTrain with loads := [(3, o)] }
    let u := tState { tTrain with vregs := [(2, [0, 4, 8, 12])] }
    let xl := (lanesOf (tMe.active u)).foldl (loadLane tMe ⟨0x180, 0, 2, 2, 1, 0, 0⟩) { s := u }
    Tab.find s.loads 3 = some o ∧ s.present { tid := o.tid, gen := o.gen, sid := o.sid } = true ∧ 0 < o.dest + 1 ∧
      isF 0x180 = true ∧ xl.faults.isEmpty = true ∧ xl.hit.isNone = true ∧ xl.vals.map (·.1) = [0, 1, 3] ∧ ready tMe (.ld ⟨0x180, 0, 2, 2, 1, 0, 0⟩) u ∧
      accessFree tMe u 1 false :=
  ⟨rfl, by decide, by decide, by decide, by decide +kernel, by decide +kernel, by decide +kernel, test_ready _ _ _ _ rfl rfl,
    by simp [accessFree, unsettled, matsPending, localBusy, tState, State.reset]⟩

/-- A TDEC or TINC by `n` waits at a record with COUNT c and QUEUE q; the queue table stands elsewhere. -/
def tCount (code c n q : Nat) : State :=
  { tUnsettled with
    mem := Bytes.writeLE (Bytes.writeLE [] 0x40000020000 4 c) 0x40000020004 1 q, qtable := 0x40000000000,
    updates := [{ tUpdate with loc := .phys 0x40000020000 0 0 0 0, code := code, wide := false, operand := n, va := 0x40000020000 }] }

/-- AtomicsApplyAndReply, the counters: TINC, TDEC of a counter above n, of 0, and of n itself, with a queue and with QUEUE 32. -/
theorem test_witness_counters :
    let x (code : Nat) : Update := { tUpdate with loc := .phys 0x40000020000 0 0 0 0, code := code, wide := false, operand := 2, va := 0x40000020000 }
    (∀ code ∈ [15, 16], ∀ c ∈ [0, 2, 3], ∀ q ∈ [0, 32],
      let s := tCount code c 2 q
      lineUpdates s (lineKey (x code).loc) = [x code] ∧ (x code).mayApply s = true ∧ badSource s (x code).loc = none ∧
        (Tab.find s.atoms (x code).op).isSome = true ∧ Bytes.wf s.mem = true ∧ readLoc s (x code).loc 4 = c ∧
        readLoc s ((x code).loc.plus 4) 1 = q ∧ qGet s 0 56 8 = 0) ∧
    (0x40000000000 + 128 * 31 + 128 ≤ 0x40000020000) := by decide +kernel

/-- AtomicsComplete: ATOM of the active lanes on 4 bytes each, SATOM and TDEC at a multiple of 64 in LPDDR-6 memory. -/
theorem test_witness_atomics (f : FmtMA) (c : FmtC) :
    let g := trainAgent tAddr 0
    let a : FmtMA := ⟨7, 8, 0x1C0, 0x1C1, 0, 0, 0⟩
    let us := (atomLanes tMe a tAddr (lanesOf (tMe.active tAddr))).1
    let ea := (scalarAddr tAddr tMe 8 0x1C0 11 0).toNat
    let x : Update :=
      { op := 0, loc := .phys 0x40040000040 0 0 0 0, code := 0, wide := false, operand := 0, compare := 0, lane := 0, tid := 0,
        pts := 0, va := ea }
    let o : AtomOp :=
      { tid := 0, gen := 0, sid := 0, scalar := true, dest := 1, wide := false, lanes := 0, waiting := 1, vals := [], ts := 0,
        queue := 0, pc := 0, size := 4 }
    (ready tMe (.atom f) tAddr ∧ ready tMe (.satom f) tAddr ∧ ready tMe (.tdec c) tAddr ∧ ready tMe (.tinc c) tAddr) ∧
    accessFree tMe tAddr 0 true ∧ localBusy tAddr 0 true = false ∧ (atomLanes tMe a tAddr (lanesOf (tMe.active tAddr))).2.isNone = true ∧ tMe.active tAddr ≠ 0 ∧
    us.length = 3 ∧ (us.all fun u => (watchHit tAddr g.ctx false true true u.va 4).isNone) = true ∧
    checkData tAddr (accessCheck tAddr g .both 0 ea 4) = .ok (.phys 0x40040000040 0 0 0 0) ∧
    watchHit (sendUpdates tMe o [x] [.s 1] (useAll g [x] tAddr)) g.ctx false true true ea 4 = none ∧
    (tMe.train tAddr).readSN 0 8 true % 64 = 0 ∧ watchHit tAddr g.ctx false true true ((tMe.train tAddr).readSN 0 8 true) 4 = none :=
  ⟨⟨test_ready _ _ _ _ rfl rfl, test_ready _ _ _ _ rfl rfl, test_ready _ _ _ _ rfl rfl, test_ready _ _ _ _ rfl rfl⟩, free_tState _ _,
    by decide +kernel, by decide +kernel, by decide, by decide +kernel, by decide +kernel, okData_eq (by decide +kernel), by decide +kernel,
    by decide +kernel, by decide +kernel⟩

/-- AtomicsApplyAndReply: one update waits at a line, and an operation of the train has all its replies, for a lane and for s119. -/
theorem test_witness_apply (scalar : Bool) :
    let o : AtomOp :=
      { tid := 0, gen := 0, sid := 0, scalar := scalar, dest := 119, wide := false, lanes := 1, waiting := 0, vals := [(0, 9)],
        ts := 4, queue := 0, pc := 0, size := 4 }
    let s : State := { tUnsettled with atoms := [(1, { o with waiting := 1 }), (3, o)] }
    (memoryCanonical s ∧ lineUpdates s (lineKey tUpdate.loc) = [tUpdate] ∧ tUpdate.mayApply s = true ∧ badSource s tUpdate.loc = none ∧ tUpdate.code < 15 ∧
      Tab.find s.atoms 1 = some { o with waiting := 1 }) ∧
    Tab.find s.atoms 3 = some o ∧ o.waiting = 0 ∧ o.failed = [] ∧ s.present { tid := o.tid, gen := o.gen, sid := o.sid } = true ∧
      0 < o.dest ∧ o.dest < 120 ∧ o.lanes.getLsbD 0 = true :=
  ⟨⟨canonical_tState (t := tTrain) (l := tLaunch) rfl rfl, by cases scalar <;> decide +kernel, by cases scalar <;> decide +kernel,
    by cases scalar <;> decide +kernel, by decide, rfl⟩, rfl, rfl, rfl, by cases scalar <;> decide, by
    simp, by simp, by simp⟩

/-- A state whose s8:s9 hold a virtual or physical address of a 128-byte line, with quota for its pins. -/
def tPin (c : Ctx) (va : DWord) : State :=
  { tState { tTrain with sregs := [(8, va.setWidth 32), (9, (va >>> 32).setWidth 32)] } with
    ctxs := [(0, { c with begun := true, priv := true, pinq := 64 })] }

/-- The memory of Table 20.6. -/
def tTables : Bytes :=
  Bytes.writeLE (Bytes.writeLE (Bytes.writeLE (Bytes.writeLE (Bytes.writeLE [] 0x70000 8 0x71001) 0x71000 8 0x72001)
    0x72600 8 0x73001) 0x73000 8 0x73101) 0x73108 8 0x300000000039000F

/-- The extent of size 0 at lane address s8. -/
def tExt (s : State) : List Nat := extentLines (scalarAddr s tMe 8 0x1C0 20 0).toNat 0

/-- The result of an extent's checks, as data. -/
def okLocs (x : Except (Nat × Kind × Word) (List Loc)) (l : List Loc) : Bool :=
  match x with
  | .ok y => y == l
  | .error _ => false

theorem okLocs_eq {x : Except (Nat × Kind × Word) (List Loc)} {l : List Loc} (h : okLocs x l = true) : x = .ok l := by
  cases x with
  | ok y => simpa [okLocs] using h
  | error e => cases h

/-- PinsComplete: an aligned extent of one line, pinned where its line has no pin and turned away where it has 255; a line of a
home 3 page, which may not be pinned; and a walk whose page is there. -/
theorem test_witness_pins (f : FmtM) :
    let s := tPin { physical := true } 0x40040000080
    let full := { s with l2 := [(0x800800001, { pins := [(3, 255)] })] }
    let virt := { tPin { ptbase := 0x70000 } 0x3000010000 with
                  mem := tTables, walks := [(9, { core := 0, ctx := 0, tid := 0, va := 0x3000010000, kept := .l2, priv := false, ptbase := 0x70000 })] }
    let page : Page :=
      { home := 3, spread := 0, slice := 0, cls := 0, priv := false, x := false, w := true, r := true, base := 0x200000, size := 0x10000 }
    let far := { tPin {} 0x3000010000 with cores := [(0, { (tState tTrain).core 0 with tlb := [{ ctx := 0, va := 0x3000010000, page := page }] })] }
    let l : Loc := .phys 0x40040000080 0 0 0 0
    let g := trainAgent s 0
    (ready tMe (.pref f) s ∧ ready tMe (.lpin f) s ∧ ready tMe (.lunpin f) s ∧ ready tMe (.lpin f) far ∧
      ready tMe (.lpin f) full) ∧ (scalarAddr s tMe 8 0x1C0 20 0).toNat % 128 = 0 ∧
    extentLocs s g (tExt s) = .ok [l] ∧ unpinnable l = false ∧ (s.ctx 0).pinuse + 2 ^ 0 ≤ (s.ctx 0).pinq ∧
    (pinAll g [l] s).isSome = true ∧ pinAll g [l] full = none ∧
    (∃ k, extentLocs far (trainAgent far 0) (tExt far) = .ok [k] ∧ unpinnable k = true) ∧
    (∃ k, Tab.find virt.walks 9 = some k ∧
      (match k.leaf { virt with walks := Tab.del virt.walks 9 } with
        | .ok _ => true
        | .error _ => false) = true) :=
  ⟨⟨⟨rfl, stallOf_idle rfl rfl, operandsOk_idle rfl rfl⟩, ⟨rfl, stallOf_idle rfl rfl, operandsOk_idle rfl rfl⟩, ⟨rfl, stallOf_idle rfl rfl, operandsOk_idle rfl rfl⟩,
    ⟨rfl, stallOf_idle rfl rfl, operandsOk_idle rfl rfl⟩, ⟨rfl, stallOf_idle rfl rfl, operandsOk_idle rfl rfl⟩⟩, by decide +kernel, okLocs_eq (by decide +kernel), by decide, by decide, by
      simp [pinAll, addPin, residentLine, isResident, lineKey, mayStand, outlived, pinWay, freeWay, setLines, placeLine, pinFits, pinnedWays, tPin,
        tState, show State.reset.l2 = [] from rfl, show State.reset.bad = [] from rfl, Tab.get, Tab.find, Tab.put, Tab.upd], by
      simp [pinAll, addPin, residentLine, isResident, pinFits, lineKey, Tab.get, Tab.find], ⟨.phys 0x200000 3 0 0 0, okLocs_eq (by decide +kernel), by decide⟩,
    ⟨_, rfl, by decide +kernel⟩⟩

/-- A check succeeds. -/
def okE {α β : Type} (x : Except α β) : Bool :=
  match x with
  | .ok _ => true
  | .error _ => false

theorem okE_eq {α β : Type} {x : Except α β} (h : okE x = true) : ∃ y, x = .ok y := by
  cases x with
  | ok y => exact ⟨y, rfl⟩
  | error e => cases h

/-- A descriptor of one 4-byte element from local 0 to local 16 (Table 9.7). -/
def tDesc : CopyDesc := { src := 0, dst := 16, idx := 0, ctl := 0x152, loops := List.replicate 6 { count := 1, src := 0, dst := 0 } }

/-- Its six loops of one index each, at local address 128. -/
def tDescMem : Bytes :=
  (List.range 6).foldl (fun m j => Bytes.writeLE m (160 + 16 * j) 4 1)
    (Bytes.writeLE (Bytes.writeLE [] 136 8 16) 152 8 0x152)

/-- A copy of the test train under that descriptor. -/
def tCopy : CopyOp :=
  { who := { tid := 0, gen := 0, sid := 0 }, joined := 0, ctx := 0, core := 0, priv := true, wg := 1, kind := 0, op := 0, tok := 20,
    arr := none, desc := tDesc, dests := [1], skipped := 0, pos := 0, ts := 0, lam := 0, seen := [], packet := 0 }

/-- s8:s9 hold the address of a descriptor pair. -/
def tCopyState (p : Word) (hi : Word) (l : Launch := tLaunch) : State :=
  tState { tTrain with sregs := [(8, p), (9, hi)] } l { tWg with mem := tDescMem }

/-- CopiesComplete: CPY of a good pair; a train that is not the producing one; a pair beyond the allotment at its end and above
2^32, misaligned, and with a breach of Table 9.7; the completion of the last element; and a copy whose elements are performed. -/
theorem test_witness_copies (f : FmtA) :
    let good := tCopyState 128 0
    let t := tMe.train good
    (∀ p hi l i, ready tMe i (tCopyState p hi l)) ∧
    isProducer (tCopyState 128 0 { tLaunch with roles := [] }) t = false ∧
    isProducer good t = true ∧ descFault good t 128 = none ∧
    (let d := readDesc (good.wg 1).mem 128
     descOk 0 0 d = true ∧ d.total * [1].length ≠ 0 ∧ descOk 1 0 d = true ∧ descOk 2 0 d = true ∧ descOk 4 0 d = true) ∧
    (good.bar 1 f.nb.toNat).valid = true ∧ t.count (copyCounter 0) < 63 ∧
    ((tMe.train (tCopyState 4096 0)).readSN 0 8 true = 4096 ∧ (good.wg 1).localSize = 4096) ∧
    2 ^ 32 ≤ (tMe.train (tCopyState 128 1)).readSN 0 8 true ∧ (tMe.train (tCopyState 64 0)).readSN 0 8 true % 128 ≠ 0 ∧
    descOk 0 0 (readDesc (good.wg 1).mem 256) = true ∧ descOk 3 2 (readDesc (good.wg 1).mem 128) = false ∧
    (let s := { good with copyOps := [(5, tCopy)] }
     Tab.find s.copyOps 5 = some tCopy ∧ tCopy.pos + 1 = tCopy.desc.total ∧ ∃ y, copyElement tCopy 1 tCopy.pos s = .ok y) ∧
    unsettled good 0 = false ∧ badSource good (.loc t.wg 128) = none ∧ badSource (tCopyState 256 0) (.loc t.wg 256) = none ∧
    tCopy.desc.total * tCopy.dests.length ≤ ({ tCopy with pos := 1 } : CopyOp).pos := by
  refine ⟨fun _ _ _ _ => test_ready _ _ _ _ rfl rfl, by decide, by decide, by decide, by decide +kernel, ?_, by decide, by decide,
    by decide, by decide, by decide +kernel, by decide +kernel, ⟨rfl, by decide, okE_eq (by decide +kernel)⟩, by decide, by decide +kernel,
    by decide +kernel, by decide⟩
  simp [State.bar, State.wg, tCopyState, tState, tWg, Tab.get, Tab.find]

/-- Barrier 3 of the test workgroup. -/
def tBarState (b : NamedBar) : State := tState { tTrain with heldArr := [] } tLaunch { tWg with bars := [(3, b)] }

/-- BarriersComplete and BarrierPhaseCompletes: a valid barrier without and with a waiter, an arrival below COUNT and one that
reaches it, an invalid barrier, tokens that are due, and a held arrival whose list has ended. -/
theorem test_witness_barriers :
    let who : Who := { tid := 0, gen := 0, sid := 0 }
    let two : NamedBar := { count := 2, waiters := [(who, 20)], due := [{ who := who, tok := 9, val := 0, ts := 0, lam := 0 }] }
    let held := tState { tTrain with heldArr := [{ bar := 3, tok := 4, sid := 0, ops := [7], ts := 0, lam := 0 }] }
    (∀ b i, ready tMe i (tBarState b)) ∧ ((tBarState {}).bar 1 3).waiters = [] ∧ ((tBarState {}).bar 1 3).valid = true ∧
    (tMe.train (tBarState {})).heldArr = [] ∧ arrivalOps (tBarState {}) 0 = [] ∧ ((tBarState { valid := false }).bar 1 3).valid = false ∧
    ((tBarState two).bar 1 3).valid = true ∧ ((tBarState two).bar 1 3).due ≠ [] ∧
    (∃ h rest, (held.train 0).heldArr = h :: rest ∧ h.ops.all (opSettled held) = true) ∧
    Tab.find (tBarState two).wgs 1 ≠ none ∧ ((tBarState two).bar 1 3).arrived + 1 < ((tBarState two).bar 1 3).count ∧
    (let last := tBarState { two with arrived := 1 }
     (last.bar 1 3).count ≤ (last.bar 1 3).arrived + 1) :=
  ⟨fun _ _ => test_ready _ _ _ _ rfl rfl, by decide, by decide, by decide, by decide, by decide, by decide, by decide,
    ⟨_, _, rfl, by decide⟩, by decide, by decide, by decide⟩

/-- MatrixIssueCompletes and TileZeroCompletes: with the lanes updating and, in a train of helpers, with no row: accesses unsettled and a
context that is killed; a format block of zeros, addresses at 0, a rounding mode other than stochastic; a MZERO behind another of its train, and the first of them. -/
theorem test_witness_matrix :
    let s := tState tTrain
    let z : MatOp := { kind := 1, wg := 1 }
    let q := { s with mats := [(5, z), (6, z)] }
    let mma : MatOp := { matBase tMe s with block := List.replicate 8 0 }
    (∀ i, ready tMe i s) ∧ (tMe.train s).tile < 63 ∧
    (∀ i, ready tMe i tUnsettled ∧ unsettled tUnsettled 0 = true) ∧ ({ q with killed := [0] } : State).killed.contains z.ctx = true ∧
    (List.range 8).map (fun k => (tMe.train s).readS 0 (16 + k)) = List.replicate 8 0 ∧
    blockOk (List.replicate 8 0) 0 4 = true ∧ matRows tMe s ≠ 0 ∧ mmaAperture mma 4096 = none ∧
    (∀ a ∈ [blockBase mma.block 2, blockBase mma.block 4, bits (mma.block.getD 0 0).toNat 12 20,
      bits (mma.block.getD 1 0).toNat 12 20], a % 8 = 0) ∧
    (∀ r ∈ lanesOf (matRows tMe s), rowAddr { mma with addr := 16, stride := 128 } r + 128 ≤ 4096) ∧
    effectiveRnd (tMe.train s).mode 0 ≠ 6 ∧
    (let h := tState { tTrain with live := 0, splits := [{ valid := true, member := 0, active := 0 }] }
     matRows tMe h = 0 ∧ ∀ i, ready tMe i h) ∧
    (Tab.find q.mats 6 = some z ∧ matBlocked q 6 z = true) ∧
    (Tab.find q.mats 5 = some z ∧ matBlocked q 5 z = false ∧ wgGone q 1 = false ∧
      (runMatOp z { q with mats := Tab.del q.mats 5 }).2.2.1 = none) ∧
    s.mats = [] ∧ wgGone s (tMe.train s).wg = false ∧ unsettled s 0 = false ∧ q.killed.contains 0 = false :=

  ⟨fun _ => test_ready _ _ _ _ rfl rfl, by decide, fun _ => ⟨test_ready _ tTrain tLaunch tWg rfl rfl, by decide⟩, by decide, by decide +kernel, by decide +kernel,
    by decide +kernel, by decide +kernel, by decide +kernel, by decide +kernel, by decide, ⟨by decide +kernel, fun _ => test_ready _ _ _ _ rfl rfl⟩,
    ⟨rfl, by decide +kernel⟩, ⟨rfl, by decide +kernel, by decide, rfl⟩, rfl, by decide, by decide, by decide⟩

/-- A meshlet of one vertex and no primitive at 0x400_0000_0000 (Table 11.1). -/
def tMesh : State :=
  { tState { tTrain with sregs := [(9, 0x400), (10, 256)] } with mem := Bytes.writeLE [] 0x40000000000 8 0x100000001 }

/-- DecompressionCompletes: aligned addresses, the destination inside the allotment, and a block that decompresses. -/
theorem test_witness_decompression (f : FmtA) :
    let t := tMe.train tMesh
    ready tMe (.mdec f) tMesh ∧ unsettled tMesh 0 = false ∧ t.readSN 0 8 true % 16 = 0 ∧ t.readSN 0 10 true % 16 = 0 ∧ t.readSN 0 10 true < (tMesh.wg 1).localSize ∧
    (tMesh.bar 1 f.nb.toNat).valid = true ∧ t.copies < 63 ∧
    (let x : MdecOp :=
       { who := tMe.who tMesh, joined := 0, ctx := 0, core := 0, priv := true, wg := 1, src := 0x40000000000, dst := 256, tok := 20,
         arr := none, ts := 0, lam := 0, seen := [] }
     let s := { tMesh with mdecs := [(5, x)] }
     Tab.find s.mdecs 5 = some x ∧ okE (runMdec x { s with mdecs := Tab.del s.mdecs 5 }) = true) := by
  refine ⟨⟨rfl, stallOf_idle rfl rfl, operandsOk_idle rfl rfl⟩, by decide, by decide, by decide, by decide, ?_, by decide, rfl, by decide +kernel⟩
  simp [State.bar, State.wg, tMesh, tState, tWg, Tab.get, Tab.find]

/-- A train of rays: pointers to the node and, in v13, to the leaf at 0x400_0000_0000, stacks of one entry at local 0, 64 and 192,
and pixels of a target. -/
def tRay : State :=
  let mem := [0, 64, 192].foldl (fun m a => Bytes.writeLE m a 8 0x40001) []
  tState { tTrain with
      sregs := [(8, 0), (9, 0x400)],
      elems := [(0, { elem := 0, parent := 5 }), (1, { elem := 1, parent := 6 })],
      vregs := [(12, [1, 1, 1, 1]), (13, [2, 2, 2, 2]), (15, [0x400, 0x400, 0x400, 0x400]), (40, [0, 64, 128, 192]), (41, [0, 4, 8, 12])] }
    { tLaunch with
      nres := 1, runMaps := [(6, [{ start := 0, len := 1 }])],
      raster := { spp := 1, targets := [{ base := 0x40000000000, pitch := 128, es := 4, spp := 1, width := 16, height := 16 }] } }
    { tWg with mem := mem }

/-- RayTestsComplete: the accesses are free, every lane passes, and nothing is watched; two rays with their elements. -/
theorem test_witness_ray_tests :
    let s := { tRay with rays := [(5, {}), (6, {})] }
    let ls := lanesOf (tMe.active s)
    let bx := ls.foldl (boxLane tMe ⟨20, 1, 12, 14, 0, 0, 0, 0, 0, 0⟩) (({ s := s } : Acc), ([] : List (Nat × Nat)))
    let tr := ls.foldl (triLane tMe ⟨20, 1, 13, 14, 0, 0, 0, 0, 0, 0⟩) { s := s }
    let ps := ls.foldl (pushLane tMe ⟨14, 0, 40, 2, 1, 0, 0⟩) { s := s }
    let pp := ls.foldl (popLane tMe ⟨14, 0, 40, 2, 1, 0, 0⟩) { s := s }
    let bl := ls.foldl (blendLane tMe ⟨5, 8, 41, 2, 0, 0, 0⟩ s) {}
    (∀ i, ready tMe i s) ∧ (∀ space store, accessFree tMe s space store) ∧
    (bx.1.faults.isEmpty = true ∧ bx.1.hit = none) ∧ (tr.faults.isEmpty = true ∧ tr.hit = none) ∧ ps.faults.isEmpty = true ∧
    pp.faults.isEmpty = true ∧ (blendRoom s 1 bl.held = true ∧ bl.faults.isEmpty = true ∧ bl.held.length = 3) ∧
    (∀ l k e d, Tab.find (tMe.train s).elems l = some e → Tab.find (tMe.train s).elems k = some d → e.parent = d.parent → l = k) ∧
    (Tab.find (tMe.train s).elems 1).map (·.parent) = some 6 ∧ (Tab.find s.rays 6).isSome = true := by
  refine ⟨fun _ => ⟨rfl, stallOf_idle rfl rfl, operandsOk_idle rfl rfl⟩, fun _ _ => ?_, by decide +kernel, by decide +kernel, by decide +kernel,
    by decide +kernel, by decide +kernel, fun l k e d hl hk h => ?_, by decide, by decide⟩
  · simp [accessFree, unsettled, matsPending, localBusy, tRay, tState, State.reset]
  · have hp : ∀ n x, Tab.find (tMe.train { tRay with rays := [(5, {}), (6, {})] }).elems n = some x →
        n = 0 ∧ x.parent = 5 ∨ n = 1 ∧ x.parent = 6 := fun n x hx => by
      change Tab.find [(0, ({ elem := 0, parent := 5 } : LaneElem)), (1, { elem := 1, parent := 6 })] n = some x at hx
      simp only [Tab.find] at hx
      split at hx
      next h0 => cases hx; exact .inl ⟨(beq_iff_eq.mp h0).symm, rfl⟩
      split at hx
      next => cases hx
      split at hx
      next h1 => cases hx; exact .inr ⟨(beq_iff_eq.mp h1).symm, rfl⟩
      split at hx <;> cases hx
    have := hp l e hl
    have := hp k d hk
    omega

/-- RaySpawnsComplete: the counter is below 63, there is a RAY run map, three lanes spawn; an undivided and a divided train. -/
theorem test_witness_ray_spawns :
    let t := tMe.train tRay
    let rs := (lanesOf (tMe.active tRay)).filter fun l => !t.helpers.getLsbD l && decide (spawnDepth tRay t l ≤ (tRay.launch 1).nres)
    (∀ i, ready tMe i tRay) ∧ unsettled tRay 0 = false ∧ t.gather < 63 ∧ Tab.get [] (tRay.launch 1).runMaps 6 ≠ [] ∧ rs = [0, 1, 3] ∧ divided t = false ∧
    divided (tMe.train (tDiv 0 [] (tRecs 1))) = true :=
  ⟨fun _ => ⟨rfl, stallOf_idle rfl rfl, operandsOk_idle rfl rfl⟩, by decide, by decide, by decide, by decide +kernel, by decide, by decide⟩

/-- A batch of two requests at an accord page. -/
def tBatch : AccBatch :=
  let q : AccReq := { op := 1, lane := 0, arg := 0, off := 0, pts := 0, lam := 0 }
  { ctx := 0, launch := 1, page := 0x390000, va := 0x3000010000, method := 0, wide := false, seq := 0, reqs := [q, q] }

/-- A combiner train whose s4 to s7 hold the header of that batch. -/
def tComb : State := tState { tTrain with combiner := true, sregs := [(4, 2), (6, 0x10000), (7, 0x30)] }

/-- An ACALL whose requests are all accepted. -/
def tAcall : AccOp :=
  { who := { tid := 0, gen := 0, sid := 0 }, joined := 0, ctx := 0, dest := 9, wide := false, sent := 1, helpers := 0, fault := none,
    pending := 0, unaccepted := 0, waiting := 1, vals := [], failed := [], addrs := [], ts := 0, lam := 0, pc := 0 }

/-- ExchangesComplete: a port with room; a train with nothing unsettled, that sends no ACALL and one that has sent it; and a combiner
train without and with a delivered batch, whose header it holds. -/
theorem test_witness_exchanges :
    let s := tState tTrain
    let sent := { tState { tTrain with splits := [{ valid := true, member := 0xF, active := 0xB, sending := some 7 }] } with
                  accOps := [(7, tAcall)] }
    let got := { tComb with accOut := [(outKey 0 0, tBatch)] }
    let q := (List.range 4).map fun i => ((tMe.train got).readS 0 (4 + i)).toNat
    (∀ i, ready tMe i s ∧ ready tMe i tComb ∧ ready tMe i got) ∧ (portWaiters s 0).length < 4 ∧
    (tMe.sid < (tMe.train s).splits.length ∧ (tMe.split s).sending = none ∧ (tMe.train s).combiner = false ∧
      unsettled s 0 = false ∧ acallsOf s 0 < 4) ∧
    (sendingOp sent = some (tMe, 7, tAcall) ∧ tAcall.unaccepted = 0) ∧
    ((tMe.train tComb).combiner = true ∧ divided (tMe.train tComb) = false ∧ outBatch tComb 0 = none ∧ (tMe.train tComb).arecv = none) ∧
    outBatch got 0 = some tBatch ∧ unsettled got 0 = false ∧ q.getD 0 0 % 2 ^ 13 = (headerWords tBatch).getD 0 0 ∧
    q.drop 1 = (headerWords tBatch).drop 1 :=
  ⟨fun _ => ⟨⟨rfl, stallOf_idle rfl rfl, operandsOk_idle rfl rfl⟩, ⟨rfl, stallOf_idle rfl rfl, operandsOk_idle rfl rfl⟩, ⟨rfl, stallOf_idle rfl rfl, operandsOk_idle rfl rfl⟩⟩, by decide,
    ⟨by decide, by decide, by decide, by decide, by decide⟩, ⟨rfl, rfl⟩, ⟨by decide, by decide, by decide, by decide⟩, rfl, by decide,
    by decide, by decide⟩

/-- A barrier slot and a channel of the test launch, whose one member is the test train. -/
def tSlot : EsSlot := { launch := 1, set := 5, members := [(0, 0)] }
def tChan (recv : Tab (List EsValue)) : EsChan := { launch := 1, set := 6, members := [(0, 0)], recv := recv }

/-- Set 5 bound to slot 9 and set 6 to channel 4. -/
def tEs (recv : Tab (List EsValue)) : State :=
  { tState { tTrain with sregs := [(8, 5)] } { tLaunch with slotSet := [(0, 5)], slotMap := [(0, 9)], chanSet := [(0, 6)], chanMap := [(0, 4)] } with
    esSlots := [(9, tSlot)], esChans := [(4, tChan recv)] }

/-- EscapementWordsComplete: a bound slot without an arrival and a bound channel without and with a value; a set that is not
bound; and a halt. -/
theorem test_witness_escapement :
    let v : EsValue := { val := 3, ts := 0, lam := 0 }
    (∀ r i, ready tMe i (tEs r)) ∧ slotFor (tEs []) 0 5 = .ok (9, tSlot, 0) ∧ tSlot.arrival 0 = none ∧ tSlot.waits = [] ∧
    (placeOps (tEs []) 0 = [] ∧ matsPending (tEs []) 0 = false) ∧ chanFor (tEs []) 0 6 = .ok (4, tChan [], 0) ∧
    chanLoad (tEs []) 4 < 8 ∧ Tab.get [] (tChan []).recv 0 = [] ∧
    (chanFor (tEs [(0, [v])]) 0 6 = .ok (4, tChan [(0, [v])], 0) ∧ Tab.get [] (tChan [(0, [v])]).recv 0 = [v]) ∧
    (let l := (tEs []).launch 1
     (boundTo l.slotSet l.slotMap ((tMe.train (tEs [])).readS 0 8).toNat).bind (Tab.find (tEs []).esSlots) = some tSlot) ∧
    slotFor (tEs []) 0 7 = .error (.unbound, 7) ∧ chanFor (tEs []) 0 7 = .error (.unbound, 7) ∧
    (tEs []).halt.phase = 0 ∧ ∀ i, ready tMe i { tEs [] with halt := { phase := 3 } } :=
 
  ⟨fun _ _ => ⟨rfl, stallOf_idle rfl rfl, operandsOk_idle rfl rfl⟩, rfl, rfl, rfl, by decide, rfl, by decide, rfl, ⟨rfl, rfl⟩, rfl, rfl, rfl, rfl,
    fun _ => ⟨rfl, stallOf_idle rfl rfl, operandsOk_idle rfl rfl⟩⟩

/-- TrapsPark: a train that holds no event. -/
theorem test_witness_traps : (∀ i, ready tMe i (tState tTrain)) ∧ tMe.sid < (tMe.train (tState tTrain)).splits.length ∧
    (tState tTrain).holdsEvent 0 = false := ⟨fun _ => test_ready _ _ _ _ rfl rfl, by decide, by decide⟩

/-- A state with what the system instructions act on: a context that context 0 handles, a dump area, a watched context. -/
def tSys (trace : Nat) (d : Option Dump) : State :=
  { tState { tTrain with sregs := [(9, 0x400)] } with
    dump := d,
    ctxs := [(0, { physical := true, begun := true, priv := true, pinq := 64, trCtl := trace, dumpBase := 0x40000000000 }),
             (1, { handlerCtx := some 0 })] }

/-- SystemRegistersComplete: with and without a session; a counter, a number of a chapter and one that none assigns. -/
theorem test_witness_system_registers :
    (∀ n d i, ready tMe i (tSys n d)) ∧ ((tSys 0 none).ctx 0).tracing = false ∧ ((tSys 5 none).ctx 0).tracing = true ∧
    isProfNumber 0x200 = true ∧ isProfNumber 0x3FF = true ∧ isProfNumber 0x400 = false ∧ sysValue (tSys 0 none) 0 0x424 = some 64 ∧
    sysValue (tSys 0 none) 0 0 = none ∧ (sysWrite 0 0x424 8 (tSys 0 none)).isSome = true ∧ (sysWrite 0 0 8 (tSys 0 none)).isNone = true :=
  ⟨fun _ _ _ => ⟨rfl, stallOf_idle rfl rfl, operandsOk_idle rfl rfl⟩, by decide, by decide, by decide, by decide, by decide, by decide +kernel,
    by decide +kernel, by decide +kernel, by decide +kernel⟩

/-- The image of a train of one granule in host memory, through a cached translation, after some of it has been loaded. -/
def tImage (p : Nat) (ls : Tab (Nat × Nat)) : State :=
  let page : Page :=
    { home := 3, spread := 0, slice := 0, cls := 0, priv := false, x := false, w := true, r := true, base := 0x40000000000,
      size := 0x10000 }
  let e : TlbEntry := { ctx := 0, va := 0x40000000000, page := page }
  { tSys 0 none with
    trains := [(0, { tTrain with sregs := [(9, 0x400)], pts := p })], lines := ls, mem := [(0x40000000000, 1), (0x40000000004, 1)],
    ctxs := [(0, { begun := true, priv := true })], clusterTlb := [(0, [e])],
    cores := [(0, { (tState tTrain).core 0 with tlb := [e] })] }

theorem image_zero {m : Bytes} {n a : Nat} (h : ∀ b, a ≤ b → Bytes.read m b = 0) : Bytes.readLE m a n = 0 := by
  induction n generalizing a with
  | zero => rfl
  | succ n ih =>
    have := ih (a := a + 1) fun b hb => h b (by omega)
    simp only [Bytes.readLE, Bytes.readList, leNat] at this ⊢
    simp [this, h a (Nat.le_refl a)]

theorem image_step (p : Nat) (ls : Tab (Nat × Nat)) (k : Nat) (h : 1 ≤ k) (hk : k < 4096) :
    let s := tImage p ls
    let va := 0x40000000000 + 16 * k
    ∃ q ms, checkLoad false s 0 (accessCheck s (trainAgent s 0) .read 0 va 16) = .ok (.phys va 3 0 0 0) ∧
      trainLoad 0 (.phys va 3 0 0 0) 16 (useTranslation (trainAgent s 0) va s) = (0, tImage q ms) := by
  intro s va
  let page : Page :=
    { home := 3, spread := 0, slice := 0, cls := 0, priv := false, x := false, w := true, r := true, base := 0x40000000000,
      size := 0x10000 }
  have hf : tlbFind [{ ctx := 0, va := 0x40000000000, page := page }] 0 va = some page := by
    have h1 : decide (0x40000000000 ≤ va) = true := decide_eq_true (Nat.le_add_right _ _)
    have h2 : decide (va < 0x40000000000 + 0x10000) = true := decide_eq_true (by omega)
    simp only [tlbFind, List.find?_cons, page, beq_self_eq_true, h1, h2, Bool.and_self, Option.map_some]
  have ht : translateVa s 0 0 va = .ok page := by
    unfold translateVa
    rw [show (s.core 0).tlb = [{ ctx := 0, va := 0x40000000000, page := page }] from rfl, hf]
  have hu : useTranslation (trainAgent s 0) va s = s := by
    unfold useTranslation
    rw [show (trainAgent s 0).core = 0 from rfl, show (trainAgent s 0).ctx = 0 from rfl, ht]
    have : ¬ 2 ^ 57 ≤ va := by omega
    have hc : tlbFind (Tab.get [] s.clusterTlb (0 / 4)) 0 va = some page := hf
    have hk : tlbFind (s.core 0).tlb 0 va = some page := hf
    simp only [cacheTranslation, hk, hc, Option.isSome_some, if_true, ite_self]
  have hz : Bytes.readLE s.mem va 16 = 0 := image_zero fun b hb => by
    show Bytes.read [(0x40000000000, 1), (0x40000000004, 1)] b = 0
    have h1 : (0x40000000000 == b) = false := by simp; omega
    have h2 : (0x40000000004 == b) = false := by simp; omega
    simp [Bytes.read, h1, h2, unlistedByte]
  have hl : pageLoc page va = .phys va 3 0 0 0 := by
    simp [pageLoc, page, va]; omega
  refine ⟨max p (Tab.get (0, 0) ls (va / 128)).1, Tab.put ls (va / 128) ((Tab.get (0, 0) ls (va / 128)).1,
    max (Tab.get (0, 0) ls (va / 128)).2 (max p (Tab.get (0, 0) ls (va / 128)).1 + 16)), ?_, ?_⟩
  · have h0 : ¬ 2 ^ 57 ≤ va := by omega
    have h1 : va % 16 = 0 := by omega
    have : accessCheck s (trainAgent s 0) .read 0 va 16 = .ok (.phys va 3 0 0 0) := by
      simp only [accessCheck, checkGlobal, show (trainAgent s 0).core = 0 from rfl, show (trainAgent s 0).ctx = 0 from rfl, ht, h0, h1,
        show (s.ctx 0).physical = false from rfl, hl]
      rfl
    rw [this]
    have h2 : ¬ va < 0x8000000000 := by omega
    have h3 : servedBy false s 0 (.phys va 3 0 0 0) = none := rfl
    simp [checkLoad, h3, checkData, badSource, badAt, deadFrame, inHbm, h2, show s.lostPorts = [] from rfl, show s.bad = [] from rfl, Tab.find]
  · rw [hu]
    show (Bytes.readLE s.mem va 16, _) = _
    rw [hz]; rfl

theorem image_loads (n k : Nat) (p : Nat) (ls : Tab (Nat × Nat)) (h : 1 ≤ k) (hk : k + n ≤ 4096) :
    ∃ tl q ms, loadQuads 0 n (0x40000000000 + 16 * k) (tImage p ls) = .ok (tl, tImage q ms) ∧ ∀ x ∈ tl, x = 0 := by
  induction n generalizing k p ls with
  | zero => exact ⟨[], p, ls, rfl, fun x hx => by cases hx⟩
  | succ n ih =>
    obtain ⟨q, ms, h1, h2⟩ := image_step p ls k h (by omega)
    obtain ⟨tl, r, ns, h3, h4⟩ := ih (k + 1) q ms (by omega) (by omega)
    refine ⟨[0, 0, 0, 0] ++ tl, r, ns, ?_, fun x hx => ?_⟩
    · simp only [loadQuads, h1, h2, show 0x40000000000 + 16 * k + 16 = 0x40000000000 + 16 * (k + 1) by omega, h3]
      rfl
    · rcases List.mem_append.mp hx with hx | hx
      · simpa using hx
      · exact h4 x hx

/-- SystemOperationsComplete: ERET without and with a dump; a handle that names the train itself and one that names none; an aligned
save area; an image; and HALTALL with a dump area, in a halt and with a dump open. -/
theorem test_witness_system_operations :
    let s := tSys 0 none
    let d := tSys 0 (some { who := { tid := 0, gen := 0, sid := 0 }, ctx := 0, base := 0x40000000000 })
    (∀ n x i, ready tMe i (tSys n x)) ∧ (tMe.split s).deferred = [] ∧ ownSnap s (tMe.split s) = false ∧ (∀ k, (tMe.train s).pending k = false) ∧ (handledBy s 0 ≠ [] ∧ handlerOf s 0 = none ∧ ownsDump s 0 = false) ∧
    (ownSnap d (tMe.split d) = false ∧ ownsDump d 0 = true ∧ okE (storeGlobal 0 (0x40000000000 + 4) 4 3 d) = true) ∧
    unsettled s 0 = false ∧ handleTarget s 0 0 = some 0 ∧ handleTarget s 0 0x100 = none ∧ (tMe.train s).readSN 0 8 true % 4096 = 0 ∧ d.dump ≠ none ∧
    (∀ i, ready tMe i (tImage 0 [])) ∧
    (∃ hd s1 tl s2 k ks, loadQuads 0 1 0x40000000000 (tImage 0 []) = .ok (hd, s1) ∧ hd.getD 0 0 = 1 ∧ hd.getD 1 0 % 256 = 1 ∧
      loadQuads 0 895 (0x40000000000 + 16 * 1) s1 = .ok (tl, s2) ∧ imageOk (hd ++ tl) = true ∧ imageWg s2 (hd ++ tl) = some 1 ∧
      freeSlots s2 (s2.wg 1).core = k :: ks ∧ 1 ≤ granulesFree s2 (s2.wg 1).core ∧ coreOpen s2 (s2.wg 1).core = true) ∧
    (s.dump = none ∧ s.halt.phase = 0 ∧ okE (storeQuads 0 (quads (dumpHeader (currentEvent s 0))) (s.ctx 0).dumpBase s) = true) :=
  ⟨fun _ _ _ => ⟨rfl, stallOf_idle rfl rfl, operandsOk_idle rfl rfl⟩, rfl, by decide, fun k => BitVec.getLsbD_zero (i := k), ⟨by decide, by decide, by decide⟩, ⟨by decide, by decide, by decide +kernel⟩, by decide, by decide +kernel,
    by decide +kernel, by decide, by decide, fun _ => ⟨rfl, stallOf_idle rfl rfl, operandsOk_idle rfl rfl⟩, by
      obtain ⟨tl, q, ms, h, hz⟩ := image_loads 895 1 0 [(0x800000000, (0, 16))] (by omega) (by omega)
      refine ⟨[1, 1, 0, 0], tImage 0 [(0x800000000, (0, 16))], tl, _, 1, (List.range 29).map (· + 2), rfl, rfl, rfl, h, ?_, ?_, ?_, ?_, ?_⟩
      rotate_left
      · have hj : wordsAt ([1, 1, 0, 0] ++ tl) 2 2 = 0 := rfl
        simp only [imageWg, hj]
        rfl
      · have ht : ∀ n, ((tImage q ms).train n).state = ((tImage 0 []).train n).state := fun n => by
          simp only [State.train, tImage, Tab.get, Tab.find]
          split
          · rfl
          · split <;> rfl
        have hr : reservedSlots (tImage q ms) 0 = reservedSlots (tImage 0 []) 0 := rfl
        show freeSlots (tImage q ms) 0 = _
        simp only [freeSlots, ht, hr]
        decide +kernel
      · show 1 ≤ granulesFree (tImage q ms) 0
        have hg : granulesHeld (tImage q ms) 0 = 16 := by
          simp [granulesHeld, reserveGranules, poolGranules, tImage, tTrain, tSys, tState, tLaunch, Tab.find]
        simp [granulesFree, hg]
      · show coreOpen (tImage q ms) 0 = true
        have hg : growRequests (tImage q ms) 0 = [] := by
          simp [growRequests, tImage, tTrain, tSys, tState, growOf, List.zipIdx]
        simp only [coreOpen, grantable, hg, show passWaits (tImage q ms) 0 = false from rfl,
          show combinerWaits (tImage q ms) 0 = false from rfl]
        rfl
      have h6 : ([1, 1, 0, 0] ++ tl).getD 10 0 = 0 := by
        simp only [List.getD_eq_getElem?_getD, List.cons_append, List.nil_append, List.getElem?_cons_succ]
        cases hx : tl[6]? with
        | none => rfl
        | some x => exact hz x (List.mem_of_getElem? hx)
      simp only [imageOk, h6]
      rfl,
    ⟨by decide, by decide, by decide +kernel⟩⟩

/-- The test machine without a run in issue. -/
def tIdle (t : Train) (l : Launch := tLaunch) (g : Workgroup := tWg) : State := { tState t l g with cur := none, cores := [(0, {})] }

/-- A train of split 0 with a hold. -/
def tHold (h : Hold) : Train := { tTrain with splits := [{ valid := true, member := 0xF, active := 0xB, hold := h }, {}, {}, {}] }

/-- TrainEventsComplete, each clause: a scheduler with a run and one that picks a run; two splits at one word; a split that waits for a
join; holds that are over; REGGROW requests that fit and, at 113 of 112 granules, do not; a train that ends and one that starts;
a run to fetch; and a watched wait. -/
theorem test_witness_train_events :
    let two := tIdle { tTrain with splits := [{ valid := true, member := 3, active := 3 }, { valid := true, member := 12, active := 12 }, {}, {}] }
    let cached := { tIdle tTrain with cores := [(0, { icache := [{ launch := 1, start := 0, words := [0] }] })] }
    let start := tIdle { tTrain with state := .starting } { tLaunch with launchEnded := true } { tWg with wgEnded := true }
    let small := { tHold (.grow 1 9 5) with granules := 15 }
    let code := tIdle tTrain { tLaunch with codeBase := 0x40000000000 }
    let wait := { tIdle (tHold (.regroup 0 0 0 none)) with
                  ctxs := [(0, { wdog := 1 })], cores := [(0, { icache := [{ launch := 1, start := 0, words := [0] }] })] }
    (((tState tTrain).core 0).sched 0).run ≠ none ∧
    (((cached.core 0).sched 0).run = none ∧ mustRest cached 0 0 = false ∧
      (pick (cached.updSched 0 0 fun sc => { sc with rested := false }) 0 0).isSome = true) ∧
    (((0, 1) ∈ splitPairs ∧ mergeNow two 0 0 1 = true) ∧ ∀ m, ((two.train 0).split m).valid = true → m = 0 ∨ m = 1) ∧
    joinDue { tTrain with splits := [{ valid := true, state := .joinwait }] } = true ∧
    (((tIdle (tHold (.yield false 64))).train 0).split 0).hold = .yield false 64 ∧
    ((((tIdle (tHold (.trim 1))).train 0).split 0).hold = .trim 1 ∧ writesAbove (tIdle (tHold (.trim 1))) 0 (16 * 15) = false) ∧
    overCap (tIdle (tHold (.grow 1 9 5))) 0 = some (0, 0, 5, 1, 9) ∧
    (overCap (tIdle small) 0 = none ∧ grantable (tIdle small) 0 = some (0, 0, 5, 1, 9)) ∧
    (starved (tIdle (tHold (.grow 113 9 5))) 0 = true ∧ growRequests (tIdle (tHold (.grow 113 9 5))) 0 = [(0, 0, 5, 113, 9)] ∧
      ((tIdle (tHold (.grow 113 9 5))).train 0).state = .resident) ∧
    trainEndDue (tIdle { tTrain with state := .ending }) 0 = true ∧
    ((start.train 0).state = .starting ∧ (start.train 0).returning = false ∧ (start.train 0).restOp = none ∧ (start.launch 1).graphics = false ∧
      passReady start (start.train 0) = true ∧ (start.wg (start.train 0).wg).state.held = false ∧ (start.train 0).killAtEnd = false ∧
      (createRecs 0 start).isSome = true) ∧
    ({ tWg with state := .holding } : Workgroup).state.held = true ∧
    (unfetched code 0 0 = some (0, 1) ∧ okE (fetchWords 0 1 0 code) = true) ∧
    watchOver (wait.updSplit tMe fun sp => { sp with watch := 65536 }) 0 0 = true :=
  ⟨by decide, ⟨by decide, by decide, by decide +kernel⟩, ⟨⟨by decide, by decide +kernel⟩, fun m h => by
      rcases m with _ | _ | _ | _ | m
      · exact .inl rfl
      · exact .inr rfl
      all_goals cases h⟩, by decide, rfl, ⟨rfl, by decide⟩, by decide +kernel, ⟨by decide +kernel, by decide +kernel⟩,
    ⟨by decide +kernel, by decide +kernel, by decide⟩, by decide +kernel, ⟨by decide, rfl, by decide, by decide, by decide +kernel,
    by decide, by decide, by decide +kernel⟩, by decide, ⟨by decide +kernel, by decide +kernel⟩, by decide +kernel⟩

/-- RayEventsComplete, each clause: a spilled record that can be read, a primitive to process, a ray that waits and one that has ended,
a train in the regrouping queue past the limit, an offer of 512 cycles, a held blend, and a registration to close. -/
theorem test_witness_ray_events :
    let sp : FixRec := { spilled := true, spillAt := 0x40000000000 }
    let away : FixRec := { core := 1, copies := [(0, some 0x40000000080)] }
    let spill := tState tTrain { tLaunch with recs := [(5, sp)] }
    let prim := { tLaunch with clustersDone := [(0, 0)], emitted := [(0, [{}])], vertsDone := [(0, 0)] }
    let rays := { tIdle tTrain with rays := [(5, { launch := 1, depth := 1 }), (6, { launch := 1, ended := true })] }
    let who : Who := { tid := 0, gen := 0, sid := 0 }
    let queue := { tIdle (tHold (.regroup 0 0 0 (some 0))) with timer := 256 }
    let offer := { tIdle (tHold (.regroup 1 2 20 none)) with timer := 512, cores := [(0, { offer := some { who := who, since := 0 } })] }
    let b : Blend := { who := who, ctx := 0, launch := 1, seq := 0, tx := 0, ty := 0, loc := .phys 0x40000000000 0 0 0 0, op := 0,
                       wide := false, src := 9, pts := 0, lane := 0, pc := 0, va := 0x40000000000 }
    let held := { tState tTrain with blends := [(5, b)] }
    (Tab.find (spill.launch 1).recs 5 = some sp ∧ sp.out 0 = some sp.spillAt ∧ away.out 0 = some 0x40000000080 ∧
      refillRead spill (storeAgent 0 (spill.launch 1)) ((spill.launch 1).recBytes (5 / 2 ^ 32) / 4) sp.spillAt = none) ∧
    ((prim.rasterAdvance (prim.clusterTotal + 1)).nextPrim).isSome = true ∧
    (coreLive rays 0 = true ∧ (nextRayTrain (spillForRays rays 1 0) 1 0).map (·.1) = some 1 ∧ (waitingRays rays 1 0 1).map (·.1) = [5] ∧ (Tab.find rays.rays 5).isSome = true) ∧
    (Tab.find rays.rays 6).map (fun r => (r.ended, r.delivered, r.ops.all (opSettled rays))) = some (true, false, true) ∧ regrpDue queue 0 = true ∧ regrpLimit queue 0 = true ∧
    ((offer.core 0).offer = some { who := who, since := 0 } ∧ 0 + 512 ≤ offer.timer ∧ offer.present who = true ∧
      ((offer.train 0).split 0).hold = .regroup 1 2 20 none) ∧
    (memoryCanonical held ∧ Tab.find held.blends 5 = some b ∧ blendDue held 5 b = true ∧ badSource held b.loc = none) ∧
    tLaunch.tileDone 0 0 0 = true :=
  ⟨⟨rfl, by decide, by decide, by decide +kernel⟩, by decide +kernel, ⟨by decide, by decide +kernel, by decide +kernel, by decide +kernel⟩, by decide,
    by decide +kernel, by decide +kernel, ⟨rfl, by decide, by decide +kernel, rfl⟩,
    ⟨canonical_tState (t := tTrain) (l := tLaunch) rfl rfl, rfl, by decide +kernel, by decide +kernel⟩, by decide⟩

/-- NetworkEventsComplete, each clause but the tick: requests that the queue accepts, a batch to deliver, a reply, combiner trains to start
and to pass their slot, a pair of VXSHUFs before and after its delay and one that has timed out, messages that enter, arrive and
are lost, and signals that are repeated. -/
theorem test_witness_network_events :
    let who : Who := { tid := 0, gen := 0, sid := 0 }
    let g : AccGroup := { op := 7, cluster := 0, ctx := 0, launch := 1, page := 0x390000, va := 0x3000010000, method := 0, wide := false,
                          pts := 0, lam := 0, reqs := [(0, 1, 2)] }
    let s := { tState tTrain with accGroups := [(5, g)], accOps := [(7, tAcall)],
                                  accReplies := [(6, { op := 7, lane := 0, val := 1, err := false, ts := 0, lam := 0 })] }
    let comb := { tTrain with combiner := true, arecv := some (4, 2) }
    let deliver := { tState tTrain with trains := [(31, comb)], accQueues := [(0, [tBatch])] }
    let start := { tState tTrain { tLaunch with combine := 0 } with accQueues := [(0, [tBatch])], combWait := [0] }
    let pass := { deliver with accQueues := [(0, [{ tBatch with ctx := 3 }])] }
    let sh (core : Nat) (pair : Option (Nat × Nat)) : Shuffle :=
      { who := who, core := core, launch := 1, key := 0, wide := false, dest := 5, act := 1, vals := [], issued := 0, pair := pair }
    let two := { tState tTrain with shuffles := [(5, sh 0 none), (6, sh 4 none)], timer := 4096 }
    let due := { tState tTrain with shuffles := [(5, sh 0 (some (6, 48))), (6, sh 4 (some (5, 48)))], cycle := 48 }
    let v : EsValue := { val := 3, ts := 0, lam := 0 }
    let msgs := { tEs [] with cycle := 400, esMsgs := [(5, .arrival 9 0 none v 0), (6, .release 9 0 false v 30), (7, .broadcast 4 v 30)] }
    (Tab.find s.accGroups 5 = some g ∧ groupWaits s 5 g = false ∧ (arriveReqs g g.reqs s).1 = []) ∧
    (deliverable deliver 0).isSome = true ∧ ((Tab.find s.accReplies 6).map (·.op) = some 7 ∧ Tab.find s.accOps 7 = some tAcall) ∧
    (combinerDue start 0 = some (0, 0) ∧ (combinerNeeds start 0 0).getD 0 ≤ granulesFree start 0) ∧ passDue pass 0 = some 31 ∧
    (Tab.find two.shuffles 5 = some (sh 0 none) ∧ Tab.find two.shuffles 6 = some (sh 4 none) ∧ pairOf two 6 (sh 4 none) = some 5 ∧
      0 + 4096 ≤ two.timer ∧ two.present who = true ∧ sameSplit two who 0 = true ∧ sameSplit two who 1 = false) ∧
    (Tab.find due.shuffles 5 = some (sh 0 (some (6, 48))) ∧ (Tab.find due.shuffles 6).isSome = true ∧ 48 ≤ due.cycle) ∧
    ((Tab.find msgs.esMsgs 5).map (entryDue msgs) = some true ∧ Tab.find msgs.esMsgs 6 = some (.release 9 0 false v 30) ∧
      Tab.find msgs.esMsgs 7 = some (.broadcast 4 v 30) ∧ 30 ≤ msgs.tick) ∧
    ({ s with halt := { phase := 1 } } : State).halt.phase = 1 ∧ (Tab.find s.wgs 1).isSome = true :=
  ⟨⟨rfl, by decide +kernel, by decide +kernel⟩, by decide +kernel, ⟨by decide, rfl⟩, ⟨by decide +kernel, by decide +kernel⟩,
    by decide +kernel, ⟨rfl, rfl, by decide +kernel, by decide, by decide, by decide +kernel, by decide +kernel⟩, ⟨rfl, by decide, by decide⟩, ⟨by decide +kernel, rfl, rfl, by decide⟩, rfl,
    by decide⟩

/-- A call of SYSCALL or of the fabric. -/
def tCall (code : Nat) (args : List Word) : SysCall :=
  { who := { tid := 0, gen := 0, sid := 0 }, ctx := 0, joined := 0, code := code, args := args }

/-- HandlerEventsComplete, each clause: an event for a handler, a truncated dump, a halt that arrives, completes and is released, a save
and a restore, an invalidation, calls, and trace records without and with a session. -/
theorem test_witness_handler_events :
    let who : Who := { tid := 0, gen := 0, sid := 0 }
    let rec_ : FaultRec := { kind := 7, trainLevel := true, lane := 0, sid := 0, offset := 0, pending := 0, addr := 0, size := 0, info := 0 }
    let ev := { tSys 0 none with
                trains := [(0, tHold .handler)], handlers := [(0, { who := who })],
                ctxs := [(0, {}), (1, { handlerCtx := some 0, events := [{ type := 1, handle := 0, words := [1, 2, 3, 4] }] })] }
    let d : Dump := { who := who, ctx := 0, base := 0x40000000000, nested := some (0, rec_) }
    let halting (p : Nat) : State := { tIdle tTrain with halt := { phase := p } }
    let saving := { tIdle { tTrain with saveOp := some 7 } with sysOps := [(7, .save who who 0x40000000000 0), (8, .inv who 0 0 0)] }
    let calls := { tSys 0 none with
                   rests := [(9, { who := who, tok := 4, tid := 0 })],
                   syscalls := [(5, tCall 3 []), (6, tCall 0xF000 [0, 0, 0, 0, 0, 0, 0, 8]), (7, { tCall 0xF002 [] with moved := true })] }
    let r : TraceRec := { kind := 1, joined := 0, tag := 0, value := 0, lam := 0 }
    let trace (ctl : Nat) : State :=
      { tSys 0 none with ctxs := [(0, { physical := true, trCtl := ctl, trBase := 0x40000000000, trLen := 4096, trQueue := [r] })] }
    (deliverable? ev 0).isSome = true ∧ ((tSys 0 (some d)).dump = some d ∧ d.nested = some (0, rec_) ∧ d.ctx = 0) ∧
    ((halting 1).halt.phase = 1 ∧ (halting 1).halt.due ≤ (halting 1).tick) ∧
    (haltDone (halting 2) = true ∧ (halting 2).dump = none ∧
      (let h := { halting 2 with dump := some d, ctxs := [(0, { physical := true, begun := true, priv := true })] }
       haltDone h = true ∧ memoryCanonical h ∧ okE (checkStore h (checkGlobal h d.agent .write false (d.base + 16) 8)) = true)) ∧ (halting 3).halted = true ∧
    ((saving.train 0).saveOp = some 7 ∧ Tab.find saving.sysOps 7 = some (.save who who 0x40000000000 0) ∧
      saveReady (withdrawOffers 0 saving) 0 = true) ∧
    (Tab.find calls.rests 9).isSome = true ∧ (Tab.find saving.sysOps 8 = some (.inv who 0 0 0) ∧ saving.walks = []) ∧
    ((tCall 3 []).fabric = false ∧ Tab.find calls.syscalls 5 = some (tCall 3 [])) ∧
    (Tab.find calls.syscalls 6 = some (tCall 0xF000 [0, 0, 0, 0, 0, 0, 0, 8]) ∧ (tCall 0xF000 [0, 0, 0, 0, 0, 0, 0, 8]).operandsOk = true ∧
      (tCall 0xF001 [0, 0, 0, 0, 0, 0, 0, 8]).operandsOk = true ∧ (tCall 0xF002 []).operandsOk = true) ∧
    (calls.routes.contains (tCall 0xF000 [0, 0, 0, 0, 0, 0, 0, 8]).remote = false ∧
      ({ calls with routes := [0] } : State).routes.contains (tCall 0xF000 [0, 0, 0, 0, 0, 0, 0, 8]).remote = true) ∧
    ((tCall 0xF002 []).fabric = true ∧ (Tab.find calls.syscalls 7).map (·.moved) = some true ∧ (calls.ctx 0).tracing = false) ∧
    (((trace 0).ctx 0).trQueue = [r] ∧ ((trace 0).ctx 0).tracing = false) ∧
    (((trace 5).ctx 0).tracing = true ∧
      (let c := (trace 5).ctx 0
       let bs := traceBytes { c with trQueue := [] } r 0
       c.trPos + bs.length ≤ c.trLen ∧
        firstUnwritable ((trace 5).updCtx 0 fun c => { c with trQueue := [] })
          (traceAgent ((trace 5).updCtx 0 fun c => { c with trQueue := [] }) 0) bs.length (c.trBase + c.trPos) = none)) :=
  ⟨by decide +kernel, ⟨rfl, rfl, rfl⟩, ⟨rfl, by decide⟩, ⟨by decide +kernel, rfl, by decide +kernel, ⟨rfl, (canonical_tState (t := tTrain) (l := tLaunch) (g := tWg) rfl rfl).2.1, fun c => by
        show Bytes.wf (Tab.get {} [(0, ({} : Core))] c).windows = true
        simp only [Tab.get, Tab.find]
        split <;> rfl⟩, by decide +kernel⟩, by decide, ⟨rfl, rfl, by decide +kernel⟩,
    by decide, ⟨rfl, rfl⟩, ⟨by decide, rfl⟩, ⟨rfl, by decide, by decide, by decide⟩, ⟨by decide, by decide⟩, ⟨by decide, by decide, by decide⟩,
    ⟨rfl, by decide⟩, ⟨by decide, by decide +kernel, by decide +kernel⟩⟩

/-- A machine whose queue 0 has one packet in its ring at 0x400_0001_0000, by its 8-byte words, with a launch header at 0x400_0005_0000;
the lines that the queue processor uses are resident. -/
def tQueue (ws : List Nat) : State :=
  let ring := ws.zipIdx.foldl (fun m (w, k) => Bytes.writeLE m (0x40000010000 + 8 * k) 8 w) []
  let desc := (List.range 6).foldl (fun m j => Bytes.writeLE m (0x40000030020 + 16 * j) 4 1) (Bytes.writeLE ring 0x40000030018 8 2)
  let mem := [(0, 8, 0x40000010000), (8, 4, 16), (22, 1, 0x80), (23, 1, 1), (0x5002C, 4, 0x8010), (0x50044, 2, 0x101),
      (0x50178, 4, 1)].foldl (fun m (o, n, x) => Bytes.writeLE m (0x40000000000 + o) n x) desc
  { tIdle tTrain with
    mem := mem, qtable := 0x40000000000, widx := [(0, 1)],
    l2 := [(0x800000000, {}), (0x800000200, {}), (0x800000400, {}), (0x800000600, {}), (0x800000A00, {}),
           (0x800000A01, {}), (0x800000A02, {}), (0x800000A03, {})] }

/-- What a step of the queue processor takes from queue 0, if that is the one lane served. -/
def tTaken (s : State) : Option (Offer × Nat × Option Kind × State) :=
  if servedLanes s = [0] then (laneOffer s 0).map fun o => (o, takeItem 0 o { s with serving := [] }) else none

/-- Queue 0 starts its packet; the packet, and the state at its start once its work is taken, pass a check. -/
def tStarts (op : Nat) (ws : List Nat) (check : Packet → State → Bool) : Bool :=
  match tTaken (tQueue ws) with
  | some (_, id, none, u) => u.serving.isEmpty && (Tab.find u.packets id).any fun p => p.op == op && check p u
  | _ => false

/-- QueueEventsComplete, the packets that start: a bad one, and one of each opcode within Tables 21.2 to 21.9. -/
theorem test_witness_packets :
    (servedLanes { tIdle tTrain with qtable := 0x40000000000 } = [] ∧
      (tTaken (tQueue [3])).map (fun x => (x.1.op, x.2.2.1)) = some (3, none) ∧ (packetEvent 3 0).isSome = true ∧
      (tTaken (tQueue [5])).map (fun x => (x.1.op, x.2.2.1, (x.2.2.2.packet x.2.1).formOk)) = some (5, none, true) ∧
      (tTaken (tQueue [10])).map (fun x => (x.1.op, x.2.2.1)) = some (10, none) ∧ packetEvent 10 0 = none ∧
      (tTaken { tQueue [3] with mem := Bytes.writeLE (tQueue [3]).mem 0x40000000000 8 (2 ^ 45) }).map (·.2.2.1) =
        some (some .aperture)) ∧
    (∀ op ∈ [3, 4, 6, 7, 2, 1, 9, 8], tStarts op [op + 65536] (fun p _ => !p.formOk) = true) ∧
    tStarts 3 [3, 0x40000020000, 1] (fun p u => p.formOk && decide (1 ≤ p.u 16 4) && decide (p.u 16 4 ≤ 65535) && p.zero 20 56 &&
      okE (queueDec p.ctx (p.u 8 8) (p.u 16 4) 0 u.qpTs (packetLam u p) u)) = true ∧
    tStarts 4 [4, 0x40000020000, 9] (fun p u => p.formOk && p.u 8 8 % 8 == 0 && p.u 24 1 == 0 && p.zero 25 28 && p.zero 32 56 &&
      okE (checkStore u (checkGlobal u (queueAgent u p.ctx) .write false (p.u 8 8) 8))) = true ∧
    tStarts 6 [6, 0x40000030000] (fun p u => p.formOk && p.zero 16 56 &&
      (match readItems (queueAgent u p.ctx) 8 16 (p.u 8 8) u with
        | .ok (ws, _) => let d := readDesc (Bytes.writeLE [] 0 128 (packElems 64 ws)) 0; descOk 5 0 d && d.total != 0
        | .error _ => false)) = true ∧
    tStarts 7 [7, 0x40000020000, 1] (fun p u => p.formOk && p.u 8 8 % 64 == 0 && decide (p.u 20 1 ≤ 31) && p.zero 21 56 && p.u 16 4 != 0 &&
      okE (checkStore u (checkGlobal u (queueAgent u p.ctx) .write false (p.u 8 8) 64))) = true ∧
    tStarts 2 [2, 0x40000040000, 0x10000, 3, 0x40000020000] (fun p u => p.formOk && p.u 8 8 % 2 ^ 16 == 0 && p.u 16 8 % 2 ^ 16 == 0 &&
      decide (p.u 16 8 ≤ 2 ^ 40) && decide (p.u 24 1 ≤ 3) && decide (p.u 25 1 ≤ 31) && p.zero 26 32 && p.zero 40 56 &&
      (match rangeFrames u p.ctx (p.u 16 8 / 2 ^ 16) (p.u 8 8) with
        | .ok fs =>
          let c := setClass fs (p.u 24 1) u
          okE (queueDec p.ctx (p.u 32 8) 1 0 c.qpTs (packetLam c p) c)
        | .error _ => false)) = true ∧
    tStarts 1 [1] (fun p u => p.formOk && p.zero 8 56 && (queuePackets u 0).length == 1) = true ∧
    tStarts 9 [9] (fun p _ => p.formOk && p.zero 48 56) = true ∧ 
    tStarts 8 [8, 0x40000050000] (fun p u => p.formOk && p.u 48 8 % 8 == 0 && okE (readHeader (queueAgent u p.ctx) (p.u 8 8) u)) = true := by
  decide +kernel

/-- QueueEventsComplete, the packets that wait, and the queues: a condition that holds and one that times out, bindings that fit, a
prologue, a copy packet and a launch that are over, and a queue enabled and not. -/
theorem test_witness_waiting_packets :
    let p (op : Nat) : Packet := { queue := 0, ctx := 0, op := op }
    let wait : Packet := { p 5 with data := 5 + 2 ^ 64 * 0x40000020000 }
    let late : Packet := { wait with data := wait.data + 2 ^ 224 }
    let gone := { tIdle { tTrain with state := .free } { tLaunch with gone := 1 } with wgs := [] }
    (okE (readItems (queueAgent (tQueue []) 0) 4 1 (wait.u 8 8) (tQueue [])) = true ∧ wait.condition 0 = true) ∧
    (late.u 28 4 ≠ 0 ∧ late.since + 1024 * late.u 28 4 ≤ ({ tQueue [] with timer := 1024 } : State).timer) ∧
    bindingsFit (tQueue []) ((tQueue []).launch 1) = true ∧
    packetDone (tQueue []) 5 { p 6 with finished := true } = true ∧
    packetDone gone 5 { p 9 with started := true, launch := some 1 } = true ∧
    qEnabled (tQueue []) 0 = true ∧ qEnabled (tQueue []) 1 = false ∧ 1 ∉ (tQueue []).bells := by
  decide +kernel

/-- PreemptionEventsComplete, each clause with a hypothesis: a workgroup to place, a victim, a queue that is resumed, signals that arrive
with a save slot free and with none, a drain that is over, workgroups to save and to discard, and a kill that is over. -/
theorem test_witness_preemption_events :
    let wants : Launch := { tLaunch with nextWg := 0, cmask := 1, launchEnded := true }
    let mem (cls : Nat) : Bytes := [(22, 1, 0x80 + cls), (23, 1, 1), (36, 4, 1), (150, 1, 0x80)].foldl
      (fun m (o, n, x) => Bytes.writeLE m (0x40000000000 + o) n x) []
    let place := { tIdle { tTrain with state := .free } wants with
      wgs := [], packets := [(1, { queue := 0, ctx := 0, op := 9, started := true, launch := some 1 })], mem := mem 0, qtable := 0x40000000000 }
    let crowd : State := { tIdle tTrain { tLaunch with queue := 1 } { tWg with localSize := 2 ^ 19 } with
      launches := [(1, { tLaunch with queue := 1 }), (2, { wants with localUnits := 1 })], mem := mem 1, qtable := 0x40000000000, timer := 9,
      packets := [(1, { queue := 0, ctx := 0, op := 9, started := true, launch := some 1 })], retiredCores := [1, 2, 3] }
    let paused := { tQueue [] with mem := Bytes.writeLE (tQueue []).mem 0x40000000040 1 3 }
    let signal (l : Launch) : State := { tIdle tTrain l { tWg with sigAt := some 0 } with cycle := 4 }
    let full := { signal tLaunch with wgs := (signal tLaunch).wgs ++
      ((List.range 64).map fun k => (2 + k, { tWg with state := .saved, saveSlot := k })) }
    let drain := tIdle tTrain tLaunch { tWg with state := .draining, drainEnd := some 0 }
    let hold_ (st : WgState) : State := tIdle tTrain tLaunch { tWg with state := st }
    (((tIdle tTrain).train 0).ctx = 0 ∧ ((tIdle tTrain).train 0).state = .resident) ∧
    ((∀ x ∈ (tQueue []).packets, x.2.ctx = 0 → packetDone (tQueue []) x.1 x.2 = false) ∧ qCtx (tQueue []) 0 = 0) ∧
    (placeNext place).isSome = true ∧ autoVictim crowd 0 = some 1 ∧ (qState paused 0 = 3 ∧ preemptionRuns paused 0 = false) ∧
    (signalDue (signal { tLaunch with idemp := true }) 1 = true ∧ inBoundSet (signal { tLaunch with idemp := true }) tWg = false) ∧
    (signalDue (signal tLaunch) 1 = true ∧
      ((List.range 64).find? fun k => !(usedSaves (signal tLaunch) 0).contains k) = some 0) ∧
    (signalDue full 1 = true ∧ ∀ k ∈ List.range 64, k ∈ usedSaves full 0) ∧ drainOver drain 1 = true ∧
    ((hold_ .holding).wg 1).state = .holding ∧ wgReady (withdrawAll 1 (hold_ .holding)) 1 = true ∧
    discardReady (hold_ .discarding) 1 = true ∧
    killOver { tIdle tTrain with trains := [], killing := some 0 } 0 = true :=
  ⟨⟨rfl, rfl⟩, ⟨by decide +kernel, by decide +kernel⟩, by decide +kernel, by decide +kernel, ⟨by decide +kernel, by decide +kernel⟩, ⟨by decide +kernel, by decide +kernel⟩,
    ⟨by decide +kernel, by decide +kernel⟩, ⟨by decide +kernel, by decide +kernel⟩, by decide +kernel, by decide +kernel,
    by decide +kernel, by decide +kernel, by decide +kernel⟩

/-- RegisterEventsComplete: an even number at each end of Table 8.4, a context that is not the resident kernel's, and writes and sessions
with EN set and clear. -/
theorem test_witness_register_events :
    0x200 % 2 = 0 ∧ 0x3FE % 2 = 0 ∧ 0x3FE < 0x400 ∧ (1 : Nat) ≠ 0 ∧ (0 : BitVec 32).toNat.testBit 2 = false ∧
    (5 : BitVec 32).toNat.testBit 2 = true ∧ (1 : Nat).testBit 2 = false := by decide

/-- HostEventsComplete: a released module with a request in its mailbox; boots with good images and with a bad configuration; and units
and links past their limits. -/
theorem test_witness_host_events :
    let s := { State.reset with boot := { State.reset.boot with step := 5, mailbox := [(0, 1)] } }
    let good : BootInput := { (default : BootInput) with configOk := true, image0Ok := true, loadOk := true }
    let errs := { s with unitFatal := [(.core 3, 0), (.core 3, 1)], linkErrors := List.replicate 1025 (.mesh 1, 0) }
    (mailState s = 1 ∧ 5 ≤ s.boot.step ∧ Bytes.wf s.boot.mailbox = true) ∧ (hostLoad 1 0 s).1 = none ∧
    (good.configOk = true ∧ good.image0Ok = true ∧ good.loadOk = true ∧ { good with configOk := false }.configOk = false) ∧
    (s.hbmReady = false ∧ 4 ∉ s.boot.tests ∧ 3 ∉ s.lostPorts ∧ s.halt.phase = 0) ∧ retireDue errs (.core 3) = true ∧
    (linkDue errs (.mesh 1) = true ∧ LinkId.mesh 1 ∉ errs.retiredLinks) ∧
    (inAperture 0x40000000000 4 = false ∧ inAperture (apertureBase + 4) 4 = true ∧ (apertureBase + 4) % 4 = 0 ∧
      inAperture apertureBase 4096 = true ∧ inAperture apertureBase 512 = true) ∧
    (haltDone { s with halt := { phase := 2, thermal := true } } = true) := by decide +kernel

/-- The test machine with the one word of its run. -/
def tWord (w : DWord) : State :=
  { tState tTrain with cores := [(0, { scheds := [(0, { run := some { slot := 0, sid := 0, words := [w] } })] })] }

/-- StepRunsDecodedInstruction: a step with an event on the agenda, one whose word decodes, and one whose word does not. -/
theorem test_witness_step :
    ({ tState tTrain with agenda := [.escapementTick] } : State).agenda = [.escapementTick] ∧
    ((tWord 0x5290200000000007).agenda = [] ∧ nextWord (clock (tWord 0x5290200000000007)) = some 0x5290200000000007 ∧
      decodeWord 0x5290200000000007 = .ok ({ last := false, rate := 5 }, .vmovi ⟨4, 0, 0, 7⟩)) ∧
    ((tWord 0).agenda = [] ∧ nextWord (clock (tWord 0)) = some 0 ∧ decodeWord 0 = .error .illegalOpcode) ∧
    ((clock (tWord 0)).cur = some 0 ∧ (clock (tWord 0)).boot.off = false ∧
      ((((clock (tWord 0)).core 0).sched 0).run.map (·.words)) = some [0]) :=
  ⟨rfl, ⟨rfl, by decide +kernel, rfl⟩, ⟨rfl, by decide +kernel, rfl⟩, by decide, by decide, by decide⟩

/-- EncodedWordsDecode and DecodedWordsEncode: a well-formed instruction with a word, and a word that decodes. -/
theorem test_witness_words :
    (Instr.vadd ⟨5, 4, 0x108, 0, 0, 0, 0, 0, 0, 0⟩).wellFormed = true ∧ classOf (.vadd ⟨5, 4, 0x108, 0, 0, 0, 0, 0, 0, 0⟩) ≠ .event ∧
    decodeWord 0x7100281210000000 = .ok ({ last := false, rate := 7 }, .vadd ⟨5, 4, 0x108, 0, 0, 0, 0, 0, 0, 0⟩) :=
  ⟨by decide, by decide, rfl⟩

/-- RunChecksInOrder: a word at a wrong RATE, a privileged one without the right, a NOP that does not end its run, a NOP that does; and
a cached run whose word does not decode. -/
theorem test_witness_run_checks :
    let user := tIdle tTrain { tLaunch with priv := false }
    let cached := { tIdle tTrain with cores := [(0, { icache := [{ launch := 1, start := 0, words := [0] }] })] }
    let sp := (cached.train 0).split 0
    (decodeWord 0x7100281210000000 = .ok ({ last := false, rate := 7 }, .vadd ⟨5, 4, 0x108, 0, 0, 0, 0, 0, 0, 0⟩) ∧
      rateOk false 5 7 (.vadd ⟨5, 4, 0x108, 0, 0, 0, 0, 0, 0, 0⟩) = false) ∧
    (rateOk false 5 7 (.tkill ⟨0, 8, 0, 0⟩) = true ∧ classOf (.tkill ⟨0, 8, 0, 0⟩) = .P ∧ (user.launch 1).priv = false ∧
      decodeWord 0xFE70010000000000 = .ok ({ last := true, rate := 7 }, .tkill ⟨0, 8, 0, 0⟩)) ∧
    (rateOk false 5 7 (.nop ⟨0, 0, 0, 0⟩) = true ∧ fieldOk user tTrain 0 true { last := false, rate := 7 } (.nop ⟨0, 0, 0, 0⟩) = false ∧
      fieldOk user tTrain 0 true { last := true, rate := 7 } (.nop ⟨0, 0, 0, 0⟩) = true ∧
      decodeWord 0x7010000000000000 = .ok ({ last := false, rate := 7 }, .nop ⟨0, 0, 0, 0⟩) ∧
      decodeWord 0xF010000000000000 = .ok ({ last := true, rate := 7 }, .nop ⟨0, 0, 0, 0⟩)) ∧
    (sp.deferred = [] ∧ sp.back = none ∧ runExtent cached (cached.train 0) sp = some (0, 1) ∧ cachedRun cached 0 (0, 1) = some [0] ∧
      runFault cached (cached.train 0) sp.pc [0] = some (0, .illegalOpcode)) :=
  ⟨⟨rfl, by decide⟩, ⟨by decide, by decide, by decide, rfl⟩, ⟨by decide, by decide, by decide, rfl, rfl⟩,
    ⟨rfl, rfl, by decide +kernel, by decide +kernel, by decide +kernel⟩⟩

/-- ResumeAfterFault: records of each kind of resumption, PARKED splits that go on and that stay, and a train that is not PARKED. -/
theorem test_witness_resume :
    let r (k : Nat) : FaultRec :=
      { kind := k, trainLevel := false, lane := 0, sid := 0, offset := 0, pending := 1, addr := 0, size := 0, info := 0 }
    let t (k : Nat) : Train :=
      { tTrain with state := .parked, splits := [{ valid := true, state := .parked, recs := [r k] }, { valid := true }, {}, {}] }
    resumeOf (r 0x05).kind (r 0x05).trainLevel = .replay ∧ (∀ x ∈ [r 0x15], resumeOf x.kind x.trainLevel = .next) ∧
    (∀ x ∈ [r 0x09], resumeOf x.kind x.trainLevel ≠ .replay) ∧ resumeOf (r 0x09).kind (r 0x09).trainLevel = .none ∧
    resumeOf (r 0x0D).kind (r 0x0D).trainLevel = .pc ∧
    (((t 0x05).split 0).valid && ((t 0x05).split 0).state == .parked) = true ∧
    ((((t 0x05).split 0).recs.any fun r => resumeOf r.kind r.trainLevel == .none) = false) ∧
    ((((t 0x09).split 0).recs.any fun r => resumeOf r.kind r.trainLevel == .none) = true) ∧
    (((t 0x05).split 1).valid && ((t 0x05).split 1).state == .parked) = false ∧ (t 0x05).state = .parked ∧
    (t 0x05).resume.state = .resident ∧ (t 0x09).resume.state = .parked ∧ tTrain.state ≠ .parked := by decide +kernel

end Sys2Proof.Tests
end

/-! PROOFS. Byte memories (spec/00_scope.md R1): the memory laws of Laws/Tables.lean settle the statement on numbers in memory. -/

namespace Sys2Proof.Proofs

open Sys2Proof.Machine

/-- Settles O23: its three parts are the read-back law, the frame law and the canonical-form law of `Bytes.writeLE`. -/
theorem memoryReadsWhatWasWritten : Obligations.MemoryReadsWhatWasWritten := by
  intro m a n x canonical
  refine ⟨?readsBack, ?othersStand, ?staysCanonical⟩
  case readsBack => exact Bytes.readLE_writeLE canonical
  case othersStand => exact fun _ outside => Bytes.read_writeLE_outside canonical outside
  case staysCanonical => exact Bytes.wf_writeLE canonical

end Sys2Proof.Proofs

/-! PROOFS. Resuming from a fault (spec/03_lane_train_state.md R62, spec/22_package_faults_traps_dumps.md R402, R415): the word at
which a fault leaves its split, and what TRESUME makes of a split and of its train. -/

namespace Sys2Proof.Proofs

open Sys2Proof.Machine

/-! ### Where a fault leaves its split -/

/-- The Resume column of Table 22.1. -/
theorem resumeOf_table (tl : Bool) :
    (∀ c ∈ [0x05, 0x06, 0x07, 0x08, 0x0C, 0x0F, 0x12, 0x18], resumeOf c tl = .replay) ∧
    (∀ c ∈ [0x0D, 0x13], resumeOf c tl = .pc) ∧ (∀ c ∈ [0x10, 0x14, 0x15, 0x16], resumeOf c tl = .next) ∧
    (∀ c ∈ [0x01, 0x02, 0x03, 0x04, 0x09, 0x0A, 0x0B, 0x0E, 0x17], resumeOf c tl = .none) ∧
    resumeOf 0x11 tl = if tl then .none else .replay := by
  cases tl <;> decide

/-- Where a kind replays, the first such record decides; the split stays at the faulting word, for the pending lanes alone where
that record is lane-level. -/
theorem faultWith_replay (s : State) (me : Me) {first rest : List FaultRec} {r : FaultRec}
    (before : ∀ x ∈ first, resumeOf x.kind x.trainLevel ≠ .replay) (here : resumeOf r.kind r.trainLevel = .replay) :
    faultWith s me (first ++ r :: rest) = takeFault (s.updSplit me fun sp =>
      { sp with replay := if r.trainLevel then none else some r.pending,
                partialEnd := some ((me.split s).pc + me.wordsLeft s - 1) }) me (first ++ r :: rest) := by
  have skipped : first.find? (fun r => resumeOf r.kind r.trainLevel == .replay) = none := by simpa using before
  have lead : (first ++ r :: rest).find? (fun r => resumeOf r.kind r.trainLevel == .replay) = some r := by
    simp [skipped, here]
  simp [faultWith, lead, here]

/-- Where no kind replays and the first goes on, the split goes on at the word after the faulting one. -/
theorem faultWith_next (s : State) (me : Me) {r : FaultRec} {rest : List FaultRec}
    (none_replays : ∀ x ∈ r :: rest, resumeOf x.kind x.trainLevel ≠ .replay) (here : resumeOf r.kind r.trainLevel = .next) :
    faultWith s me (r :: rest) = takeFault (s.updSplit me fun sp =>
      { sp with pc := (me.split s).pc + 1, replay := none,
                partialEnd := if 1 < me.wordsLeft s then some ((me.split s).pc + me.wordsLeft s - 1) else none }) me (r :: rest) := by
  have lead : (r :: rest).find? (fun r => resumeOf r.kind r.trainLevel == .replay) = none := by simpa using none_replays
  simp [faultWith, lead, here]

/-- Where no kind replays and the first resumes at PC or by none, the split stands as it is. -/
theorem faultWith_stands (s : State) (me : Me) {r : FaultRec} {rest : List FaultRec}
    (none_replays : ∀ x ∈ r :: rest, resumeOf x.kind x.trainLevel ≠ .replay)
    (here : resumeOf r.kind r.trainLevel = .none ∨ resumeOf r.kind r.trainLevel = .pc) :
    faultWith s me (r :: rest) = takeFault s me (r :: rest) := by
  have lead : (r :: rest).find? (fun r => resumeOf r.kind r.trainLevel == .replay) = none := by simpa using none_replays
  rcases here with here | here <;> simp [faultWith, lead, here]

/-! ### What TRESUME does -/

/-- A split that TRESUME leaves PARKED: one of its kinds resumes by none (R415). -/
def staysParked (sp : Split) : Bool := sp.recs.any fun r => resumeOf r.kind r.trainLevel == .none

/-- A PARKED split whose kinds all resume goes on, without a record. -/
theorem split_resume_goesOn {sp : Split} (parked : (sp.valid && sp.state == .parked) = true) (goes : staysParked sp = false) :
    sp.resume = { sp with state := .ready, recs := [] } :=
  (if_pos parked).trans (if_neg (ne_true_of_eq_false goes))

/-- Any other split stands. -/
theorem split_resume_stands {sp : Split} (h : (sp.valid && sp.state == .parked) = false ∨ staysParked sp = true) :
    sp.resume = sp := by
  cases parked : sp.valid && sp.state == .parked
  case false => exact if_neg (ne_true_of_eq_false parked)
  case true => exact (if_pos parked).trans (if_pos (h.resolve_left (by simp [parked])))

/-- A split is PARKED after TRESUME where it was PARKED before and one of its kinds resumes by none. -/
theorem split_resume_parked (sp : Split) :
    (sp.resume.valid && sp.resume.state == .parked) = (sp.valid && sp.state == .parked && staysParked sp) := by
  cases parked : sp.valid && sp.state == .parked
  case false => simp [split_resume_stands (.inl parked), parked]
  case true =>
    cases stays : staysParked sp
    case false => simp [split_resume_goesOn parked stays]
    case true => simp [split_resume_stands (.inr stays), parked]

/-- Reading a list whose entries a function has changed, where the function leaves the default as it is. -/
theorem getD_map_of_fixed {α : Type} {f : α → α} {d : α} (fixed : f d = d) (l : List α) (n : Nat) :
    (l.map f).getD n d = f (l.getD n d) := by
  rw [List.getD_eq_getElem?_getD, List.getElem?_map, List.getD_eq_getElem?_getD]
  cases l[n]? with
  | none => exact fixed.symm
  | some x => rfl

/-- TRESUME resumes every split. -/
theorem train_resume_splits (t : Train) : t.resume.splits = t.splits.map Split.resume := by
  simp only [Train.resume]
  split <;> rfl

theorem train_resume_split (t : Train) (n : Nat) : t.resume.split n = (t.split n).resume := by
  rw [Train.split, train_resume_splits]
  exact getD_map_of_fixed rfl t.splits n

/-- A PARKED train stays so while a split of it is PARKED. -/
theorem train_resume_state {t : Train} (parked : t.state = .parked) :
    t.resume.state = if t.resume.anyParked then .parked else .resident := by
  have splits_alone : t.resume.anyParked = ({ t with splits := t.splits.map Split.resume } : Train).anyParked := by
    simp only [Train.anyParked, train_resume_splits]
  rw [splits_alone]
  cases stays : ({ t with splits := t.splits.map Split.resume } : Train).anyParked
  case false =>
    have leaves : t.resume = { t with splits := t.splits.map Split.resume, state := .resident } :=
      if_pos (by rw [stays, Bool.not_false, Bool.and_true]; exact beq_iff_eq.mpr parked)
    rw [leaves]
    rfl
  case true =>
    have stands : t.resume = { t with splits := t.splits.map Split.resume } :=
      if_neg (by rw [stays, Bool.not_true, Bool.and_false]; exact Bool.false_ne_true)
    rw [stands]
    exact parked

/-- A PARKED train leaves PARKED exactly when no PARKED split of it stays so. -/
theorem train_resume_resident_iff {t : Train} (parked : t.state = .parked) :
    t.resume.state = .resident ↔ ∀ sp ∈ t.splits, sp.valid = true → sp.state = .parked → staysParked sp = false := by
  have leaves : t.resume.state = .resident ↔ t.resume.anyParked = false := by
    rw [train_resume_state parked]
    cases t.resume.anyParked <;> simp
  rw [leaves]
  simp [Train.anyParked, train_resume_splits, split_resume_parked]

/-- A train that is not PARKED keeps its state. -/
theorem train_resume_state_of_not_parked {t : Train} (h : t.state ≠ .parked) : t.resume.state = t.state := by
  simp [Train.resume, h]

/-- Settles O60: the Resume column, the three ways in which a fault leaves its split, and the effect of TRESUME on the splits and on
the slot. -/
theorem resumeAfterFault : Obligations.ResumeAfterFault := by
  refine ⟨resumeOf_table, ?faults, ?splits, fun _ => train_resume_resident_iff, fun _ => train_resume_state_of_not_parked⟩
  case faults =>
    intro s me first r rest
    refine ⟨faultWith_replay s me, ?next, ?stands⟩
    case next =>
      rintro rfl none_replays here
      exact faultWith_next s me none_replays here
    case stands =>
      rintro rfl none_replays here
      exact faultWith_stands s me none_replays here
  case splits =>
    intro t n
    refine ⟨fun parked goes => ?goesOn, fun h => ?stands⟩
    case goesOn => exact (train_resume_split t n).trans (split_resume_goesOn parked goes)
    case stands => exact (train_resume_split t n).trans (split_resume_stands h)

end Sys2Proof.Proofs

/-! PROOFS. What reset leaves, and a train's registers at its start (spec/03_lane_train_state.md R54, R56, Tables 3.2 and 3.5). -/

namespace Sys2Proof.Proofs

open Sys2Proof.Machine Sys2Proof.Safety

/-- A key that a table does not list is at its default. -/
theorem tab_get_unlisted {α : Type} {d : α} {t : Tab α} {n : Nat} (unlisted : ∀ x ∈ t, x.1 ≠ n) : Tab.get d t n = d := by
  induction t with
  | nil => rfl
  | cons x t ih =>
    have rest := ih fun y hy => unlisted y (.tail _ hy)
    have here : x.1 ≠ n := unlisted x (.head _)
    unfold Tab.get at rest ⊢
    simp only [Tab.find, beq_eq_false_iff_ne.mpr here]
    split
    case isTrue h => cases h
    case isFalse =>
      split
      · rfl
      · exact rest

section
variable (u : State) (tid lid wg role ordinal rung granules entry base wgOrd : Nat) (elems : Tab LaneElem)

/-- Outside its own mask words, split 0 reads the scalar registers of Table 3.2. -/
theorem readS_startTrain {n : Nat} (h : n ≠ 0 ∧ (n < 124 ∨ 126 < n)) :
    (startTrain u tid lid wg role ordinal rung granules entry base wgOrd elems).readS 0 n =
      Tab.get 0 (startSregs (u.launch lid).argBlock ordinal wgOrd base) n := by
  have mask : (decide (124 ≤ n) && decide (n ≤ 126)) = false := by
    rw [← Bool.decide_and]
    exact decide_eq_false (by omega)
  simp [Train.readS, startTrain, h.1, mask]

/-- s0, s1, s4 to s119 and s127 read 0 (Table 3.2). -/
theorem readS_startTrain_zero {n : Nat} (h : n ≤ 1 ∨ 4 ≤ n ∧ n ≤ 119 ∨ n = 127) :
    (startTrain u tid lid wg role ordinal rung granules entry base wgOrd elems).readS 0 n = 0 := by
  rcases Nat.eq_zero_or_pos n with rfl | pos
  · rfl
  · rw [readS_startTrain (h := by omega)]
    refine tab_get_unlisted fun x hx => ?_
    simp only [startSregs, List.mem_cons, List.not_mem_nil, or_false] at hx
    rcases hx with rfl | rfl | rfl | rfl | rfl | rfl <;> simp only <;> omega

/-- s124 to s126 read the live lanes, all of which split 0 has (R56). -/
theorem readS_startTrain_mask {k : Nat} (h : k < 3) :
    let t := startTrain u tid lid wg role ordinal rung granules entry base wgOrd elems
    t.readS 0 (124 + k) = maskWord t.live k := by
  have mask : 124 + k ≤ 126 := by omega
  simp [Train.readS, mask, startTrain, Train.split]

/-- The vector registers read 0 in every lane (R54; log 4). -/
theorem readV_startTrain {r l : Nat} :
    (startTrain u tid lid wg role ordinal rung granules entry base wgOrd elems).readV r l = 0 :=
  ite_self _

end

/-- Every context starts at its defaults, under which its trace session takes no record (R435). -/
theorem reset_ctx (c : Nat) : State.reset.ctx c = {} := rfl

theorem reset_tracing (c : Nat) : (State.reset.ctx c).tracing = false := by
  rw [reset_ctx]
  decide

/-- Settles O59: the fields of `State.reset` stand in its definition, and the registers of a train at its start are those of Table 3.2. -/
theorem resetLeaves : Obligations.ResetLeaves := by
  refine ⟨fun _ => ⟨rfl, rfl⟩, rfl, by decide, fun _ => rfl, fun c => ⟨rfl, rfl, rfl, rfl, reset_tracing c, rfl, rfl⟩, rfl, rfl, rfl, rfl, rfl,
    rfl, rfl, rfl, rfl, rfl, rfl, rfl, rfl, rfl, rfl, rfl, rfl, rfl, rfl, rfl, rfl, rfl, rfl, rfl, rfl, rfl, rfl, rfl,
    ?registers, ⟨rfl, fun _ => ⟨rfl, rfl⟩, fun _ => rfl⟩, fun _ => rfl⟩
  case registers =>
    intro u tid lid wg role ordinal rung granules entry base wgOrd elems
    exact ⟨fun _ h => readS_startTrain_zero (h := h) .., rfl, rfl, rfl, rfl, rfl, rfl, fun _ h => readS_startTrain_mask (h := h) ..,
      fun r l => readV_startTrain (r := r) (l := l) ..⟩

end Sys2Proof.Proofs

/-! PROOFS. The events of trains, splits and schedulers (spec/03, 04, 07, 08, 22): what each leads to where its condition holds. -/

namespace Sys2Proof.Proofs

open Sys2Proof.Machine Sys2Proof.Safety

/-! ### Schedulers -/

/-- A scheduler with a run in issue goes on with it, or with an earlier run of its train (R188, R190). -/
theorem schedulerPick_busy {s : State} {core k : Nat} (busy : ((s.core core).sched (k % 4)).run ≠ none) :
    execSchedulerPick core k s = .next { s with cur := some (core * 4 + turn core (k % 4) s) } :=
  if_pos (Option.isSome_iff_ne_none.mpr busy)

/-- A free scheduler that need not rest starts the run that it picks, or a lower split's of the train (R188, R191). -/
theorem schedulerPick_free {s : State} {core k : Nat} (idle : ((s.core core).sched (k % 4)).run = none)
    (ready : mustRest s core (k % 4) = false) {x y : Nat}
    (picked : pick (s.updSched core (k % 4) fun sc => { sc with rested := false }) core (k % 4) = some (x, y)) :
    let free := s.updSched core (k % 4) fun sc => { sc with rested := false }
    let first := startsFirst free core (k % 4) x y
    execSchedulerPick core k s = .next (startRun core first.1 x first.2 free) := by
  simp [execSchedulerPick, idle, ready, picked]

/-! ### Merges -/

/-- A fold of a state on which no element acts is that state. -/
theorem foldl_stands {α β : Type} {f : β → α → β} {t : β} (stands : ∀ y, f t y = t) (l : List α) : l.foldl f t = t := by
  induction l with
  | nil => rfl
  | cons y l ih => rw [List.foldl_cons, stands, ih]

/-- A fold in which one element alone acts, and nothing acts after it, is that element's action. -/
theorem foldl_acts_once {α β : Type} {f : β → α → β} {s t : β} {x : α} (acts : f s x = t) (after : ∀ y, f t y = t) :
    ∀ {l : List α}, x ∈ l → (∀ y ∈ l, y ≠ x → f s y = s) → l.foldl f s = t
  | y :: l, mem, others => by
    by_cases here : y = x
    · rw [List.foldl_cons, here, acts, foldl_stands after]
    · have stands : f s y = s := others y (.head _) here
      rw [List.foldl_cons, stands]
      exact foldl_acts_once acts after (List.mem_of_ne_of_mem (Ne.symm here) mem) fun z hz => others z (.tail _ hz)

/-- A split that may merge is valid. -/
theorem mergeable_valid {s : State} {t : Train} {n : Nat} (h : mergeable s t n = true) : (t.split n).valid = true := by
  simp only [mergeable, Bool.and_eq_true] at h
  obtain ⟨⟨⟨⟨⟨⟨⟨_, valid⟩, _⟩, _⟩, _⟩, _⟩, _⟩, _⟩ := h
  exact valid

/-- Only two valid splits, the lower first, merge (R61). -/
theorem mergeNow_valid {s : State} {tid a b : Nat} (h : mergeNow s tid a b = true) :
    a < b ∧ ((s.train tid).split a).valid = true ∧ ((s.train tid).split b).valid = true := by
  simp only [mergeNow, Bool.and_eq_true, decide_eq_true_eq] at h
  obtain ⟨⟨⟨⟨⟨⟨less, lower⟩, higher⟩, _⟩, _⟩, _⟩, _⟩ := h
  exact ⟨less, mergeable_valid lower, mergeable_valid higher⟩

theorem waitOver_splits (t : Train) (h : Hold) : (t.waitOver h).splits = t.splits := by
  cases h <;> rfl

/-- After a merge the higher split is no more, and every split but the lower stands. -/
theorem mergePair_split (a b : Nat) (t : Train) {m : Nat} (h : m ≠ a) :
    (mergePair a b t).split m = if m = b ∧ b < t.splits.length then {} else t.split m := by
  simp only [mergePair, Train.split, Train.setSplit, getD_listSet, listSet_length, waitOver_splits, h, false_and, if_false]

/-- A split that is not in the table is not valid. -/
theorem lt_length_of_valid {t : Train} {n : Nat} (h : (t.split n).valid = true) : n < t.splits.length := by
  refine Nat.lt_of_not_le fun beyond => ?_
  rw [Train.split, List.getD_eq_getElem?_getD, List.getElem?_eq_none beyond] at h
  cases h

/-- What SPLIT_MERGE does for one pair of splits. -/
def mergeStep (tid : Nat) (s : State) (p : Nat × Nat) : State :=
  if mergeNow s tid p.1 p.2 then s.updTrain tid (mergePair p.1 p.2) else s

theorem execSplitMerge_eq (core slot : Nat) (s : State) :
    execSplitMerge core slot s = .next (splitPairs.foldl (mergeStep (core * 32 + slot % 32)) s) := rfl

/-- Where at most one split of a train is valid, no pair merges. -/
theorem mergeStep_single {s : State} {tid a : Nat} (only : ∀ m, ((s.train tid).split m).valid = true → m = a) (p : Nat × Nat) :
    mergeStep tid s p = s := by
  refine if_neg fun merges => ?_
  obtain ⟨less, left, right⟩ := mergeNow_valid merges
  rw [only _ left, only _ right] at less
  exact Nat.lt_irrefl a less

/-- Two splits that may merge become the lower one; where the train has no other, nothing else merges. -/
theorem mergeSteps_pair {s : State} {tid a b : Nat} (pair : (a, b) ∈ splitPairs) (merges : mergeNow s tid a b = true)
    (alone : ∀ m, ((s.train tid).split m).valid = true → m = a ∨ m = b) :
    splitPairs.foldl (mergeStep tid) s = s.updTrain tid (mergePair a b) := by
  obtain ⟨a_lt_b, -, b_valid⟩ := mergeNow_valid merges
  have acts : mergeStep tid s (a, b) = s.updTrain tid (mergePair a b) := if_pos merges
  have only_a (m : Nat) (valid : (((s.updTrain tid (mergePair a b)).train tid).split m).valid = true) : m = a := by
    refine Decidable.byContradiction fun ne_a => ?_
    rw [State.train_updTrain_same, mergePair_split a b _ ne_a] at valid
    split at valid
    case isTrue => cases valid
    case isFalse stands => exact stands ⟨(alone m valid).resolve_left ne_a, lt_length_of_valid b_valid⟩
  have others (p : Nat × Nat) (ne : p ≠ (a, b)) : mergeStep tid s p = s := by
    refine if_neg fun h => ne ?_
    obtain ⟨less, left, right⟩ := mergeNow_valid h
    have left := alone _ left
    have right := alone _ right
    exact Prod.ext (by omega) (by omega)
  exact foldl_acts_once acts (mergeStep_single only_a) pair fun p _ => others p

/-! ### Joins and holds -/

/-- A due join release makes every split that waits READY, and changes no other split (R155). -/
theorem joinRelease_due {s : State} {core slot : Nat} (due : joinDue (s.train (core * 32 + slot % 32)) = true) :
    ∃ u, execJoinRelease core slot s = .next u ∧ ∀ m,
      (u.train (core * 32 + slot % 32)).split m =
        let sp := (s.train (core * 32 + slot % 32)).split m
        if sp.valid && sp.state == .joinwait then { sp with state := .ready } else sp := by
  refine ⟨_, if_pos due, fun m => ?_⟩
  rw [State.train_updTrain_same]
  exact getD_map_of_fixed rfl _ m

/-- A YIELD ends after 64 idle cycles (R160). -/
theorem yieldLimit_over {s : State} {core slot sid idle : Nat} {i : Bool}
    (hold : ((s.train (core * 32 + slot % 32)).split sid).hold = .yield i idle) (long : 64 ≤ idle) :
    execYieldLimit core slot sid s =
      .next (s.updTrain (core * 32 + slot % 32) fun t => t.updSplit sid fun sp => { sp with hold := .free }) := by
  simp [execYieldLimit, hold, long]

/-- The highest granules leave once no write above them is outstanding; one stays (R163). -/
theorem regtrimComplete_landed {s : State} {core slot sid g : Nat}
    (hold : ((s.train (core * 32 + slot % 32)).split sid).hold = .trim g)
    (landed : writesAbove s (core * 32 + slot % 32) (16 * ((s.train (core * 32 + slot % 32)).granules - g)) = false) :
    execRegtrimComplete core slot sid s = .next (s.updTrain (core * 32 + slot % 32) fun t =>
      { t.dropRegs (16 * max 1 (t.granules - g)) with granules := max 1 (t.granules - g) }.updSplit sid fun sp =>
        { sp with hold := .free }) := by
  simp [execRegtrimComplete, hold, landed]

/-! ### Register requests -/

/-- A request that would lift its train above 16 granules is refused with status 2 (R161). -/
theorem reggrowGrant_overCap {s : State} {core x y c g r : Nat} (above : overCap s core = some (x, y, c, g, r)) :
    execReggrowGrant core s = .next (resolveGrow x y 0 r 2 s) := by
  simp [execReggrowGrant, above]

/-- Else the next request is granted (R161). -/
theorem reggrowGrant_grantable {s : State} {core x y c g r : Nat} (none_over : overCap s core = none)
    (next : grantable s core = some (x, y, c, g, r)) :
    execReggrowGrant core s = .next (resolveGrow x y g r 0 s) := by
  simp [execReggrowGrant, none_over, next]

/-- Under starvation the request of the youngest RESIDENT train is refused with status 1 (R162). -/
theorem reggrowStarvation_starved {s : State} {core x y c g r : Nat} (starves : starved s core = true)
    (youngest : leastBy (fun q => 2 ^ 70 - ((s.train q.1).age * 32 + q.1 % 32))
      ((growRequests s core).filter fun q => (s.train q.1).state == .resident) = some (x, y, c, g, r)) :
    execReggrowStarvation core s = .next (resolveGrow x y 0 r 1 s) := by
  simp only [execReggrowStarvation, starves, if_true, youngest]

/-! ### The states of a train -/

/-- A train that may leave ENDING ends (R65). -/
theorem trainEnd_due {s : State} {core slot : Nat} (due : trainEndDue s (core * 32 + slot % 32) = true) :
    execTrainEnd core slot s = .next (endTrain (core * 32 + slot % 32) s) :=
  if_pos due

/-- A STARTING compute train whose ancestors have ended becomes RESIDENT with its records (R53, R171). -/
theorem openTrain_passReady {s u : State} {tid : Nat} (starting : (s.train tid).state = .starting)
    (fresh : (s.train tid).returning = false) (no_restore : (s.train tid).restOp = none)
    (passes : passReady s (s.train tid) = true)
    (not_held : (s.wg (s.train tid).wg).state.held = false) (not_killed : (s.train tid).killAtEnd = false)
    (recs : createRecs tid s = some u) :
    openTrain tid s = u.updTrain tid fun t => { t with state := .resident, waitsPass := false } := by
  simp [openTrain, Train.mayOpen, starting, fresh, no_restore, passes, not_held, not_killed, recs]

/-- A STARTING train that is to be saved, discarded or killed becomes RESIDENT, and waits for its pass (Table 3.5). -/
theorem openTrain_held {s : State} {tid : Nat} (starting : (s.train tid).state = .starting)
    (fresh : (s.train tid).returning = false) (no_restore : (s.train tid).restOp = none)
    (held : (s.wg (s.train tid).wg).state.held = true ∨ (s.train tid).killAtEnd = true) :
    openTrain tid s = s.updTrain tid fun t => { t with state := .resident, waitsPass := true } := by
  have held : ((s.wg (s.train tid).wg).state.held || (s.train tid).killAtEnd) = true := by simpa using held
  simp only [openTrain, starting, fresh, no_restore, held]
  rfl

/-! ### Fetches and waits -/

/-- The fetched words of a run come into the instruction cache of the core (R88). -/
theorem instructionFetchFill_fetched {s u : State} {core slot sid start len : Nat} {ws : List DWord}
    (wanted : unfetched s (core * 32 + slot % 32) (sid % 4) = some (start, len))
    (fetched : fetchWords (core * 32 + slot % 32) len start s = .ok (ws, u)) :
    let c : CachedRun := { launch := (u.train (core * 32 + slot % 32)).launch, start := start, words := ws }
    let kept := keepRuns ws.length ((u.core core).icache ++ [c]) u
    execInstructionFetchFill core slot sid s = .next (kept.2.updCore core fun x => { x with icache := kept.1 }) := by
  simp only [execInstructionFetchFill, Me.tid, wanted, fetched]

/-- A watched wait that lasts too long parks its split with WATCHDOG (R403). -/
theorem watchdog_over {s : State} {core slot sid : Nat} (long : watchOver s (core * 32 + slot % 32) (sid % 4) = true) :
    let me : Me := { core := core, sched := (slot % 32 + sid % 4) % 4, slot := slot % 32, sid := sid % 4 }
    execWatchdog core slot sid s = .next (parkSplit me
      [trainRecord 0x12 0 0 (BitVec.ofNat 32 (reasonOf s me.tid (sid % 4))) me s] (s.updSplit me fun sp => { sp with watch := 0 })) :=
  congrArg Host.Outcome.next (if_pos long)

/-- Settles O46: one rule for each event, of what it leads to where its condition holds. -/
theorem trainEventsComplete : Obligations.TrainEventsComplete := by
  intro s core slot sid k
  exact ⟨schedulerPick_busy, fun idle ready _ _ => schedulerPick_free idle ready,
    fun _ _ pair merges alone => (execSplitMerge_eq ..).trans (congrArg _ (mergeSteps_pair pair merges alone)),
    joinRelease_due, fun _ _ => yieldLimit_over, fun _ => regtrimComplete_landed,
    fun _ _ _ _ _ => reggrowGrant_overCap, fun _ _ _ _ _ => reggrowGrant_grantable,
    fun starves _ _ _ _ _ => reggrowStarvation_starved starves, trainEnd_due,
    fun starting fresh no_restore _ passes not_held not_killed _ recs =>
      congrArg _ (openTrain_passReady starting fresh no_restore passes not_held not_killed recs),
    fun starting fresh no_restore held => congrArg _ (openTrain_held starting fresh no_restore held),
    fun _ _ _ _ => instructionFetchFill_fetched, watchdog_over⟩

end Sys2Proof.Proofs

/-! PROOFS. The decoder and the encoder are inverse (spec/04_formats_opcode_map.md R71, R75, R84, R85): the major and the body of an
instruction, then words, then the bytes of a word. -/

namespace Sys2Proof.Proofs

open Sys2Proof.Machine Sys2Proof.Laws

/-! ### Majors and bodies -/

/-- An instruction has a major exactly where it is no event. -/
theorem majorOf_isSome (i : Instr) : (majorOf i).isSome = (classOf i != .event) := by
  cases i <;> rfl

theorem classOf_ne_event_of_majorOf {i : Instr} {m : BitVec 8} (major : majorOf i = some m) : classOf i ≠ .event := by
  simpa [major] using (majorOf_isSome i).symm

theorem exists_majorOf {i : Instr} (no_event : classOf i ≠ .event) : ∃ m, majorOf i = some m :=
  Option.isSome_iff_exists.mp ((majorOf_isSome i).trans (bne_iff_ne.mpr no_event))

/-- The major and the body of an instruction name it: its major selects its constructor, and the fields of its body come back. -/
theorem ofMajor_bodyOf {i : Instr} {m : BitVec 8} (major : majorOf i = some m) : ofMajor m.toNat (bodyOf i) = some i := by
  cases i <;> cases major <;> refine (congrArg some ?_ : some _ = some _) <;>
    simp only [bodyOf, unpackV3_pack, unpackVI_pack, unpackS3_pack, unpackSI_pack, unpackM_pack, unpackMA_pack, unpackC_pack,
      unpackA_pack, unpackX_pack]

/-- What holds of every pair of hexadecimal digits holds of every major. -/
theorem forall_major_of_digits {P : Nat → Prop} (digits : ∀ hi < 16, ∀ lo < 16, P (16 * hi + lo)) {n : Nat} (bound : n < 256) :
    P n := by
  have here := digits (n / 16) (by omega) (n % 16) (by omega)
  rwa [Nat.div_add_mod] at here

/-- What a major and a body name has that major: the fields of the body do not bear on it, so that each major is evaluated once. -/
theorem majorOf_of_ofMajor {m : BitVec 8} {b : BitVec 52} {i : Instr} (named : ofMajor m.toNat b = some i) :
    majorOf i = some m := by
  have evaluated : ∀ hi < 16, ∀ lo < 16,
      (ofMajor (16 * hi + lo) b).all (fun i => majorOf i == some (BitVec.ofNat 8 (16 * hi + lo))) = true :=
    of_decide_eq_true rfl
  have here := forall_major_of_digits
    (P := fun n => (ofMajor n b).all (fun i => majorOf i == some (BitVec.ofNat 8 n)) = true) evaluated m.isLt
  rw [named, Option.all_some, beq_iff_eq, BitVec.ofNat_toNat, BitVec.setWidth_eq] at here
  exact here

/-- The body of what a major and a body name is that body, bit for bit. -/
theorem bodyOf_of_ofMajor {m : BitVec 8} {b : BitVec 52} {i : Instr} (named : ofMajor m.toNat b = some i) : bodyOf i = b := by
  have major := majorOf_of_ofMajor named
  cases i <;> cases major <;> cases named <;>
    simp only [bodyOf, packV3_unpack, packVI_unpack, packS3_unpack, packSI_unpack, packM_unpack, packMA_unpack, packC_unpack,
      packA_unpack, packX_unpack]

/-! ### Words -/

/-- The word of an instruction that has a major. -/
theorem encode_eq_wordOf {i : Instr} {m : BitVec 8} (h : Head) (major : majorOf i = some m) :
    encode h i = some (wordOf h m (bodyOf i)) := by
  rw [encode, major]
  rfl

/-- A word decodes exactly to its head and to the listed instruction that its major and its body name. -/
theorem decodeWord_eq_ok_iff {w : BitVec 64} {h : Head} {i : Instr} :
    decodeWord w = .ok (h, i) ↔
      ofMajor (w.extractLsb' 52 8).toNat (w.extractLsb' 0 52) = some i ∧ opcodeListed i = true ∧ headOf w = h := by
  unfold decodeWord
  cases named : ofMajor (w.extractLsb' 52 8).toNat (w.extractLsb' 0 52) with
  | none => simp
  | some j =>
    by_cases listed : opcodeListed j = true
    · simp only [listed, if_true, Except.ok.injEq, Prod.mk.injEq, Option.some.injEq]
      exact ⟨fun ⟨head, here⟩ => ⟨here, here ▸ listed, head⟩, fun ⟨here, _, head⟩ => ⟨head, here⟩⟩
    · simp only [listed, Option.some.injEq]
      exact ⟨nofun, fun ⟨here, listed_i, _⟩ => absurd (here ▸ listed_i) listed⟩

/-- The word of a listed instruction decodes to the instruction and its head. -/
theorem decodeWord_wordOf {i : Instr} {m : BitVec 8} (h : Head) (major : majorOf i = some m) (listed : opcodeListed i = true) :
    decodeWord (wordOf h m (bodyOf i)) = .ok (h, i) := by
  rw [decodeWord_eq_ok_iff, major_wordOf, body_wordOf, headOf_wordOf]
  exact ⟨ofMajor_bodyOf major, listed, rfl⟩

/-- A word that decodes is the word of what it decodes to. -/
theorem encode_of_decodeWord {w : BitVec 64} {h : Head} {i : Instr} (decodes : decodeWord w = .ok (h, i)) :
    encode h i = some w := by
  obtain ⟨named, -, rfl⟩ := decodeWord_eq_ok_iff.mp decodes
  rw [encode_eq_wordOf _ (majorOf_of_ofMajor named), bodyOf_of_ofMajor named, wordOf_parts]

/-! ### Bytes -/

/-- Decoding the bytes of a word decodes the word and leaves what follows them. -/
theorem decode_wordBytes_append (w : BitVec 64) (rest : List Byte) :
    decode (wordBytes w ++ rest) = (decodeWord w).map fun hi => (hi, rest) := by
  simp only [wordBytes, List.cons_append, List.nil_append, decode, wordOfBytes_wordBytes]
  cases decodeWord w <;> rfl

/-- The word of 64 table bits, decoded from its bytes. -/
theorem decodeTableWord_toNat {w : BitVec 64} {h : Head} {i : Instr} (decodes : decodeWord w = .ok (h, i)) :
    decodeTableWord 64 w.toNat = some i := by
  have whole : BitVec.ofNat 64 (w.toNat % 2 ^ 64) = w := by
    rw [Nat.mod_eq_of_lt w.isLt, BitVec.ofNat_toNat, BitVec.setWidth_eq]
  have bytes : decode (wordBytes w) = .ok ((h, i), []) := by
    rw [← List.append_nil (wordBytes w), decode_wordBytes_append, decodes]
    rfl
  rw [decodeTableWord, whole, bytes]

/-- Settles O56: the word of the instruction's major and body, whose parts come back. -/
theorem encodedWordsDecode : Obligations.EncodedWordsDecode := by
  intro h i wellFormed no_event
  obtain ⟨m, major⟩ := exists_majorOf no_event
  have listed : opcodeListed i = true := (Bool.and_eq_true_iff.mp wellFormed).1
  have decodes := decodeWord_wordOf h major listed
  refine ⟨wordOf h m (bodyOf i), encode_eq_wordOf h major, decodes, fun rest => ?bytes⟩
  case bytes =>
    rw [decode_wordBytes_append, decodes]
    rfl

/-- Settles O57: the parts of a word are those of what it decodes to. -/
theorem decodedWordsEncode : Obligations.DecodedWordsEncode := by
  intro w h i decodes
  obtain ⟨named, -, -⟩ := decodeWord_eq_ok_iff.mp decodes
  exact ⟨encode_of_decodeWord decodes, decodeTableWord_toNat decodes,
    classOf_ne_event_of_majorOf (majorOf_of_ofMajor named)⟩

end Sys2Proof.Proofs

/-! PROOFS. The checks of a run before it issues (spec/04_formats_opcode_map.md R72, R73, R85; spec/03_lane_train_state.md R62): the
unassigned majors, the checks of one word, the lowest offending word, and the pick that parks its split. -/

namespace Sys2Proof.Proofs

open Sys2Proof.Machine

/-- R85's list of unassigned majors. -/
def unassignedMajor (m : Nat) : Bool :=
  m == 0 || [(0x02, 0x0F), (0x2E, 0x2F), (0x47, 0x4F), (0x69, 0x6F), (0x77, 0x77), (0x8B, 0x8F), (0x95, 0x95), (0x9C, 0x9F),
    (0xAB, 0xAF), (0xB6, 0xB7), (0xC3, 0xC3), (0xCB, 0xCB), (0xCF, 0xDF), (0xEE, 0xFF)].any fun r =>
      decide (r.1 ≤ m) && decide (m ≤ r.2)

/-- The decoder refuses a major, whatever the body, where R85 lists it. -/
theorem ofMajor_isNone {m : Nat} (b : BitVec 52) (bound : m < 256) : (ofMajor m b).isNone = unassignedMajor m := by
  have evaluated : ∀ hi < 16, ∀ lo < 16, (ofMajor (16 * hi + lo) b).isNone = unassignedMajor (16 * hi + lo) :=
    of_decide_eq_true rfl
  exact forall_major_of_digits (P := fun n => (ofMajor n b).isNone = unassignedMajor n) evaluated bound

theorem ofMajor_eq_none_iff (m : Nat) (b : BitVec 52) (bound : m < 256) : ofMajor m b = none ↔ unassignedMajor m = true := by
  rw [← ofMajor_isNone b bound, Option.isNone_iff_eq_none]

/-! ### The checks of one word -/

section
variable (s : State) (t : Train) (pc : Nat) (last : Bool)

theorem wordFault_rejected {w : DWord} {r : Reject} (rejected : decodeWord w = .error r) :
    wordFault s t pc last w = some .illegalOpcode := by
  rw [wordFault, rejected]

/-- Checks 2 to 4 of R85, in their order, of a word that passes check 1. -/
theorem wordFault_decoded {w : DWord} {h : Head} {i : Instr} (decodes : decodeWord w = .ok (h, i)) :
    wordFault s t pc last w =
      if rateOk (s.launch t.launch).graphics t.rung h.rate.toNat i = false then some .illegalRate
      else if ¬ (classOf i ≠ .P ∨ (s.launch t.launch).priv = true) then some .privilege
      else if fieldOk s t pc last h i = false then some .illegalField
      else none := by
  rw [wordFault, decodes]
  simp

/-! ### The lowest offending word -/

/-- The fault of word `n` of a run from `pc`, if the run has that word and the word a fault. -/
def faultOfWord (ws : List DWord) (n : Nat) : Option Kind :=
  ws[n]?.bind (wordFault s t (pc + n) (n + 1 == ws.length))

theorem faultOfWord_nil (n : Nat) : faultOfWord s t pc [] n = none := rfl

theorem faultOfWord_cons_zero (w : DWord) (ws : List DWord) :
    faultOfWord s t pc (w :: ws) 0 = wordFault s t pc ws.isEmpty w := by
  cases ws <;> rfl

theorem faultOfWord_cons_succ (w : DWord) (ws : List DWord) (n : Nat) :
    faultOfWord s t pc (w :: ws) (n + 1) = faultOfWord s t (pc + 1) ws n := by
  have place : pc + (n + 1) = pc + 1 + n := by omega
  simp [faultOfWord, place]

/-- The fault of a run is that of its lowest offending word. -/
theorem runFault_eq_some_iff (ws : List DWord) (off : Nat) (k : Kind) :
    runFault s t pc ws = some (off, k) ↔
      ∃ n, off = pc + n ∧ faultOfWord s t pc ws n = some k ∧ ∀ m < n, faultOfWord s t pc ws m = none := by
  induction ws generalizing pc with
  | nil => simp [runFault, faultOfWord_nil]
  | cons w ws ih =>
    rw [runFault]
    cases first : wordFault s t pc ws.isEmpty w with
    | some k₀ =>
      constructor
      · rintro ⟨⟩
        exact ⟨0, rfl, (faultOfWord_cons_zero ..).trans first, fun m h => absurd h m.not_lt_zero⟩
      · rintro ⟨_ | n, rfl, fault, before⟩
        · rw [faultOfWord_cons_zero, first] at fault
          cases fault
          rfl
        · have none_first := before 0 n.succ_pos
          rw [faultOfWord_cons_zero, first] at none_first
          cases none_first
    | none =>
      refine (ih (pc + 1)).trans ⟨?_, ?_⟩
      · rintro ⟨n, rfl, fault, before⟩
        refine ⟨n + 1, by omega, (faultOfWord_cons_succ ..).trans fault, ?_⟩
        rintro (_ | m) below
        · exact (faultOfWord_cons_zero ..).trans first
        · exact (faultOfWord_cons_succ ..).trans (before m (Nat.lt_of_succ_lt_succ below))
      · rintro ⟨_ | n, rfl, fault, before⟩
        · rw [faultOfWord_cons_zero, first] at fault
          cases fault
        · exact ⟨n, by omega, (faultOfWord_cons_succ ..).symm.trans fault, fun m below =>
            (faultOfWord_cons_succ ..).symm.trans (before (m + 1) (Nat.succ_lt_succ below))⟩

end

/-! ### The pick -/

/-- The pick of a split whose run faults starts no run: the split parks with one train-level record of that fault. -/
theorem startRun_faulty {core k tid sid : Nat} {s : State} {ext : Nat × Nat} {ws : List DWord} {off : Nat} {kind : Kind}
    (no_deferred : ((s.train tid).split sid).deferred = []) (not_alone : ((s.train tid).split sid).back = none)
    (extent : runExtent s (s.train tid) ((s.train tid).split sid) = some ext) (cached : cachedRun s tid ext = some ws)
    (fault : runFault s (s.train tid) ((s.train tid).split sid).pc ws = some (off, kind)) :
    startRun core k tid sid s = parkAt kind off { core := core, sched := k, slot := tid % 32, sid := sid } s := by
  simp [startRun, no_deferred, not_alone, extent, cached, fault]

/-- Settles O58: R85's list, the equations of the checks of a word, the lowest offending word by induction on the run, and the pick. -/
theorem runChecksInOrder : Obligations.RunChecksInOrder := by
  refine ⟨by decide, ofMajor_eq_none_iff, fun s t pc last w => ⟨fun r => wordFault_rejected s t pc last, ?checks⟩, ?lowest,
    fun _ _ _ _ _ _ _ _ _ => startRun_faulty⟩
  case checks =>
    intro h i decodes
    rw [wordFault_decoded s t pc last decodes]
    exact ⟨fun rate => if_pos rate, fun rate class_ => by rw [if_neg (by simp [rate]), if_pos class_],
      fun rate class_ field => by rw [if_neg (by simp [rate]), if_neg (not_not_intro class_), if_pos field],
      fun rate class_ field => by rw [if_neg (by simp [rate]), if_neg (not_not_intro class_), if_neg (by simp [field])]⟩
  case lowest =>
    intro s t pc ws off k
    simp only [runFault_eq_some_iff, faultOfWord, Option.bind_eq_some_iff, Option.bind_eq_none_iff]
    constructor
    · rintro ⟨n, here, ⟨w, word, fault⟩, before⟩
      exact ⟨n, w, word, here, fault, fun m v below => before m below v⟩
    · rintro ⟨n, w, word, here, fault, before⟩
      exact ⟨n, here, ⟨w, word, fault⟩, fun m below v => before m v below⟩

end Sys2Proof.Proofs

/-! PROOFS. What a step does, and words written out from the spec's tables (spec/04_formats_opcode_map.md R71, R75, R84, R85;
spec/08_core_scheduling.md R190). -/

namespace Sys2Proof.Proofs

open Sys2Proof.Machine

/-- The event at the head of the agenda happens, after the clock. -/
theorem step_agenda {s : State} {i : Instr} {rest : List Instr} (due : s.agenda = i :: rest) :
    step s = exec i (clock { s with agenda := rest }) := by
  simp only [step, nextEvent, due]

section
variable {s : State} {w : DWord} (no_event : s.agenda = []) (word : nextWord (clock s) = some w)
include no_event word

/-- With an empty agenda the next word of the run in issue has its effect. -/
theorem step_decoded {h : Head} {i : Instr} (decodes : decodeWord w = .ok (h, i)) :
    step s = settle (exec i (clock s)) := by
  simp only [step, nextEvent, no_event, word, decodes]

/-- A word that decodes to no instruction faults when it is to issue (log 95). -/
theorem step_rejected {r : Reject} (rejected : decodeWord w = .error r) : step s = .next (badWord (clock s)) := by
  simp only [step, nextEvent, no_event, word, rejected]

end

/-- The next word is the first word left of the run that the current scheduler issues. -/
theorem nextWord_of_run {c : State} {k : Nat} {r : RunInIssue} {w : DWord} {ws : List DWord} (cur : c.cur = some k)
    (on : c.boot.off = false) (run : ((c.core (k / 4)).sched (k % 4)).run = some r) (words : r.words = w :: ws) :
    nextWord c = some w := by
  simp [nextWord, cur, on, run, words]

theorem badWord_eq_elim (s : State) : badWord s = (issuer s).elim s fun me => faultTrain .illegalOpcode 0 me s := by
  rw [badWord]
  cases issuer s <;> rfl

/-- Settles O54: the equations of the step for an event and for a word, and the next word of a run. -/
theorem stepRunsDecodedInstruction : Obligations.StepRunsDecodedInstruction := by
  intro s
  refine ⟨fun i rest => step_agenda, fun no_event w word => ⟨fun h i decodes => ?decodes, fun r rejected => ?rejected⟩,
    fun k r w ws => nextWord_of_run⟩
  case decodes =>
    rw [step_decoded no_event word decodes]
    exact ⟨fun _ => congrArg settle, fun _ => congrArg settle, fun _ => congrArg settle⟩
  case rejected => rw [step_rejected no_event word rejected, badWord_eq_elim]

/-- Settles O55: the decoder evaluates each of the words. -/
theorem decodeReadsSpecWords : Obligations.DecodeReadsSpecWords :=
  ⟨rfl, rfl, rfl, rfl, rfl, rfl, rfl, rfl, rfl, rfl, rfl, rfl, rfl, rfl, rfl, rfl, rfl, rfl⟩

end Sys2Proof.Proofs

/-! PROOFS. Words that change their train alone (spec/05_integer_bit_instructions.md R91, R113; spec/17_package_memory_model.md R349):
what comes before their effect, the next state of one that is ready, and which registers and memory any next state keeps. -/

namespace Sys2Proof.Proofs

open Sys2Proof.Machine Sys2Proof.Safety

/-! ### Completion -/

section
variable {i : Instr} {me : Me} {s : State}

/-- Timestamps are observed, or an error faults, before the effect of a word that changes its train alone (R349, R404). -/
theorem readsFirst_of_issueTrain {x : Result} {e : Me → State → Train → Train} (issued : x = issueTrain i s e) :
    readsFirst me i s x := by
  subst issued
  intro issues no_stall
  refine ⟨fun unread => ?observes, fun none_unread broken => ?faults⟩
  case observes =>
    have not_ok : operandsOk i me s = false := by simp [operandsOk, unread]
    rw [issueTrain, issue_first issues no_stall not_ok, operandsFirst_reads unread]
  case faults =>
    have not_ok : operandsOk i me s = false := by simp [operandsOk, broken]
    rw [issueTrain, issue_first issues no_stall not_ok, operandsFirst_broken none_unread]

/-- A ready word that changes its train alone completes. -/
theorem issueTrain_ready {e : Me → State → Train → Train} (h : ready me i s) : issueTrain i s e = trainDone me s (e me s) :=
  issue_ready h.1 h.2.1 h.2.2

end

/-! ### The registers after completion -/

section
variable {me : Me} {s u : State} {f : Train → Train}

theorem readV_of_trainDone (done : trainDone me s f = .next u) (k r l : Nat) :
    (u.train k).readV r l = if k = me.tid then (f (me.train s)).readV r l else (s.train k).readV r l := by
  cases done
  rw [retire_readV, State.train_updTrain]
  split <;> rfl

theorem readS_of_trainDone (done : trainDone me s f = .next u) (k sid r : Nat) :
    (u.train k).readS sid r = if k = me.tid then (f (me.train s)).readS sid r else (s.train k).readS sid r := by
  cases done
  rw [retire_readS, State.train_updTrain]
  split <;> rfl

theorem sameMemory_of_trainDone (done : trainDone me s f = .next u) : sameMemory s u := by
  cases done
  exact ⟨retire_mem .., retire_lines .., retire_wgs ..⟩

end

/-! ### The frame -/

section
variable {p q : Nat → Nat → Prop} {s u : State}

theorem sameV_mono (wider : ∀ k r, p k r → q k r) (same : sameV p s u) : sameV q s u :=
  fun k r l other => same k r l fun h => other (wider k r h)

theorem sameS_mono (wider : ∀ k r, p k r → q k r) (same : sameS p s u) : sameS q s u :=
  fun k sid r other => same k sid r fun h => other (wider k r h)

end

/-- The frame of a next state: memory stands, and so do the vector registers outside `V` and the scalar registers outside `S`, those of
every train but the issuer's among them. -/
def IssuerFrame (V S : Nat → Prop) (s u : State) : Prop :=
  sameMemory s u ∧ sameV (fun k r => (∃ me, issuer s = some me ∧ k = me.tid) ∧ V r) s u ∧
    sameS (fun k r => (∃ me, issuer s = some me ∧ k = me.tid) ∧ S r) s u

section
variable {V S : Nat → Prop} {i : Instr} {s u : State} {e : Me → State → Train → Train}

/-- What keeps memory and every register has every frame. -/
theorem issuerFrame_of_unchanged
    (same : sameMemory s u ∧ sameV (fun _ _ => False) s u ∧ sameS (fun _ _ => False) s u) : IssuerFrame V S s u :=
  ⟨same.1, sameV_mono (fun _ _ => False.elim) same.2.1, sameS_mono (fun _ _ => False.elim) same.2.2⟩

theorem issuerFrame_stall (k : Nat) (me : Me) : IssuerFrame V S s (stall k me s) :=
  issuerFrame_of_unchanged ⟨⟨rfl, rfl, rfl⟩, fun _ _ _ _ => rfl, fun _ _ _ _ => rfl⟩

/-- Whatever a word that changes its train alone leads to, a stall and a fault at its operands included, has the frame of its effect. -/
theorem issuerFrame_issueTrain (next : issueTrain i s e = .next u)
    (keepsV : ∀ me t r l, ¬ V r → (e me s t).readV r l = t.readV r l)
    (keepsS : ∀ me t sid r, ¬ S r → (e me s t).readS sid r = t.readS sid r) : IssuerFrame V S s u := by
  obtain ⟨me, issues, ⟨k, rfl⟩ | ⟨_, rfl⟩ | ⟨_, _, rfl⟩⟩ := issue_next next
  case inl => exact issuerFrame_stall k me
  case inr.inl => exact issuerFrame_of_unchanged (operandsFirst_frame i me s)
  case inr.inr =>
    have done : trainDone me s (e me s) = .next (retire me (s.updTrain me.tid (e me s))) := rfl
    refine ⟨sameMemory_of_trainDone done, fun k r l other => ?vector, fun k sid r other => ?scalar⟩
    case vector =>
      rw [readV_of_trainDone done]
      split
      case isTrue mine =>
        subst mine
        exact keepsV me _ r l fun h => other ⟨⟨me, issues, rfl⟩, h⟩
      case isFalse => rfl
    case scalar =>
      rw [readS_of_trainDone done]
      split
      case isTrue mine =>
        subst mine
        exact keepsS me _ sid r fun h => other ⟨⟨me, issues, rfl⟩, h⟩
      case isFalse => rfl

end

end Sys2Proof.Proofs

/-! PROOFS. Completion of the vector integer majors (spec/05_integer_bit_instructions.md R91 to R112). -/

namespace Sys2Proof.Proofs

open Sys2Proof.Machine Sys2Proof.Safety

/-! ### The meaning of each major, by the shared operation that forms it (Tables 5.3, 5.5 and 5.6) -/

section
variable (f : FmtV3) (g : FmtVI) (s : State)

theorem exec_vadd : exec (.vadd f) s = vecArith (.vadd f) f (fun x y _ => x + y) s := rfl
theorem exec_vsub : exec (.vsub f) s = vecArith (.vsub f) f (fun x y _ => x - y) s := rfl
theorem exec_vmul : exec (.vmul f) s = vecArith (.vmul f) f (fun x y _ => x * y) s := rfl
theorem exec_vmad : exec (.vmad f) s = vecArith (.vmad f) f (fun x y z => x * y + z) s := rfl
theorem exec_vmin : exec (.vmin f) s = vecArith (.vmin f) f (fun x y _ => min x y) s := rfl
theorem exec_vmax : exec (.vmax f) s = vecArith (.vmax f) f (fun x y _ => max x y) s := rfl
theorem exec_vabsd : exec (.vabsd f) s = vecArith (.vabsd f) f (fun x y _ => (((x - y).natAbs : Nat) : Int)) s := rfl
theorem exec_vmulhi : exec (.vmulhi f) s = vecArith (.vmulhi f) f (fun x y _ => mulhi (intWidth f.ty.toNat) x y) s := rfl
theorem exec_vand : exec (.vand f) s = vecInt (.vand f) f (fun a b _ => andOp f.minor.toNat f.ty.toNat a b) s := rfl
theorem exec_vor : exec (.vor f) s = vecInt (.vor f) f (fun a b _ => orOp f.minor.toNat f.ty.toNat a b) s := rfl
theorem exec_vxor : exec (.vxor f) s = vecInt (.vxor f) f (fun a b _ => xorOp f.minor.toNat f.ty.toNat a b) s := rfl
theorem exec_vshl : exec (.vshl f) s = vecInt (.vshl f) f (fun a b _ => shlOp f.ty.toNat a b) s := rfl
theorem exec_vshr : exec (.vshr f) s = vecInt (.vshr f) f (fun a b _ => shrOp f.ty.toNat a b) s := rfl
theorem exec_vrot : exec (.vrot f) s = vecInt (.vrot f) f (fun a b _ => rotOp f.minor.toNat f.ty.toNat a b) s := rfl
theorem exec_vfun : exec (.vfun f) s = vecInt (.vfun f) f (fun a b c => funOp f.minor.toNat a b c) s := rfl
theorem exec_vbfx : exec (.vbfx f) s = vecInt (.vbfx f) f (fun a b c => bfxOp f.ty.toNat a b c) s := rfl
theorem exec_vbfi : exec (.vbfi f) s = vecInt (.vbfi f) f (fun a b c => bfiOp f.ty.toNat a b c) s := rfl
theorem exec_vclz : exec (.vclz f) s = vecInt (.vclz f) f (fun a _ _ => bitOp clz f.ty.toNat a) s := rfl
theorem exec_vctz : exec (.vctz f) s = vecInt (.vctz f) f (fun a _ _ => bitOp ctz f.ty.toNat a) s := rfl
theorem exec_vffs : exec (.vffs f) s = vecInt (.vffs f) f (fun a _ _ => bitOp ffs f.ty.toNat a) s := rfl
theorem exec_vpopc : exec (.vpopc f) s = vecInt (.vpopc f) f (fun a _ _ => bitOp popc f.ty.toNat a) s := rfl
theorem exec_vbrev : exec (.vbrev f) s = vecInt (.vbrev f) f (fun a _ _ => bitOp brev f.ty.toNat a) s := rfl
theorem exec_vmov : exec (.vmov f) s = vecInt (.vmov f) f (fun a _ _ => a) s := rfl
theorem exec_vcmp : exec (.vcmp f) s = execVcmp f s := rfl
theorem exec_vsel : exec (.vsel f) s = execVsel f s := rfl
theorem exec_vcvti : exec (.vcvti f) s = execVcvti f s := rfl
theorem exec_vbsinit : exec (.vbsinit f) s = execVbsinit f s := rfl
theorem exec_vbsrd : exec (.vbsrd f) s = execVbsrd f s := rfl
theorem exec_vmovi : exec (.vmovi g) s = execVmovi g s := rfl
theorem exec_vaddi : exec (.vaddi g) s = execVaddi g s := rfl

end

/-! ### Completion -/

section
variable {i : Instr} {me : Me} {s : State} {f : FmtV3}

/-- A ready lane-wise word writes its value into the active lanes of D (R91). -/
theorem vecInt_ready {op : Nat → Nat → Nat → Nat} (h : ready me i s) :
    vecInt i f op s = lanesDone me s f.d.toNat (intWide f.ty.toNat) fun t l =>
      op (intOperand me s f.ty t f.a l) (intOperand me s f.ty t f.b l) (intOperand me s f.ty t f.c l) :=
  issueTrain_ready h

/-- A ready arithmetic word writes the fitted exact integer of each element (R95). -/
theorem vecArith_ready {op : Int → Int → Int → Int} (h : ready me i s) :
    vecArith i f op s = lanesDone me s f.d.toNat (intWide f.ty.toNat) fun t l => mapElems f.ty.toNat fun k =>
      fitInt (op (elemInt (intOperand me s f.ty t f.a l) f.ty.toNat k) (elemInt (intOperand me s f.ty t f.b l) f.ty.toNat k)
        (elemInt (intOperand me s f.ty t f.c l) f.ty.toNat k)) f.ty.toNat (f.sat == 1) :=
  vecInt_ready h

theorem readsFirst_vecInt (op : Nat → Nat → Nat → Nat) : readsFirst me i s (vecInt i f op s) :=
  readsFirst_of_issueTrain rfl

theorem readsFirst_vecArith {op : Int → Int → Int → Int} : readsFirst me i s (vecArith i f op s) :=
  readsFirst_vecInt _

end

/-- Settles O1: each arithmetic major is `vecArith` of its own exact integer. -/
theorem vectorArithmeticCompletes : Obligations.VectorArithmeticCompletes := by
  intro me s f
  simp only [List.forall_mem_cons, List.not_mem_nil, false_imp_iff, implies_true, and_true, exec_vadd, exec_vsub,
    exec_vmul, exec_vmad, exec_vmin, exec_vmax, exec_vabsd, exec_vmulhi]
  refine ⟨vecArith_ready, vecArith_ready, vecArith_ready, vecArith_ready, vecArith_ready, vecArith_ready, vecArith_ready,
    vecArith_ready, ?observedFirst⟩
  case observedFirst =>
    and_intros <;> exact readsFirst_vecArith

/-- Settles O2: each logic, shift, field and bit major, and VMOV, is `vecInt` of its own value. -/
theorem vectorBitsComplete : Obligations.VectorBitsComplete := by
  intro me s f
  simp only [exec_vand, exec_vor, exec_vxor, exec_vshl, exec_vshr, exec_vrot, exec_vfun, exec_vbfx, exec_vbfi, exec_vclz, exec_vctz,
    exec_vffs, exec_vpopc, exec_vbrev, exec_vmov]
  and_intros <;> exact vecInt_ready

/-- Settles O3: each of the six changes its train alone, by the destination of its rule. -/
theorem vectorMovesComplete : Obligations.VectorMovesComplete := by
  intro me s f g
  simp only [exec_vaddi, exec_vmovi, exec_vcmp, exec_vsel, exec_vcvti, exec_vbsinit]
  refine ⟨issueTrain_ready, ?vmovi, issueTrain_ready, issueTrain_ready, issueTrain_ready, issueTrain_ready⟩
  case vmovi =>
    intro h
    refine (issueTrain_ready h).trans ?_
    simp only [beq_iff_eq, lanesDone]

/-! ### The STREAM role (R112) -/

section
variable {me : Me} {s : State} {f : FmtV3}

/-- STREAM-RIGHTS does not resume: its split stays at the word, with one train-level record (R62, Table 22.1). -/
theorem faultTrain_streamRights (info : Word) (me : Me) (s : State) :
    .next (faultTrain .streamRights info me s) = trainFault 0x0B info me s := by
  have no_resume : resumeOf (trainRecord 0x0B 0 0 info me s).kind (trainRecord 0x0B 0 0 info me s).trainLevel = .none := rfl
  have no_replay : ∀ x ∈ [trainRecord 0x0B 0 0 info me s], resumeOf x.kind x.trainLevel ≠ .replay := by
    rw [List.forall_mem_singleton, no_resume]
    decide
  exact congrArg _ (faultWith_stands s me no_replay (.inl no_resume))

/-- A fault that stops a split parks it, at the word where it stands, with its records (R62). -/
theorem split_takeFault {recs : List FaultRec} (has_split : me.sid < (me.train s).splits.length)
    (no_event : s.holdsEvent me.tid = false) :
    me.split (takeFault s me recs) = { me.split s with state := .parked, recs := recs } := by
  have train : me.train (takeFault s me recs) =
      { (me.train s).updSplit me.sid fun sp => { sp with state := .parked, recs := recs } with state := .parked } := by
    rw [Me.train, takeFault_train, parkSplit_train _ _ _ no_event, if_pos rfl]
    rfl
  have split : me.split (takeFault s me recs) =
      ((me.train s).updSplit me.sid fun sp => { sp with state := .parked, recs := recs }).split me.sid := by
    rw [Me.split, train]
    rfl
  rw [split, Train.split_updSplit, if_pos ⟨rfl, has_split⟩]
  rfl

/-- VBSRD in a train of the STREAM role changes its train alone. -/
theorem vbsrd_withRole (h : ready me (.vbsrd f) s) (role : hasStream s (me.train s) = true) :
    exec (.vbsrd f) s = trainDone me s fun t =>
      let q := f.a.toNat
      let act := me.active s
      let r (l : Nat) : Nat × Nat × Nat × Nat :=
        bsrdOp (readReg s t me.sid q true l) (t.readV (q + 2) l).toNat (t.readV (q + 3) l).toNat
          (singleSrc s t me.sid f.b.toNat l) (readReg s t me.sid f.c.toNat true l)
      writeDst (((t.writeVN act q (fun l => (r l).2.1) 2).writeV act (q + 2) fun l => BitVec.ofNat 32 (r l).2.2.1).writeV
        act (q + 3) fun l => BitVec.ofNat 32 (r l).2.2.2) act f.d.toNat false fun l => (r l).1 := by
  rw [exec_vbsrd, execVbsrd, issue_ready h.1 h.2.1 h.2.2]
  rw [role]
  rfl

/-- VBSRD in any other train takes STREAM-RIGHTS. -/
theorem vbsrd_withoutRole (h : ready me (.vbsrd f) s) (role : hasStream s (me.train s) = false) :
    exec (.vbsrd f) s = trainFault 0x0B 0 me s := by
  rw [exec_vbsrd, execVbsrd, issue_ready h.1 h.2.1 h.2.2]
  rw [role]
  exact faultTrain_streamRights 0 me s

end

/-- Settles O4: the two answers of VBSRD, what parking a split leaves, and the completion of VBSINIT. -/
theorem streamReadNeedsRole : Obligations.StreamReadNeedsRole := by
  intro me s f
  refine ⟨vbsrd_withRole, fun h role => ⟨vbsrd_withoutRole h role, fun has_split no_event => ?parks⟩,
    fun h => ⟨_, (exec_vbsinit f s).trans (issueTrain_ready h)⟩⟩
  case parks =>
    refine ⟨_, vbsrd_withoutRole h role, ?_⟩
    rw [split_takeFault has_split no_event]
    exact ⟨rfl, rfl, rfl, fun _ _ _ _ => takeFault_readV .., fun _ _ _ _ => takeFault_readS ..⟩

end Sys2Proof.Proofs

/-! PROOFS. The 32-bit words that the integer majors form, the lanes of a vector destination, and the frame of the integer majors
(spec/02_number_formats.md R26, R27; spec/05_integer_bit_instructions.md R91, R95, R97). -/

namespace Sys2Proof.Proofs

open Sys2Proof.Machine Sys2Proof.Safety

/-! ### 32-bit types -/

theorem wrapInt_eq_toNat (x : Int) (n : Nat) : wrapInt x n = (BitVec.ofInt n x).toNat := (BitVec.toNat_ofInt x).symm

section
variable {ty : Nat} (narrow : ty < 2)
include narrow

/-- The two 32-bit types are I32 and U32 (Table 1.1). -/
theorem eq_zero_or_one_of_lt_two : ty = 0 ∨ ty = 1 := by
  omega

theorem intWidth_of_lt_two : intWidth ty = 32 := by
  rcases eq_zero_or_one_of_lt_two narrow with rfl | rfl <;> rfl

theorem intWide_of_lt_two : intWide ty = false :=
  decide_eq_false (by omega)

/-- The value of a 32-bit type is its one element. -/
theorem mapElems_of_lt_two (g : Nat → Nat) : mapElems ty g = g 0 % 2 ^ 32 := by
  have one : intElems ty = 1 := by rcases eq_zero_or_one_of_lt_two narrow with rfl | rfl <;> rfl
  simp [mapElems, one, intWidth_of_lt_two narrow, packElems]

/-- Signed or unsigned, the element of a register is its word modulo 2^32. -/
theorem ofInt_elemInt (x : Word) : BitVec.ofInt 32 (elemInt x.toNat ty 0) = x := by
  have whole : elemNat x.toNat 32 0 = x.toNat := by
    simpa [elemNat, bits] using Nat.mod_eq_of_lt x.isLt
  rw [elemInt, intWidth_of_lt_two narrow, whole]
  split
  case isTrue =>
    have signed_word : signed x.toNat 32 = x.toInt := by simp [signed, BitVec.toInt, Nat.mod_eq_of_lt x.isLt]
    rw [signed_word, BitVec.ofInt_toInt]
  case isFalse => rw [BitVec.ofInt_natCast, BitVec.ofNat_toNat, BitVec.setWidth_eq]

/-- Without SAT an arithmetic value is the exact integer modulo 2^32 (R27, R95). -/
theorem ofNat_intOp (op : Int → Int → Int → Int) (a b c : Nat) :
    BitVec.ofNat 32 (intOp op ty false a b c) = BitVec.ofInt 32 (op (elemInt a ty 0) (elemInt b ty 0) (elemInt c ty 0)) := by
  have fitted (e : Int) : fitInt e ty false = (BitVec.ofInt 32 e).toNat := by
    simp only [fitInt, intWidth_of_lt_two narrow, Bool.false_eq_true, if_false, wrapInt_eq_toNat]
  rw [intOp, mapElems_of_lt_two narrow, fitted, Nat.mod_eq_of_lt (BitVec.isLt _), BitVec.ofNat_toNat, BitVec.setWidth_eq]

variable (x y : Word) (c : Nat)

theorem ofNat_intOp_add : BitVec.ofNat 32 (intOp (fun x y _ => x + y) ty false x.toNat y.toNat c) = x + y := by
  rw [ofNat_intOp narrow, BitVec.ofInt_add, ofInt_elemInt narrow, ofInt_elemInt narrow]

theorem ofNat_intOp_sub : BitVec.ofNat 32 (intOp (fun x y _ => x - y) ty false x.toNat y.toNat c) = x - y := by
  rw [ofNat_intOp narrow, Int.sub_eq_add_neg, BitVec.ofInt_add, BitVec.ofInt_neg, ofInt_elemInt narrow, ofInt_elemInt narrow,
    BitVec.sub_eq_add_neg]

theorem ofNat_intOp_mul : BitVec.ofNat 32 (intOp (fun x y _ => x * y) ty false x.toNat y.toNat c) = x * y := by
  rw [ofNat_intOp narrow, BitVec.ofInt_mul, ofInt_elemInt narrow, ofInt_elemInt narrow]

end

section
variable (x y : Word)

theorem ofNat_land : BitVec.ofNat 32 (Nat.land x.toNat y.toNat) = x &&& y :=
  (BitVec.ofNat_toNat 32 (x &&& y)).trans (BitVec.setWidth_eq _)

theorem ofNat_lor : BitVec.ofNat 32 (Nat.lor x.toNat y.toNat) = x ||| y :=
  (BitVec.ofNat_toNat 32 (x ||| y)).trans (BitVec.setWidth_eq _)

theorem ofNat_xor : BitVec.ofNat 32 (Nat.xor x.toNat y.toNat) = x ^^^ y :=
  (BitVec.ofNat_toNat 32 (x ^^^ y)).trans (BitVec.setWidth_eq _)

end

/-! ### The lanes of a vector destination -/

/-- The word of register `r` in lane `l` after a write of `v` in the lanes of `m`: v0 discards (R54, R91). -/
def laneAfter (t : Train) (m : LaneMask) (r l : Nat) (v : Word) : Word :=
  if r = 0 then 0 else if m.getLsbD l then v else t.readV r l

section
variable {t : Train} {m : LaneMask} {d l : Nat} {v : Nat → Nat}

/-- Word `i` of each lane's value goes to register `d + i`, in the lanes of the mask. -/
theorem readV_writeVN_lane {k i : Nat} (lane : l < 96) (word : i < k) :
    (t.writeVN m d v k).readV (d + i) l = laneAfter t m (d + i) l (BitVec.ofNat 32 (v l / 2 ^ (32 * i))) := by
  unfold laneAfter
  split
  case isTrue discards => rw [discards, Train.readV_zero]
  case isFalse kept => exact Train.readV_writeVN t m d l k i v lane word kept

theorem writeDst_v (is_v : d < 0x100) (wide : Bool) : writeDst t m d wide v = t.writeVN m d v (if wide then 2 else 1) :=
  if_pos (decide_eq_true is_v)

/-- The register of a 32-bit destination, or the even one of a pair, takes the low word. -/
theorem readV_writeDst_low (lane : l < 96) (is_v : d < 0x100) (wide : Bool) :
    (writeDst t m d wide v).readV d l = laneAfter t m d l (BitVec.ofNat 32 (v l)) := by
  rw [writeDst_v is_v]
  simpa using readV_writeVN_lane (i := 0) lane (by cases wide <;> decide)

/-- The odd register of a pair takes the high word. -/
theorem readV_writeDst_high (lane : l < 96) (is_v : d < 0x100) :
    (writeDst t m d true v).readV (d + 1) l = laneAfter t m (d + 1) l (BitVec.ofNat 32 (v l / 2 ^ 32)) := by
  rw [writeDst_v is_v]
  exact readV_writeVN_lane (i := 1) lane (by decide)

end

section
variable {me : Me} {s u : State} {d l : Nat} {wide : Bool} {v : Train → Nat → Nat}

theorem lanesDone_low (lane : l < 96) (is_v : d < 0x100) (done : lanesDone me s d wide v = .next u) :
    (u.train me.tid).readV d l = laneAfter (me.train s) (me.active s) d l (BitVec.ofNat 32 (v (me.train s) l)) := by
  rw [readV_of_trainDone done, if_pos rfl, readV_writeDst_low lane is_v]

theorem lanesDone_high (lane : l < 96) (is_v : d < 0x100) (done : lanesDone me s d true v = .next u) :
    (u.train me.tid).readV (d + 1) l =
      laneAfter (me.train s) (me.active s) (d + 1) l (BitVec.ofNat 32 (v (me.train s) l / 2 ^ 32)) := by
  rw [readV_of_trainDone done, if_pos rfl, readV_writeDst_high lane is_v]

end

/-! ### A 32-bit word of two vector registers -/

/-- A vector register as a 32-bit integer source is its word in the lane (R76). -/
theorem intSrc_register {s : State} {t : Train} {sid ty c : Nat} (l : Nat) (narrow : ty < 2) (is_v : c < 0x100) :
    intSrc s t sid ty c l = (t.readV c l).toNat := by
  have no_constant : isK c = false ∧ isFloatConst c = false := by
    simp only [isK, isFloatConst, Bool.and_eq_false_iff, decide_eq_false_iff_not]
    omega
  have is_v : isV c = true := decide_eq_true is_v
  simp [intSrc, no_constant, intWide_of_lt_two narrow, readReg, readWord, is_v]

/-- A 32-bit word without SAT and of minor 0, whose sources are vector registers. -/
structure PlainWord (f : FmtV3) : Prop where
  narrow : f.ty.toNat < 2
  no_sat : f.sat = 0
  minor : f.minor = 0
  a_is_v : f.a.toNat < 0x100
  b_is_v : f.b.toNat < 0x100

section
variable {me : Me} {s u : State} {i : Instr} {f : FmtV3} {l : Nat}

/-- The lanes of D after a plain word whose value the words of A and B give. -/
theorem vecInt_plain {op : Nat → Nat → Nat → Nat} {word : Word → Word → Word} (plain : PlainWord f) (lane : l < 96)
    (is_v : f.d.toNat < 0x100) (value : ∀ x y c, BitVec.ofNat 32 (op x.toNat y.toNat c) = word x y) (h : ready me i s)
    (next : vecInt i f op s = .next u) :
    (u.train me.tid).readV f.d.toNat l = laneAfter (me.train s) (me.active s) f.d.toNat l
      (word ((me.train s).readV f.a.toNat l) ((me.train s).readV f.b.toNat l)) := by
  rw [vecInt_ready h] at next
  rw [lanesDone_low lane is_v next, intOperand, intSrc_register l plain.narrow plain.a_is_v, intOperand,
    intSrc_register l plain.narrow plain.b_is_v, value]

theorem vecArith_plain {op : Int → Int → Int → Int} {word : Word → Word → Word} (plain : PlainWord f) (lane : l < 96)
    (is_v : f.d.toNat < 0x100)
    (value : ∀ (x y : Word) c, BitVec.ofNat 32 (intOp op f.ty.toNat false x.toNat y.toNat c) = word x y) (h : ready me i s)
    (next : vecArith i f op s = .next u) :
    (u.train me.tid).readV f.d.toNat l = laneAfter (me.train s) (me.active s) f.d.toNat l
      (word ((me.train s).readV f.a.toNat l) ((me.train s).readV f.b.toNat l)) := by
  have wraps : (f.sat == 1) = false := by rw [plain.no_sat]; rfl
  rw [vecArith, wraps] at next
  exact vecInt_plain plain lane is_v value h next

end

/-- Settles O5: the low and the high word of a destination by `readV_writeVN_lane`, and the six majors as plain words. -/
theorem vectorLanesTakeResult : Obligations.VectorLanesTakeResult := by
  intro me s u f l lane is_v
  simp only [exec_vadd, exec_vsub, exec_vmul, exec_vand, exec_vor, exec_vxor]
  refine ⟨fun v => lanesDone_low lane is_v, fun v _ _ done => ⟨lanesDone_low lane is_v done, lanesDone_high lane is_v done⟩,
    fun plain => ?add, fun plain => ?sub, fun plain => ?mul, fun plain => ?and, fun plain => ?or, fun plain => ?xor⟩
  all_goals obtain ⟨narrow, no_sat, minor, a_is_v, b_is_v⟩ := plain
  all_goals have plain : PlainWord f := ⟨narrow, no_sat, minor, a_is_v, b_is_v⟩
  case add => exact vecArith_plain plain lane is_v (ofNat_intOp_add narrow)
  case sub => exact vecArith_plain plain lane is_v (ofNat_intOp_sub narrow)
  case mul => exact vecArith_plain plain lane is_v (ofNat_intOp_mul narrow)
  case and => rw [minor]; exact vecInt_plain plain lane is_v fun x y _ => ofNat_land x y
  case or => rw [minor]; exact vecInt_plain plain lane is_v fun x y _ => ofNat_lor x y
  case xor => rw [minor]; exact vecInt_plain plain lane is_v fun x y _ => ofNat_xor x y

/-! ### The frame of the integer majors -/

/-- The integer majors with one vector-class destination (R91). -/
def laneMajors (f : FmtV3) : List Instr :=
  [.vadd f, .vsub f, .vmul f, .vmulhi f, .vmad f, .vmin f, .vmax f, .vabsd f, .vand f, .vor f, .vxor f, .vshl f, .vshr f, .vrot f,
    .vfun f, .vbfx f, .vbfi f, .vclz f, .vctz f, .vffs f, .vpopc f, .vbrev f, .vsel f, .vmov f, .vcvti f, .vshuf f, .vbcast f]

/-- Each of them writes D in its active lanes, and changes nothing else of its train. -/
theorem exec_laneMajors {f : FmtV3} {i : Instr} (major : i ∈ laneMajors f) : ∃ v : Me → State → Train → Nat → Nat, ∀ s, exec i s =
    issueTrain i s fun me s t => writeDst t (me.active s) f.d.toNat (intWide f.ty.toNat) (v me s t) := by
  revert i
  simp only [laneMajors, List.forall_mem_cons, List.not_mem_nil, false_imp_iff, implies_true, and_true]
  and_intros <;> exact ⟨_, fun _ => rfl⟩

/-- Settles O6: the frame of a word that writes one vector-class destination. -/
theorem vectorIntegerFrame : Obligations.VectorIntegerFrame := by
  intro s u f i next major
  obtain ⟨v, writes⟩ := exec_laneMajors major
  rw [writes] at next
  have frame : IssuerFrame (fun r => r = f.d.toNat ∨ (6 ≤ f.ty.toNat ∧ r = f.d.toNat + 1)) (fun _ => False) s u := by
    refine issuerFrame_issueTrain next (fun me t r l other => ?vector) fun me t sid r _ => writeDst_readS ..
    case vector =>
      rw [not_or, not_and] at other
      exact readV_writeDst_other _ _ _ _ _ _ _ ⟨other.1, fun wide => other.2 (of_decide_eq_true wide)⟩
  obtain ⟨memory, vector, scalar⟩ := frame
  exact ⟨memory, sameS_mono (fun _ _ h => h.2) scalar, vector⟩

end Sys2Proof.Proofs

/-! PROOFS. The scalar majors (spec/05_integer_bit_instructions.md R113 to R116): what each does to its train, and that it
completes. -/

namespace Sys2Proof.Proofs

open Sys2Proof.Machine Sys2Proof.Safety

/-! ### The meaning of each major, by what it does to its train (Table 5.10) -/

section
variable (f : FmtS3) (g : FmtSI) (s : State)

theorem exec_sadd : exec (.sadd f) s = issueTrain (.sadd f) s fun me _ => scalarArith f (fun x y => x + y) me.sid := rfl
theorem exec_ssub : exec (.ssub f) s = issueTrain (.ssub f) s fun me _ => scalarArith f (fun x y => x - y) me.sid := rfl
theorem exec_smul : exec (.smul f) s = issueTrain (.smul f) s fun me _ => scalarArith f (fun x y => x * y) me.sid := rfl
theorem exec_smin : exec (.smin f) s = issueTrain (.smin f) s fun me _ => scalarArith f (fun x y => min x y) me.sid := rfl
theorem exec_smax : exec (.smax f) s = issueTrain (.smax f) s fun me _ => scalarArith f (fun x y => max x y) me.sid := rfl
theorem exec_smulhi : exec (.smulhi f) s = issueTrain (.smulhi f) s fun me _ =>
    scalarArith f (fun x y => mulhi (intWidth f.ty.toNat) x y) me.sid := rfl
theorem exec_sand : exec (.sand f) s = issueTrain (.sand f) s fun me _ => scalarInt f (fun a b _ => Nat.land a b) me.sid := rfl
theorem exec_sor : exec (.sor f) s = issueTrain (.sor f) s fun me _ => scalarInt f (fun a b _ => Nat.lor a b) me.sid := rfl
theorem exec_sxor : exec (.sxor f) s = issueTrain (.sxor f) s fun me _ => scalarInt f (fun a b _ => Nat.xor a b) me.sid := rfl
theorem exec_sshl : exec (.sshl f) s = issueTrain (.sshl f) s fun me _ =>
    scalarInt f (fun a b _ => shlOp f.ty.toNat a b) me.sid := rfl
theorem exec_sshr : exec (.sshr f) s = issueTrain (.sshr f) s fun me _ =>
    scalarInt f (fun a b _ => shrOp f.ty.toNat a b) me.sid := rfl
theorem exec_sbfx : exec (.sbfx f) s = issueTrain (.sbfx f) s fun me _ =>
    scalarInt f (fun a b c => bfxOp f.ty.toNat a b c) me.sid := rfl
theorem exec_sbfi : exec (.sbfi f) s = issueTrain (.sbfi f) s fun me _ =>
    scalarInt f (fun a b c => bfiOp f.ty.toNat a b c) me.sid := rfl
theorem exec_sclz : exec (.sclz f) s = issueTrain (.sclz f) s fun me _ =>
    scalarInt f (fun a _ _ => bitOp clz f.ty.toNat a) me.sid := rfl
theorem exec_spopc : exec (.spopc f) s = issueTrain (.spopc f) s fun me _ =>
    scalarInt f (fun a _ _ => bitOp popc f.ty.toNat a) me.sid := rfl
theorem exec_sffs : exec (.sffs f) s = issueTrain (.sffs f) s fun me _ =>
    scalarInt f (fun a _ _ => bitOp ffs f.ty.toNat a) me.sid := rfl
theorem exec_smov : exec (.smov f) s = issueTrain (.smov f) s fun me _ => scalarInt f (fun a _ _ => a) me.sid := rfl
theorem exec_scmp : exec (.scmp f) s = issueTrain (.scmp f) s fun me _ => scmpOn f me.sid := rfl
theorem exec_ssel : exec (.ssel f) s = issueTrain (.ssel f) s fun me _ => sselOn f me.sid := rfl
theorem exec_smcnt : exec (.smcnt f) s = issueTrain (.smcnt f) s fun me _ => smcntOn f me.sid := rfl
theorem exec_smfirst : exec (.smfirst f) s = issueTrain (.smfirst f) s fun me _ => smfirstOn f me.sid := rfl
theorem exec_smovi : exec (.smovi g) s = issueTrain (.smovi g) s fun me _ => smoviOn g me.sid := rfl
theorem exec_saddi : exec (.saddi g) s = issueTrain (.saddi g) s fun me _ => saddiOn g me.sid := rfl

end

/-! ### Completion -/

/-- Settles O7: each of the majors writes D with its own value and retires, once its operands can be read. -/
theorem scalarIntegersComplete : Obligations.ScalarIntegersComplete := by
  intro me s f
  simp only [List.forall_mem_cons, List.not_mem_nil, false_imp_iff, implies_true, and_true, exec_sadd, exec_ssub, exec_smul,
    exec_smin, exec_smax, exec_smulhi, exec_sand, exec_sor, exec_sxor, exec_sshl, exec_sshr, exec_sbfx, exec_sbfi, exec_sclz,
    exec_spopc, exec_sffs, exec_smov]
  refine ⟨issueTrain_ready, issueTrain_ready, issueTrain_ready, issueTrain_ready, issueTrain_ready, issueTrain_ready,
    issueTrain_ready, issueTrain_ready, issueTrain_ready, issueTrain_ready, issueTrain_ready, issueTrain_ready,
    issueTrain_ready, issueTrain_ready, issueTrain_ready, issueTrain_ready, issueTrain_ready, ?observedFirst⟩
  case observedFirst =>
    and_intros <;> exact readsFirst_of_issueTrain rfl

/-- The outcome of a comparison as a word (R114). -/
theorem ofNat_toNat_eq_ite (outcome : Bool) : BitVec.ofNat 32 outcome.toNat = if outcome then 1 else 0 := by
  cases outcome <;> rfl

/-- Settles O8: each of the six writes D with its own value and retires. -/
theorem scalarMovesComplete : Obligations.ScalarMovesComplete := by
  intro me s f g
  simp only [exec_scmp, exec_ssel, exec_smovi, exec_saddi, exec_smcnt, exec_smfirst]
  refine ⟨fun h => ?scmp, fun h => ?ssel, fun h => ?smovi, issueTrain_ready, issueTrain_ready, issueTrain_ready⟩
  all_goals refine (issueTrain_ready h).trans (congrArg (trainDone me s) (funext fun t => ?_))
  case scmp => simp only [scmpOn, cmpOp, ofNat_toNat_eq_ite]
  case ssel => simp only [sselOn, beq_iff_eq, ite_not, ne_eq]
  case smovi => simp only [smoviOn, beq_iff_eq]

end Sys2Proof.Proofs

/-! PROOFS. The scalar destination (spec/02_number_formats.md R40; spec/03_lane_train_state.md R56, R58;
spec/07_control_split_rung_instructions.md R156): what a scalar register reads after a write of one, and which registers a scalar major
keeps (spec/05_integer_bit_instructions.md R113). -/

namespace Sys2Proof.Proofs

open Sys2Proof.Machine Sys2Proof.Safety

/-! ### Words of a lane mask -/

section
variable (m n : LaneMask) (j : Nat)

theorem maskWord_and : maskWord (m &&& n) j = maskWord m j &&& maskWord n j := by
  ext i
  simp [maskWord]

theorem maskWord_or : maskWord (m ||| n) j = maskWord m j ||| maskWord n j := by
  ext i
  simp [maskWord]

theorem maskWord_not {j : Nat} (word : j < 3) : maskWord (~~~m) j = ~~~maskWord m j := by
  ext i bit
  have lane : 32 * j + i < 96 := by omega
  simp [maskWord, lane]

end

section
variable {k j : Nat} (word : j < 3)
include word

/-- The one word of a mask that has been set. -/
theorem maskWord_setMaskWord_zero (w : Word) : maskWord (setMaskWord 0 k w) j = if j = k then w else 0 := by
  have shifted : setMaskWord 0 k w = w.setWidth 96 <<< (32 * k) := by simp [setMaskWord]
  ext i bit
  have lane : 32 * j + i < 96 := by omega
  rw [shifted]
  split
  case isTrue same =>
    subst same
    simp [maskWord, bit, lane]
  case isFalse other =>
    have beyond : 32 * k ≤ 32 * j + i → w.getLsbD (32 * j + i - 32 * k) = false := fun h => BitVec.getLsbD_of_ge w _ (by omega)
    simpa [maskWord] using fun _ h _ => beyond h

/-- A mask in which one word has been replaced in some lanes and cleared in the others. -/
theorem maskWord_replace (old own : LaneMask) (w : Word) :
    maskWord ((old &&& ~~~(setMaskWord 0 k 0xFFFFFFFF)) ||| (setMaskWord 0 k w &&& own)) j =
      if j = k then w &&& maskWord own j else maskWord old j := by
  rw [maskWord_or, maskWord_and, maskWord_and, maskWord_not _ word, maskWord_setMaskWord_zero word, maskWord_setMaskWord_zero word]
  split
  case isTrue =>
    change (maskWord old j &&& 0#32) ||| _ = _
    rw [BitVec.and_zero, BitVec.zero_or]
  case isFalse =>
    change (maskWord old j &&& BitVec.allOnes 32) ||| (0#32 &&& _) = _
    rw [BitVec.and_allOnes, BitVec.zero_and, BitVec.or_zero]

end

/-! ### Reading after a write -/

/-- The lanes that a write of s124 to s126 reaches: the members of the split that no record of its deferral stack holds (R156). -/
def ownLanes (t : Train) (sid : Nat) : LaneMask := (t.split sid).member &&& ~~~(t.heldLanes sid)

section
variable (t : Train) (sid : Nat) (v : Word)

theorem readS_mask {j : Nat} (word : j < 3) : t.readS sid (124 + j) = maskWord (t.split sid).active j := by
  have mask : 124 + j ≤ 126 := by omega
  simp [Train.readS, mask]

theorem readS_not_mask {r : Nat} (no_mask : r < 124 ∨ 126 < r) : t.readS sid r = if r = 0 then 0 else Tab.get 0 t.sregs r := by
  have no_mask : ¬ (124 ≤ r ∧ r ≤ 126) := by omega
  simp [Train.readS, no_mask]

theorem writeS_mask {k : Nat} (word : k < 3) : t.writeS sid (124 + k) v = t.updSplit sid fun sp =>
    { sp with active := (sp.active &&& ~~~(setMaskWord 0 k 0xFFFFFFFF)) |||
                          (setMaskWord 0 k v &&& (sp.member &&& ~~~(t.heldLanes sid))) } := by
  have mask : 124 + k ≤ 126 := by omega
  have writable : ¬ 124 + k ≤ 123 := by omega
  have not_mode : 124 + k ≠ 120 := by omega
  simp [Train.writeS, mask, writable, not_mode]

/-- A word of ACTIVE takes the bits of the lanes that the split owns, and reads 0 in the others (R58, R156). -/
theorem readS_writeS_mask {k : Nat} (word : k < 3) (has_split : sid < t.splits.length) :
    (t.writeS sid (124 + k) v).readS sid (124 + k) = v &&& maskWord (ownLanes t sid) k := by
  rw [readS_mask _ _ word, writeS_mask _ _ _ word, Train.split_updSplit, if_pos ⟨rfl, has_split⟩, maskWord_replace word, if_pos rfl]
  rfl

/-- A write of a scalar register keeps every other one, of every split (R56, R58). -/
theorem readS_writeS_of_ne {n r : Nat} (sid' : Nat) (other : r ≠ n) : (t.writeS sid n v).readS sid' r = t.readS sid' r := by
  by_cases no_mask : n < 124 ∨ 127 ≤ n
  case pos => exact Train.readS_writeS_other t sid sid' n r v other no_mask
  case neg =>
    obtain ⟨k, rfl⟩ : ∃ k, n = 124 + k := ⟨n - 124, by omega⟩
    have word : k < 3 := by omega
    rw [writeS_mask _ _ _ word]
    by_cases mask : 124 ≤ r ∧ r ≤ 126
    case neg => rw [readS_not_mask _ _ (by omega), readS_not_mask _ _ (by omega), Train.updSplit_sregs]
    case pos =>
      obtain ⟨j, rfl⟩ : ∃ j, r = 124 + j := ⟨r - 124, by omega⟩
      rw [readS_mask _ _ (by omega), readS_mask _ _ (by omega), Train.split_updSplit]
      split
      case isTrue mine => rw [maskWord_replace (by omega), if_neg (by omega), mine.1]
      case isFalse => rfl

/-- The two registers of a pair, or the one of a 32-bit write, are all that a write of an operand reaches. -/
theorem readS_writeSN_of_ne {n r : Nat} (sid' : Nat) (wide : Bool) (x : Nat) (other : r ≠ n ∧ (wide = true → r ≠ n + 1)) :
    (t.writeSN sid n wide x).readS sid' r = t.readS sid' r := by
  unfold Train.writeSN
  cases wide
  case false => exact readS_writeS_of_ne _ _ _ _ other.1
  case true => exact (readS_writeS_of_ne _ _ _ _ (other.2 rfl)).trans (readS_writeS_of_ne _ _ _ _ other.1)

end

theorem readV_writeSN (t : Train) (sid n : Nat) (wide : Bool) (x r l : Nat) : (t.writeSN sid n wide x).readV r l = t.readV r l := by
  unfold Train.writeSN
  cases wide <;> simp

/-! ### s120 (R40) -/

theorem and_modeFields (n : Nat) : n &&& 0x7FF8 = 2 ^ 3 * (n % 2 ^ 15 / 2 ^ 3) := by
  have fields : 0x7FF8 = (2 ^ 12 - 1) <<< 3 := rfl
  rw [fields, Nat.mul_comm, ← Nat.shiftLeft_eq, ← Nat.shiftRight_eq_div_pow]
  apply Nat.eq_of_testBit_eq
  intro i
  simp only [Nat.testBit_and, Nat.testBit_shiftLeft, Nat.testBit_shiftRight, Nat.testBit_mod_two_pow, Nat.testBit_two_pow_sub_one]
  by_cases low : i < 3
  case pos => simp [Nat.not_le_of_lt low]
  case neg =>
    obtain ⟨j, rfl⟩ := Nat.exists_eq_add_of_le (Nat.le_of_not_lt low)
    have same : 3 + j < 15 ↔ j < 12 := by omega
    simp [same, Bool.and_comm]

/-- Bits [14:3] of a mode word with three low bits below them. -/
theorem ofNat_modeFields (v : Word) {r : Nat} (three_bits : r < 8) :
    BitVec.ofNat 32 (v.toNat % 2 ^ 15 / 8 * 8 + r) = (v &&& 0x7FF8) ||| BitVec.ofNat 32 r := by
  have fields : (v &&& 0x7FF8).toNat = 2 ^ 3 * (v.toNat % 2 ^ 15 / 2 ^ 3) := and_modeFields v.toNat
  apply BitVec.eq_of_toNat_eq
  rw [BitVec.toNat_or, fields, BitVec.toNat_ofNat, BitVec.toNat_ofNat, Nat.mod_eq_of_lt (by omega : r < 2 ^ 32),
    ← Nat.two_pow_add_eq_or_of_lt three_bits]
  omega

/-- The stored mode word: bits [14:3] as given, RND 1 where it would be 0 or 7. -/
theorem modeWrite_eq (v : Word) :
    modeWrite v = (v &&& 0x7FF8) ||| (if v &&& 7 = 0 ∨ v &&& 7 = 7 then 1 else v &&& 7) := by
  have rnd : (v &&& 7).toNat = v.toNat % 8 := Nat.and_two_pow_sub_one_eq_mod v.toNat 3
  have is_zero : v &&& 7 = 0 ↔ v.toNat % 8 = 0 := by rw [← BitVec.toNat_inj, rnd]; rfl
  have is_seven : v &&& 7 = 7 ↔ v.toNat % 8 = 7 := by rw [← BitVec.toNat_inj, rnd]; rfl
  simp only [modeWrite, Bool.or_eq_true, beq_iff_eq, is_zero, is_seven]
  rw [ofNat_modeFields v (by split <;> omega)]
  split
  case isTrue => rfl
  case isFalse => rw [← rnd, BitVec.ofNat_toNat, BitVec.setWidth_eq]

end Sys2Proof.Proofs

/-! PROOFS. What the scalar majors write and what they leave unchanged (spec/05_integer_bit_instructions.md R113;
spec/03_lane_train_state.md R56, R58). -/

namespace Sys2Proof.Proofs

open Sys2Proof.Machine Sys2Proof.Safety

/-! ### The destination -/

/-- What D reads after a write of `v`: s0 discards (R56), s120 keeps its fields (R40), s124 to s126 the lanes that the split owns (R58). -/
def storedScalar (t : Train) (sid : Nat) (d : BitVec 7) (v : Word) : Word :=
  if d = 0 then 0
  else if d = 120 then (v &&& 0x7FF8) ||| (if v &&& 7 = 0 ∨ v &&& 7 = 7 then 1 else v &&& 7)
  else if 124 ≤ d.toNat ∧ d.toNat < 127 then v &&& maskWord (ownLanes t sid) (d.toNat - 124)
  else v

/-- A register number that may be a destination of a split of the train: s121 to s123 are none (R56). -/
def IsDestination (t : Train) (sid : Nat) (d : BitVec 7) : Prop :=
  d.toNat < 121 ∨ (124 ≤ d.toNat ∧ sid < t.splits.length) ∨ d.toNat = 127

theorem readS_writeS_destination {t : Train} {sid : Nat} {d : BitVec 7} (v : Word) (dest : IsDestination t sid d) :
    (t.writeS sid d.toNat v).readS sid d.toNat = storedScalar t sid d v := by
  unfold storedScalar
  split
  case isTrue discards => rw [discards]; rfl
  case isFalse kept =>
    have not_zero : d.toNat ≠ 0 := fun h => kept (BitVec.eq_of_toNat_eq h)
    split
    case isTrue mode =>
      rw [mode, ← modeWrite_eq]
      exact Tab.get_put_same 0 t.sregs 120 (modeWrite v)
    case isFalse not_mode =>
      have not_mode : d.toNat ≠ 120 := fun h => not_mode (BitVec.eq_of_toNat_eq h)
      split
      case isTrue mask =>
        have has_split : sid < t.splits.length := by
          rcases dest with low | ⟨_, has_split⟩ | last
          · omega
          · exact has_split
          · omega
        have place : d.toNat = 124 + (d.toNat - 124) := by omega
        rw [place, readS_writeS_mask _ _ _ (by omega) has_split, Nat.add_sub_cancel_left]
      case isFalse no_mask =>
        refine Train.readS_writeS_same t sid d.toNat v not_zero ?_
        rcases dest with low | ⟨high, _⟩ | last <;> omega

section
variable {me : Me} {s u : State} {i : Instr} {f : FmtS3}

/-- A 32-bit scalar word writes D alone. -/
theorem scalarInt_word {op : Nat → Nat → Nat → Nat} (narrow : f.ty.toNat < 2) (sid : Nat) (t : Train) :
    scalarInt f op sid t = t.writeS sid f.d.toNat (BitVec.ofNat 32
      (op (t.readS sid f.a.toNat).toNat (t.readS sid f.b.toNat).toNat (t.readS sid f.c.toNat).toNat)) := by
  simp [scalarInt, intWide_of_lt_two narrow, Train.readSN, Train.writeSN]

/-- D after a 32-bit word whose value the words of A and B give. -/
theorem scalarInt_stored {op : Nat → Nat → Nat → Nat} {word : Word → Word → Word} (narrow : f.ty.toNat < 2)
    (dest : IsDestination (me.train s) me.sid f.d) (value : ∀ x y c, BitVec.ofNat 32 (op x.toNat y.toNat c) = word x y)
    (h : ready me i s) (next : (issueTrain i s fun me _ => scalarInt f op me.sid) = .next u) :
    (u.train me.tid).readS me.sid f.d.toNat = storedScalar (me.train s) me.sid f.d
      (word ((me.train s).readS me.sid f.a.toNat) ((me.train s).readS me.sid f.b.toNat)) := by
  rw [issueTrain_ready h] at next
  rw [readS_of_trainDone next, if_pos rfl, scalarInt_word narrow, value, readS_writeS_destination _ dest]

theorem scalarArith_stored {op : Int → Int → Int} {word : Word → Word → Word} (narrow : f.ty.toNat < 2) (no_sat : f.sat = 0)
    (dest : IsDestination (me.train s) me.sid f.d)
    (value : ∀ (x y : Word) c, BitVec.ofNat 32 (intOp (fun x y _ => op x y) f.ty.toNat false x.toNat y.toNat c) = word x y)
    (h : ready me i s) (next : (issueTrain i s fun me _ => scalarArith f op me.sid) = .next u) :
    (u.train me.tid).readS me.sid f.d.toNat = storedScalar (me.train s) me.sid f.d
      (word ((me.train s).readS me.sid f.a.toNat) ((me.train s).readS me.sid f.b.toNat)) := by
  have wraps : (f.sat == 1) = false := by rw [no_sat]; rfl
  have unsaturated : scalarArith f op = scalarInt f fun a b c => intOp (fun x y _ => op x y) f.ty.toNat false a b c := by
    funext sid t
    rw [scalarArith, wraps]
  rw [unsaturated] at next
  exact scalarInt_stored narrow dest value h next

/-- D after SADDI. -/
theorem saddi_stored {g : FmtSI} (dest : IsDestination (me.train s) me.sid g.d) (h : ready me i s)
    (next : (issueTrain i s fun me _ => saddiOn g me.sid) = .next u) :
    (u.train me.tid).readS me.sid g.d.toNat =
      storedScalar (me.train s) me.sid g.d ((me.train s).readS me.sid g.a.toNat + g.imm) := by
  rw [issueTrain_ready h] at next
  rw [readS_of_trainDone next, if_pos rfl, saddiOn, readS_writeS_destination _ dest]

end

/-- Settles O9: a write of D reads back as `storedScalar`, and each of the seven words writes the value modulo 2^32. -/
theorem scalarRegisterTakesResult : Obligations.ScalarRegisterTakesResult := by
  intro me s u f g narrow no_sat dest same_d
  simp only [exec_sadd, exec_ssub, exec_smul, exec_sand, exec_sor, exec_sxor, exec_saddi]
  refine ⟨scalarArith_stored narrow no_sat dest (ofNat_intOp_add narrow),
    scalarArith_stored narrow no_sat dest (ofNat_intOp_sub narrow), scalarArith_stored narrow no_sat dest (ofNat_intOp_mul narrow),
    scalarInt_stored narrow dest fun x y _ => ofNat_land x y, scalarInt_stored narrow dest fun x y _ => ofNat_lor x y,
    scalarInt_stored narrow dest fun x y _ => ofNat_xor x y, ?saddi⟩
  case saddi =>
    rw [← same_d] at dest ⊢
    exact saddi_stored dest

/-! ### The frame -/

/-- The scalar majors that write D, or the pair of D for a 64-bit TYPE. -/
def scalarPairMajors (f : FmtS3) : List Instr :=
  [.sadd f, .ssub f, .smul f, .smulhi f, .smin f, .smax f, .sand f, .sor f, .sxor f, .sshl f, .sshr f, .sbfx f, .sbfi f, .sclz f,
    .spopc f, .sffs f, .smov f, .ssel f]

/-- The scalar majors that write the single register D whatever TYPE says (R114, R116). -/
def scalarWordMajors (f : FmtS3) : List Instr := [.scmp f, .smcnt f, .smfirst f]

section
variable {f : FmtS3} {i : Instr}

theorem exec_scalarPairMajors (major : i ∈ scalarPairMajors f) : ∃ v : Me → Train → Nat, ∀ s, exec i s =
    issueTrain i s fun me _ t => t.writeSN me.sid f.d.toNat (intWide f.ty.toNat) (v me t) := by
  revert i
  simp only [scalarPairMajors, List.forall_mem_cons, List.not_mem_nil, false_imp_iff, implies_true, and_true]
  and_intros <;> exact ⟨_, fun _ => rfl⟩

theorem exec_scalarWordMajors (major : i ∈ scalarWordMajors f) : ∃ v : Me → Train → Word, ∀ s, exec i s =
    issueTrain i s fun me _ t => t.writeS me.sid f.d.toNat (v me t) := by
  revert i
  simp only [scalarWordMajors, List.forall_mem_cons, List.not_mem_nil, false_imp_iff, implies_true, and_true]
  and_intros <;> exact ⟨_, fun _ => rfl⟩

theorem not_mem_scalarWordMajors (major : i ∈ scalarPairMajors f) : i ∉ scalarWordMajors f := by
  revert i
  simp [scalarPairMajors, scalarWordMajors]

end

section
variable {s u : State} {i : Instr} {V S : Nat → Prop}

/-- A word that writes an operand's registers alone keeps memory, every vector register and every other scalar register. -/
theorem issuerFrame_writeSN {n : Nat} {wide : Bool} {v : Me → Train → Nat}
    (next : (issueTrain i s fun me _ t => t.writeSN me.sid n wide (v me t)) = .next u)
    (covers : ∀ r, r = n ∨ (wide = true ∧ r = n + 1) → S r) : IssuerFrame V S s u := by
  refine issuerFrame_issueTrain next (fun me t r l _ => readV_writeSN ..) fun me t sid r other => ?scalar
  case scalar =>
    exact readS_writeSN_of_ne _ _ _ _ _ ⟨fun h => other (covers r (.inl h)), fun wide h => other (covers r (.inr ⟨wide, h⟩))⟩

/-- A word that writes one scalar register keeps memory, every vector register and every other scalar register. -/
theorem issuerFrame_writeS {n : Nat} {v : Me → Train → Word}
    (next : (issueTrain i s fun me _ t => t.writeS me.sid n (v me t)) = .next u) (covers : S n) : IssuerFrame V S s u := by
  refine issuerFrame_issueTrain next (fun me t r l _ => Train.writeS_readV ..) fun me t sid r other => ?scalar
  case scalar => exact readS_writeS_of_ne _ _ _ _ fun h => other (h ▸ covers)

/-- The frame of a word that writes no vector register. -/
theorem scalarFrame_of_issuerFrame (frame : IssuerFrame (fun _ => False) S s u) :
    sameMemory s u ∧ sameV (fun _ _ => False) s u ∧ sameS (fun k r => (∃ me, issuer s = some me ∧ k = me.tid) ∧ S r) s u :=
  ⟨frame.1, sameV_mono (fun _ _ h => h.2) frame.2.1, frame.2.2⟩

end

/-- Settles O10: each scalar major writes the register, or the pair, that its clause names. -/
theorem scalarFrame : Obligations.ScalarFrame := by
  intro s u f g i next
  refine ⟨fun immediate => scalarFrame_of_issuerFrame ?immediate, fun major => scalarFrame_of_issuerFrame ?major⟩
  case immediate =>
    simp only [List.mem_cons, List.not_mem_nil, or_false] at immediate
    rcases immediate with rfl | rfl
    case inl =>
      rw [exec_smovi] at next
      exact issuerFrame_writeS next (by simp)
    case inr =>
      rw [exec_saddi] at next
      exact issuerFrame_writeS next (by simp)
  case major =>
    rcases List.mem_append.mp (show i ∈ scalarPairMajors f ++ scalarWordMajors f from major) with pair | word
    case inl =>
      obtain ⟨v, writes⟩ := exec_scalarPairMajors pair
      rw [writes] at next
      refine issuerFrame_writeSN next ?_
      rintro r (low | ⟨wide, high⟩)
      · exact .inl low
      · exact .inr ⟨of_decide_eq_true wide, high, not_mem_scalarWordMajors pair⟩
    case inr =>
      obtain ⟨v, writes⟩ := exec_scalarWordMajors word
      rw [writes] at next
      exact issuerFrame_writeS next (.inl rfl)

end Sys2Proof.Proofs

/-! PROOFS. Completion of the floating, conversion and cross-lane majors (spec/06_float_convert_crosslane.md R118 to R143;
spec/07_control_split_rung_instructions.md R175, R176): the operation that forms each, and what a ready one leads to where no trap is
enabled. -/

namespace Sys2Proof.Proofs

open Sys2Proof.Machine Sys2Proof.Safety

/-! ### The meaning of each major, by the shared operation that forms it (Tables 6.1 to 6.9) -/

section
variable (f : FmtV3) (s : State)

theorem exec_vfadd : exec (.vfadd f) s =
    vecFltOp (.vfadd f) f f.rnd.toNat (f.sat == 1) (fun r x y _ => invFlag (FNum.add (r == 4) x y)) s := rfl
theorem exec_vfsub : exec (.vfsub f) s =
    vecFltOp (.vfsub f) f f.rnd.toNat (f.sat == 1) (fun r x y _ => invFlag (FNum.add (r == 4) x y.negate)) s := rfl
theorem exec_vfmul : exec (.vfmul f) s =
    vecFltOp (.vfmul f) f f.rnd.toNat (f.sat == 1) (fun _ x y _ => invFlag (FNum.mul x y)) s := rfl
theorem exec_vfma : exec (.vfma f) s =
    vecFltOp (.vfma f) f f.rnd.toNat (f.sat == 1) (fun r x y z => invFlag (FNum.fma (r == 4) x y z)) s := rfl
theorem exec_vfdiv : exec (.vfdiv f) s =
    vecFltOp (.vfdiv f) f f.rnd.toNat (f.sat == 1) (fun _ x y _ => FNum.div x y) s := rfl
theorem exec_vfsqrt : exec (.vfsqrt f) s =
    vecFltOp (.vfsqrt f) f f.rnd.toNat (f.sat == 1) (fun _ x _ _ => x.sqrt) s := rfl
theorem exec_vfmin : exec (.vfmin f) s = vecFltOp (.vfmin f) f 1 false (fun _ x y _ => FNum.pick false (f.minor == 1) x y) s := rfl
theorem exec_vfmax : exec (.vfmax f) s = vecFltOp (.vfmax f) f 1 false (fun _ x y _ => FNum.pick true (f.minor == 1) x y) s := rfl
theorem exec_vfrcp : exec (.vfrcp f) s = vecApprox (.vfrcp f) 0 f s := rfl
theorem exec_vfrsq : exec (.vfrsq f) s = vecApprox (.vfrsq f) 1 f s := rfl
theorem exec_vfexp2 : exec (.vfexp2 f) s = vecApprox (.vfexp2 f) 2 f s := rfl
theorem exec_vflog2 : exec (.vflog2 f) s = vecApprox (.vflog2 f) 3 f s := rfl
theorem exec_vfsin : exec (.vfsin f) s = vecApprox (.vfsin f) 4 f s := rfl
theorem exec_vfcos : exec (.vfcos f) s = vecApprox (.vfcos f) 5 f s := rfl
theorem exec_vfrnd : exec (.vfrnd f) s = execVfrnd f s := rfl
theorem exec_vffract : exec (.vffract f) s = execVffract f s := rfl
theorem exec_vfldexp : exec (.vfldexp f) s = execVfldexp f s := rfl
theorem exec_vfcvt : exec (.vfcvt f) s = execVfcvt f s := rfl
theorem exec_vcvtfi : exec (.vcvtfi f) s = execVcvtfi f s := rfl
theorem exec_vcvtif : exec (.vcvtif f) s = execVcvtif f s := rfl
theorem exec_vpack : exec (.vpack f) s = execVpack f s := rfl
theorem exec_vunpk : exec (.vunpk f) s = execVunpk f s := rfl
theorem exec_vfdot2 : exec (.vfdot2 f) s = execVfdot2 f s := rfl
theorem exec_vfclass : exec (.vfclass f) s = execVfclass f s := rfl
theorem exec_vfcmp : exec (.vfcmp f) s = execVfcmp f s := rfl
theorem exec_vshuf : exec (.vshuf f) s = execVshuf f s := rfl
theorem exec_vbcast : exec (.vbcast f) s = execVbcast f s := rfl
theorem exec_vredu : exec (.vredu f) s = execVredu f s := rfl
theorem exec_vscan : exec (.vscan f) s = execVscan f s := rfl
theorem exec_vderiv : exec (.vderiv f) s = execVderiv f s := rfl
theorem exec_vinterp : exec (.vinterp f) s = execVinterp f s := rfl

end

/-! ### The generators -/

section
variable (t : Train) (r : Nat) (m : LaneMask) (n : Nat)

/-- The generators advance under code 6 alone (R36). -/
theorem advance_of_ne_six {r : Nat} (determined : r ≠ 6) : t.advance r m n = t :=
  if_neg (ne_true_of_eq_false (beq_false_of_ne determined))

/-- The generators are all that an advance changes. -/
theorem advance_shape : ∃ gens, t.advance r m n = { t with gens := gens } := by
  unfold Train.advance
  split
  · exact ⟨_, rfl⟩
  · exact ⟨t.gens, rfl⟩

@[simp] theorem advance_sregs : (t.advance r m n).sregs = t.sregs := by
  obtain ⟨_, h⟩ := advance_shape t r m n
  rw [h]

@[simp] theorem advance_mode : (t.advance r m n).mode = t.mode :=
  congrArg (Tab.get 0 · 120) (advance_sregs t r m n)

end

/-- The rounding code and the traps do not depend on the generators. -/
theorem train_advance_mode (me : Me) (s : State) (r : Nat) (m : LaneMask) (n : Nat) :
    (me.train (s.updTrain me.tid fun t => t.advance r m n)).mode = (me.train s).mode := by
  rw [Me.train, State.train_updTrain_same, advance_mode]
  rfl

/-! ### Completion without a trap -/

/-- The effect of a ready floating word: the generators advance, and it completes (R36, R121). -/
theorem vecFlt_issues {i : Instr} {me : Me} {s : State} {d : BitVec 9} {wide : Bool} {rnd adv : Nat}
    {val : Me → State → Train → Nat → Nat → Nat × Flags} (h : ready me i s) :
    let r := effectiveRnd (me.train s).mode rnd
    vecFlt i d wide rnd adv val s = .next (completeFloat me (me.active s) (fun l => (val me s (me.train s) r l).2)
      (fun t m => writeDst t m d.toNat wide fun l => (val me s (me.train s) r l).1)
      (s.updTrain me.tid fun t => t.advance r (me.active s) adv)) :=
  issue_ready h.1 h.2.1 h.2.2

section
variable {i : Instr} {me : Me} {s : State} {f : FmtV3} (untrapped : trapEnables (me.train s).mode = 0)
include untrapped

/-- A ready floating word writes each active lane's value and the flags of them all (R41, R121). -/
theorem vecFlt_ready {d : BitVec 9} {wide : Bool} {rnd adv : Nat} {val : Me → State → Train → Nat → Nat → Nat × Flags}
    (h : ready me i s) :
    vecFlt i d wide rnd adv val s = floatDone me s d.toNat wide (effectiveRnd (me.train s).mode rnd) adv
      (val me s (me.train s) (effectiveRnd (me.train s).mode rnd)) := by
  rw [vecFlt_issues h, completeFloat_untrapped (by rw [train_advance_mode, untrapped])]
  rfl

/-- A ready element-wise word rounds its operation of each element once (R120). -/
theorem vecFltOp_ready {rnd : Nat} {sat : Bool} {op : Nat → FNum → FNum → FNum → FNum × Flags} (h : ready me i s) :
    let t := me.train s
    let fmt := floatType f.ty.toNat
    let r := effectiveRnd t.mode rnd
    vecFltOp i f rnd sat op s = floatDone me s f.d.toNat (floatWide f.ty.toNat) r (floatElems f.ty.toNat) fun l =>
      t.roundElems fmt r sat l ((List.range (floatElems f.ty.toNat)).map fun k =>
        op r (fltVal me s t f fmt f.a 2 l k) (fltVal me s t f fmt f.b 1 l k) (fltVal me s t f fmt f.c 0 l k)) := by
  intro t fmt r
  rw [vecFltOp]
  exact vecFlt_ready untrapped h

/-- A ready function of Table 6.4 takes its code for each element and rounds nothing (R128). -/
theorem vecApprox_ready {fn : Nat} (h : ready me i s) :
    let t := me.train s
    let fmt := floatType f.ty.toNat
    vecApprox i fn f s = floatDone me s f.d.toNat false 1 0 fun l =>
      let rs := (List.range (floatElems f.ty.toNat)).map fun k =>
        approxOp fn fmt (f.sat == 1) (modeDaz t.mode) (modeFtz t.mode)
          (fltElem s t me.sid fmt f.a.toNat l k (f.neg.toNat.testBit 2) (f.abs.toNat.testBit 2))
      (packElems fmt.width (rs.map (·.1)), rs.foldl (fun m x => m ||| x.2) 0) := by
  intro t fmt
  rw [vecApprox]
  exact vecFlt_ready untrapped h

/-- Any other ready word that completes as a floating one writes by its own destination. -/
theorem issue_completeFloat_ready {act : Me → State → LaneMask} {fl : Me → State → Nat → Flags}
    {write : Me → State → Train → LaneMask → Train} (h : ready me i s) :
    (issue i s fun me s => completeFloat me (act me s) (fl me s) (write me s) s) =
      trainDone me s fun t => sticky (orFlags (act me s) (fl me s)) (write me s t (act me s)) := by
  rw [issue_ready h.1 h.2.1 h.2.2, completeFloat_untrapped untrapped]
  rfl

end

/-- Settles O11: each major is `vecFltOp` of its operation of Table 6.1, or `vecApprox` of its function. -/
theorem floatArithmeticCompletes : Obligations.FloatArithmeticCompletes := by
  intro me s f untrapped
  simp only [exec_vfadd, exec_vfsub, exec_vfmul, exec_vfma, exec_vfdiv, exec_vfsqrt, exec_vfmin, exec_vfmax, exec_vfrcp, exec_vfrsq,
    exec_vfexp2, exec_vflog2, exec_vfsin, exec_vfcos]
  exact ⟨vecFltOp_ready untrapped, vecFltOp_ready untrapped, vecFltOp_ready untrapped, vecFltOp_ready untrapped,
    vecFltOp_ready untrapped, vecFltOp_ready untrapped, vecFltOp_ready untrapped, vecFltOp_ready untrapped,
    vecApprox_ready untrapped, vecApprox_ready untrapped, vecApprox_ready untrapped, vecApprox_ready untrapped,
    vecApprox_ready untrapped, vecApprox_ready untrapped⟩

/-- Settles O12: each conversion is `vecFlt` of its rule's value, and VFCLASS changes its train alone. -/
theorem floatConversionsComplete : Obligations.FloatConversionsComplete := by
  intro me s f untrapped
  simp only [exec_vfrnd, exec_vffract, exec_vfldexp, exec_vfcvt, exec_vcvtfi, exec_vcvtif, exec_vpack, exec_vunpk, exec_vfdot2,
    exec_vfclass, execVfrnd, execVffract, execVfldexp, execVfcvt, execVcvtfi, execVcvtif, execVpack, execVunpk, execVfdot2]
  exact ⟨vecFlt_ready untrapped, vecFlt_ready untrapped, vecFlt_ready untrapped, vecFlt_ready untrapped, vecFlt_ready untrapped,
    vecFlt_ready untrapped, vecFlt_ready untrapped, vecFlt_ready untrapped, vecFlt_ready untrapped, issueTrain_ready⟩

/-- The active lanes' outcomes, where no lane keeps its bit (R125). -/
theorem outcomes_of_all_written (act res old : LaneMask) : (act &&& res) ||| (act &&& ~~~act &&& old) = act &&& res := by
  ext l
  simp

/-- Settles O13: VFCMP, VREDU and VSCAN complete as floating words by their own destinations, VDERIV is `vecFlt` of its difference,
and the other three change their train alone. -/
theorem crossLaneCompletes : Obligations.CrossLaneCompletes := by
  intro me s f untrapped
  simp only [exec_vfcmp, exec_vshuf, exec_vbcast, exec_vredu, exec_vscan, exec_vderiv, exec_vinterp]
  refine ⟨fun h => ?vfcmp, issueTrain_ready, issueTrain_ready, fun h => ?vredu, issue_completeFloat_ready untrapped,
    vecFlt_ready untrapped, issueTrain_ready⟩
  case vfcmp =>
    refine (issue_completeFloat_ready untrapped h).trans (congrArg (trainDone me s) (funext fun t => ?_))
    dsimp only
    rw [outcomes_of_all_written]
  case vredu =>
    refine (issue_completeFloat_ready untrapped h).trans (congrArg (trainDone me s) (funext fun t => ?_))
    simp only [trapLanes_none untrapped]
    rfl

end Sys2Proof.Proofs

/-! PROOFS. The frame of the floating majors (spec/02_number_formats.md R36, R40, R41; spec/05_integer_bit_instructions.md R91;
spec/06_float_convert_crosslane.md R121): what the writes of a floating word, its retirement and its fault leave unchanged. -/

namespace Sys2Proof.Proofs

open Sys2Proof.Machine Sys2Proof.Safety

/-! ### The generators after a retirement or a fault -/

section
variable (me : Me) (s : State) (recs : List FaultRec) (k : Nat)

theorem retire_gens : ((retire me s).train k).gens = (s.train k).gens := by
  obtain ⟨f, -, trains⟩ := retire_train me s
  rw [trains]
  split
  case isTrue mine => rw [mine, Train.updSplit_gens]
  case isFalse => rfl

theorem updSplit_gens (f : Split → Split) : ((s.updSplit me f).train k).gens = (s.train k).gens := by
  rw [State.train_updSplit]
  split
  case isTrue mine => rw [mine, Train.updSplit_gens]
  case isFalse => rfl

theorem parkSplit_gens : ((parkSplit me recs s).train k).gens = (s.train k).gens := by
  cases holds : s.holdsEvent me.tid
  case false =>
    rw [parkSplit_train _ _ _ holds]
    split
    case isTrue mine => rw [mine, Train.updSplit_gens]
    case isFalse => rfl
  case true =>
    have nested : parkSplit me recs s = parkNested me (recs.headD default) s := if_pos holds
    rw [nested, parkNested_train]
    split
    case isTrue mine => rw [mine, Train.updSplit_gens]
    case isFalse => rfl

theorem takeFault_gens : ((takeFault s me recs).train k).gens = (s.train k).gens := by
  rw [takeFault_train, parkSplit_gens]

theorem faultWith_gens : ((faultWith s me recs).train k).gens = (s.train k).gens := by
  unfold faultWith
  dsimp only
  split <;> simp only [takeFault_gens, updSplit_gens]

theorem operandsFirst_gens (i : Instr) : ((operandsFirst i me s).train k).gens = (s.train k).gens := by
  unfold operandsFirst
  split
  case isTrue =>
    unfold brokenFault
    split <;> exact faultWith_gens ..
  case isFalse =>
    rw [State.train_updTrain]
    split
    case isTrue mine => rw [mine]; rfl
    case isFalse => rfl

end

/-! ### The sticky bits -/

section
variable (any : Flags) (t : Train)

/-- Sticky bits are bits [14:10] of s120 (Table 2.6). -/
theorem stickyOr_outside (mode : Word) : stickyOr mode any &&& ~~~0x7C00 = mode &&& ~~~0x7C00 := by
  have inside : (any.setWidth 32 <<< 10) &&& ~~~(0x7C00 : Word) = 0 := by
    revert any
    decide
  refine (BitVec.and_or_distrib_right : stickyOr mode any &&& _ = _).trans ?_
  rw [inside]
  exact BitVec.or_zero

@[simp] theorem sticky_vregs : (sticky any t).vregs = t.vregs := by
  unfold sticky
  split <;> rfl

@[simp] theorem sticky_splits : (sticky any t).splits = t.splits := by
  unfold sticky
  split <;> rfl

@[simp] theorem sticky_gens : (sticky any t).gens = t.gens := by
  unfold sticky
  split <;> rfl

@[simp] theorem sticky_readV (r l : Nat) : (sticky any t).readV r l = t.readV r l := by
  simp [Train.readV]

theorem sticky_readS_of_ne (sid : Nat) {r : Nat} (other : r ≠ 120) : (sticky any t).readS sid r = t.readS sid r := by
  unfold sticky
  split
  case isTrue => rfl
  case isFalse => simp [Train.readS, Train.split, Tab.get_put_ne _ _ _ _ _ other]

theorem sticky_mode_outside : (sticky any t).mode &&& ~~~0x7C00 = t.mode &&& ~~~0x7C00 := by
  unfold sticky
  split
  case isTrue => rfl
  case isFalse =>
    have stored : ({ t with sregs := Tab.put t.sregs 120 (stickyOr t.mode any) } : Train).mode = stickyOr t.mode any :=
      Tab.get_put_same ..
    rw [stored, stickyOr_outside]

end

theorem readS_mode (t : Train) (sid : Nat) : t.readS sid 120 = t.mode := rfl

/-! ### The two ends of a floating word -/

/-- The state in which a floating word has written its destination in the lanes that do not trap, and its sticky bits (R41, R121). -/
def floatWritten (me : Me) (act : LaneMask) (fl : Nat → Flags) (write : Train → LaneMask → Train) (s : State) : State :=
  s.updTrain me.tid fun t => sticky (orFlags act fl) (write t (act &&& ~~~(trapLanes (me.train s).mode act fl)))

/-- The records of the lanes that trap, in ascending order (R41, R405). -/
def trapRecs (me : Me) (s : State) (fl : Nat → Flags) (traps : LaneMask) : List FaultRec :=
  laneRecs me s 0 0 ((lanesOf traps).map fun l => (l, Kind.fpTrap, 0, (fl l).setWidth 32))

section
variable {me : Me} {act : LaneMask} {fl : Nat → Flags} {write : Train → LaneMask → Train} {s : State}

theorem completeFloat_retires (untrapped : trapLanes (me.train s).mode act fl = 0) :
    completeFloat me act fl write s = retire me (floatWritten me act fl write s) :=
  if_pos (beq_iff_eq.mpr untrapped)

theorem completeFloat_traps (traps : trapLanes (me.train s).mode act fl ≠ 0) :
    completeFloat me act fl write s = faultWith (floatWritten me act fl write s) me
      (trapRecs me (floatWritten me act fl write s) fl (trapLanes (me.train s).mode act fl)) :=
  if_neg (mt beq_iff_eq.mp traps)

variable (me act fl write s)

/-- A floating word retires or faults once it has written. -/
theorem completeFloat_ends : completeFloat me act fl write s = retire me (floatWritten me act fl write s) ∨
    ∃ recs, completeFloat me act fl write s = faultWith (floatWritten me act fl write s) me recs := by
  by_cases untrapped : trapLanes (me.train s).mode act fl = 0
  case pos => exact .inl (completeFloat_retires untrapped)
  case neg => exact .inr ⟨_, completeFloat_traps untrapped⟩

theorem completeFloat_memory : sameMemory s (completeFloat me act fl write s) := by
  rcases completeFloat_ends me act fl write s with h | ⟨recs, h⟩ <;> rw [h]
  case inl => exact ⟨retire_mem .., retire_lines .., retire_wgs ..⟩
  case inr => exact ⟨faultWith_mem .., faultWith_lines .., faultWith_wgs ..⟩

variable {me act fl write s} (k : Nat)

theorem completeFloat_readV (r l : Nat) : ((completeFloat me act fl write s).train k).readV r l =
    ((floatWritten me act fl write s).train k).readV r l := by
  rcases completeFloat_ends me act fl write s with h | ⟨recs, h⟩ <;> rw [h]
  case inl => exact retire_readV ..
  case inr => exact faultWith_readV ..

theorem completeFloat_readS (sid r : Nat) : ((completeFloat me act fl write s).train k).readS sid r =
    ((floatWritten me act fl write s).train k).readS sid r := by
  rcases completeFloat_ends me act fl write s with h | ⟨recs, h⟩ <;> rw [h]
  case inl => exact retire_readS ..
  case inr => exact faultWith_readS ..

theorem completeFloat_gens : ((completeFloat me act fl write s).train k).gens =
    ((floatWritten me act fl write s).train k).gens := by
  rcases completeFloat_ends me act fl write s with h | ⟨recs, h⟩ <;> rw [h]
  case inl => exact retire_gens ..
  case inr => exact faultWith_gens ..

end

/-! ### The frame of the writes -/

/-- The v registers that a destination names: D, and its odd partner where the result is 64 bits (R55). -/
def destRegs (d : Nat) (wide : Bool) (r : Nat) : Prop := r = d ∨ (wide = true ∧ r = d + 1)

theorem readV_writeDst_of_not_dest {t : Train} {m : LaneMask} {d r : Nat} (l : Nat) {wide : Bool} {v : Nat → Nat}
    (other : ¬ destRegs d wide r) : (writeDst t m d wide v).readV r l = t.readV r l :=
  readV_writeDst_other _ _ _ _ _ _ _ ⟨fun h => other (.inl h), fun wide h => other (.inr ⟨wide, h⟩)⟩

section
variable {me : Me} {act : LaneMask} {fl : Nat → Flags} {d : Nat} {wide : Bool} {v : Nat → Nat} {s : State} (k : Nat)

/-- A train after the writes of a floating word: the issuer's has taken its destination and the sticky bits. -/
theorem floatWritten_train (write : Train → LaneMask → Train) : (floatWritten me act fl write s).train k =
    if k = me.tid then sticky (orFlags act fl) (write (s.train k) (act &&& ~~~(trapLanes (me.train s).mode act fl)))
    else s.train k := by
  rw [floatWritten, State.train_updTrain]
  split
  case isTrue mine => rw [mine]
  case isFalse => rfl

theorem floatWritten_readV {r : Nat} (l : Nat) (other : ¬ (k = me.tid ∧ destRegs d wide r)) :
    ((floatWritten me act fl (fun t m => writeDst t m d wide v) s).train k).readV r l = (s.train k).readV r l := by
  rw [floatWritten_train]
  split
  case isTrue mine => rw [sticky_readV, readV_writeDst_of_not_dest l fun h => other ⟨mine, h⟩]
  case isFalse => rfl

theorem floatWritten_readS (sid : Nat) {r : Nat} (other : r ≠ 120) :
    ((floatWritten me act fl (fun t m => writeDst t m d wide v) s).train k).readS sid r = (s.train k).readS sid r := by
  rw [floatWritten_train]
  split
  case isTrue => rw [sticky_readS_of_ne _ _ _ other, writeDst_readS]
  case isFalse => rfl

theorem floatWritten_mode : ((floatWritten me act fl (fun t m => writeDst t m d wide v) s).train k).mode &&& ~~~0x7C00 =
    (s.train k).mode &&& ~~~0x7C00 := by
  rw [floatWritten_train]
  split
  case isTrue => rw [sticky_mode_outside, ← readS_mode _ 0, writeDst_readS, readS_mode]
  case isFalse => rfl

theorem floatWritten_gens :
    ((floatWritten me act fl (fun t m => writeDst t m d wide v) s).train k).gens = (s.train k).gens := by
  rw [floatWritten_train]
  split
  case isTrue => rw [sticky_gens, writeDst_gens]
  case isFalse => rfl

end

/-! ### The frame of a floating word -/

/-- What a floating word keeps: memory, the scalar registers but the sticky bits of s120, the generators but under code 6, and the v
registers but those of the issuer's train that `V` names. -/
structure FloatKeeps (V : Nat → Prop) (rnd : Nat) (s u : State) : Prop where
  memory : sameMemory s u
  scalar : sameS (fun _ r => r = 120) s u
  mode : ∀ k, (u.train k).mode &&& ~~~0x7C00 = (s.train k).mode &&& ~~~0x7C00
  gens : ∀ k, effectiveRnd (s.train k).mode rnd ≠ 6 → (u.train k).gens = (s.train k).gens
  vector : sameV (fun k r => (∃ me, issuer s = some me ∧ k = me.tid) ∧ V r) s u

/-- The state in which a floating word writes: it differs at most in the generators, and in these under code 6 alone (R36). -/
def OnlyGensDiffer (rnd : Nat) (s p : State) : Prop :=
  sameMemory s p ∧ ∀ k, ∃ gens, p.train k = { s.train k with gens := gens } ∧
    (effectiveRnd (s.train k).mode rnd ≠ 6 → gens = (s.train k).gens)

theorem onlyGensDiffer_refl (rnd : Nat) (s : State) : OnlyGensDiffer rnd s s :=
  ⟨⟨rfl, rfl, rfl⟩, fun _ => ⟨_, rfl, fun _ => rfl⟩⟩

theorem onlyGensDiffer_advance {rnd rnd' : Nat} (rounds : ∀ mode, effectiveRnd mode rnd ≠ 6 → effectiveRnd mode rnd' ≠ 6) (me : Me)
    (s : State) (m : LaneMask) (n : Nat) :
    OnlyGensDiffer rnd s (s.updTrain me.tid fun t => t.advance (effectiveRnd (me.train s).mode rnd') m n) := by
  refine ⟨⟨rfl, rfl, rfl⟩, fun k => ?_⟩
  rw [State.train_updTrain]
  split
  case isTrue mine =>
    subst mine
    by_cases determined : effectiveRnd (me.train s).mode rnd' = 6
    case pos =>
      obtain ⟨gens, shape⟩ := advance_shape (s.train me.tid) (effectiveRnd (me.train s).mode rnd') m n
      exact ⟨gens, shape, fun h => absurd determined (rounds _ h)⟩
    case neg => exact ⟨_, advance_of_ne_six _ m n determined, fun _ => rfl⟩
  case isFalse => exact ⟨_, rfl, fun _ => rfl⟩

section
variable {V : Nat → Prop} {rnd : Nat} {i : Instr} {s u : State}

/-- What keeps every scalar register and every generator keeps s120 too. -/
theorem floatKeeps_of_issuerFrame (frame : IssuerFrame V (fun _ => False) s u) (gens : ∀ k, (u.train k).gens = (s.train k).gens) :
    FloatKeeps V rnd s u := by
  obtain ⟨memory, vector, scalar⟩ := frame
  have scalar (k sid r : Nat) : (u.train k).readS sid r = (s.train k).readS sid r := scalar k sid r fun h => h.2
  refine ⟨memory, fun k sid r _ => scalar k sid r, fun k => ?mode, fun k _ => gens k, vector⟩
  case mode => rw [← readS_mode _ 0, scalar, readS_mode]

/-- A word that changes its train alone, and in it a destination, has the frame of a floating word. -/
theorem floatKeeps_issueTrain {d : Nat} {wide : Bool} {m : Me → State → LaneMask} {v : Me → State → Train → Nat → Nat}
    (next : (issueTrain i s fun me s t => writeDst t (m me s) d wide (v me s t)) = .next u) :
    FloatKeeps (destRegs d wide) rnd s u := by
  refine floatKeeps_of_issuerFrame (issuerFrame_issueTrain next (fun me t r l other => readV_writeDst_of_not_dest l other)
    fun me t sid r _ => writeDst_readS ..) fun k => ?gens
  case gens =>
    obtain ⟨me, -, ⟨_, rfl⟩ | ⟨-, rfl⟩ | ⟨-, -, rfl⟩⟩ := issue_next next
    · rfl
    · exact operandsFirst_gens ..
    · rw [retire_gens, State.train_updTrain]
      split
      case isTrue mine => rw [mine, writeDst_gens]
      case isFalse => rfl

/-- The effect of a floating word has its frame. -/
theorem floatKeeps_completeFloat {me : Me} {act : LaneMask} {fl : Nat → Flags} {d : Nat} {wide : Bool} {v : Nat → Nat} {p : State}
    (issues : issuer s = some me) (before : OnlyGensDiffer rnd s p) :
    FloatKeeps (destRegs d wide) rnd s (completeFloat me act fl (fun t m => writeDst t m d wide v) p) := by
  obtain ⟨memory, trains⟩ := before
  have readS (k sid r : Nat) : (p.train k).readS sid r = (s.train k).readS sid r := by
    obtain ⟨_, train, -⟩ := trains k
    rw [train]
    rfl
  refine ⟨?memory, fun k sid r other => ?scalar, fun k => ?mode, fun k determined => ?gens, fun k r l other => ?vector⟩
  case memory =>
    obtain ⟨mem, lines, wgs⟩ := completeFloat_memory me act fl (fun t m => writeDst t m d wide v) p
    exact ⟨mem.trans memory.1, lines.trans memory.2.1, wgs.trans memory.2.2⟩
  case scalar => rw [completeFloat_readS, floatWritten_readS k sid other, readS]
  case mode =>
    rw [← readS_mode _ 0, completeFloat_readS, readS_mode, floatWritten_mode, ← readS_mode _ 0, readS, readS_mode]
  case gens =>
    obtain ⟨_, train, same⟩ := trains k
    rw [completeFloat_gens, floatWritten_gens, train, ← same determined]
  case vector =>
    obtain ⟨_, train, -⟩ := trains k
    rw [completeFloat_readV, floatWritten_readV k l fun h => other ⟨⟨me, issues, h.1⟩, h.2⟩, train]
    rfl

/-- Whatever a floating word leads to, a stall and a fault at its operands included, has its frame. -/
theorem floatKeeps_issue {act : Me → State → LaneMask} {fl : Me → State → Nat → Flags} {d : Nat} {wide : Bool}
    {v : Me → State → Nat → Nat} {before : Me → State → State}
    (next : (issue i s fun me s => completeFloat me (act me s) (fl me s) (fun t m => writeDst t m d wide (v me s)) (before me s)) =
      .next u)
    (onlyGens : ∀ me, OnlyGensDiffer rnd s (before me s)) : FloatKeeps (destRegs d wide) rnd s u := by
  obtain ⟨me, issues, ⟨k, rfl⟩ | ⟨-, rfl⟩ | ⟨-, -, rfl⟩⟩ := issue_next next
  · exact floatKeeps_of_issuerFrame (issuerFrame_stall k me) fun _ => rfl
  · exact floatKeeps_of_issuerFrame (issuerFrame_of_unchanged (operandsFirst_frame i me s)) fun _ => operandsFirst_gens ..
  · exact floatKeeps_completeFloat issues (onlyGens me)

variable {d : BitVec 9} {wide : Bool} {adv : Nat} {val : Me → State → Train → Nat → Nat → Nat × Flags}

/-- A floating word that rounds under its own RND. -/
theorem floatKeeps_vecFlt (next : vecFlt i d wide rnd adv val s = .next u) : FloatKeeps (destRegs d.toNat wide) rnd s u :=
  floatKeeps_issue next fun me => onlyGensDiffer_advance (fun _ h => h) me s _ adv

/-- A floating word that rounds to nearest, or not at all, whatever its RND says. -/
theorem floatKeeps_vecFlt_nearest (next : vecFlt i d wide 1 adv val s = .next u) : FloatKeeps (destRegs d.toNat wide) rnd s u :=
  floatKeeps_issue next fun me => onlyGensDiffer_advance (rnd' := 1) (fun _ _ => (by decide : (1 : Nat) ≠ 6)) me s _ adv

end

/-- Settles O15: each major is a floating word under its RND or under code 1, VSCAN one that draws nothing, and VFCLASS and VINTERP
change their train alone. -/
theorem floatFrame : Obligations.FloatFrame := by
  intro s u f i wide next major
  have keeps : FloatKeeps (destRegs f.d.toNat wide) f.rnd.toNat s u := by
    refine (?_ : ∀ x ∈ _, exec x.1 s = .next u → FloatKeeps (destRegs f.d.toNat x.2) f.rnd.toNat s u) (i, wide) major next
    simp only [List.forall_mem_cons, List.not_mem_nil, false_imp_iff, implies_true, and_true, exec_vfadd, exec_vfsub, exec_vfmul,
      exec_vfma, exec_vfmin, exec_vfmax, exec_vfdiv, exec_vfsqrt, exec_vfrnd, exec_vffract, exec_vfldexp, exec_vfcvt, exec_vcvtif,
      exec_vcvtfi, exec_vpack, exec_vscan, exec_vfrcp, exec_vfrsq, exec_vfexp2, exec_vflog2, exec_vfsin, exec_vfcos, exec_vunpk,
      exec_vfdot2, exec_vderiv, exec_vfclass, exec_vinterp, vecFltOp, vecApprox, execVfrnd, execVffract, execVfldexp, execVfcvt,
      execVcvtif, execVcvtfi, execVpack, execVscan, execVunpk, execVfdot2, execVderiv, execVfclass, execVinterp]
    exact ⟨floatKeeps_vecFlt, floatKeeps_vecFlt, floatKeeps_vecFlt, floatKeeps_vecFlt, floatKeeps_vecFlt_nearest,
      floatKeeps_vecFlt_nearest, floatKeeps_vecFlt, floatKeeps_vecFlt, floatKeeps_vecFlt, floatKeeps_vecFlt_nearest,
      floatKeeps_vecFlt, floatKeeps_vecFlt, floatKeeps_vecFlt, floatKeeps_vecFlt, floatKeeps_vecFlt,
      fun next => floatKeeps_issue next fun _ => onlyGensDiffer_refl _ s,
      floatKeeps_vecFlt_nearest, floatKeeps_vecFlt_nearest, floatKeeps_vecFlt_nearest, floatKeeps_vecFlt_nearest,
      floatKeeps_vecFlt_nearest, floatKeeps_vecFlt_nearest, floatKeeps_vecFlt_nearest, floatKeeps_vecFlt,
      floatKeeps_vecFlt_nearest, floatKeeps_issueTrain, floatKeeps_issueTrain⟩
  exact ⟨keeps.memory, keeps.scalar, keeps.mode, keeps.gens, keeps.vector⟩

end Sys2Proof.Proofs

/-! PROOFS. Mask triples (spec/03_lane_train_state.md R55, R58; spec/05_integer_bit_instructions.md R103): the bit of a lane before and
after a write of a triple below s120. -/

namespace Sys2Proof.Proofs

open Sys2Proof.Machine Sys2Proof.Safety

/-! ### The bits of a lane mask by its words -/

theorem getLsbD_of_word (m : LaneMask) (l : Nat) : m.getLsbD l = (maskWord m (l / 32)).getLsbD (l % 32) := by
  have place : 32 * (l / 32) + l % 32 = l := Nat.div_add_mod l 32
  have bit : l % 32 < 32 := Nat.mod_lt l (by decide)
  rw [maskWord, BitVec.getLsbD_extractLsb', place, decide_eq_true bit, Bool.true_and]

/-- Setting a word of a mask sets that word alone. -/
theorem maskWord_setMaskWord (m : LaneMask) {k j : Nat} (w : Word) (word : j < 3) :
    maskWord (setMaskWord m k w) j = if j = k then w else maskWord m j := by
  have parts : setMaskWord m k w = (m &&& ~~~(setMaskWord 0 k 0xFFFFFFFF)) ||| setMaskWord 0 k w := by simp [setMaskWord]
  rw [parts, maskWord_or, maskWord_and, maskWord_not _ word, maskWord_setMaskWord_zero word, maskWord_setMaskWord_zero word]
  split
  case isTrue =>
    change (maskWord m j &&& 0#32) ||| w = w
    rw [BitVec.and_zero, BitVec.zero_or]
  case isFalse =>
    change (maskWord m j &&& BitVec.allOnes 32) ||| 0#32 = maskWord m j
    rw [BitVec.and_allOnes, BitVec.or_zero]

section
variable {t : Train} {sid n : Nat}

/-- Word `k` of a triple is its register `k` (R55). -/
theorem maskWord_readTriple {k : Nat} (word : k < 3) : maskWord (t.readTriple sid n) k = t.readS sid (n + k) := by
  unfold Train.readTriple
  rw [maskWord_setMaskWord _ _ word, maskWord_setMaskWord _ _ word, maskWord_setMaskWord _ _ word]
  obtain rfl | rfl | rfl : k = 0 ∨ k = 1 ∨ k = 2 := by omega
  · rfl
  · rfl
  · rfl

theorem getLsbD_readTriple {l : Nat} (lane : l < 96) :
    (t.readTriple sid n).getLsbD l = (t.readS sid (n + l / 32)).getLsbD (l % 32) := by
  rw [getLsbD_of_word, maskWord_readTriple (by omega)]

/-! ### A write of a triple -/

/-- Word `k` of a triple after a write: the split's own lanes take their bits, the others keep theirs (R103). -/
def tripleWord (t : Train) (sid n : Nat) (bits : LaneMask) (k : Nat) : Word :=
  (t.readS sid (n + k) &&& ~~~(maskWord (t.split sid).member k)) ||| (maskWord bits k &&& maskWord (t.split sid).member k)

variable {bits : LaneMask}

/-- A write of a triple writes its three registers in turn. -/
theorem writeTriple_eq : t.writeTriple sid n bits =
    ((t.writeS sid n (tripleWord t sid n bits 0)).writeS sid (n + 1) (tripleWord t sid n bits 1)).writeS sid (n + 2)
      (tripleWord t sid n bits 2) := by
  simp only [Train.writeTriple, Nat.add_zero, readS_writeS_of_ne _ _ _ _ (by omega : n + 1 ≠ n),
    readS_writeS_of_ne _ _ _ _ (by omega : n + 2 ≠ n), readS_writeS_of_ne _ _ _ _ (by omega : n + 2 ≠ n + 1)]
  rfl

@[simp] theorem writeTriple_readV (r l : Nat) : (t.writeTriple sid n bits).readV r l = t.readV r l := by
  rw [writeTriple_eq, Train.writeS_readV, Train.writeS_readV, Train.writeS_readV]

theorem readS_writeTriple {k : Nat} (low : n + 3 ≤ 120) (word : k < 3) (kept : n + k ≠ 0) :
    (t.writeTriple sid n bits).readS sid (n + k) = tripleWord t sid n bits k := by
  rw [writeTriple_eq]
  obtain rfl | rfl | rfl : k = 0 ∨ k = 1 ∨ k = 2 := by omega
  · rw [readS_writeS_of_ne _ _ _ _ (by omega), readS_writeS_of_ne _ _ _ _ (by omega)]
    exact Train.readS_writeS_same _ _ _ _ kept (by omega)
  · rw [readS_writeS_of_ne _ _ _ _ (by omega), Train.readS_writeS_same _ _ _ _ kept (by omega)]
  · rw [Train.readS_writeS_same _ _ _ _ kept (by omega)]

/-- A lane whose new bit is its old one keeps it, in the split or outside it. -/
theorem getLsbD_readTriple_writeTriple {l : Nat} (low : n + 3 ≤ 120) (lane : l < 96)
    (same : bits.getLsbD l = (t.readTriple sid n).getLsbD l) :
    ((t.writeTriple sid n bits).readTriple sid n).getLsbD l = (t.readTriple sid n).getLsbD l := by
  rw [getLsbD_readTriple lane] at same ⊢
  rw [getLsbD_readTriple lane]
  by_cases kept : n + l / 32 = 0
  case pos => rw [kept, Train.readS_zero, Train.readS_zero]
  case neg =>
    rw [readS_writeTriple low (by omega) kept, tripleWord, BitVec.getLsbD_or, BitVec.getLsbD_and, BitVec.getLsbD_and,
      ← getLsbD_of_word bits, same, BitVec.getLsbD_not, decide_eq_true (Nat.mod_lt l (by decide)), Bool.true_and,
      ← Bool.and_or_distrib_left, Bool.not_or_self, Bool.and_true]

end

end Sys2Proof.Proofs

/-! PROOFS. Enabled traps (spec/02_number_formats.md R41; spec/06_float_convert_crosslane.md R121, R125, R142, R143;
spec/22_package_faults_traps_dumps.md R402): a floating word that meets one parks its split with FP-TRAP, and the lanes that trap keep
their destination. -/

namespace Sys2Proof.Proofs

open Sys2Proof.Machine Sys2Proof.Safety

/-! ### Where a train stands -/

/-- What a write of registers keeps of the place of a split: the train it is of, its entry of the split table and its PC. -/
structure SamePlace (sid : Nat) (t t' : Train) : Prop where
  inc : t'.inc = t.inc
  splits : t'.splits.length = t.splits.length
  pc : (t'.split sid).pc = (t.split sid).pc

section
variable {sid : Nat} {t t₁ t₂ : Train}

theorem samePlace_refl (sid : Nat) (t : Train) : SamePlace sid t t := ⟨rfl, rfl, rfl⟩

theorem SamePlace.trans (h : SamePlace sid t t₁) (h' : SamePlace sid t₁ t₂) : SamePlace sid t t₂ :=
  ⟨h'.inc.trans h.inc, h'.splits.trans h.splits, h'.pc.trans h.pc⟩

/-- A write that leaves the split table alone. -/
theorem samePlace_of_splits (inc : t₁.inc = t.inc) (splits : t₁.splits = t.splits) : SamePlace sid t t₁ := by
  refine ⟨inc, congrArg _ splits, ?_⟩
  simp only [Train.split, splits]

theorem samePlace_sticky (any : Flags) : SamePlace sid t (sticky any t) := by
  refine samePlace_of_splits ?_ (sticky_splits any t)
  unfold sticky
  split <;> rfl

theorem writeVN_inc (t : Train) (m : LaneMask) (n : Nat) (v : Nat → Nat) (k : Nat) : (t.writeVN m n v k).inc = t.inc := by
  induction k with
  | zero => rfl
  | succ k ih =>
    rw [Train.writeVN, Train.writeV]
    split <;> exact ih

theorem samePlace_writeDst (m : LaneMask) (d : Nat) (wide : Bool) (v : Nat → Nat) : SamePlace sid t (writeDst t m d wide v) := by
  refine samePlace_of_splits ?_ (writeDst_splits ..)
  unfold writeDst
  split
  case isTrue => exact writeVN_inc ..
  case isFalse => split <;> rfl

/-- A write of a word of ACTIVE changes the lanes of the split alone, and any other leaves the split table alone. -/
theorem samePlace_writeS (n : Nat) (v : Word) : SamePlace sid t (t.writeS sid n v) := by
  unfold Train.writeS
  split
  case isTrue => exact samePlace_refl sid t
  case isFalse =>
    split
    case isTrue => exact ⟨rfl, rfl, rfl⟩
    case isFalse =>
      split
      case isTrue =>
        refine ⟨rfl, listSet_length .., ?_⟩
        rw [Train.split_updSplit]
        split <;> rfl
      case isFalse => exact ⟨rfl, rfl, rfl⟩

theorem samePlace_writeTriple (n : Nat) (bits : LaneMask) : SamePlace sid t (t.writeTriple sid n bits) := by
  rw [writeTriple_eq]
  exact ((samePlace_writeS ..).trans (samePlace_writeS ..)).trans (samePlace_writeS ..)

end

/-- Whether a train is a handler that holds an event does not depend on its registers. -/
theorem holdsEvent_updTrain {s : State} {tid : Nat} {f : Train → Train} (inc : (f (s.train tid)).inc = (s.train tid).inc) :
    (s.updTrain tid f).holdsEvent tid = s.holdsEvent tid := by
  unfold State.holdsEvent
  rw [State.train_updTrain_same, inc]
  rfl

/-! ### Parking -/

/-- The state in which a split has parked with some records. -/
structure Parked (me : Me) (recs : List FaultRec) (u : State) : Prop where
  train : (u.train me.tid).state = .parked
  split : (me.split u).state = .parked
  recs : (me.split u).recs = recs

section
variable {me : Me} {s : State} {recs : List FaultRec} (has_split : me.sid < (me.train s).splits.length)
  (no_event : s.holdsEvent me.tid = false)
include has_split no_event

theorem takeFault_parks : Parked me recs (takeFault s me recs) := by
  refine ⟨?train, ?split, ?recs⟩
  case train => rw [takeFault_train, parkSplit_train _ _ _ no_event, if_pos rfl]
  case split => rw [split_takeFault has_split no_event]
  case recs => rw [split_takeFault has_split no_event]

/-- A fault whose kinds all go on parks its split. -/
theorem faultWith_parks (some_rec : recs ≠ []) (goes_on : ∀ x ∈ recs, resumeOf x.kind x.trainLevel = .next) :
    Parked me recs (faultWith s me recs) := by
  obtain ⟨r, rest, rfl⟩ := List.exists_cons_of_ne_nil some_rec
  have none_replays : ∀ x ∈ r :: rest, resumeOf x.kind x.trainLevel ≠ .replay := fun x hx => by
    rw [goes_on x hx]
    decide
  rw [faultWith_next s me none_replays (goes_on r (.head _))]
  refine takeFault_parks ?_ ?_
  · rw [Me.train, State.train_updSplit, if_pos rfl]
    exact lt_of_lt_of_eq has_split (listSet_length ..).symm
  · exact (holdsEvent_updTrain rfl).trans no_event

end

/-! ### The lanes that trap -/

theorem testBit_packBits (bs : List Bool) (n : Nat) : (maskOf.packBits bs).testBit n = bs.getD n false := by
  induction bs generalizing n with
  | nil => simp [maskOf.packBits]
  | cons b bs ih =>
    have low : b.toNat < 2 := b.toNat_lt
    cases n with
    | zero => cases b <;> simp [maskOf.packBits, Nat.add_mul_mod_self_left]
    | succ n =>
      have rest : (b.toNat + 2 * maskOf.packBits bs) / 2 = maskOf.packBits bs := by omega
      rw [maskOf.packBits, Nat.testBit_succ, rest, ih, List.getD_cons_succ]

/-- The mask of a predicate holds the lanes that satisfy it. -/
theorem getLsbD_maskOf (p : Nat → Bool) {l : Nat} (lane : l < 96) : (maskOf p).getLsbD l = p l := by
  rw [maskOf, BitVec.getLsbD_ofNat, testBit_packBits, decide_eq_true lane, Bool.true_and]
  simp [List.getD, numLanes, lane]

section
variable {mode : Word} {act : LaneMask} {fl : Nat → Flags} {l : Nat}

/-- Active lanes alone trap. -/
theorem active_of_trap (trap : (trapLanes mode act fl).getLsbD l = true) : act.getLsbD l = true := by
  rw [trapLanes, BitVec.getLsbD_and, Bool.and_eq_true] at trap
  exact trap.1

/-- A lane that traps is none of those that write. -/
theorem not_written_of_trap (trap : (trapLanes mode act fl).getLsbD l = true) :
    (act &&& ~~~(trapLanes mode act fl)).getLsbD l = false := by
  rw [BitVec.getLsbD_and, BitVec.getLsbD_not, trap, Bool.not_true, Bool.and_false, Bool.and_false]

theorem lanesOf_ne_nil {m : LaneMask} (some_lane : m ≠ 0) : lanesOf m ≠ [] := by
  intro none_lane
  refine some_lane (BitVec.eq_of_getLsbD_eq fun l lane => ?_)
  have off := List.filter_eq_nil_iff.mp none_lane l (List.mem_range.mpr lane)
  exact (eq_false_of_ne_true off).trans BitVec.getLsbD_zero.symm

/-- Flags that all lanes share trap in every active lane or in none. -/
theorem trapLanes_shared {any : Flags} (traps : trapLanes mode act (fun _ => any) ≠ 0) : trapLanes mode act (fun _ => any) = act := by
  obtain ⟨l, lane⟩ := List.exists_mem_of_ne_nil _ (lanesOf_ne_nil traps)
  obtain ⟨in_range, trap⟩ := List.mem_filter.mp lane
  have meets : (any &&& trapEnables mode != 0) = true := by
    rw [trapLanes, BitVec.getLsbD_and, getLsbD_maskOf _ (List.mem_range.mp in_range), Bool.and_eq_true] at trap
    exact trap.2
  refine BitVec.eq_of_getLsbD_eq fun j lane => ?_
  rw [trapLanes, BitVec.getLsbD_and, getLsbD_maskOf _ lane, meets, Bool.and_true]

end

/-- The record of a lane that traps: kind FP-TRAP at the word, with the lane's flags (R41, R402). -/
def trapRec (me : Me) (s : State) (fl : Nat → Flags) (l : Nat) : FaultRec :=
  { trainRecord 0x10 0 0 ((fl l).setWidth 32) me s with trainLevel := false, lane := l }

theorem trapRecs_eq {me : Me} {s p : State} {fl : Nat → Flags} {traps : LaneMask} (pc : (me.split p).pc = (me.split s).pc) :
    trapRecs me p fl traps = (lanesOf traps).map (trapRec me s fl) := by
  simp only [trapRecs, laneRecs, List.map_map, pc]
  rfl

/-! ### FP-TRAP -/

/-- The state in which FP-TRAP has been taken: the split has parked with the records of the lanes that trap, and these keep every
vector register. -/
structure FpTrapped (me : Me) (s : State) (fl : Nat → Flags) (traps : LaneMask) (u : State) : Prop where
  parked : Parked me ((lanesOf traps).map (trapRec me s fl)) u
  vector : ∀ l r, l < 96 → traps.getLsbD l = true → (u.train me.tid).readV r l = (me.train s).readV r l

/-- A floating word that meets an enabled trap takes FP-TRAP, if its writes keep its place and, in the lanes that trap, the vector
registers. -/
theorem completeFloat_fpTrapped {me : Me} {act : LaneMask} {fl : Nat → Flags} {write : Train → LaneMask → Train} {s : State}
    (traps : trapLanes (me.train s).mode act fl ≠ 0) (no_event : s.holdsEvent me.tid = false)
    (has_split : me.sid < (me.train s).splits.length) (place : ∀ t m, SamePlace me.sid t (write t m))
    (keeps : ∀ t m r l, l < 96 → m.getLsbD l = false → (write t m).readV r l = t.readV r l) :
    FpTrapped me s fl (trapLanes (me.train s).mode act fl) (completeFloat me act fl write s) := by
  have written : me.train (floatWritten me act fl write s) =
      sticky (orFlags act fl) (write (me.train s) (act &&& ~~~(trapLanes (me.train s).mode act fl))) := by
    rw [Me.train, floatWritten_train, if_pos rfl]
    rfl
  have stands : SamePlace me.sid (me.train s) (me.train (floatWritten me act fl write s)) := by
    rw [written]
    exact (place ..).trans (samePlace_sticky _)
  have recs : trapRecs me (floatWritten me act fl write s) fl (trapLanes (me.train s).mode act fl) =
      (lanesOf (trapLanes (me.train s).mode act fl)).map (trapRec me s fl) := trapRecs_eq stands.pc
  refine ⟨?parked, fun l r lane trap => ?vector⟩
  case parked =>
    rw [completeFloat_traps traps, recs]
    refine faultWith_parks (lt_of_lt_of_eq has_split stands.splits.symm) ?event ?nonempty ?goes_on
    case event => exact (holdsEvent_updTrain (stands.inc ▸ written ▸ rfl)).trans no_event
    case nonempty => exact mt List.map_eq_nil_iff.mp (lanesOf_ne_nil traps)
    case goes_on =>
      rintro _ mem
      obtain ⟨l, -, rfl⟩ := List.mem_map.mp mem
      rfl
  case vector =>
    rw [completeFloat_readV]
    change (me.train _).readV r l = _
    rw [written, sticky_readV, keeps _ _ r l lane (not_written_of_trap trap)]

/-- A vector-class destination is written in the lanes of the mask alone (R91). -/
theorem readV_writeDst_unwritten {t : Train} {m : LaneMask} {d r l : Nat} {wide : Bool} {v : Nat → Nat} (lane : l < 96)
    (off : m.getLsbD l = false) : (writeDst t m d wide v).readV r l = t.readV r l := by
  unfold writeDst
  split
  case isTrue =>
    generalize (if wide then 2 else 1) = k
    induction k with
    | zero => rfl
    | succ k ih => rw [Train.writeVN, Train.readV_writeV _ _ _ _ _ _ lane, if_neg (by simp [off]), ih]
  case isFalse => split <;> rfl

/-- Where its lanes' flags meet an enabled trap, an instruction that leads to `x` has taken FP-TRAP. -/
def TakesFpTrap (me : Me) (s : State) (i : Instr) (flags : Nat → Flags) (x : Result) : Prop :=
  ready me i s → trapLanes (me.train s).mode (me.active s) flags ≠ 0 → s.holdsEvent me.tid = false →
    me.sid < (me.train s).splits.length →
    ∃ u, x = .next u ∧ FpTrapped me s flags (trapLanes (me.train s).mode (me.active s) flags) u

section
variable {me : Me} {s : State} {i : Instr} {flags : Nat → Flags}

/-- A word that completes as a floating one takes FP-TRAP, if its writes keep its place and, outside their lanes, the vector
registers. -/
theorem takesFpTrap_issue {fl : Me → State → Nat → Flags} {write : Me → State → Train → LaneMask → Train}
    (place : ∀ t m, SamePlace me.sid t (write me s t m))
    (keeps : ∀ t m r l, l < 96 → m.getLsbD l = false → (write me s t m).readV r l = t.readV r l) :
    TakesFpTrap me s i (fl me s) (issue i s fun me s => completeFloat me (me.active s) (fl me s) (write me s) s) :=
  fun h traps no_event has_split =>
    ⟨_, issue_ready h.1 h.2.1 h.2.2, completeFloat_fpTrapped traps no_event has_split place keeps⟩

/-- The generators are no part of what FP-TRAP is said to leave. -/
theorem fpTrapped_of_gens {fl : Nat → Flags} {traps : LaneMask} {p u : State} {gens : List Word}
    (train : me.train p = { me.train s with gens := gens }) (h : FpTrapped me p fl traps u) : FpTrapped me s fl traps u := by
  have recs : trapRec me p fl = trapRec me s fl := by
    funext l
    simp only [trapRec, trainRecord, Me.split, train]
    rfl
  refine ⟨recs ▸ h.parked, fun l r lane trap => ?_⟩
  rw [h.vector l r lane trap, train]
  rfl

/-- A floating word with a vector-class destination takes FP-TRAP. -/
theorem takesFpTrap_vecFlt {d : BitVec 9} {wide : Bool} {rnd adv : Nat} {val : Me → State → Train → Nat → Nat → Nat × Flags}
    (raises : ∀ l, flags l = (val me s (me.train s) (effectiveRnd (me.train s).mode rnd) l).2) :
    TakesFpTrap me s i flags (vecFlt i d wide rnd adv val s) := by
  intro h traps no_event has_split
  obtain rfl : flags = fun l => (val me s (me.train s) (effectiveRnd (me.train s).mode rnd) l).2 := funext raises
  refine ⟨_, vecFlt_issues h, ?_⟩
  generalize effectiveRnd (me.train s).mode rnd = r at traps ⊢
  obtain ⟨gens, shape⟩ := advance_shape (s.train me.tid) r (me.active s) adv
  have train : me.train (s.updTrain me.tid fun t => t.advance r (me.active s) adv) = { me.train s with gens := gens } := by
    rw [Me.train, State.train_updTrain_same, shape]
    rfl
  refine fpTrapped_of_gens train ?_
  rw [← train_advance_mode me s r (me.active s) adv] at traps ⊢
  refine completeFloat_fpTrapped traps ((holdsEvent_updTrain ?inc).trans no_event) (by rwa [train])
    (fun t m => samePlace_writeDst ..) fun t m r l lane off => readV_writeDst_unwritten lane off
  case inc => rw [shape]

end

end Sys2Proof.Proofs

/-! PROOFS. The floating words with a scalar destination that meet a trap (spec/06_float_convert_crosslane.md R125, R142), and FP-TRAP of
every floating major. -/

namespace Sys2Proof.Proofs

open Sys2Proof.Machine Sys2Proof.Safety

/-! ### VREDU (R142) -/

/-- What VREDU does to its train: nothing where it traps, else D takes the reduction of the active lanes. -/
def reduWrite (f : FmtV3) (me : Me) (s : State) (t : Train) : Train :=
  let v := redValue me s (me.train s) f (me.active s)
  if trapLanes (me.train s).mode (me.active s) (fun _ => v.2) != 0 then t
  else t.writeSN me.sid (f.d.toNat - 0x100) (redW f == 2) v.1

section
variable (f : FmtV3) (me : Me) (s : State)

theorem exec_vredu_form : exec (.vredu f) s = issue (.vredu f) s fun me s =>
    completeFloat me (me.active s) (fun _ => (redValue me s (me.train s) f (me.active s)).2) (fun t _ => reduWrite f me s t) s := rfl

theorem samePlace_writeSN (t : Train) (sid n : Nat) (wide : Bool) (x : Nat) : SamePlace sid t (t.writeSN sid n wide x) := by
  unfold Train.writeSN
  cases wide
  case false => exact samePlace_writeS ..
  case true => exact (samePlace_writeS ..).trans (samePlace_writeS ..)

theorem samePlace_reduWrite (t : Train) : SamePlace me.sid t (reduWrite f me s t) := by
  unfold reduWrite
  dsimp only
  split
  case isTrue => exact samePlace_refl ..
  case isFalse => exact samePlace_writeSN ..

theorem readV_reduWrite (t : Train) (r l : Nat) : (reduWrite f me s t).readV r l = t.readV r l := by
  unfold reduWrite
  dsimp only
  split
  case isTrue => rfl
  case isFalse => exact readV_writeSN ..

end

section
variable {f : FmtV3} {me : Me} {s : State}

theorem takesFpTrap_vredu :
    TakesFpTrap me s (.vredu f) (fun _ => (redValue me s (me.train s) f (me.active s)).2) (exec (.vredu f) s) := by
  rw [exec_vredu_form]
  exact takesFpTrap_issue (fl := fun me s _ => (redValue me s (me.train s) f (me.active s)).2)
    (fun t _ => samePlace_reduWrite f me s t) fun t _ r l _ _ => readV_reduWrite f me s t r l

/-- A VREDU that traps writes no scalar register but the sticky bits of s120. -/
theorem vredu_trapped_keeps {u : State} (h : ready me (.vredu f) s)
    (traps : trapLanes (me.train s).mode (me.active s) (fun _ => (redValue me s (me.train s) f (me.active s)).2) ≠ 0)
    (next : exec (.vredu f) s = .next u) {r : Nat} (low : r < 120) :
    (u.train me.tid).readS me.sid r = (me.train s).readS me.sid r := by
  rw [exec_vredu_form, issue_ready h.1 h.2.1 h.2.2] at next
  cases next
  have kept (t : Train) : reduWrite f me s t = t := if_pos (bne_iff_ne.mpr traps)
  rw [completeFloat_readS, floatWritten_train, if_pos rfl, sticky_readS_of_ne _ _ _ (by omega), kept]
  rfl

/-! ### VFCMP (R125) -/

/-- The outcome and the flags of VFCMP in a lane (Table 6.2). -/
def fcmpOutcome (f : FmtV3) (me : Me) (s : State) (l : Nat) : Bool × Flags :=
  cmpFlt f.minor.toNat (fltVal me s (me.train s) f (floatType f.ty.toNat) f.a 2 l 0)
    (fltVal me s (me.train s) f (floatType f.ty.toNat) f.b 1 l 0)

/-- The bits that VFCMP writes: the outcomes of the lanes of `m`, and the old bits of the other active ones. -/
def fcmpBits (f : FmtV3) (me : Me) (s : State) (m old : LaneMask) : LaneMask :=
  (m &&& maskOf fun l => (fcmpOutcome f me s l).1) ||| (me.active s &&& ~~~m &&& old)

theorem exec_vfcmp_form : exec (.vfcmp f) s = issue (.vfcmp f) s fun me s =>
    completeFloat me (me.active s) (fun l => (fcmpOutcome f me s l).2)
      (fun t m => t.writeTriple me.sid (f.d.toNat - 0x100) (fcmpBits f me s m (t.readTriple me.sid (f.d.toNat - 0x100)))) s := rfl

theorem takesFpTrap_vfcmp : TakesFpTrap me s (.vfcmp f) (fun l => (fcmpOutcome f me s l).2) (exec (.vfcmp f) s) := by
  rw [exec_vfcmp_form]
  exact takesFpTrap_issue (fl := fun me s l => (fcmpOutcome f me s l).2) (fun _ _ => samePlace_writeTriple ..)
    fun _ _ r l _ _ => writeTriple_readV r l

/-- An active lane outside the mask of those that write keeps its bit. -/
theorem getLsbD_fcmpBits {m old : LaneMask} {l : Nat} (off : m.getLsbD l = false) (active : (me.active s).getLsbD l = true)
    (lane : l < 96) : (fcmpBits f me s m old).getLsbD l = old.getLsbD l := by
  simp only [fcmpBits, BitVec.getLsbD_or, BitVec.getLsbD_and, BitVec.getLsbD_not, off, active, lane, decide_true, Bool.not_false,
    Bool.false_and, Bool.true_and, Bool.false_or]

/-- A lane that traps in VFCMP keeps its bit of the triple (R125). -/
theorem vfcmp_trapped_keeps {u : State} {l : Nat} (h : ready me (.vfcmp f) s) (next : exec (.vfcmp f) s = .next u)
    (low : f.d.toNat - 0x100 + 3 ≤ 120) (lane : l < 96)
    (trap : (trapLanes (me.train s).mode (me.active s) fun l => (fcmpOutcome f me s l).2).getLsbD l = true) :
    ((u.train me.tid).readTriple me.sid (f.d.toNat - 0x100)).getLsbD l =
      ((me.train s).readTriple me.sid (f.d.toNat - 0x100)).getLsbD l := by
  rw [exec_vfcmp_form, issue_ready h.1 h.2.1 h.2.2] at next
  cases next
  rw [getLsbD_readTriple lane, completeFloat_readS, floatWritten_train, if_pos rfl, sticky_readS_of_ne _ _ _ (by omega),
    ← getLsbD_readTriple lane]
  exact getLsbD_readTriple_writeTriple low lane (getLsbD_fcmpBits (not_written_of_trap trap) (active_of_trap trap) lane)

/-! ### VSCAN (R143) -/

theorem takesFpTrap_vscan : TakesFpTrap me s (.vscan f)
    (fun l => (redValue me s (me.train s) f (upTo (me.active s) l (f.c.toNat == 0x1C0))).2) (exec (.vscan f) s) := by
  rw [exec_vscan, execVscan]
  exact takesFpTrap_issue (fl := fun me s l => (redValue me s (me.train s) f (upTo (me.active s) l (f.c.toNat == 0x1C0))).2)
    (fun _ _ => samePlace_writeDst ..) fun _ _ _ _ lane off => readV_writeDst_unwritten lane off

end

/-- Settles O14: each major with a vector-class destination is `vecFlt` of its rule's value and flags, or VSCAN; VREDU and VFCMP have
destinations of their own. -/
theorem floatTrapKeepsDestination : Obligations.FloatTrapKeepsDestination := by
  intro me s f i flags h t ty fmt src m r sat num each near cvt pack dot deriv major traps some_trap no_event has_split
  have takes : TakesFpTrap me s i flags (exec i s) := by
    refine (?_ : ∀ x ∈ _, TakesFpTrap me s x.1 x.2 (exec x.1 s)) (i, flags) major
    simp only [List.forall_mem_cons, List.not_mem_nil, false_imp_iff, implies_true, and_true, exec_vfadd, exec_vfsub, exec_vfmul,
      exec_vfma, exec_vfmin, exec_vfmax, exec_vfdiv, exec_vfsqrt, exec_vfrnd, exec_vffract, exec_vfldexp, exec_vfcvt, exec_vcvtif,
      exec_vcvtfi, exec_vpack, exec_vfrcp, exec_vfrsq, exec_vfexp2, exec_vflog2, exec_vfsin, exec_vfcos, exec_vunpk, exec_vfdot2,
      exec_vderiv, vecFltOp, vecApprox, execVfrnd, execVffract, execVfldexp, execVfcvt, execVcvtif, execVcvtfi, execVpack, execVunpk,
      execVfdot2, execVderiv]
    iterate 24 refine ⟨takesFpTrap_vecFlt fun _ => rfl, ?_⟩
    exact ⟨takesFpTrap_vscan, takesFpTrap_vredu, takesFpTrap_vfcmp⟩
  obtain ⟨u, next, trapped⟩ := takes h some_trap no_event has_split
  refine ⟨u, next, trapped.parked.train, trapped.parked.split, trapped.parked.recs, trapped.vector, ?vredu, ?vfcmp⟩
  case vredu =>
    rintro rfl
    obtain rfl : flags = fun _ => (redValue me s (me.train s) f (me.active s)).2 := by
      simpa only [List.mem_cons, List.not_mem_nil, Prod.mk.injEq, reduceCtorEq, false_and, false_or, or_false, true_and] using major
    exact ⟨trapLanes_shared some_trap, fun r low => vredu_trapped_keeps h some_trap next low⟩
  case vfcmp =>
    rintro rfl n low l lane trap
    obtain rfl : flags = fun l => (fcmpOutcome f me s l).2 := by
      simp only [List.mem_cons, List.not_mem_nil, Prod.mk.injEq, reduceCtorEq, false_and, false_or, or_false, true_and] at major
      exact major
    exact vfcmp_trapped_keeps h next low lane trap

end Sys2Proof.Proofs

/-! PROOFS. What NOP and the control majors lead to (spec/07_control_split_rung_instructions.md R146 to R166, R173): branches, divergence,
holds, ends and emissions. -/

namespace Sys2Proof.Proofs

open Sys2Proof.Machine Sys2Proof.Safety

/-! ### The meaning of each major -/

section
variable (f : FmtC) (x : FmtX) (s : State)

theorem exec_nop : exec (.nop x) s = issueTrain (.nop x) s fun _ _ t => t := rfl
theorem exec_br : exec (.br f) s = issue (.br f) s fun me s => branchIf true f.offset me s := rfl
theorem exec_brs : exec (.brs f) s = issue (.brs f) s fun me s =>
    branchIf (brsTaken f.cond.toNat ((me.train s).readS me.sid f.sa.toNat)) f.offset me s := rfl
theorem exec_brm : exec (.brm f) s = issue (.brm f) s fun me s =>
    branchIf (brmTaken f.cond.toNat (me.active s) ((me.train s).readTriple me.sid f.sa.toNat)) f.offset me s := rfl
theorem exec_call : exec (.call f) s = issue (.call f) s fun me s => branchIf true f.offset me
    (s.updTrain me.tid fun t => t.writeS me.sid 127 (BitVec.ofNat 32 ((me.split s).pc + 1))) := rfl
theorem exec_ret : exec (.ret f) s = issue (.ret f) s fun me s => jumpTo ((me.train s).readS me.sid 127).toNat me s := rfl
theorem exec_jmpi : exec (.jmpi f) s = issue (.jmpi f) s fun me s =>
    jumpTo ((me.train s).readS me.sid f.sa.toNat).toNat me s := rfl
theorem exec_sjoin : exec (.sjoin f) s = execSjoin f s := rfl
theorem exec_wait : exec (.wait f) s = issue (.wait f) s fun me s => fallHeld (.wait (bits f.offset.toNat 0 6)
    (bits f.offset.toNat 6 6) (bits f.offset.toNat 12 6) (bits f.offset.toNat 18 6)) me s := rfl
theorem exec_yield : exec (.yield f) s = issue (.yield f) s fun me s => fallHeld (.yield false 0) me s := rfl
theorem exec_reggrow : exec (.reggrow f) s = execReggrow f s := rfl
theorem exec_regtrim : exec (.regtrim f) s = execRegtrim f s := rfl
theorem exec_fxrel : exec (.fxrel f) s = issue (.fxrel f) s fun me s =>
    releaseRecs (me.train s).launch (fallHeld .free me (s.updTrain me.tid fun t => { t with fxrel := true })) := rfl
theorem exec_exit : exec (.exit f) s = execExit f s := rfl
theorem exec_kills : exec (.kills f) s = execKills f s := rfl
theorem exec_emitv : exec (.emitv f) s = execEmitv f s := rfl
theorem exec_emitp : exec (.emitp f) s = execEmitp f s := rfl

end

/-- A ready word has its effect. -/
theorem issue_of_ready {i : Instr} {me : Me} {s : State} {e : Me → State → State} (h : ready me i s) :
    issue i s e = .next (e me s) :=
  issue_ready h.1 h.2.1 h.2.2

/-- A fault whose kind does not resume, or resumes at PC, leaves the split at the word, with one train-level record (R62, R402). -/
theorem faultTrain_stands {k : Kind} (info : Word) (me : Me) (s : State)
    (stays : resumeOf k.code true = .none ∨ resumeOf k.code true = .pc) :
    .next (faultTrain k info me s) = trainFault k.code info me s := by
  have no_replay : ∀ x ∈ [trainRecord k.code 0 0 info me s], resumeOf x.kind x.trainLevel ≠ .replay := by
    rw [List.forall_mem_singleton]
    rcases stays with h | h <;> exact h ▸ nofun
  exact congrArg _ (faultWith_stands s me no_replay stays)

theorem faultTrain_illegalField (me : Me) (s : State) : .next (faultTrain .illegalField 0 me s) = trainFault 0x02 0 me s :=
  faultTrain_stands 0 me s (.inl rfl)

/-! ### Branches -/

section
variable {me : Me} {s : State} {f : FmtC}

theorem brs_ready {c : BitVec 4} (h : ready me (.brs f) s) (cond : f.cond = c) :
    exec (.brs f) s = .next (branchIf (brsTaken c.toNat ((me.train s).readS me.sid f.sa.toNat)) f.offset me s) := by
  rw [exec_brs, issue_of_ready h, cond]

theorem brm_ready {c : BitVec 4} (h : ready me (.brm f) s) (cond : f.cond = c) : exec (.brm f) s =
    .next (branchIf (brmTaken c.toNat (me.active s) ((me.train s).readTriple me.sid f.sa.toNat)) f.offset me s) := by
  rw [exec_brm, issue_of_ready h, cond]

/-- The split of the issuer after a change of its train. -/
theorem split_updTrain_issuer (me : Me) (s : State) (k : Train → Train) :
    me.split (s.updTrain me.tid k) = (k (me.train s)).split me.sid := by
  rw [Me.split, Me.train, State.train_updTrain_same]
  rfl

theorem call_ready (h : ready me (.call f) s) : exec (.call f) s =
    .next (goto (branchTarget (me.split s).pc f.offset) me
      (s.updTrain me.tid fun t => t.writeS me.sid 127 (BitVec.ofNat 32 ((me.split s).pc + 1)))) := by
  rw [exec_call, issue_of_ready h, branchIf, split_updTrain_issuer, (samePlace_writeS ..).pc]
  rfl

/-- A word offset that may be jumped to. -/
theorem jumpTo_target {pc : Nat} (target : isTarget s (me.train s) pc = true) : jumpTo pc me s = goto pc me s :=
  if_pos target

/-- One that may not takes ILLEGAL-FIELD (R147). -/
theorem jumpTo_no_target {pc : Nat} (no_target : isTarget s (me.train s) pc = false) :
    .next (jumpTo pc me s) = trainFault 0x02 0 me s := by
  rw [jumpTo, no_target]
  exact faultTrain_illegalField me s

end

/-- Settles O16: the outcome of each condition, the place that CALL leaves, and the two outcomes of a jump. -/
theorem branchesComplete : Obligations.BranchesComplete := by
  intro me s f x
  rw [exec_nop, exec_br]
  refine ⟨issueTrain_ready, issue_of_ready, brs_ready, brs_ready, brs_ready, brs_ready, brs_ready, brs_ready, brm_ready, brm_ready,
    brm_ready, call_ready, fun h target => ?ret, fun h target => ?jmpi, fun h no_target => ?retFaults,
    fun h no_target => ?jmpiFaults⟩
  case ret => rw [exec_ret, issue_of_ready h, jumpTo_target target]
  case jmpi => rw [exec_jmpi, issue_of_ready h, jumpTo_target target]
  case retFaults => rw [exec_ret, issue_of_ready h, jumpTo_no_target no_target]
  case jmpiFaults => rw [exec_jmpi, issue_of_ready h, jumpTo_no_target no_target]

/-! ### Divergence (R151, R153) -/

/-- The lanes that a BRV takes. -/
def brvTaken (f : FmtC) (me : Me) (s : State) : LaneMask :=
  if f.cond = 0 then me.active s &&& (me.train s).readTriple me.sid f.sa.toNat
  else me.active s &&& ~~~((me.train s).readTriple me.sid f.sa.toNat)

/-- What BRV does: a uniform side, a division of the split, a deferred side, or STACK-OVERFLOW. -/
def brvEffect (f : FmtC) (me : Me) (s : State) : State :=
  let sp := me.split s
  let taken := brvTaken f me s
  let fall := me.active s &&& ~~~taken
  let target := branchTarget sp.pc f.offset
  if taken = 0 then goto (sp.pc + 1) me s
  else if fall = 0 then goto target me s
  else match (me.train s).freeSplit with
    | some n => goto target me (s.updTrain me.tid fun t =>
        (t.setSplit me.sid { sp with member := sp.member &&& ~~~fall, active := taken }).setSplit n
          { valid := true, pc := sp.pc + 1, member := fall, active := fall, born := s.cycle })
    | none =>
      if 8 ≤ (me.train s).stack.length then faultTrain .stackOverflow 0 me s
      else goto target me (s.updTrain me.tid fun t =>
        { t.setSplit me.sid { sp with active := taken } with
          stack := t.stack ++ [{ join := false, sid := me.sid, pc := sp.pc + 1, lanes := fall }] })

theorem exec_brv (f : FmtC) (s : State) : exec (.brv f) s = issue (.brv f) s (brvEffect f) := by
  refine (rfl : _ = execBrv f s).trans (congrArg (issue _ s) (funext fun me => funext fun s => ?_))
  simp only [brvEffect, brvTaken, beq_iff_eq]
  rfl

/-- Settles O17: the branches of a ready BRV, one by one. -/
theorem divergenceCompletes : Obligations.DivergenceCompletes := by
  intro me s f h t sp act m taken fall target
  rw [exec_brv, issue_of_ready h]
  refine ⟨fun none_taken => ?none, fun some_taken none_falls => ?all, fun some_taken some_fall n free => ?divides,
    fun some_taken some_fall full room => ?defers, fun some_taken some_fall full no_room => ?overflows⟩
  case none => exact congrArg _ (if_pos none_taken)
  case all => exact congrArg _ ((if_neg some_taken).trans (if_pos none_falls))
  all_goals refine congrArg Host.Outcome.next ((if_neg some_taken).trans ((if_neg some_fall).trans ?_))
  case divides =>
    have free : (me.train s).freeSplit = some n := free
    rw [free]
    rfl
  all_goals have full : (me.train s).freeSplit = none := full
  all_goals rw [full]
  case defers => exact if_neg (Nat.not_le_of_lt room)
  case overflows => exact if_pos no_room

/-! ### Holds (R146, R158 to R163, R173) -/

section
variable {me : Me} {s : State} {f : FmtC}

/-- A change of the train that leaves the split at its word, before the run ends at the next word. -/
theorem fallHeld_updTrain (hold : Hold) {k : Train → Train} (place : SamePlace me.sid (me.train s) (k (me.train s))) :
    fallHeld hold me (s.updTrain me.tid k) =
      goto ((me.split s).pc + 1) me ((s.updTrain me.tid k).updSplit me fun sp => { sp with hold := hold }) := by
  rw [fallHeld, split_updTrain_issuer, place.pc]
  rfl

theorem samePlace_setPending (t : Train) (sid n : Nat) (b : Bool) : SamePlace sid t (t.setPending n b) := by
  unfold Train.setPending
  split
  case isTrue => exact samePlace_refl sid t
  case isFalse => exact samePlace_of_splits rfl rfl

theorem wait_ready (h : ready me (.wait f) s) : exec (.wait f) s = .next (fallHeld (.wait (f.offset.toNat % 64)
    (f.offset.toNat / 64 % 64) (f.offset.toNat / 4096 % 64) (f.offset.toNat / 262144 % 64)) me s) := by
  have low : bits f.offset.toNat 0 6 = f.offset.toNat % 64 := by simp [bits]
  rw [exec_wait, issue_of_ready h, low]
  rfl

theorem reggrow_waits (h : ready me (.reggrow f) s) (fits : (me.train s).granules + f.offset.toNat % 32 ≤ 16) :
    exec (.reggrow f) s = .next (fallHeld (.grow (f.offset.toNat % 32) f.sa.toNat s.cycle) me
      (s.updTrain me.tid fun t => t.setPending f.sa.toNat true)) := by
  rw [exec_reggrow, execReggrow, issue_of_ready h]
  exact congrArg _ (if_neg (Nat.not_lt_of_le fits))

theorem reggrow_refused (h : ready me (.reggrow f) s) (above : 16 < (me.train s).granules + f.offset.toNat % 32) :
    exec (.reggrow f) s = .next (fallHeld .free me (s.updTrain me.tid fun t => t.writeS me.sid f.sa.toNat 2)) := by
  rw [exec_reggrow, execReggrow, issue_of_ready h]
  exact congrArg _ (if_pos above)

theorem regtrim_ready (h : ready me (.regtrim f) s) : exec (.regtrim f) s = .next (
    if (me.train s).granules ≤ f.offset.toNat % 32 then faultTrain .illegalField 0 me s
    else fallHeld (.trim (f.offset.toNat % 32)) me s) := by
  rw [exec_regtrim, execRegtrim, issue_of_ready h]

end

/-- Settles O19: each of the five ends its run with its hold; REGGROW first changes its train, which leaves the split at its word. -/
theorem holdsComplete : Obligations.HoldsComplete := by
  intro me s f
  rw [exec_yield, exec_fxrel]
  refine ⟨wait_ready, issue_of_ready, fun h fits => ?grows, fun h above => ?refused, fun h few => ?trims, fun h all => ?trimFaults,
    issue_of_ready⟩
  case grows => rw [reggrow_waits h fits, fallHeld_updTrain _ (samePlace_setPending ..)]
  case refused => rw [reggrow_refused h above, fallHeld_updTrain _ (samePlace_writeS ..)]
  case trims =>
    rw [regtrim_ready h, if_neg (Nat.not_le_of_lt few)]
    rfl
  case trimFaults => rw [regtrim_ready h, if_pos all, faultTrain_illegalField]

/-! ### Ends (R157, R164) -/

section
variable {me : Me} {s : State} {f : FmtC}

/-- EXIT without a record of the split: the split ends. -/
theorem exit_last (h : ready me (.exit f) s) (no_record : popRec me.sid (me.train s).stack = none) :
    exec (.exit f) s = .next (endSplit me
      (endLanes (((me.train s).split me.sid).member &&& ~~~((me.train s).heldLanes me.sid)) false me.tid s)) := by
  simp only [exec_exit, execExit, issue_of_ready h, no_record]

/-- EXIT with a record: the split goes on with the lanes of its top record. -/
theorem exit_resumes (h : ready me (.exit f) s) {r : DeferRec} {rest : List DeferRec}
    (top : popRec me.sid (me.train s).stack = some (r, rest)) :
    exec (.exit f) s = .next (goto r.pc me
      (((endLanes (((me.train s).split me.sid).member &&& ~~~((me.train s).heldLanes me.sid)) false me.tid s).updTrain me.tid
        fun t => { t with stack := rest }).updSplit me fun sp => { sp with active := r.lanes })) := by
  simp only [exec_exit, execExit, issue_of_ready h, top]

theorem kills_ready (h : ready me (.kills f) s) :
    let killed := endLanes (me.active s &&& (me.train s).readTriple me.sid f.sa.toNat) true me.tid s
    exec (.kills f) s = .next (if (me.split killed).member = 0 then endSplit me killed else fallHeld .free me killed) := by
  simp only [exec_kills, execKills, issue_of_ready h, beq_iff_eq]

end

/-- Settles O20: EXIT by the split's top record, KILLS by the members that are left. -/
theorem exitsComplete : Obligations.ExitsComplete := by
  intro me s f
  refine ⟨exit_last, fun h _ _ => exit_resumes h, fun h none_left => ?ends, fun h some_left => ?goesOn⟩
  case ends => rw [kills_ready h, if_pos none_left]
  case goesOn =>
    rw [kills_ready h, if_neg some_left]
    rfl

/-! ### Emissions (R165, R166) -/

section
variable {me : Me} {s : State} {f : FmtC}

/-- An access whose train has nothing unsettled before it has its effect. -/
theorem issueAccess_ready {i : Instr} {space : Nat} {store : Bool} {e : Me → State → State} (h : ready me i s)
    (free : accessFree me s space store) : issueAccess i space store s e = .next (e me s) := by
  rw [issueAccess, issue_of_ready h]
  exact congrArg _ (if_neg (ne_true_of_eq_false free))

end

/-- Settles O21: the checks of EMITV and EMITP pass one after another. -/
theorem emitsComplete : Obligations.EmitsComplete := by
  intro me s f t v la elem owners
  refine ⟨fun h few => ?emitv, fun h free aligned hd s₁ ws s₂ header count reserved list named => ?emitp⟩
  case emitv =>
    rw [exec_emitv, execEmitv, issue_of_ready h]
    exact congrArg _ (if_neg (Nat.not_lt_of_le few))
  case emitp =>
    have well_formed : (decide (1024 < hd.headD 0) || (hd.drop 1).any fun w => w != 0) = false :=
      Bool.or_eq_false_iff.mpr ⟨decide_eq_false (Nat.not_lt_of_le count), by simpa using reserved⟩
    have all_named : ((primEntries ws).any fun x => !entryNames s₂ me x) = false := by
      simpa using fun a p mem => named (a, p) mem
    have aligned : (v % 16 != 0) = false := by simpa using aligned
    have place : ((me.train s).readS me.sid f.sa.toNat).toNat = v := rfl
    rw [exec_emitp, execEmitp, issueAccess_ready h free]
    simp only [place, aligned, header, well_formed, list, all_named]
    rfl

end Sys2Proof.Proofs

/-! PROOFS. SJOIN (spec/07_control_split_rung_instructions.md R152, R154): its loop over the records of the split, and what it leaves. -/

namespace Sys2Proof.Proofs

open Sys2Proof.Machine Sys2Proof.Safety

/-! ### The loop -/

/-- Taking a record off the stack leaves one record less. -/
theorem popRec_length {sid : Nat} {st rest : List DeferRec} {r : DeferRec} (top : popRec sid st = some (r, rest)) :
    st.length = rest.length + 1 := by
  induction st generalizing rest with
  | nil => cases top
  | cons q st ih =>
    rw [popRec] at top
    cases above : popRec sid st with
    | some x =>
      rw [above] at top
      cases top
      exact congrArg (· + 1) (ih above)
    | none =>
      rw [above] at top
      dsimp only at top
      split at top
      · cases top
        rfl
      · cases top

section
variable {p sid n : Nat} {sp : Split} {st : List DeferRec}

/-- Without a record the split waits behind the SJOIN. -/
theorem sjoinLoop_empty (none_left : popRec sid st = none) :
    sjoinLoop p sid (n + 1) sp st = ({ sp with state := .joinwait, pc := p + 1 }, st) := by
  rw [sjoinLoop, none_left]

variable {r : DeferRec} {rest : List DeferRec} (top : popRec sid st = some (r, rest))
include top

/-- A branch record is resumed, and a join record of the split's lanes takes its place. -/
theorem sjoinLoop_branch (branch : r.join = false) : sjoinLoop p sid (n + 1) sp st =
    ({ sp with active := r.lanes, pc := r.pc }, rest ++ [{ join := true, sid := sid, pc := p + 1, lanes := sp.active }]) := by
  simp [sjoinLoop, top, branch]

/-- A join record of another word stays, and the split waits. -/
theorem sjoinLoop_elsewhere (join : r.join = true) (elsewhere : r.pc ≠ p + 1) :
    sjoinLoop p sid (n + 1) sp st = ({ sp with state := .joinwait, pc := p + 1 }, st) := by
  simp [sjoinLoop, top, join, elsewhere]

/-- A join record of this word joins its lanes, and the loop goes on. -/
theorem sjoinLoop_here (join : r.join = true) (here : r.pc = p + 1) :
    sjoinLoop p sid (n + 1) sp st = sjoinLoop p sid n { sp with active := sp.active ||| r.lanes } rest := by
  simp [sjoinLoop, top, join, here]

end

/-! ### The word -/

/-- What the loop of SJOIN makes of the issuing split and of its train's stack. -/
def sjoinResult (me : Me) (s : State) : Split × List DeferRec :=
  sjoinLoop (me.split s).pc me.sid ((me.train s).stack.length + 1) (me.split s) (me.train s).stack

/-- A ready SJOIN ends its run with the split and the stack as the loop leaves them. -/
theorem sjoin_ready {me : Me} {s : State} {f : FmtC} (h : ready me (.sjoin f) s) (has_split : me.sid < (me.train s).splits.length) :
    ∃ u, exec (.sjoin f) s = .next u ∧ u.cur = none ∧ (me.train u).stack = (sjoinResult me s).2 ∧
      me.split u = { (sjoinResult me s).1 with replay := none, partialEnd := none } := by
  have train : me.train (s.updTrain me.tid fun t =>
      { t.setSplit me.sid { (sjoinResult me s).1 with replay := none, partialEnd := none } with stack := (sjoinResult me s).2 }) =
      { (me.train s).setSplit me.sid { (sjoinResult me s).1 with replay := none, partialEnd := none } with
        stack := (sjoinResult me s).2 } := State.train_updTrain_same ..
  refine ⟨_, (exec_sjoin f s).trans (issue_of_ready h), rfl, congrArg Train.stack train, ?split⟩
  case split =>
    refine (congrArg (fun t => Train.split t me.sid) train).trans ?_
    exact (getD_listSet ..).trans (if_pos ⟨rfl, has_split⟩)

/-- Settles O18: the split and the stack are those of the loop, which takes the records one after another. -/
theorem joinCompletes : Obligations.JoinCompletes := by
  intro me s f h has_split t sp
  obtain ⟨u, next, cur, stack, split⟩ := sjoin_ready h has_split
  have outcome {sp' : Split} {st : List DeferRec} (result : sjoinResult me s = (sp', st)) :
      (me.split u).state = sp'.state ∧ (me.split u).pc = sp'.pc ∧ (me.split u).active = sp'.active ∧ (me.train u).stack = st := by
    rw [split, stack, result]
    exact ⟨rfl, rfl, rfl, rfl⟩
  -- a join record of this word leaves the loop with the rest of the stack, and one round for each of its records
  have joined {r rest} (top : popRec me.sid t.stack = some (r, rest)) (join : r.join = true) (here : r.pc = sp.pc + 1) :
      sjoinResult me s = sjoinLoop sp.pc me.sid (rest.length + 1) { sp with active := sp.active ||| r.lanes } rest :=
    (sjoinLoop_here top join here).trans (congrArg (sjoinLoop _ _ · _ _) (popRec_length top))
  refine ⟨u, next, cur, fun none_left => ?empty, fun r rest top branch => ?branch, fun r rest top join elsewhere => ?elsewhere,
    fun r rest top join here none_left => ?lastHere, outcome rfl, fun r rest top join here => outcome (joined top join here),
    fun r rest q more top join here next branch => ?branchBelow, fun r rest q more top join here next join' elsewhere => ?elsewhereBelow⟩
  case empty => exact outcome (sjoinLoop_empty none_left)
  case branch =>
    obtain ⟨state, pc, active, stack⟩ := outcome (sjoinLoop_branch top branch)
    exact ⟨active, pc, state, stack⟩
  case elsewhere => exact outcome (sjoinLoop_elsewhere top join elsewhere)
  case lastHere => exact outcome ((joined top join here).trans (sjoinLoop_empty none_left))
  case branchBelow =>
    obtain ⟨state, pc, active, stack⟩ := outcome ((joined top join here).trans (sjoinLoop_branch next branch))
    exact ⟨active, pc, state, stack⟩
  case elsewhereBelow => exact outcome ((joined top join here).trans (sjoinLoop_elsewhere next join' elsewhere))

end Sys2Proof.Proofs

/-! PROOFS. What keeps the bytes of every memory and the registers of every train (spec/07_control_split_rung_instructions.md R146, R150,
R157, R161, R164 to R166): changes of trains and of other parts of the state, the ends of a word, faults and loads. -/

namespace Sys2Proof.Proofs

open Sys2Proof.Machine Sys2Proof.Safety

/-- No byte of a memory and no vector register differs, and scalar registers at most where `p` holds of the slot and the number. Where
`L` holds the timestamps of the lines stand as well. -/
structure RegsKept (L : Prop) (p : Nat → Nat → Prop) (s u : State) : Prop where
  mem : u.mem = s.mem
  wgs : u.wgs = s.wgs
  windows : ∀ c, (u.core c).windows = (s.core c).windows
  lines : L → u.lines = s.lines
  vector : sameV (fun _ _ => False) s u
  scalar : sameS p s u

section
variable {L : Prop} {p : Nat → Nat → Prop} {s t u : State}

theorem RegsKept.refl (s : State) : RegsKept L p s s :=
  ⟨rfl, rfl, fun _ => rfl, fun _ => rfl, fun _ _ _ _ => rfl, fun _ _ _ _ => rfl⟩

theorem RegsKept.trans (first : RegsKept L p s t) (second : RegsKept L p t u) : RegsKept L p s u where
  mem := second.mem.trans first.mem
  wgs := second.wgs.trans first.wgs
  windows c := (second.windows c).trans (first.windows c)
  lines h := (second.lines h).trans (first.lines h)
  vector k r l h := (second.vector k r l h).trans (first.vector k r l h)
  scalar k sid r h := (second.scalar k sid r h).trans (first.scalar k sid r h)

/-- Every byte at every place stands. -/
theorem RegsKept.readLoc_eq (kept : RegsKept L p s u) (l : Loc) (n : Nat) : readLoc u l n = readLoc s l n := by
  cases l with
  | phys => exact congrArg (Bytes.readLE · _ _) kept.mem
  | loc w o => simp only [readLoc, State.wg, kept.wgs]
  | acc w o => simp only [readLoc, State.wg, kept.wgs]
  | window c o => simp only [readLoc, kept.windows c]

theorem RegsKept.sameMemory (kept : RegsKept L p s u) (lines : L) : sameMemory s u :=
  ⟨kept.mem, kept.lines lines, kept.wgs⟩

/-! ### Parts of the state that hold no register and no byte -/

/-- A change of other parts of the state. -/
theorem regsKept_of_parts (mem : u.mem = s.mem) (wgs : u.wgs = s.wgs) (cores : u.cores = s.cores) (trains : u.trains = s.trains)
    (lines : L → u.lines = s.lines) : RegsKept L p s u where
  mem := mem
  wgs := wgs
  windows c := by rw [State.core, cores]; rfl
  lines := lines
  vector k r l _ := by rw [State.train, trains]; rfl
  scalar k sid r _ := by rw [State.train, trains]; rfl

theorem regsKept_updLaunch (s : State) (l : Nat) (f : Launch → Launch) : RegsKept L p s (s.updLaunch l f) :=
  regsKept_of_parts rfl rfl rfl rfl fun _ => rfl

theorem regsKept_raiseEvent (s : State) (c : Nat) (e : Event) : RegsKept L p s (s.raiseEvent c e) :=
  regsKept_of_parts (raiseEvent_mem ..) (raiseEvent_wgs ..) (raiseEvent_cores ..) (raiseEvent_trains ..) fun _ => raiseEvent_lines ..

/-- A change of a core that leaves its windows. -/
theorem regsKept_updCore {c : Nat} {f : Core → Core} (windows : (f (s.core c)).windows = (s.core c).windows) :
    RegsKept L p s (s.updCore c f) where
  mem := rfl
  wgs := rfl
  windows k := by
    rw [State.core_updCore]
    split
    case isTrue same => rw [same, windows]
    case isFalse => rfl
  lines _ := rfl
  vector _ _ _ _ := rfl
  scalar _ _ _ _ := rfl

theorem regsKept_updSched (s : State) (c k : Nat) (f : Sched → Sched) : RegsKept L p s (s.updSched c k f) :=
  regsKept_updCore rfl

theorem regsKept_foldl {α : Type} {f : State → α → State} (each : ∀ s x, RegsKept L p s (f s x)) (l : List α) (s : State) :
    RegsKept L p s (l.foldl f s) := by
  induction l generalizing s with
  | nil => exact .refl s
  | cons x l ih => exact (each s x).trans (ih (f s x))

/-! ### Changes of a train -/

/-- A change of a train that keeps its vector registers, and its scalar ones where `p` does not hold. -/
theorem regsKept_updTrain {tid : Nat} {k : Train → Train} (vregs : (k (s.train tid)).vregs = (s.train tid).vregs)
    (scalar : ∀ sid r, ¬ p tid r → (k (s.train tid)).readS sid r = (s.train tid).readS sid r) : RegsKept L p s (s.updTrain tid k) where
  mem := rfl
  wgs := rfl
  windows _ := rfl
  lines _ := rfl
  vector j r l _ := by
    rw [State.train_updTrain]
    split
    case isTrue same => rw [same, Train.readV, vregs]; rfl
    case isFalse => rfl
  scalar j sid r other := by
    rw [State.train_updTrain]
    split
    case isTrue same => subst same; exact scalar sid r other
    case isFalse => rfl

/-- A change of a split that keeps its ACTIVE. -/
theorem regsKept_updSplit {me : Me} {f : Split → Split} (active : (f (me.split s)).active = (me.split s).active) :
    RegsKept L p s (s.updSplit me f) :=
  regsKept_updTrain rfl fun _ _ _ => Train.readS_updSplit _ _ _ _ _ active

/-- A change of a train that keeps the stored registers: only the ACTIVE words may read otherwise. -/
theorem regsKept_updTrain_masks {tid : Nat} {k : Train → Train} (masks : ∀ r, 124 ≤ r → r ≤ 126 → p tid r)
    (vregs : (k (s.train tid)).vregs = (s.train tid).vregs) (sregs : (k (s.train tid)).sregs = (s.train tid).sregs) :
    RegsKept L p s (s.updTrain tid k) := by
  refine regsKept_updTrain vregs fun sid r other => ?_
  have no_mask : r < 124 ∨ 126 < r := by
    refine Decidable.byContradiction fun mask => other (masks r ?_ ?_) <;> omega
  rw [readS_not_mask _ _ no_mask, readS_not_mask _ _ no_mask, sregs]

/-- A write of a scalar register. -/
theorem regsKept_writeS {tid n : Nat} (sid : Nat) (v : Word) (written : p tid n) :
    RegsKept L p s (s.updTrain tid fun t => t.writeS sid n v) :=
  regsKept_updTrain (Train.writeS_vregs ..) fun _ _ other => readS_writeS_of_ne _ _ _ _ fun same => other (same ▸ written)

/-! ### The ends of a word -/

theorem regsKept_endRun (s : State) (me : Me) : RegsKept L p s (s.endRun me) :=
  (regsKept_updSched s me.core me.sched fun k => { k with run := none }).trans
    (regsKept_of_parts rfl rfl rfl rfl fun _ => rfl)

theorem regsKept_stall (k : Nat) (me : Me) (s : State) : RegsKept L p s (stall k me s) :=
  (regsKept_updSched s me.core me.sched fun x => { x with run := x.run.map fun r => { r with stall := some k } }).trans
    (regsKept_of_parts rfl rfl rfl rfl fun _ => rfl)

theorem regsKept_retire (me : Me) (s : State) : RegsKept L p s (retire me s) := by
  unfold retire
  dsimp only
  split
  case isTrue => exact (regsKept_updSplit rfl).trans (regsKept_endRun ..)
  case isFalse => exact (regsKept_updSplit rfl).trans (regsKept_updSched ..)

theorem regsKept_goto (pc : Nat) (me : Me) (s : State) : RegsKept L p s (goto pc me s) :=
  (regsKept_updSplit rfl).trans (regsKept_endRun ..)

theorem regsKept_fallHeld (h : Hold) (me : Me) (s : State) : RegsKept L p s (fallHeld h me s) :=
  (regsKept_updSplit rfl).trans (regsKept_goto ..)

theorem regsKept_branchIf (b : Bool) (offset : BitVec 32) (me : Me) (s : State) : RegsKept L p s (branchIf b offset me s) :=
  regsKept_goto ..

/-! ### Faults -/

theorem regsKept_takeFault (s : State) (me : Me) (recs : List FaultRec) : RegsKept L p s (takeFault s me recs) where
  mem := takeFault_mem ..
  wgs := takeFault_wgs ..
  windows c := by
    have run_ends := (regsKept_endRun (L := L) (p := p) (parkSplit me recs s) me).windows c
    exact run_ends.trans (by rw [State.core, parkSplit_cores]; rfl)
  lines _ := takeFault_lines ..
  vector _ _ _ _ := takeFault_readV ..
  scalar _ _ _ _ := takeFault_readS ..

theorem regsKept_faultWith (s : State) (me : Me) (recs : List FaultRec) : RegsKept L p s (faultWith s me recs) := by
  unfold faultWith
  dsimp only
  split
  · exact (regsKept_updSplit rfl).trans (regsKept_takeFault ..)
  · exact (regsKept_updSplit rfl).trans (regsKept_takeFault ..)
  · exact regsKept_takeFault ..

theorem regsKept_faultAt (k : Kind) (a : DWord) (n : Nat) (info : Word) (me : Me) (s : State) :
    RegsKept L p s (faultAt k a n info me s) :=
  regsKept_faultWith ..

theorem regsKept_operandsFirst (i : Instr) (me : Me) (s : State) : RegsKept L p s (operandsFirst i me s) := by
  unfold operandsFirst
  split
  case isTrue =>
    unfold brokenFault
    split
    · exact regsKept_faultAt ..
    · exact regsKept_faultWith ..
  case isFalse => exact regsKept_updTrain rfl fun _ _ _ => rfl

/-- A next state of a word comes of a stall, of a fault or an observation at its operands, or of its effect. -/
theorem regsKept_issue {x : Result} {i : Instr} {e : Me → State → State} (word : x = issue i s e) (next : x = .next u)
    (effect : ∀ me, issuer s = some me → RegsKept L p s (e me s)) : RegsKept L p s u := by
  rw [word] at next
  obtain ⟨me, issues, ⟨k, rfl⟩ | ⟨-, rfl⟩ | ⟨-, -, rfl⟩⟩ := issue_next next
  · exact regsKept_stall k me s
  · exact regsKept_operandsFirst i me s
  · exact effect me issues

/-- An access stalls behind what is unsettled, besides. -/
theorem regsKept_issueAccess {x : Result} {i : Instr} {space : Nat} {store : Bool} {e : Me → State → State}
    (word : x = issueAccess i space store s e) (next : x = .next u) (effect : ∀ me, RegsKept L p s (e me s)) : RegsKept L p s u := by
  refine regsKept_issue (word.trans rfl) next fun me _ => ?_
  split
  case isTrue => exact regsKept_stall ..
  case isFalse => exact effect me

/-! ### Loads -/

/-- A line that leaves its slice keeps its bytes. -/
theorem regsKept_evict (s : State) (line : Nat) : RegsKept L p s (s.evict line) :=
  regsKept_of_parts rfl rfl rfl rfl fun _ => rfl

theorem regsKept_freeWay {slice cls line : Nat} (freed : freeWay slice cls line s = some u) : RegsKept L p s u := by
  unfold freeWay at freed
  dsimp only at freed
  split at freed
  case isTrue =>
    cases freed
    exact .refl s
  case isFalse =>
    obtain ⟨v, -, rfl⟩ := Option.map_eq_some_iff.mp freed
    exact regsKept_evict s v

theorem regsKept_placeLine (g : Agent) (line home : Nat) (x : L2Line) (s : State) : RegsKept L p s (placeLine g line home x s) := by
  unfold placeLine
  dsimp only
  split <;> exact regsKept_of_parts rfl rfl rfl rfl fun _ => rfl

theorem regsKept_allocLine (g : Agent) (line home : Nat) (x : L2Line) (s : State) : RegsKept L p s (allocLine g line home x s) := by
  unfold allocLine
  split
  case isTrue => exact .refl s
  case isFalse =>
    split
    case h_1 => exact .refl s
    case h_2 freed => exact (regsKept_freeWay freed).trans (regsKept_placeLine ..)

theorem regsKept_touch (g : Agent) (l : Loc) (s : State) : RegsKept L p s (touch g l s) := by
  unfold touch
  split
  case h_2 => exact .refl s
  case h_1 =>
    split
    case isTrue => exact .refl s
    case isFalse =>
      unfold touchLine
      dsimp only
      split
      case h_1 => exact regsKept_allocLine ..
      case h_2 =>
        split
        case isTrue => exact (regsKept_evict ..).trans (regsKept_allocLine ..)
        case isFalse => exact regsKept_of_parts rfl rfl rfl rfl fun _ => rfl

theorem regsKept_keepCopy (node : Bool) (core line : Nat) (c : L1Line) (s : State) :
    RegsKept L p s (keepCopy node core line c s) := by
  have crowd {α : Type} (n : Nat) (l : List α) : RegsKept L p s (s.crowd n l).2 := by
    unfold State.crowd
    split
    case isTrue => exact .refl s
    case isFalse => exact regsKept_of_parts rfl rfl rfl rfl fun _ => rfl
  unfold keepCopy
  refine (crowd ..).trans (regsKept_updCore ?_)
  split <;> rfl

/-- A load leaves timestamps and copies of lines behind, and no byte and no register otherwise. -/
theorem regsKept_trainLoad (stamps : ¬ L) (tid : Nat) (l : Loc) (n : Nat) (s : State) : RegsKept L p s (trainLoad tid l n s).2 := by
  have stamped (lease pts key : Nat) : RegsKept L p s (stampLoad lease pts key s).2 :=
    regsKept_of_parts rfl rfl rfl rfl fun h => absurd h stamps
  have setPts (s : State) (pts : Nat) : RegsKept L p s (s.updTrain tid fun t => { t with pts := pts }) :=
    regsKept_updTrain rfl fun _ _ _ => rfl
  unfold trainLoad cachedLoad
  dsimp only
  split
  case h_1 => exact setPts ..
  case h_2 =>
    split
    case h_1 => exact (stamped ..).trans ((regsKept_touch ..).trans ((setPts ..).trans (regsKept_keepCopy ..)))
    case h_2 => exact (stamped ..).trans ((regsKept_touch ..).trans (setPts ..))

theorem regsKept_listWords (stamps : ¬ L) {me : Me} {n a : Nat} {ws : List Nat} (read : listWords me n a s = .ok (ws, u)) :
    RegsKept L p s u := by
  induction n generalizing s a ws with
  | zero =>
    cases read
    exact .refl _
  | succ n ih =>
    rw [listWords] at read
    split at read
    case h_1 => cases read
    case h_2 l _ =>
      dsimp only at read
      split at read
      case h_1 => cases read
      case h_2 rest =>
        cases read
        exact (regsKept_trainLoad stamps ..).trans (ih rest)

end

end Sys2Proof.Proofs

/-! PROOFS. The frame of the control majors (spec/07_control_split_rung_instructions.md R146, R150, R157, R161, R164 to R166): memory and
registers over every next state. -/

namespace Sys2Proof.Proofs

open Sys2Proof.Machine Sys2Proof.Safety

section
variable {L : Prop} {p : Nat → Nat → Prop}

theorem regsKept_jumpTo (pc : Nat) (me : Me) (s : State) : RegsKept L p s (jumpTo pc me s) := by
  unfold jumpTo
  split
  case isTrue => exact regsKept_goto ..
  case isFalse => exact regsKept_faultAt ..

theorem regsKept_releaseRecs (lid : Nat) (s : State) : RegsKept L p s (releaseRecs lid s) := by
  unfold releaseRecs
  dsimp only
  split
  case isTrue => exact .refl s
  case isFalse => exact regsKept_updLaunch ..

theorem regsKept_endIfEmpty (tid : Nat) (s : State) : RegsKept L p s (endIfEmpty tid s) := by
  refine regsKept_updTrain ?vregs fun sid r _ => ?scalar
  case vregs => split <;> rfl
  case scalar => split <;> rfl

/-! ### Words that change ACTIVE -/

section
variable (masks : ∀ k r, 124 ≤ r → r ≤ 126 → p k r)
include masks

/-- Lanes that end leave their splits, and their rays come to an end. -/
theorem regsKept_endLanes (m : LaneMask) (kill : Bool) (tid : Nat) (s : State) : RegsKept L p s (endLanes m kill tid s) := by
  delta endLanes
  extract_lets t ls s₁ ops rays s₂ s₃
  have launch : RegsKept L p s s₁ := regsKept_updLaunch ..
  have lanes : RegsKept L p s₁ s₂ := regsKept_updTrain_masks (masks tid) rfl rfl
  have ended : RegsKept L p s₂ s₃ := regsKept_of_parts rfl rfl rfl rfl fun _ => rfl
  have queued (s : State) (id : Nat) : RegsKept L p s (s.later (.rayRecordDelivery id)) :=
    regsKept_of_parts rfl rfl rfl rfl fun _ => rfl
  exact launch.trans (lanes.trans (ended.trans (regsKept_foldl queued rays s₃)))

theorem regsKept_endSplit (me : Me) (s : State) : RegsKept L p s (endSplit me s) := by
  have logged : RegsKept L p s (logDeferred me s) := regsKept_foldl (fun s _ => regsKept_raiseEvent ..) _ s
  have gone (s : State) : RegsKept L p s (s.updSplit me fun _ => {}) := regsKept_updTrain_masks (masks me.tid) rfl rfl
  exact logged.trans ((gone _).trans ((regsKept_endRun ..).trans (regsKept_endIfEmpty ..)))

end

/-! ### Each major -/

section
variable {s u : State} {f : FmtC} {x : FmtX}

theorem regsKept_nop (next : exec (.nop x) s = .next u) : RegsKept L p s u :=
  regsKept_issue (exec_nop x s) next fun _ _ => (regsKept_updTrain (k := fun t => t) rfl fun _ _ _ => rfl).trans (regsKept_retire ..)

theorem regsKept_br (next : exec (.br f) s = .next u) : RegsKept L p s u :=
  regsKept_issue (exec_br f s) next fun _ _ => regsKept_branchIf ..

theorem regsKept_brs (next : exec (.brs f) s = .next u) : RegsKept L p s u :=
  regsKept_issue (exec_brs f s) next fun _ _ => regsKept_branchIf ..

theorem regsKept_brm (next : exec (.brm f) s = .next u) : RegsKept L p s u :=
  regsKept_issue (exec_brm f s) next fun _ _ => regsKept_branchIf ..

theorem regsKept_wait (next : exec (.wait f) s = .next u) : RegsKept L p s u :=
  regsKept_issue (exec_wait f s) next fun _ _ => regsKept_fallHeld ..

theorem regsKept_yield (next : exec (.yield f) s = .next u) : RegsKept L p s u :=
  regsKept_issue (exec_yield f s) next fun _ _ => regsKept_fallHeld ..

theorem regsKept_ret (next : exec (.ret f) s = .next u) : RegsKept L p s u :=
  regsKept_issue (exec_ret f s) next fun _ _ => regsKept_jumpTo ..

theorem regsKept_jmpi (next : exec (.jmpi f) s = .next u) : RegsKept L p s u :=
  regsKept_issue (exec_jmpi f s) next fun _ _ => regsKept_jumpTo ..

theorem regsKept_regtrim (next : exec (.regtrim f) s = .next u) : RegsKept L p s u := by
  refine regsKept_issue (exec_regtrim f s) next fun me _ => ?_
  dsimp only
  split
  case isTrue => exact regsKept_faultAt ..
  case isFalse => exact regsKept_fallHeld ..

theorem regsKept_fxrel (next : exec (.fxrel f) s = .next u) : RegsKept L p s u :=
  regsKept_issue (exec_fxrel f s) next fun _ _ =>
    (regsKept_updTrain (k := fun t => { t with fxrel := true }) rfl fun _ _ _ => rfl).trans
      ((regsKept_fallHeld ..).trans (regsKept_releaseRecs ..))

theorem regsKept_brv (masks : ∀ k r, 124 ≤ r → r ≤ 126 → p k r) (next : exec (.brv f) s = .next u) : RegsKept L p s u := by
  refine regsKept_issue (exec_brv f s) next fun me _ => ?_
  have divided {k : Train → Train} (pc : Nat) (vregs : (k (me.train s)).vregs = (me.train s).vregs)
      (sregs : (k (me.train s)).sregs = (me.train s).sregs) : RegsKept L p s (goto pc me (s.updTrain me.tid k)) :=
    (regsKept_updTrain_masks (masks me.tid) vregs sregs).trans (regsKept_goto ..)
  unfold brvEffect
  dsimp only
  split
  case isTrue => exact regsKept_goto ..
  case isFalse =>
    split
    case isTrue => exact regsKept_goto ..
    case isFalse =>
      split
      case h_1 => exact divided _ rfl rfl
      case h_2 =>
        split
        case isTrue => exact regsKept_faultAt ..
        case isFalse => exact divided _ rfl rfl

theorem regsKept_sjoin (masks : ∀ k r, 124 ≤ r → r ≤ 126 → p k r) (next : exec (.sjoin f) s = .next u) : RegsKept L p s u :=
  regsKept_issue (exec_sjoin f s) next fun me _ => (regsKept_updTrain_masks (masks me.tid) rfl rfl).trans (regsKept_endRun ..)

theorem regsKept_exit (masks : ∀ k r, 124 ≤ r → r ≤ 126 → p k r) (next : exec (.exit f) s = .next u) : RegsKept L p s u := by
  refine regsKept_issue (exec_exit f s) next fun me _ => ?_
  have ended (m : LaneMask) : RegsKept L p s (endLanes m false me.tid s) := regsKept_endLanes masks m false me.tid s
  have resumed {s : State} (rest : List DeferRec) (lanes : LaneMask) (pc : Nat) : RegsKept L p s
      (goto pc me ((s.updTrain me.tid fun t => { t with stack := rest }).updSplit me fun sp => { sp with active := lanes })) :=
    (regsKept_updTrain (k := fun t => { t with stack := rest }) rfl fun _ _ _ => rfl).trans
      ((regsKept_updTrain_masks (masks me.tid) rfl rfl).trans (regsKept_goto ..))
  dsimp only
  split
  case h_1 => exact (ended _).trans (resumed ..)
  case h_2 => exact (ended _).trans (regsKept_endSplit masks ..)

theorem regsKept_kills (masks : ∀ k r, 124 ≤ r → r ≤ 126 → p k r) (next : exec (.kills f) s = .next u) : RegsKept L p s u := by
  refine regsKept_issue (exec_kills f s) next fun me _ => ?_
  have ended (m : LaneMask) : RegsKept L p s (endLanes m true me.tid s) := regsKept_endLanes masks m true me.tid s
  dsimp only
  split
  case isTrue => exact (ended _).trans (regsKept_endSplit masks ..)
  case isFalse => exact (ended _).trans (regsKept_fallHeld ..)

theorem regsKept_call (written : ∀ me, issuer s = some me → p me.tid 127) (next : exec (.call f) s = .next u) : RegsKept L p s u :=
  regsKept_issue (exec_call f s) next fun me issues => (regsKept_writeS _ _ (written me issues)).trans (regsKept_branchIf ..)

theorem regsKept_reggrow (written : ∀ me, issuer s = some me → p me.tid f.sa.toNat) (next : exec (.reggrow f) s = .next u) :
    RegsKept L p s u := by
  refine regsKept_issue (exec_reggrow f s) next fun me issues => ?_
  dsimp only
  split
  case isTrue => exact (regsKept_writeS _ _ (written me issues)).trans (regsKept_fallHeld ..)
  case isFalse =>
    refine (regsKept_updTrain ?vregs fun sid r _ => ?scalar).trans (regsKept_fallHeld ..)
    case vregs => unfold Train.setPending; split <;> rfl
    case scalar => unfold Train.setPending; split <;> rfl

theorem regsKept_emitv (written : ∀ me, issuer s = some me → p me.tid f.sa.toNat) (next : exec (.emitv f) s = .next u) :
    RegsKept L p s u := by
  refine regsKept_issue (exec_emitv f s) next fun me issues => ?_
  dsimp only
  split
  case isTrue => exact regsKept_faultAt ..
  case isFalse => exact (regsKept_updLaunch ..).trans ((regsKept_writeS _ _ (written me issues)).trans (regsKept_fallHeld ..))

/-- EMITP reads its list as loads do, and stops at the first fault. -/
theorem regsKept_emitp (stamps : ¬ L) (next : exec (.emitp f) s = .next u) : RegsKept L p s u := by
  refine regsKept_issueAccess (exec_emitp f s) next fun me => ?_
  dsimp only
  split
  case isTrue => exact regsKept_faultAt ..
  case isFalse =>
    split
    case h_1 => exact regsKept_faultAt ..
    case h_2 header =>
      refine (regsKept_listWords stamps header).trans ?_
      split
      case isTrue => exact regsKept_faultAt ..
      case isFalse =>
        split
        case h_1 => exact regsKept_faultAt ..
        case h_2 entries =>
          refine (regsKept_listWords stamps entries).trans ?_
          split
          case isTrue => exact regsKept_faultAt ..
          case isFalse => exact (regsKept_updLaunch ..).trans (regsKept_fallHeld ..)

end

end

/-! ### The frame -/

/-- The scalar registers that a control major may write: the ACTIVE words but for NOP, s127 by CALL, and sN by REGGROW and EMITV. -/
def controlWrites (f : FmtC) (x : FmtX) (s : State) (i : Instr) (k r : Nat) : Prop :=
  (124 ≤ r ∧ r ≤ 126 ∧ i ≠ Instr.nop x) ∨ ((∃ me, issuer s = some me ∧ k = me.tid) ∧
    ((i = Instr.call f ∧ r = 127) ∨ (i ∈ [Instr.reggrow f, Instr.emitv f] ∧ r = f.sa.toNat)))

theorem controlWrites_masks {f : FmtC} {x : FmtX} {s : State} {i : Instr} (no_nop : i ≠ .nop x) (k r : Nat) (low : 124 ≤ r)
    (high : r ≤ 126) : controlWrites f x s i k r :=
  .inl ⟨low, high, no_nop⟩

/-- Settles O22: the frame of each major. -/
theorem controlFrame : Obligations.ControlFrame := by
  intro s u f x i next major
  have kept : RegsKept (i ≠ .emitp f) (controlWrites f x s i) s u := by
    refine (?_ : ∀ i ∈ _, exec i s = .next u → RegsKept (i ≠ .emitp f) (controlWrites f x s i) s u) i major next
    simp only [List.forall_mem_cons, List.not_mem_nil, false_imp_iff, implies_true, and_true]
    exact ⟨regsKept_nop, regsKept_br, regsKept_brs, regsKept_brm, regsKept_brv (controlWrites_masks nofun),
      regsKept_sjoin (controlWrites_masks nofun), regsKept_wait, regsKept_yield, regsKept_regtrim, regsKept_fxrel, regsKept_ret,
      regsKept_jmpi, regsKept_exit (controlWrites_masks nofun), regsKept_kills (controlWrites_masks nofun),
      regsKept_call fun me issues => .inr ⟨⟨me, issues, rfl⟩, .inl ⟨rfl, rfl⟩⟩,
      regsKept_reggrow fun me issues => .inr ⟨⟨me, issues, rfl⟩, .inr ⟨.head _, rfl⟩⟩,
      regsKept_emitv fun me issues => .inr ⟨⟨me, issues, rfl⟩, .inr ⟨.tail _ (.head _), rfl⟩⟩,
      regsKept_emitp (not_not_intro rfl)⟩
  exact ⟨kept.sameMemory, fun l => kept.readLoc_eq l 1, kept.vector, kept.scalar⟩

end Sys2Proof.Proofs

/-! PROOFS. The events of rays and blending (spec/11_core_geometry_rays.md R277 to R280; spec/25_package_debug_trace.md R433): a lane of a
BLST that hits a watched range as it is applied marks the lanes of its instruction that are still held. -/

namespace Sys2Proof.Proofs

open Sys2Proof.Machine Sys2Proof.Safety

/-- Lane `lane` of one BLST of a primitive at a pixel of tile (0, 0), at its word of memory. -/
def watchedLane (lane : Nat) : Blend :=
  { who := { tid := 0, gen := 0, sid := 0 }, ctx := 0, launch := 1, seq := 0, tx := 0, ty := 0,
    loc := .phys (0x40000000000 + 4 * lane) 0 0 0 0, op := 0, wide := false, src := 9, pts := 0, lane := lane, pc := 0,
    va := 0x40000000000 + 4 * lane }

/-- Lanes 0 and 1 of a BLST of a RESIDENT train are held, in a context that watches the word of lane 0 for the accesses of every agent. -/
def watchedBlends : State :=
  { State.reset with
    hbmReady := true,
    trains := [(0, { state := .resident, launch := 1, live := 3 })],
    launches := [(1, { graphics := true })],
    ctxs := [(0, { physical := true, begun := true, wbase := [(0, 0x40000000000)], wlen := [(0, 4)], wctl := [(0, 7)] })],
    blends := [(5, watchedLane 0), (6, watchedLane 1)] }

theorem memoryCanonical_watchedBlends : memoryCanonical watchedBlends :=
  ⟨rfl, fun _ => ⟨rfl, rfl⟩, fun _ => rfl⟩

/-- The table of held lanes after an event, where it leads to a next state. -/
def blendsAfter : Result → Option (Tab Blend)
  | .next u => some u.blends
  | _ => none

/-- The lane that is left carries the watched byte of the lane that has been applied (R433). -/
theorem blendsAfter_watchedBlends : blendsAfter (exec (.blendApply 5) watchedBlends) =
    some [(6, { watchedLane 1 with hit := some (0, 0x40000000000) })] := by
  decide +kernel

/-- Refutes O47: its clause on BLEND_APPLY says that the other held lanes stand as they were, also where the applied lane hits a watched
range and another lane of its instruction is still held. -/
theorem not_rayEventsComplete : ¬ Obligations.RayEventsComplete := by
  intro complete
  obtain ⟨-, -, -, -, -, -, -, -, blend_applies, -⟩ := complete watchedBlends 5 0 0 0 0
  obtain ⟨u, next, stands, -⟩ := blend_applies (watchedLane 0) memoryCanonical_watchedBlends rfl (by decide +kernel) (by decide +kernel)
  have marked := blendsAfter_watchedBlends
  rw [next, blendsAfter, stands] at marked
  exact absurd marked (by decide +kernel)

end Sys2Proof.Proofs

/-! PROOFS. The events that stand for writes of system registers (spec/08_core_scheduling.md R195; spec/17_package_memory_model.md R339;
spec/20_package_memory_translation.md R375; spec/25_package_debug_trace.md R435, R436): the counters, the capture of one, LEASE, CQUOTA
and the control of a trace session. -/

namespace Sys2Proof.Proofs

open Sys2Proof.Machine

variable {s : State} {c core slot n v : Nat}

/-! ### The profiling counters (R195) -/

theorem find_map_values {α β : Type} (f : α → β) (t : Tab α) (n : Nat) :
    Tab.find (t.map fun x => (x.1, f x.2)) n = (Tab.find t n).map f := by
  induction t with
  | nil => rfl
  | cons x t ih =>
    simp only [List.map_cons, Tab.find, ih]
    split
    case isTrue => rfl
    case isFalse => split <;> rfl

/-- CLR empties the counts of every scheduler and changes nothing else of it. -/
theorem sched_profClear (core : Nat) (s : State) (k : Nat) :
    ((profClear core s).core core).sched k = { (s.core core).sched k with bins := [], reasons := [] } := by
  rw [profClear, State.core_updCore_same]
  simp only [Core.sched, Tab.get, find_map_values fun x : Sched => { x with bins := [], reasons := [] }]
  cases Tab.find (s.core core).scheds k <;> rfl

theorem profCounter_profClear (core : Nat) (s : State) (n : Nat) : profCounter (profClear core s) core n = 0 := by
  simp only [profCounter, sched_profClear]
  split
  case isTrue => rfl
  case isFalse => split <;> rfl

theorem profilingCapture_even (low : 0x200 ≤ n) (high : n < 0x400) (even : n % 2 = 0) :
    execProfilingCapture core slot n s = .next (s.updTrain (core * 32 + slot % 32) fun t => { t with
      capture := Tab.put t.capture (n + 1) (BitVec.ofNat 32 (profCounter s ((core * 32 + slot % 32) / 32) n / 2 ^ 32)) }) := by
  simp [execProfilingCapture, profRead, low, high, even]

/-! ### LEASE and CQUOTA (Table 17.1, R375) -/

theorem writeLease_eq : writeLease c v s =
    s.updCtx c fun x => { x with lease := if v % 65536 = 0 then 1 else v % 65536 } := by
  simp only [writeLease, beq_iff_eq]

theorem quota_writeCquota (field : n < 4) : Tab.get 16 (writeCquota 0 v s).cquota n = min (bits v (5 * n) 5) 16 :=
  match n, field with
  | 0, _ | 1, _ | 2, _ | 3, _ => rfl

theorem writeCquota_otherContext (other : c ≠ 0) : writeCquota c v s = s := by
  simp [writeCquota, other]

/-! ### The records of a trace session (R436, R437) -/

/-- With no record that waits, a flush changes nothing of the context. -/
theorem traceFlush_nil (no_records : (s.ctx c).trQueue = []) : traceFlush c s = s.updCtx c id := by
  rw [traceFlush, no_records]
  rfl

section

variable {kind tag : Nat} {joined value : DWord} {lam : Option Nat}

theorem ctx_traceAdd_off (off : (s.ctx c).tracing = false) : (s.traceAdd c kind joined tag value lam).ctx c = s.ctx c := by
  simp [State.traceAdd, off]

theorem ctx_traceAdd_on (on : (s.ctx c).tracing = true) :
    let l := lam.getD (if s.halted then (s.ctx c).trM else (s.ctx c).trM + 1)
    (s.traceAdd c kind joined tag value lam).ctx c = { s.ctx c with
      trM := max (s.ctx c).trM l,
      trQueue := (s.ctx c).trQueue ++
        [{ kind := kind, joined := joined, tag := tag, value := value, lam := l, since := s.cycle, tid := 0 }] } := by
  simp [State.traceAdd, on]

end

/-! ### The control of a trace session (R435) -/

/-- The MODE that a write stores where it leaves EN 0 or sets it: the reserved mode 3 stores 0. -/
def storedMode (v : Nat) : Nat := if v % 4 = 3 then 0 else v % 4

theorem storedMode_lt (v : Nat) : storedMode v < 3 := by
  unfold storedMode
  split <;> omega

/-- With EN 1, records are written in modes 1 and 2 and in no other. -/
theorem tracing_enabled {x : Ctx} {mode lrec : Nat} (known : mode < 3) (control : x.trCtl = mode + 4 + 8 * lrec) :
    x.tracing = decide (mode ≠ 0) := by
  have enabled : x.trCtl.testBit 2 = true := by
    rw [control, Nat.testBit_eq_decide_div_mod_eq, decide_eq_true_eq]
    omega
  have low : x.trCtl % 4 = mode := by omega
  rw [Ctx.tracing, enabled, low]
  match mode, known with
  | 0, _ | 1, _ | 2, _ => rfl

theorem traceControl_off (off : v.testBit 2 = false) : traceControl c v s =
    (if (s.ctx c).trCtl.testBit 2 then traceFlush c s else s).updCtx c fun x =>
      { x with trCtl := storedMode v + 8 * (v.testBit 3).toNat } := by
  cases was : (s.ctx c).trCtl.testBit 2 <;> simp [traceControl, storedMode, off, was]

theorem traceControl_staysOn (on : v.testBit 2 = true) (was_on : (s.ctx c).trCtl.testBit 2 = true) : traceControl c v s =
    s.updCtx c fun x => { x with trCtl := x.trCtl % 4 + 4 + 8 * (v.testBit 3).toNat } := by
  simp [traceControl, on, was_on, State.updCtx]

/-- The context as a write that sets EN leaves it, before the START record. -/
def enabledCtx (v : Nat) (x : Ctx) : Ctx :=
  { x with trCtl := storedMode v + 4 + 8 * (v.testBit 3).toNat, trFull := true }

theorem tracing_enabledCtx (v : Nat) (x : Ctx) : (enabledCtx v x).tracing = decide (storedMode v ≠ 0) :=
  tracing_enabled (storedMode_lt v) rfl

section

variable (on : v.testBit 2 = true) (was_off : (s.ctx c).trCtl.testBit 2 = false) (no_records : (s.ctx c).trQueue = [])
include on was_off no_records

theorem traceControl_starts : ∃ u : State, traceControl c v s = u.traceAdd c 6 0 0 0 none ∧
    u.ctx c = enabledCtx v (s.ctx c) := by
  refine ⟨((s.updCtx c id).updCtx c fun x => { x with trCtl := storedMode v + 4 + 8 * (v.testBit 3).toNat }).updCtx c fun x =>
    { x with trFull := true }, ?record, ?context⟩
  case record => simp [traceControl, storedMode, on, was_off, traceFlush_nil no_records]
  case context => simp [enabledCtx]

/-- A session starts with a START record and a full timestamp; in mode 0 it takes no record. -/
theorem ctx_traceControl_starts :
    ((traceControl c v s).ctx c).trCtl = storedMode v + 4 + 8 * (v.testBit 3).toNat ∧
    ((traceControl c v s).ctx c).trQueue.map (fun r => (r.kind, r.joined, r.tag, r.value)) =
      (if storedMode v = 0 then [] else [(6, 0, 0, 0)]) ∧ ((traceControl c v s).ctx c).trFull = true := by
  obtain ⟨u, started, ctx⟩ := traceControl_starts on was_off no_records
  have tracing : (u.ctx c).tracing = decide (storedMode v ≠ 0) := ctx ▸ tracing_enabledCtx v (s.ctx c)
  rw [started]
  by_cases mode : storedMode v = 0
  · rw [ctx_traceAdd_off (by simpa [mode] using tracing), ctx, if_pos mode]
    exact ⟨rfl, congrArg _ no_records, rfl⟩
  · rw [ctx_traceAdd_on (by simpa [mode] using tracing), ctx, if_neg mode]
    exact ⟨rfl, by simp [enabledCtx, no_records], rfl⟩

end

/-- Settles O52: one rule for each event, and three for the write of the trace control, by EN before and after it. -/
theorem registerEventsComplete : Obligations.RegisterEventsComplete := by
  intro s c core slot v
  refine ⟨fun on => ⟨profEnable core on s, rfl, ?stored, ?counts_stand⟩,
    ⟨profClear core s, rfl, ?enable_stands, fun n _ _ => profCounter_profClear core s n⟩,
    fun _ => profilingCapture_even, congrArg _ writeLease_eq, ⟨writeCquota 0 v.toNat s, rfl, fun _ => quota_writeCquota⟩,
    fun other => congrArg _ (writeCquota_otherContext other), rfl, rfl, rfl, rfl, fun off => congrArg _ (traceControl_off off),
    fun on => ⟨fun was_off no_records => ⟨traceControl c v.toNat s, rfl, ?starts⟩,
      fun was_on => congrArg _ (traceControl_staysOn on was_on)⟩⟩
  case stored => simp [profEnable]
  case counts_stand => simp [profEnable]
  case enable_stands => simp [profClear]
  case starts =>
    obtain ⟨control, records, full⟩ := ctx_traceControl_starts on was_off no_records
    exact ⟨control, records, fun _ => full⟩

end Sys2Proof.Proofs

/-! PROOFS. What keeps the bytes of every memory, in accesses, prefetches and pins (spec/09_core_memory_async.md R202 to R213): loads, the
delivery of their values, updates on their way to a line, and the ways and pins of lines. -/

namespace Sys2Proof.Proofs

open Sys2Proof.Machine Sys2Proof.Safety

/-- Every byte of every memory stands. -/
structure BytesKept (s u : State) : Prop where
  mem : u.mem = s.mem
  localMem : ∀ w, (u.wg w).mem = (s.wg w).mem
  acc : ∀ w, (u.wg w).acc = (s.wg w).acc
  windows : ∀ c, (u.core c).windows = (s.core c).windows

section
variable {L : Prop} {p : Nat → Nat → Prop} {s t u : State}

theorem BytesKept.refl (s : State) : BytesKept s s :=
  ⟨rfl, fun _ => rfl, fun _ => rfl, fun _ => rfl⟩

theorem BytesKept.trans (first : BytesKept s t) (second : BytesKept t u) : BytesKept s u where
  mem := second.mem.trans first.mem
  localMem w := (second.localMem w).trans (first.localMem w)
  acc w := (second.acc w).trans (first.acc w)
  windows c := (second.windows c).trans (first.windows c)

theorem BytesKept.readLoc_eq (kept : BytesKept s u) (l : Loc) (n : Nat) : readLoc u l n = readLoc s l n := by
  cases l with
  | phys => exact congrArg (Bytes.readLE · _ _) kept.mem
  | loc w o => simp only [readLoc, kept.localMem w]
  | acc w o => simp only [readLoc, kept.acc w]
  | window c o => simp only [readLoc, kept.windows c]

theorem BytesKept.memoryCanonical (kept : BytesKept s u) (canonical : memoryCanonical s) : memoryCanonical u := by
  obtain ⟨mem, wgs, windows⟩ := canonical
  refine ⟨kept.mem ▸ mem, fun w => ?_, fun c => kept.windows c ▸ windows c⟩
  rw [kept.localMem w, kept.acc w]
  exact wgs w

theorem RegsKept.bytesKept (kept : RegsKept L p s u) : BytesKept s u where
  mem := kept.mem
  localMem w := by rw [State.wg, kept.wgs]; rfl
  acc w := by rw [State.wg, kept.wgs]; rfl
  windows := kept.windows

/-- A change of a train, whatever registers it writes. -/
theorem bytesKept_updTrain (tid : Nat) (k : Train → Train) : BytesKept s (s.updTrain tid k) :=
  ⟨rfl, fun _ => rfl, fun _ => rfl, fun _ => rfl⟩

theorem bytesKept_foldl {α : Type} {f : State → α → State} (each : ∀ s x, BytesKept s (f s x)) (l : List α) (s : State) :
    BytesKept s (l.foldl f s) := by
  induction l generalizing s with
  | nil => exact .refl s
  | cons x l ih => exact (each s x).trans (ih (f s x))

/-! ### The words of a run -/

/-- A property of a word's next states holds where it holds after whatever keeps registers and bytes, such as a stall or a fault, and
after the word's effect. -/
theorem keeps_issue {P : State → Prop} {x : Result} {i : Instr} {e : Me → State → State} (word : x = issue i s e)
    (next : x = .next u) (idle : ∀ t, RegsKept True (fun _ _ => False) s t → P t)
    (effect : ∀ me, issuer s = some me → P (e me s)) : P u := by
  rw [word] at next
  obtain ⟨me, issues, ⟨k, rfl⟩ | ⟨-, rfl⟩ | ⟨-, -, rfl⟩⟩ := issue_next next
  · exact idle _ (regsKept_stall k me s)
  · exact idle _ (regsKept_operandsFirst i me s)
  · exact effect me issues

/-- The same for an access. -/
theorem keeps_issueAccess {P : State → Prop} {x : Result} {i : Instr} {space : Nat} {store : Bool} {e : Me → State → State}
    (word : x = issueAccess i space store s e) (next : x = .next u) (idle : ∀ t, RegsKept True (fun _ _ => False) s t → P t)
    (effect : ∀ me, issuer s = some me → P (e me s)) : P u := by
  refine keeps_issue (word.trans rfl) next idle fun me issues => ?_
  split
  case isTrue => exact idle _ (regsKept_stall ..)
  case isFalse => exact effect me issues

/-- An access ends with the retirement of its word or a fault. -/
theorem regsKept_finishAccess {me : Me} {size : Nat} {rd wr : Bool} {pending : LaneMask} {x : Acc} (before : RegsKept L p s x.s) :
    RegsKept L p s (finishAccess me size rd wr pending x) := by
  refine before.trans ?_
  unfold finishAccess
  extract_lets recs brk
  split
  case isTrue => exact regsKept_retire ..
  case isFalse => exact regsKept_faultWith ..

/-! ### Translations -/

theorem regsKept_crowd {α : Type} (n : Nat) (l : List α) (s : State) : RegsKept L p s (s.crowd n l).2 := by
  unfold State.crowd
  split
  case isTrue => exact .refl s
  case isFalse => exact regsKept_of_parts rfl rfl rfl rfl fun _ => rfl

theorem regsKept_cacheCore (core : Nat) (e : TlbEntry) (s : State) : RegsKept L p s (cacheCore core e s) := by
  unfold cacheCore
  exact (regsKept_crowd ..).trans (regsKept_updCore rfl)

theorem regsKept_cacheCluster (k : Nat) (e : TlbEntry) (s : State) : RegsKept L p s (cacheCluster k e s) :=
  (regsKept_crowd ..).trans (regsKept_of_parts rfl rfl rfl rfl fun _ => rfl)

theorem regsKept_cacheTranslation (core ctx va : Nat) (pg : Page) (s : State) :
    RegsKept L p s (cacheTranslation core ctx va pg s) := by
  have inCore (e : TlbEntry) (b : Bool) : RegsKept L p s (if b then s else cacheCore core e s) := by
    cases b
    · exact regsKept_cacheCore ..
    · exact .refl s
  unfold cacheTranslation
  dsimp only
  generalize TlbEntry.mk .. = e
  cases (tlbFind (Tab.get [] (if (tlbFind (s.core core).tlb ctx va).isSome then s else cacheCore core e s).clusterTlb
    (core / 4)) ctx va).isSome
  · exact (inCore ..).trans (regsKept_cacheCluster ..)
  · exact inCore ..

theorem regsKept_useTranslation (g : Agent) (a : Nat) (s : State) : RegsKept L p s (useTranslation g a s) := by
  unfold useTranslation
  split
  case isTrue => exact .refl s
  case isFalse =>
    split
    case h_1 => exact regsKept_cacheTranslation ..
    case h_2 => exact .refl s

/-- The translation of an access, which global ones alone use. -/
theorem regsKept_translated (b : Bool) (g : Agent) (a : Nat) (s : State) :
    RegsKept L p s (if b then useTranslation g a s else s) := by
  cases b
  · exact .refl s
  · exact regsKept_useTranslation ..

/-! ### Loads -/

theorem bytesKept_trainLoad (tid : Nat) (l : Loc) (n : Nat) (s : State) : BytesKept s (trainLoad tid l n s).2 :=
  (regsKept_trainLoad (p := fun _ _ => False) not_false tid l n s).bytesKept

theorem bytesKept_startLoad (me : Me) (scalar : Bool) (d regs : Nat) (vals : Tab Nat) (s : State) :
    BytesKept s (startLoad me scalar d regs vals s) := by
  unfold startLoad
  split
  case isTrue => exact .refl s
  case isFalse =>
    split
    case isTrue => exact bytesKept_updTrain ..
    case isFalse =>
      split
      case isTrue => exact bytesKept_updTrain ..
      case isFalse => exact ⟨rfl, fun _ => rfl, fun _ => rfl, fun _ => rfl⟩

theorem bytesKept_finishAccess {me : Me} {size : Nat} {rd wr : Bool} {pending : LaneMask} {x : Acc} (before : BytesKept s x.s) :
    BytesKept s (finishAccess me size rd wr pending x) :=
  before.trans (regsKept_finishAccess (L := True) (p := fun _ _ => False) (.refl x.s)).bytesKept

theorem bytesKept_translated (b : Bool) (g : Agent) (a : Nat) (s : State) :
    BytesKept s (if b then useTranslation g a s else s) :=
  (regsKept_translated (L := True) (p := fun _ _ => False) ..).bytesKept

theorem bytesKept_loadLane (me : Me) (f : FmtM) (x : Acc) (l : Nat) : BytesKept x.s (loadLane me f x l).s := by
  unfold loadLane
  dsimp only
  split
  case h_1 => exact .refl _
  case h_2 => exact (bytesKept_translated ..).trans (bytesKept_trainLoad ..)

theorem bytesKept_loadLanes (me : Me) (f : FmtM) (ls : List Nat) (x : Acc) :
    BytesKept x.s (ls.foldl (loadLane me f) x).s := by
  induction ls generalizing x with
  | nil => exact .refl _
  | cons l ls ih => exact (bytesKept_loadLane me f x l).trans (ih _)

/-! ### Updates on their way to a line -/

theorem regsKept_useAll (g : Agent) (us : List Update) (s : State) : RegsKept L p s (useAll g us s) :=
  regsKept_foldl (fun _ _ => regsKept_useTranslation ..) us s

theorem bytesKept_useAll (g : Agent) (us : List Update) (s : State) : BytesKept s (useAll g us s) :=
  (regsKept_useAll (L := True) (p := fun _ _ => False) ..).bytesKept

theorem bytesKept_sendUpdates (me : Me) (o : AtomOp) (us : List Update) (regs : List Reg) (s : State) :
    BytesKept s (sendUpdates me o us regs s) :=
  ⟨rfl, fun _ => rfl, fun _ => rfl, fun _ => rfl⟩

/-! ### Prefetches and pins -/

theorem bytesKept_prefetchLine (g : Agent) (kept : PrefTo) (va : Nat) (s : State) : BytesKept s (prefetchLine g kept va s) := by
  have inSlice (l : Loc) : RegsKept False (fun _ _ => False) s (touch g l (useTranslation g va s)) :=
    (regsKept_useTranslation ..).trans (regsKept_touch ..)
  unfold prefetchLine
  dsimp only
  split
  case h_1 => exact .refl s
  case h_2 l _ =>
    split
    case isTrue => exact .refl s
    case isFalse =>
      split
      case h_2 => exact (inSlice l).bytesKept
      case h_1 pa home spread slice cls _ _ =>
        split
        case isTrue => exact (inSlice _).bytesKept
        case isFalse =>
          refine ((inSlice (.phys pa home spread slice cls)).trans (.trans ?_ (regsKept_keepCopy ..))).bytesKept
          exact regsKept_of_parts rfl rfl rfl rfl nofun

theorem bytesKept_prefetchOne (tid : Nat) (kept : PrefTo) (s : State) (va : Nat) : BytesKept s (prefetchOne tid kept s va) := by
  unfold prefetchOne
  dsimp only
  split
  case isTrue => exact .refl s
  case isFalse =>
    split
    case isTrue => exact bytesKept_prefetchLine ..
    case isFalse => exact ⟨rfl, fun _ => rfl, fun _ => rfl, fun _ => rfl⟩

theorem bytesKept_dropPin (g : Agent) (s : State) (va : Nat) : BytesKept s (dropPin g s va) := by
  unfold dropPin
  dsimp only
  split
  case h_1 => exact .refl s
  case h_2 =>
    split
    case h_1 => exact .refl s
    case h_2 =>
      split
      case isTrue => exact .refl s
      case isFalse => exact ⟨rfl, fun _ => rfl, fun _ => rfl, fun _ => rfl⟩

theorem regsKept_pinWay {slice cls line : Nat} (freed : pinWay slice cls line s = some u) : RegsKept L p s u := by
  unfold pinWay at freed
  cases free : freeWay slice cls line s with
  | some t =>
    rw [free] at freed
    cases freed
    exact regsKept_freeWay free
  | none =>
    rw [free] at freed
    obtain ⟨v, -, rfl⟩ := Option.map_eq_some_iff.mp freed
    exact regsKept_evict s v

theorem regsKept_residentLine {g : Agent} {l : Loc} (resident : residentLine g l s = some u) : RegsKept L p s u := by
  unfold residentLine at resident
  split at resident
  case isTrue =>
    cases resident
    exact .refl s
  case isFalse =>
    split at resident
    case h_2 =>
      cases resident
      exact regsKept_of_parts rfl rfl rfl rfl fun _ => rfl
    case h_1 =>
      dsimp only at resident
      split at resident
      case isFalse => cases resident
      case isTrue =>
        obtain ⟨v, freed, rfl⟩ := Option.map_eq_some_iff.mp resident
        exact (regsKept_pinWay freed).trans (regsKept_placeLine ..)

theorem regsKept_addPin {g : Agent} {l : Loc} (pinned : addPin g l s = some u) : RegsKept L p s u := by
  obtain ⟨v, resident, fits⟩ := Option.bind_eq_some_iff.mp pinned
  split at fits
  case isFalse => cases fits
  case isTrue =>
    cases fits
    exact (regsKept_residentLine resident).trans (regsKept_of_parts rfl rfl rfl rfl fun _ => rfl)

theorem regsKept_pinAll {g : Agent} {ls : List Loc} (pinned : pinAll g ls s = some u) : RegsKept L p s u := by
  induction ls generalizing s with
  | nil =>
    cases pinned
    exact .refl _
  | cons l ls ih =>
    obtain ⟨v, first, rest⟩ := Option.bind_eq_some_iff.mp pinned
    exact (regsKept_addPin first).trans (ih rest)

end

end Sys2Proof.Proofs

/-! PROOFS. The frame of the memory majors that store nothing at issue (spec/09_core_memory_async.md R202, R204, R207 to R213). -/

namespace Sys2Proof.Proofs

open Sys2Proof.Machine Sys2Proof.Safety

/-! ### The meaning of each major -/

section
variable (f : FmtM) (g : FmtMA) (c : FmtC) (s : State)

theorem exec_ld : exec (.ld f) s = execLd f s := rfl
theorem exec_st : exec (.st f) s = execSt f s := rfl
theorem exec_sld : exec (.sld f) s = execSld f s := rfl
theorem exec_sst : exec (.sst f) s = execSst f s := rfl
theorem exec_atom : exec (.atom g) s = execAtom g s := rfl
theorem exec_satom : exec (.satom g) s = execSatom g s := rfl
theorem exec_tdec : exec (.tdec c) s = taskUpdate (.tdec c) 15 c s := rfl
theorem exec_tinc : exec (.tinc c) s = taskUpdate (.tinc c) 16 c s := rfl
theorem exec_pref : exec (.pref f) s = execPref f s := rfl
theorem exec_lpin : exec (.lpin f) s = execLpin f s := rfl
theorem exec_lunpin : exec (.lunpin f) s = execLunpin f s := rfl
theorem exec_loadValueArrival (id : Nat) : exec (.loadValueArrival id) s = execLoadValueArrival id s := rfl
theorem exec_pageWalkComplete (id : Nat) : exec (.pageWalkComplete id) s = execPageWalkComplete id s := rfl

end

/-! ### Each major -/

section
variable {s u : State} {f : FmtM} {g : FmtMA} {c : FmtC}

theorem bytesKept_retire (me : Me) (s : State) : BytesKept s (retire me s) :=
  (regsKept_retire (L := True) (p := fun _ _ => False) me s).bytesKept

theorem bytesKept_faultAt (k : Kind) (a : DWord) (n : Nat) (info : Word) (me : Me) (s : State) :
    BytesKept s (faultAt k a n info me s) :=
  (regsKept_faultAt (L := True) (p := fun _ _ => False) ..).bytesKept

theorem bytesKept_ld (next : exec (.ld f) s = .next u) : BytesKept s u :=
  keeps_issueAccess (exec_ld f s) next (fun _ => RegsKept.bytesKept) fun me _ =>
    bytesKept_finishAccess ((bytesKept_loadLanes me f _ { s := s }).trans (bytesKept_startLoad ..))

theorem bytesKept_sld (next : exec (.sld f) s = .next u) : BytesKept s u := by
  refine keeps_issueAccess (exec_sld f s) next (fun _ => RegsKept.bytesKept) fun me _ => ?_
  dsimp only
  split
  case h_1 => exact bytesKept_faultAt ..
  case h_2 =>
    refine bytesKept_finishAccess ?_
    dsimp only
    exact (bytesKept_translated ..).trans ((bytesKept_trainLoad ..).trans (bytesKept_startLoad ..))

theorem bytesKept_atom (next : exec (.atom g) s = .next u) : BytesKept s u := by
  refine keeps_issueAccess (exec_atom g s) next (fun _ => RegsKept.bytesKept) fun me _ => ?_
  have sent (b : Bool) (ag : Agent) (o : AtomOp) (us : List Update) (regs : List Reg) :
      BytesKept s (if b then s else sendUpdates me o us regs (useAll ag us s)) := by
    cases b
    · exact (bytesKept_useAll ..).trans (bytesKept_sendUpdates ..)
    · exact .refl s
  dsimp only
  split
  case isTrue => exact (regsKept_stall (L := True) (p := fun _ _ => False) ..).bytesKept
  case isFalse => exact bytesKept_finishAccess (sent ..)

theorem bytesKept_satom (next : exec (.satom g) s = .next u) : BytesKept s u := by
  refine keeps_issueAccess (exec_satom g s) next (fun _ => RegsKept.bytesKept) fun me _ => ?_
  dsimp only
  split
  case h_1 => exact bytesKept_faultAt ..
  case h_2 => exact bytesKept_finishAccess ((bytesKept_useAll ..).trans (bytesKept_sendUpdates ..))

theorem bytesKept_taskUpdate {i : Instr} {code : Nat} (next : taskUpdate i code c s = .next u) : BytesKept s u := by
  refine keeps_issueAccess rfl next (fun _ => RegsKept.bytesKept) fun me _ => ?_
  dsimp only
  split
  case h_1 => exact bytesKept_faultAt ..
  case h_2 => exact bytesKept_finishAccess ((bytesKept_useAll ..).trans (bytesKept_sendUpdates ..))

theorem bytesKept_pref (next : exec (.pref f) s = .next u) : BytesKept s u :=
  keeps_issue (exec_pref f s) next (fun _ => RegsKept.bytesKept) fun _ _ =>
    (bytesKept_foldl (fun _ _ => bytesKept_prefetchOne ..) _ s).trans (bytesKept_retire ..)

theorem bytesKept_lpin (next : exec (.lpin f) s = .next u) : BytesKept s u := by
  refine keeps_issue (exec_lpin f s) next (fun _ => RegsKept.bytesKept) fun me _ => ?_
  extract_lets g ea n r done s₁ c
  have delivered (v : Word) (s : State) : BytesKept s (done v s) := (bytesKept_updTrain ..).trans (bytesKept_retire ..)
  split
  case isTrue => exact bytesKept_faultAt ..
  case isFalse =>
    split
    case h_1 => exact bytesKept_faultAt ..
    case h_2 =>
      have translated : BytesKept s s₁ :=
        bytesKept_foldl (fun s va => (regsKept_useTranslation (L := True) (p := fun _ _ => False) g va s).bytesKept) _ s
      refine translated.trans ?_
      split
      case isTrue => exact bytesKept_faultAt ..
      case isFalse =>
        split
        case isTrue => exact delivered ..
        case isFalse =>
          split
          case h_1 => exact delivered ..
          case h_2 pinned =>
            have kept := (regsKept_pinAll (L := True) (p := fun _ _ => False) pinned).bytesKept
            refine kept.trans (.trans ?_ (delivered ..))
            exact ⟨rfl, fun _ => rfl, fun _ => rfl, fun _ => rfl⟩

theorem bytesKept_lunpin (next : exec (.lunpin f) s = .next u) : BytesKept s u := by
  refine keeps_issue (exec_lunpin f s) next (fun _ => RegsKept.bytesKept) fun me _ => ?_
  dsimp only
  split
  case isTrue => exact bytesKept_faultAt ..
  case isFalse => exact (bytesKept_foldl (fun _ _ => bytesKept_dropPin ..) _ s).trans (bytesKept_retire ..)

end

/-- Settles O28: each of the majors keeps every byte. -/
theorem loadFrame : Obligations.LoadFrame := by
  intro s u f g c i next major l
  have kept : BytesKept s u := by
    refine (?_ : ∀ i ∈ _, exec i s = .next u → BytesKept s u) i major next
    simp only [List.forall_mem_cons, List.not_mem_nil, false_imp_iff, implies_true, and_true]
    exact ⟨bytesKept_ld, bytesKept_sld, bytesKept_atom, bytesKept_satom, bytesKept_taskUpdate, bytesKept_taskUpdate, bytesKept_pref,
      bytesKept_lpin, bytesKept_lunpin⟩
  exact kept.readLoc_eq l 1

end Sys2Proof.Proofs

/-! PROOFS. Named barriers (spec/09_core_memory_async.md R223 to R228): one arrival, and the barrier words and events. -/

namespace Sys2Proof.Proofs

open Sys2Proof.Machine Sys2Proof.Safety

/-! ### The barriers of a workgroup -/

section
variable (s : State) (w k : Nat) (b : NamedBar)

@[simp] theorem bar_setBar_same : (s.setBar w k b).bar w k = b := by
  simp [State.bar, State.setBar]

@[simp] theorem bar_later (i : Instr) : (s.later i).bar w k = s.bar w k := rfl

@[simp] theorem bar_barErrUp : (barErrUp w s).bar w k = s.bar w k := by
  simp [State.bar, barErrUp]

theorem barErr_barErrUp : ((barErrUp w s).wg w).barErr = min ((s.wg w).barErr + 1) (2 ^ 32 - 1) := by
  simp [barErrUp]

end

/-! ### One arrival (R223) -/

section
variable {s : State} {w k ts lam : Nat} (placed : Tab.find s.wgs w ≠ none)

/-- The barrier after an arrival, before the end of a phase. -/
def arrived (b : NamedBar) (ts lam : Nat) : NamedBar :=
  { b with arrived := b.arrived + 1, ts := max b.ts ts, lam := max b.lam lam }

include placed

theorem arrive_invalid (invalid : (s.bar w k).valid = false) : arrive w k ts lam s = barErrUp w s := by
  simp [arrive, placed, invalid]

theorem arrive_below (valid : (s.bar w k).valid = true) (below : (s.bar w k).arrived + 1 < (s.bar w k).count) :
    arrive w k ts lam s = s.setBar w k (arrived (s.bar w k) ts lam) := by
  simp [arrive, placed, valid, Nat.not_le_of_lt below, arrived]

theorem arrive_completes (valid : (s.bar w k).valid = true) (reached : (s.bar w k).count ≤ (s.bar w k).arrived + 1) :
    arrive w k ts lam s = completePhase w k (arrived (s.bar w k) ts lam) s := by
  simp [arrive, placed, valid, reached, arrived]

end

/-- Settles O34: the three outcomes of an arrival. -/
theorem barrierPhaseCompletes : Obligations.BarrierPhaseCompletes := by
  intro s w k ts lam placed
  refine ⟨fun valid below => ?below, fun valid reached => ?completes, fun invalid => ?invalid⟩
  case below =>
    rw [arrive_below placed valid below, bar_setBar_same]
    exact ⟨rfl, rfl, rfl, rfl, valid⟩
  case completes =>
    rw [arrive_completes placed valid reached, completePhase, bar_later, bar_setBar_same]
    refine ⟨rfl, rfl, rfl, ?_⟩
    simp [arrived, barToken]
  case invalid =>
    rw [arrive_invalid placed invalid, bar_barErrUp, barErr_barErrUp]
    exact ⟨rfl, rfl, rfl⟩

/-! ### The barrier words and events -/

section
variable (f : FmtA) (s : State)

theorem exec_nbinit : exec (.nbinit f) s = execNbinit f s := rfl
theorem exec_nbwait : exec (.nbwait f) s = execNbwait f s := rfl
theorem exec_nbarr : exec (.nbarr f) s = execNbarr f s := rfl
theorem exec_nbinv : exec (.nbinv f) s = execNbinv f s := rfl
theorem exec_nbTokenRelease (w n : Nat) : exec (.nbTokenRelease w n) s = execNbTokenRelease w n s := rfl
theorem exec_nbarrHeldCount (core slot : Nat) : exec (.nbarrHeldCount core slot) s = execNbarrHeldCount core slot s := rfl
theorem exec_barerrClear (w : Nat) : exec (.barerrClear w) s = .next (s.updWg w fun g => { g with barErr := 0 }) := rfl

end

/-- Settles O33: each word where its checks pass, and each event where something is due. -/
theorem barriersComplete : Obligations.BarriersComplete := by
  intro me s f
  dsimp only
  refine ⟨fun h no_waiters => ?nbinit, fun h valid => ?nbwait, fun h valid none_held none_awaited => ?nbarr,
    fun h invalid => ?nbinv_invalid, fun h valid => ?nbinv_valid, fun w n due => ?release, fun core slot h rest held settled => ?held,
    fun w => ⟨_, exec_barerrClear s w, ?cleared⟩⟩
  case nbinit =>
    rw [exec_nbinit, execNbinit, issue_of_ready h]
    simp only [no_waiters]
    rfl
  case nbwait =>
    rw [exec_nbwait, execNbwait, issue_of_ready h]
    simp only [valid]
    rfl
  case nbarr =>
    rw [exec_nbarr, execNbarr, issue_of_ready h]
    simp only [valid, none_held, none_awaited]
    rfl
  case nbinv_invalid =>
    rw [exec_nbinv, execNbinv, issue_of_ready h]
    simp only [invalid]
    rfl
  case nbinv_valid =>
    rw [exec_nbinv, execNbinv, issue_of_ready h]
    simp only [valid]
    rfl
  case release =>
    rw [exec_nbTokenRelease, execNbTokenRelease]
    exact if_neg (by simpa using due)
  case held =>
    rw [exec_nbarrHeldCount, execNbarrHeldCount]
    simp only [held, settled, if_true]
  case cleared => simp

end Sys2Proof.Proofs

/-! PROOFS. The frame of the majors of format A that hand work to an engine (spec/09_core_memory_async.md R215; spec/10_core_matrix.md
R234; spec/11_core_geometry_rays.md R259): their issue, and the end of a copy that has no element. -/

namespace Sys2Proof.Proofs

open Sys2Proof.Machine Sys2Proof.Safety

/-- No byte of a memory and no vector register differs, and scalar registers at most where `p` holds of the slot and the number; the
barriers of a workgroup may differ. -/
structure PlacesKept (p : Nat → Nat → Prop) (s u : State) : Prop where
  bytes : BytesKept s u
  vector : sameV (fun _ _ => False) s u
  scalar : sameS p s u

section
variable {L : Prop} {p : Nat → Nat → Prop} {s t u : State}

theorem PlacesKept.refl (s : State) : PlacesKept p s s :=
  ⟨.refl s, fun _ _ _ _ => rfl, fun _ _ _ _ => rfl⟩

theorem PlacesKept.trans (first : PlacesKept p s t) (second : PlacesKept p t u) : PlacesKept p s u where
  bytes := first.bytes.trans second.bytes
  vector k r l h := (second.vector k r l h).trans (first.vector k r l h)
  scalar k sid r h := (second.scalar k sid r h).trans (first.scalar k sid r h)

theorem RegsKept.placesKept (kept : RegsKept L p s u) : PlacesKept p s u :=
  ⟨kept.bytesKept, kept.vector, kept.scalar⟩

theorem placesKept_of_parts (mem : u.mem = s.mem) (wgs : u.wgs = s.wgs) (cores : u.cores = s.cores) (trains : u.trains = s.trains) :
    PlacesKept p s u :=
  (regsKept_of_parts (L := False) mem wgs cores trains nofun).placesKept

/-- What keeps every scalar register keeps those outside `p`. -/
theorem RegsKept.widen (kept : RegsKept L (fun _ _ => False) s u) : RegsKept L p s u :=
  { kept with scalar := sameS_mono (fun _ _ => False.elim) kept.scalar }

theorem placesKept_foldl {α : Type} {f : State → α → State} (each : ∀ s x, PlacesKept p s (f s x)) (l : List α) (s : State) :
    PlacesKept p s (l.foldl f s) := by
  induction l generalizing s with
  | nil => exact .refl s
  | cons x l ih => exact (each s x).trans (ih (f s x))

/-- Both outcomes of a check. -/
theorem PlacesKept.ite {c : Prop} [Decidable c] (yes : PlacesKept p s t) (no : PlacesKept p s u) :
    PlacesKept p s (if c then t else u) :=
  iteInduction (motive := PlacesKept p s) (fun _ => yes) fun _ => no

/-! ### Tokens and counters -/

theorem setCount_registers (t : Train) (c : Counter) (n : Nat) :
    (t.setCount c n).vregs = t.vregs ∧ (t.setCount c n).splits = t.splits ∧ (t.setCount c n).sregs = t.sregs := by
  cases c <;> exact ⟨rfl, rfl, rfl⟩

theorem regsKept_awaitToken {tid : Nat} {k : Train → Train} {n why : Nat} (vregs : (k (s.train tid)).vregs = (s.train tid).vregs)
    (splits : (k (s.train tid)).splits = (s.train tid).splits) (sregs : (k (s.train tid)).sregs = (s.train tid).sregs) :
    RegsKept L p s (s.updTrain tid fun t => (k t).awaitToken n why) := by
  have same (t : Train) : (t.awaitToken n why).vregs = t.vregs ∧ (t.awaitToken n why).splits = t.splits ∧
      (t.awaitToken n why).sregs = t.sregs := by
    unfold Train.awaitToken Train.setPending
    split <;> exact ⟨rfl, rfl, rfl⟩
  obtain ⟨v, sp, sr⟩ := same (k (s.train tid))
  refine regsKept_updTrain (v.trans vregs) fun sid r _ => ?_
  simp only [Train.readS, Train.split, sp, sr, splits, sregs]

/-- A counter rises and its operation's token is awaited. -/
theorem placesKept_counted (tid : Nat) (c : Counter) (tok : Nat) (s : State) :
    PlacesKept p s (s.updTrain tid fun t => (t.setCount c (t.count c + 1)).awaitToken tok 8) := by
  obtain ⟨vregs, splits, sregs⟩ := setCount_registers (s.train tid) c ((s.train tid).count c + 1)
  exact (regsKept_awaitToken (L := True) vregs splits sregs).placesKept

/-- A token reaches its register, and no other. -/
theorem regsKept_token {tid n : Nat} (v : Word) (ts : Nat) (written : p tid n) :
    RegsKept L p s (s.updTrain tid fun t => (t.token n v).carry [.s n] ts) := by
  have parts (t : Train) : ((t.token n v).carry [.s n] ts).vregs = t.vregs ∧
      ∀ sid r, r ≠ n → ((t.token n v).carry [.s n] ts).readS sid r = t.readS sid r := by
    by_cases zero : n = 0
    · simp only [Train.token, zero, beq_self_eq_true, if_true]
      exact ⟨rfl, fun _ _ _ => rfl⟩
    · have pending (t : Train) : (t.setPending n false).vregs = t.vregs ∧
          ∀ sid r, (t.setPending n false).readS sid r = t.readS sid r := by
        unfold Train.setPending
        split <;> exact ⟨rfl, fun _ _ => rfl⟩
      simp only [Train.token, beq_iff_eq, zero, if_false]
      exact ⟨(pending _).1.trans (Train.writeS_vregs ..), fun sid r other =>
        ((pending _).2 sid r).trans (readS_writeS_of_ne _ _ _ sid other)⟩
  exact regsKept_updTrain (parts _).1 fun sid r other => (parts _).2 sid r fun same => other (same ▸ written)

theorem regsKept_deliver {w : Who} {n : Nat} (v : Word) (ts : Nat) (written : p w.tid n) : RegsKept L p s (s.deliver w n v ts) := by
  unfold State.deliver
  split
  case isTrue => exact regsKept_token v ts written
  case isFalse => exact .refl s

/-- The end of an operation writes its token alone. -/
theorem regsKept_endOperation {w : Who} {c : Option Counter} {tok : Nat} (v : Word) (ts : Nat) (written : p w.tid tok) :
    RegsKept L p s (endOperation w c tok v ts s) := by
  have counted (k : Train → Train) (same : ∀ t, (k t).vregs = t.vregs ∧ ∀ sid r, (k t).readS sid r = t.readS sid r) :
      RegsKept L p s (if s.present w then s.updTrain w.tid k else s) := by
    split
    · exact regsKept_updTrain (same _).1 fun sid r _ => (same _).2 sid r
    · exact .refl s
  have seen (s : State) : RegsKept L p s (s.seen ts) := regsKept_of_parts rfl rfl rfl rfl fun _ => rfl
  have rest (s : State) : RegsKept L p s ((s.seen ts).deliver w tok v ts) := (seen s).trans (regsKept_deliver v ts written)
  cases c with
  | some c => exact (counted _ fun t => by cases c <;> exact ⟨rfl, fun _ _ => rfl⟩).trans (rest _)
  | none => exact (counted (fun t => { t with ended := max t.ended ts }) fun t => ⟨rfl, fun _ _ => rfl⟩).trans (rest _)

/-! ### Arrivals -/

/-- A change of a workgroup that leaves its memories. -/
theorem placesKept_updWg {w : Nat} {f : Workgroup → Workgroup} (mem : ∀ g, (f g).mem = g.mem) (acc : ∀ g, (f g).acc = g.acc) :
    PlacesKept p s (s.updWg w f) := by
  refine ⟨⟨rfl, fun v => ?_, fun v => ?_, fun _ => rfl⟩, fun _ _ _ _ => rfl, fun _ _ _ _ => rfl⟩
  all_goals
    rw [State.wg_updWg]
    split
    case isTrue same => simp only [mem, acc, same]
    case isFalse => rfl

theorem placesKept_setBar (w k : Nat) (b : NamedBar) : PlacesKept p s (s.setBar w k b) :=
  placesKept_updWg (fun _ => rfl) fun _ => rfl

theorem placesKept_arrive (w k ts lam : Nat) (s : State) : PlacesKept p s (arrive w k ts lam s) := by
  have queued (s : State) (i : Instr) : PlacesKept p s (s.later i) := placesKept_of_parts rfl rfl rfl rfl
  unfold arrive
  dsimp only
  split
  case isTrue => exact .refl s
  case isFalse =>
    split
    case isTrue => exact placesKept_updWg (fun _ => rfl) fun _ => rfl
    case isFalse =>
      split
      case isTrue => exact (placesKept_setBar ..).trans (queued ..)
      case isFalse => exact placesKept_setBar ..

/-! ### Copies -/

theorem placesKept_completeCopy {id : Nat} {o : CopyOp} {stop : Option Kind} (written : p o.who.tid o.tok) :
    PlacesKept p s (completeCopy id o stop s) := by
  have arrivals (n : Nat) (s : State) : PlacesKept p s (copyArrivals o n s) := by
    unfold copyArrivals
    split
    case h_1 => exact .refl s
    case h_2 =>
      split
      case isTrue => exact placesKept_foldl (fun _ _ => placesKept_arrive ..) _ s
      case isFalse => exact placesKept_arrive ..
  have removed : RegsKept True p s ({ s with copyOps := Tab.del s.copyOps id }.seen o.ts) :=
    regsKept_of_parts rfl rfl rfl rfl fun _ => rfl
  have packet (b : Bool) (q : Packet → Packet) (s : State) :
      RegsKept True p s (if b then { s with packets := Tab.upd s.packets o.packet q } else s) := by
    cases b
    · exact .refl s
    · exact regsKept_of_parts rfl rfl rfl rfl fun _ => rfl
  exact (removed.trans ((regsKept_endOperation _ _ written).trans (packet ..))).placesKept.trans (arrivals ..)

/-- A copy without elements completes at once. -/
theorem placesKept_advanceCopy_empty {id upTo : Nat} {o : CopyOp} (found : Tab.find s.copyOps id = some o)
    (empty : o.desc.total * o.dests.length = 0) (written : p o.who.tid o.tok) : PlacesKept p s (advanceCopy id upTo s) := by
  simp only [advanceCopy, found, empty, Nat.zero_le, if_true]
  exact placesKept_completeCopy written

theorem regsKept_agentLoad (stamps : ¬ L) (g : Agent) (pts : Nat) (l : Loc) (n : Nat) (s : State) :
    RegsKept L p s (agentLoad g pts l n s).2.2 := by
  have stamped : RegsKept L p s (stampLoad (s.ctx g.ctx).lease pts (lineKey l) s).2 :=
    regsKept_of_parts rfl rfl rfl rfl fun h => absurd h stamps
  exact stamped.trans (regsKept_touch g l _)

/-! ### The issue of an operation -/

/-- A property of the next states of an asynchronous operation's word. -/
theorem keeps_issueAsync {P : State → Prop} {x : Result} {i : Instr} {full : Me → State → Bool} {e : Me → State → State}
    (word : x = issueAsync i full s e) (next : x = .next u) (idle : ∀ t, RegsKept True (fun _ _ => False) s t → P t)
    (effect : ∀ me, issuer s = some me → P (e me s)) : P u := by
  refine keeps_issue (word.trans rfl) next idle fun me issues => ?_
  split
  case isTrue => exact idle _ (regsKept_stall ..)
  case isFalse => exact effect me issues

theorem keeps_issueUncounted {P : State → Prop} {x : Result} {i : Instr} {e : Me → State → State}
    (word : x = issueUncounted i s e) (next : x = .next u) (idle : ∀ t, RegsKept True (fun _ _ => False) s t → P t)
    (effect : ∀ me, issuer s = some me → P (e me s)) : P u :=
  keeps_issueAsync word next idle effect

theorem regsKept_submitMat (o : MatOp) (me : Me) (s : State) : RegsKept L p s (submitMat o me s) := by
  unfold submitMat
  split
  case isTrue => exact regsKept_stall ..
  case isFalse =>
    refine .trans ?queued (.trans (regsKept_awaitToken rfl rfl rfl) (regsKept_retire ..))
    exact regsKept_of_parts rfl rfl rfl rfl fun _ => rfl

end

/-! ### Each major -/

section
variable (f : FmtA) (s : State)

theorem exec_cpy : exec (.cpy f) s = issueCopy (.cpy f) 0 0 f s := rfl
theorem exec_cpyg : exec (.cpyg f) s = issueCopy (.cpyg f) 1 0 f s := rfl
theorem exec_cpys : exec (.cpys f) s = issueCopy (.cpys f) 2 0 f s := rfl
theorem exec_cpyr : exec (.cpyr f) s = issueCopy (.cpyr f) 3 f.minor.toNat f s := rfl
theorem exec_cpyx : exec (.cpyx f) s = issueCopy (.cpyx f) 4 0 f s := rfl
theorem exec_mdec : exec (.mdec f) s = execMdec f s := rfl
theorem exec_mma : exec (.mma f) s = execMma f s := rfl
theorem exec_mzero : exec (.mzero f) s = execMzero f s := rfl
theorem exec_mlda : exec (.mlda f) s = issueRows (.mlda f) 2 f s := rfl
theorem exec_msta : exec (.msta f) s = issueRows (.msta f) 3 f s := rfl
theorem exec_mcvt : exec (.mcvt f) s = execMcvt f s := rfl
theorem exec_mqnt : exec (.mqnt f) s = execMqnt f s := rfl

end

section
variable {p : Nat → Nat → Prop} {s u : State} {f : FmtA}

theorem placesKept_idle (t : State) (kept : RegsKept True (fun _ _ => False) s t) : PlacesKept p s t :=
  kept.widen.placesKept

theorem placesKept_faultAt (k : Kind) (a : DWord) (n : Nat) (info : Word) (me : Me) (s : State) :
    PlacesKept p s (faultAt k a n info me s) :=
  (regsKept_faultAt (L := True) ..).placesKept

theorem placesKept_stall (k : Nat) (me : Me) (s : State) : PlacesKept p s (stall k me s) :=
  (regsKept_stall (L := True) ..).placesKept

theorem placesKept_retire (me : Me) (s : State) : PlacesKept p s (retire me s) :=
  (regsKept_retire (L := True) ..).placesKept

theorem placesKept_submitMat (o : MatOp) (me : Me) (s : State) : PlacesKept p s (submitMat o me s) :=
  (regsKept_submitMat (L := True) ..).placesKept

/-- A copy that has come to its engine completes at once where it has no element, and the word retires. -/
theorem placesKept_copyBegins {v : State} {id : Nat} {o : CopyOp} {empty : Bool} (me : Me) (before : PlacesKept p s v)
    (found : Tab.find v.copyOps id = some o) (no_element : empty = true → o.desc.total * o.dests.length = 0)
    (written : p o.who.tid o.tok) : PlacesKept p s (retire me (if empty then advanceCopy id 0 v else v)) := by
  refine before.trans (.trans ?_ (placesKept_retire ..))
  split
  case isTrue none => exact placesKept_advanceCopy_empty found (no_element none) written
  case isFalse => exact .refl v

/-- The token of a copy without elements is delivered at its issue. -/
theorem placesKept_issueCopy {i : Instr} {kind op : Nat} (written : ∀ me, issuer s = some me → p me.tid f.tok.toNat)
    (next : issueCopy i kind op f s = .next u) : PlacesKept p s u := by
  refine keeps_issueAsync rfl next placesKept_idle fun me issues => ?_
  refine .ite (placesKept_faultAt ..) ?_
  split
  case h_1 => exact placesKept_faultAt ..
  case h_2 =>
    refine .ite (placesKept_faultAt ..) (.ite (placesKept_faultAt ..) (.ite (placesKept_stall ..) ?_))
    have loaded (g : Agent) (pts : Nat) (l : Loc) (n : Nat) : PlacesKept p s (agentLoad g pts l n s).2.2 :=
      (regsKept_agentLoad not_false ..).placesKept
    refine placesKept_copyBegins me (.trans (.trans (loaded (trainAgent s me.tid) (me.train s).pts
      (.loc (me.train s).wg ((me.train s).readSN me.sid f.desc.toNat true)) 128) ?held) (placesKept_counted ..))
      (Tab.find_put_same ..) (fun none => ?empty) (written me issues)
    case held => exact placesKept_of_parts rfl rfl rfl rfl
    case empty => simpa using none

theorem placesKept_mdec (next : exec (.mdec f) s = .next u) : PlacesKept p s u := by
  refine keeps_issueAsync (exec_mdec f s) next placesKept_idle fun me _ => ?_
  refine .ite (placesKept_faultAt ..) (.ite (placesKept_faultAt ..) (.ite (placesKept_faultAt ..) (.ite (placesKept_faultAt ..)
    (.ite (placesKept_stall ..) ?_))))
  refine .trans ?held (.trans (regsKept_awaitToken (L := True) rfl rfl rfl).placesKept (placesKept_retire ..))
  exact placesKept_of_parts rfl rfl rfl rfl

theorem placesKept_mma (next : exec (.mma f) s = .next u) : PlacesKept p s u := by
  refine keeps_issueAsync (exec_mma f s) next placesKept_idle fun me _ => ?_
  refine .ite (placesKept_faultAt ..) (.ite (placesKept_submitMat ..) ?_)
  generalize List.find? (fun a => a % 8 != 0) _ = misaligned
  cases misaligned with
  | some => exact placesKept_faultAt ..
  | none =>
    dsimp only
    split
    case h_1 => exact placesKept_faultAt ..
    case h_2 => exact placesKept_submitMat ..

theorem placesKept_mzero (next : exec (.mzero f) s = .next u) : PlacesKept p s u := by
  exact keeps_issueUncounted (exec_mzero f s) next placesKept_idle fun me _ => placesKept_submitMat ..

/-- MLDA and MSTA. -/
theorem placesKept_issueRows {i : Instr} {kind : Nat} (next : issueRows i kind f s = .next u) : PlacesKept p s u := by
  refine keeps_issueAsync rfl next placesKept_idle fun me _ => ?_
  refine .ite (placesKept_submitMat ..) (.ite (placesKept_faultAt ..) ?_)
  dsimp only
  generalize (if f.minor == 1 then _ else none : Option Nat) = outside
  cases outside with
  | some => exact placesKept_faultAt ..
  | none => exact placesKept_submitMat ..

/-- The generators of a train are no registers. -/
theorem regsKept_gens {L : Prop} {tid : Nat} {k : Train → Train} (gens : ∀ t, ∃ g, k t = { t with gens := g }) :
    RegsKept L p s (s.updTrain tid k) := by
  obtain ⟨g, same⟩ := gens (s.train tid)
  exact regsKept_updTrain (by rw [same]) fun sid r _ => by rw [same]; rfl

theorem placesKept_mcvt (next : exec (.mcvt f) s = .next u) : PlacesKept p s u := by
  refine keeps_issueUncounted (exec_mcvt f s) next placesKept_idle fun me _ => ?_
  exact (regsKept_gens (L := True) fun t => advance_shape ..).placesKept.trans (placesKept_submitMat ..)

theorem placesKept_mqnt (next : exec (.mqnt f) s = .next u) : PlacesKept p s u := by
  refine keeps_issueAsync (exec_mqnt f s) next placesKept_idle fun me _ => ?_
  refine .ite (placesKept_submitMat ..) (.ite (placesKept_faultAt ..) (.ite (placesKept_stall ..) (.ite (placesKept_stall ..)
    (.trans (.ite ?drawn (.refl s)) (placesKept_submitMat ..)))))
  exact (regsKept_gens (L := True) fun t => ⟨_, rfl⟩).placesKept

end

/-- Settles O38: each of the majors keeps what its word may not change. -/
theorem engineIssueFrame : Obligations.EngineIssueFrame := by
  intro s u f i next major
  have token (me : Me) (issues : issuer s = some me) : (∃ me', issuer s = some me' ∧ me.tid = me'.tid) ∧ f.tok.toNat = f.tok.toNat :=
    ⟨⟨me, issues, rfl⟩, rfl⟩
  have kept : PlacesKept (fun k r => (∃ me, issuer s = some me ∧ k = me.tid) ∧ r = f.tok.toNat) s u := by
    refine (?_ : ∀ i ∈ _, exec i s = .next u → PlacesKept _ s u) i major next
    simp only [List.forall_mem_cons, List.not_mem_nil, false_imp_iff, implies_true, and_true]
    exact ⟨placesKept_issueCopy token, placesKept_issueCopy token, placesKept_issueCopy token, placesKept_issueCopy token,
      placesKept_issueCopy token, placesKept_mdec, placesKept_mma, placesKept_mzero, placesKept_issueRows, placesKept_issueRows,
      placesKept_mcvt, placesKept_mqnt⟩
  exact ⟨fun l => kept.bytes.readLoc_eq l 1, kept.vector, kept.scalar⟩

end Sys2Proof.Proofs

/-! PROOFS. Stores (spec/09_core_memory_async.md R196, R203 to R205): what the bytes written at a place read as, what stands outside it, and
the frame of ST and the completion of SST. -/

namespace Sys2Proof.Proofs

open Sys2Proof.Machine Sys2Proof.Safety

/-! ### Bytes written at a place (R1) -/

section
variable {s : State} {l : Loc} {n x : Nat}

theorem train_writeLoc (tid : Nat) : (writeLoc l n x s).train tid = s.train tid := by
  cases l <;> rfl

/-- The place holds the number, cut to its bytes. -/
theorem readLoc_writeLoc_same (canonical : memoryCanonical s) : readLoc (writeLoc l n x s) l n = x % 256 ^ n := by
  obtain ⟨mem, wgs, windows⟩ := canonical
  cases l with
  | phys => exact Bytes.readLE_writeLE mem
  | loc w o => simpa [readLoc, writeLoc] using Bytes.readLE_writeLE (wgs w).1
  | acc w o => simpa [readLoc, writeLoc] using Bytes.readLE_writeLE (wgs w).2
  | window c o => simpa [readLoc, writeLoc] using Bytes.readLE_writeLE (windows c)

/-- One byte of a memory after a number has been written elsewhere in it. -/
theorem readLE_writeLE_outside {m : Bytes} {a k : Nat} (canonical : Bytes.wf m = true) (outside : ¬ (a ≤ k ∧ k < a + n)) :
    (m.writeLE a n x).readLE k 1 = m.readLE k 1 := by
  have stands : (m.writeLE a n x).read k = m.read k := Bytes.read_writeLE_outside canonical (by omega)
  simp only [Bytes.readLE, Bytes.readList, stands]

theorem readLoc_writeLoc_outside (canonical : memoryCanonical s) {p : Loc} (outside : insideLoc l n p = false) :
    readLoc (writeLoc l n x s) p 1 = readLoc s p 1 := by
  obtain ⟨mem, wgs, windows⟩ := canonical
  cases l with
  | phys a =>
    cases p with
    | phys b => exact readLE_writeLE_outside mem (by simpa [insideLoc] using outside)
    | _ => rfl
  | loc w a =>
    cases p with
    | loc v b =>
      simp only [readLoc, writeLoc, State.wg_updWg]
      split
      case isTrue same =>
        subst same
        exact readLE_writeLE_outside (wgs v).1 (by simpa [insideLoc] using outside)
      case isFalse => rfl
    | acc v b =>
      simp only [readLoc, writeLoc, State.wg_updWg]
      split
      case isTrue same => rw [same]
      case isFalse => rfl
    | _ => rfl
  | acc w a =>
    cases p with
    | acc v b =>
      simp only [readLoc, writeLoc, State.wg_updWg]
      split
      case isTrue same =>
        subst same
        exact readLE_writeLE_outside (wgs v).2 (by simpa [insideLoc] using outside)
      case isFalse => rfl
    | loc v b =>
      simp only [readLoc, writeLoc, State.wg_updWg]
      split
      case isTrue same => rw [same]
      case isFalse => rfl
    | _ => rfl
  | window c a =>
    cases p with
    | window d b =>
      simp only [readLoc, writeLoc, State.core_updCore]
      split
      case isTrue same =>
        subst same
        exact readLE_writeLE_outside (windows d) (by simpa [insideLoc] using outside)
      case isFalse => rfl
    | _ => rfl

theorem memoryCanonical_writeLoc (canonical : memoryCanonical s) : memoryCanonical (writeLoc l n x s) := by
  obtain ⟨mem, wgs, windows⟩ := canonical
  cases l with
  | phys => exact ⟨Bytes.wf_writeLE mem, wgs, windows⟩
  | loc w o =>
    refine ⟨mem, fun v => ?_, windows⟩
    rw [writeLoc, State.wg_updWg]
    split
    case isTrue => exact ⟨Bytes.wf_writeLE (wgs w).1, (wgs w).2⟩
    case isFalse => exact wgs v
  | acc w o =>
    refine ⟨mem, fun v => ?_, windows⟩
    rw [writeLoc, State.wg_updWg]
    split
    case isTrue => exact ⟨(wgs w).1, Bytes.wf_writeLE (wgs w).2⟩
    case isFalse => exact wgs v
  | window c o =>
    refine ⟨mem, wgs, fun d => ?_⟩
    rw [writeLoc, State.core_updCore]
    split
    case isTrue => exact Bytes.wf_writeLE (windows c)
    case isFalse => exact windows d

end

/-! ### What a store changes -/

/-- No register differs, and of the bytes of a canonical memory at most those at places where `p` holds. -/
structure StoresOnly (p : Loc → Prop) (s u : State) : Prop where
  bytes : memoryCanonical s → ∀ l, ¬ p l → readLoc u l 1 = readLoc s l 1
  canonical : memoryCanonical s → memoryCanonical u
  vector : sameV (fun _ _ => False) s u
  scalar : sameS (fun _ _ => False) s u

section
variable {L : Prop} {p q : Loc → Prop} {s t u : State}

theorem StoresOnly.trans (first : StoresOnly p s t) (second : StoresOnly p t u) : StoresOnly p s u where
  bytes canonical l out := (second.bytes (first.canonical canonical) l out).trans (first.bytes canonical l out)
  canonical h := second.canonical (first.canonical h)
  vector k r l h := (second.vector k r l h).trans (first.vector k r l h)
  scalar k sid r h := (second.scalar k sid r h).trans (first.scalar k sid r h)

theorem StoresOnly.mono (stores : StoresOnly p s u) (wider : ∀ l, p l → q l) : StoresOnly q s u :=
  { stores with bytes := fun canonical l out => stores.bytes canonical l fun inside => out (wider l inside) }

theorem RegsKept.storesOnly (kept : RegsKept L (fun _ _ => False) s u) : StoresOnly p s u :=
  ⟨fun _ l _ => kept.readLoc_eq l 1, kept.bytesKept.memoryCanonical, kept.vector, kept.scalar⟩

theorem storesOnly_writeLoc (l : Loc) (n x : Nat) (s : State) : StoresOnly (fun p => insideLoc l n p = true) s (writeLoc l n x s) where
  bytes canonical p out := readLoc_writeLoc_outside canonical (Bool.eq_false_iff.mpr out)
  canonical := memoryCanonical_writeLoc
  vector k r l _ := by rw [train_writeLoc]
  scalar k sid r _ := by rw [train_writeLoc]

end

section
variable {L : Prop} {p : Nat → Nat → Prop} {s u : State}

theorem regsKept_updateL1 (core : Nat) (l : Loc) (ts : Nat) (s : State) : RegsKept L p s (updateL1 core l ts s) := by
  unfold updateL1
  split
  case h_1 => exact regsKept_updCore rfl
  case h_2 => exact .refl s

/-- A store leaves timestamps and copies of lines behind beside its bytes. -/
theorem regsKept_trainStore (stamps : ¬ L) (tid : Nat) (l : Loc) (n x : Nat) (s : State) :
    RegsKept L p (writeLoc l n x s) (trainStore tid l n x s) := by
  have stamped : RegsKept L p (writeLoc l n x s) (writeLoc l n x (stampStore (s.train tid).pts (lineKey l) s).2) := by
    cases l <;> exact regsKept_of_parts rfl rfl rfl rfl fun h => absurd h stamps
  unfold trainStore
  generalize stampStore (s.train tid).pts (lineKey l) s = stamp at *
  obtain ⟨ts, v⟩ := stamp
  have observed (v : State) : RegsKept L p v (v.updTrain tid fun t => { t with pts := ts }) :=
    regsKept_updTrain rfl fun _ _ _ => rfl
  exact stamped.trans ((regsKept_touch ..).trans ((observed _).trans (regsKept_updateL1 ..)))

theorem storesOnly_trainStore (tid : Nat) (l : Loc) (n x : Nat) (s : State) :
    StoresOnly (fun p => insideLoc l n p = true) s (trainStore tid l n x s) :=
  (storesOnly_writeLoc l n x s).trans (regsKept_trainStore (L := False) not_false tid l n x s).storesOnly

theorem checkStore_ok {c : Except Kind Loc} {l : Loc} (passes : checkStore s c = .ok l) : c = .ok l := by
  unfold checkStore at passes
  split at passes
  case h_1 => cases passes
  case h_2 =>
    split at passes
    case h_1 => cases passes
    case h_2 =>
      cases passes
      rfl

end

/-! ### ST (R203, R205) -/

/-- The byte that `p` names is one of those that a lane of ST stores to when its turn comes. -/
def laneStoresTo (me : Me) (f : FmtM) (x : Acc) (l : Nat) (p : Loc) : Prop :=
  ∃ loc, accessCheck x.s (trainAgent x.s me.tid) .write f.space.toNat
      (effAddr x.s (me.train x.s) me.sid f.base.toNat f.ofs.toNat l 20 f.disp.toNat).toNat (accessBytes f.size.toNat) = .ok loc ∧
    insideLoc loc (accessBytes f.size.toNat) p = true

theorem storesOnly_storeLane (me : Me) (f : FmtM) (x : Acc) (l : Nat) :
    StoresOnly (laneStoresTo me f x l) x.s (storeLane me f x l).s := by
  unfold storeLane
  dsimp only
  split
  case h_1 => exact (RegsKept.refl (L := True) x.s).storesOnly
  case h_2 loc passes =>
    have translated := regsKept_translated (L := True) (p := fun _ _ => False) (f.space == 0) (trainAgent x.s me.tid)
      (effAddr x.s (me.train x.s) me.sid f.base.toNat f.ofs.toNat l 20 f.disp.toNat).toNat x.s
    exact translated.storesOnly.trans ((storesOnly_trainStore ..).mono fun p inside => ⟨loc, checkStore_ok passes, inside⟩)

/-- The lanes of a list store one after another. -/
theorem storesOnly_storeLanes (me : Me) (f : FmtM) (ls : List Nat) (x : Acc) :
    StoresOnly (fun p => ∃ k, k < ls.length ∧ laneStoresTo me f ((ls.take k).foldl (storeLane me f) x) (ls.getD k 0) p) x.s
      (ls.foldl (storeLane me f) x).s := by
  induction ls generalizing x with
  | nil => exact (RegsKept.refl (L := True) x.s).storesOnly
  | cons l ls ih =>
    have first := (storesOnly_storeLane me f x l).mono (q := fun p => ∃ k, k < (l :: ls).length ∧
      laneStoresTo me f (((l :: ls).take k).foldl (storeLane me f) x) ((l :: ls).getD k 0) p)
      fun p stores => ⟨0, Nat.zero_lt_succ _, stores⟩
    exact first.trans ((ih (storeLane me f x l)).mono fun p ⟨k, below, stores⟩ => ⟨k + 1, Nat.succ_lt_succ below, stores⟩)

/-- Settles O27: the lanes store one after another, and nothing else of the word stores. -/
theorem vectorStoreFrame : Obligations.VectorStoreFrame := by
  intro me s u f issues canonical next
  dsimp only
  have stores : StoresOnly (fun p => ∃ k, k < (lanesOf (me.active s &&& ~~~(me.train s).helpers)).length ∧
      laneStoresTo me f (((lanesOf (me.active s &&& ~~~(me.train s).helpers)).take k).foldl (storeLane me f) { s := s })
        ((lanesOf (me.active s &&& ~~~(me.train s).helpers)).getD k 0) p) s u := by
    refine keeps_issueAccess (exec_st f s) next (fun _ => RegsKept.storesOnly) fun me' issues' => ?_
    obtain rfl : me' = me := Option.some.inj (issues'.symm.trans issues)
    exact (storesOnly_storeLanes ..).trans (regsKept_finishAccess (L := True) (.refl _)).storesOnly
  refine ⟨stores.vector, stores.scalar, stores.canonical canonical, fun p out => stores.bytes canonical p ?_⟩
  rintro ⟨k, below, loc, passes, inside⟩
  exact Bool.false_ne_true ((out k below loc passes).symm.trans inside)

/-! ### SST (R204) -/

section
variable {me : Me} {s : State} {i : Instr} {x : Acc}

/-- An access that faults in no lane and meets no watched range retires. -/
theorem finishAccess_retires {size : Nat} {rd wr : Bool} {pending : LaneMask} (no_fault : x.faults = []) (no_hit : x.hit = none) :
    finishAccess me size rd wr pending x = retire me x.s := by
  simp [finishAccess, no_fault, no_hit, laneRecs]

/-- An access behind an unsettled one of its train waits. -/
theorem issueAccess_waits {space : Nat} {store : Bool} {e : Me → State → State} (h : ready me i s)
    (behind : ¬ accessFree me s space store) : issueAccess i space store s e = .next (stall 9 me s) := by
  rw [issueAccess, issue_of_ready h]
  exact congrArg _ (if_pos (eq_true_of_ne_false behind))

/-- A store whose place, translated or not, then holds its number; every other byte stands. -/
theorem readLoc_retire_trainStore (canonical : memoryCanonical s) (b : Bool) (g : Agent) (a : Nat) (l : Loc) (n y : Nat) :
    let u := retire me (trainStore me.tid l n (y % 2 ^ (8 * n)) (if b then useTranslation g a s else s))
    readLoc u l n = y % 256 ^ n ∧ ∀ p, insideLoc l n p = false → readLoc u p 1 = readLoc s p 1 := by
  intro u
  have translated := regsKept_translated (L := True) (p := fun _ _ => False) b g a s
  have canonical' := translated.bytesKept.memoryCanonical canonical
  have stored := (regsKept_trainStore (L := False) (p := fun _ _ => False) not_false me.tid l n (y % 2 ^ (8 * n))
    (if b then useTranslation g a s else s)).trans (regsKept_retire me _)
  refine ⟨?_, fun p out => ?_⟩
  · rw [stored.readLoc_eq, readLoc_writeLoc_same canonical', Nat.pow_mul]
    exact Nat.mod_mod ..
  · rw [stored.readLoc_eq, readLoc_writeLoc_outside canonical' out, translated.readLoc_eq]

end

/-- Settles O24: the store of the value where the check passes, the fault where it does not, and the stall. -/
theorem scalarStoreCompletes : Obligations.ScalarStoreCompletes := by
  intro me s f h
  dsimp only
  refine ⟨fun free canonical loc passes unwatched => ?stores, fun free k info refused => ⟨?faults, ?kept⟩,
    fun behind => ⟨?waits, ?stands⟩⟩
  case stores =>
    refine ⟨_, ?_, readLoc_retire_trainStore (me := me) canonical (f.space == 0) (trainAgent s me.tid)
      (scalarAddr s me f.base.toNat f.ofs.toNat 20 f.disp.toNat).toNat loc (accessBytes f.size.toNat)
      (storeValue s (me.train s) me.sid f.d.toNat 0 (accessRegs f.size.toNat))⟩
    rw [exec_sst, execSst, issueAccess_ready h free]
    simp only [passes]
    refine congrArg _ (finishAccess_retires rfl ?_)
    by_cases global : f.space = 0
    · simpa [global] using unwatched global
    · exact if_neg (mt eq_of_beq global)
  case faults =>
    rw [exec_sst, execSst, issueAccess_ready h free]
    simp only [refused]
  case kept => exact (regsKept_faultAt (p := fun _ _ => True) ..).sameMemory trivial
  case waits => rw [exec_sst, execSst, issueAccess_waits h behind]
  case stands => exact (regsKept_stall (p := fun _ _ => True) ..).sameMemory trivial

end Sys2Proof.Proofs

/-! PROOFS. Loads (spec/09_core_memory_async.md R196, R198, R202, R204, R205): the operation that a load leaves, and the arrival of its
values. -/

namespace Sys2Proof.Proofs

open Sys2Proof.Machine Sys2Proof.Safety

/-! ### What an access leaves of the trains -/

/-- No train and no number of an operation differs. -/
structure TrainsKept (s u : State) : Prop where
  trains : u.trains = s.trains
  nextId : u.nextId = s.nextId

section
variable {s t u : State}

theorem TrainsKept.refl (s : State) : TrainsKept s s := ⟨rfl, rfl⟩

theorem TrainsKept.trans (first : TrainsKept s t) (second : TrainsKept t u) : TrainsKept s u :=
  ⟨second.trains.trans first.trains, second.nextId.trans first.nextId⟩

theorem TrainsKept.train (kept : TrainsKept s u) (k : Nat) : u.train k = s.train k := by
  rw [State.train, kept.trains]
  rfl

theorem trainsKept_crowd {α : Type} (n : Nat) (l : List α) (s : State) : TrainsKept s (s.crowd n l).2 := by
  unfold State.crowd
  split <;> exact ⟨rfl, rfl⟩

theorem trainsKept_cacheCore (core : Nat) (e : TlbEntry) (s : State) : TrainsKept s (cacheCore core e s) := by
  unfold cacheCore
  exact (trainsKept_crowd ..).trans ⟨rfl, rfl⟩

theorem trainsKept_cacheCluster (k : Nat) (e : TlbEntry) (s : State) : TrainsKept s (cacheCluster k e s) := by
  unfold cacheCluster
  exact (trainsKept_crowd ..).trans ⟨rfl, rfl⟩

theorem trainsKept_cacheTranslation (core ctx va : Nat) (pg : Page) (s : State) :
    TrainsKept s (cacheTranslation core ctx va pg s) := by
  have inCore (e : TlbEntry) (b : Bool) : TrainsKept s (if b then s else cacheCore core e s) := by
    cases b
    · exact trainsKept_cacheCore ..
    · exact .refl s
  unfold cacheTranslation
  dsimp only
  generalize TlbEntry.mk .. = e
  cases (tlbFind (Tab.get [] (if (tlbFind (s.core core).tlb ctx va).isSome then s else cacheCore core e s).clusterTlb
    (core / 4)) ctx va).isSome
  · exact (inCore ..).trans (trainsKept_cacheCluster ..)
  · exact inCore ..

theorem trainsKept_useTranslation (g : Agent) (a : Nat) (s : State) : TrainsKept s (useTranslation g a s) := by
  unfold useTranslation
  split
  case isTrue => exact .refl s
  case isFalse =>
    split
    case h_1 => exact trainsKept_cacheTranslation ..
    case h_2 => exact .refl s

theorem trainsKept_evict (s : State) (line : Nat) : TrainsKept s (s.evict line) := ⟨rfl, rfl⟩

theorem trainsKept_freeWay {slice cls line : Nat} (freed : freeWay slice cls line s = some u) : TrainsKept s u := by
  unfold freeWay at freed
  dsimp only at freed
  split at freed
  case isTrue =>
    cases freed
    exact .refl s
  case isFalse =>
    obtain ⟨v, -, rfl⟩ := Option.map_eq_some_iff.mp freed
    exact trainsKept_evict s v

theorem trainsKept_placeLine (g : Agent) (line home : Nat) (x : L2Line) (s : State) : TrainsKept s (placeLine g line home x s) := by
  unfold placeLine
  dsimp only
  split <;> exact ⟨rfl, rfl⟩

theorem trainsKept_allocLine (g : Agent) (line home : Nat) (x : L2Line) (s : State) : TrainsKept s (allocLine g line home x s) := by
  unfold allocLine
  split
  case isTrue => exact .refl s
  case isFalse =>
    split
    case h_1 => exact .refl s
    case h_2 freed => exact (trainsKept_freeWay freed).trans (trainsKept_placeLine ..)

theorem trainsKept_touch (g : Agent) (l : Loc) (s : State) : TrainsKept s (touch g l s) := by
  unfold touch
  split
  case h_2 => exact .refl s
  case h_1 =>
    split
    case isTrue => exact .refl s
    case isFalse =>
      unfold touchLine
      dsimp only
      split
      case h_1 => exact trainsKept_allocLine ..
      case h_2 =>
        split
        case isTrue => exact (trainsKept_evict ..).trans (trainsKept_allocLine ..)
        case isFalse => exact ⟨rfl, rfl⟩

theorem trainsKept_keepCopy (node : Bool) (core line : Nat) (c : L1Line) (s : State) : TrainsKept s (keepCopy node core line c s) := by
  unfold keepCopy
  exact (trainsKept_crowd ..).trans ⟨rfl, rfl⟩

/-- A load changes the timestamp of its train alone. -/
theorem trainLoad_trains (tid : Nat) (l : Loc) (n : Nat) (s : State) :
    ∃ pts, TrainsKept (s.updTrain tid fun t => { t with pts := pts }) (trainLoad tid l n s).2 := by
  have home (v : State) (kept : TrainsKept s v) (pts : Nat) : TrainsKept (s.updTrain tid fun t => { t with pts := pts })
      (v.updTrain tid fun t => { t with pts := pts }) := by
    refine ⟨?_, kept.nextId⟩
    simp only [State.updTrain, State.setTrain, kept.train, kept.trains]
  have stamped (lease pts key : Nat) : TrainsKept s (stampLoad lease pts key s).2 := ⟨rfl, rfl⟩
  have touched (lease pts key : Nat) (g : Agent) : TrainsKept s (touch g l (stampLoad lease pts key s).2) :=
    (stamped ..).trans (trainsKept_touch ..)
  unfold trainLoad cachedLoad
  dsimp only
  split
  case h_1 => exact ⟨_, .refl _⟩
  case h_2 =>
    split
    case h_1 => exact ⟨_, (home _ (touched ..) _).trans (trainsKept_keepCopy ..)⟩
    case h_2 => exact ⟨_, home _ (touched ..) _⟩

end

end Sys2Proof.Proofs

/-! PROOFS. The delivery of loaded values (spec/09_core_memory_async.md R198, R202, R204; spec/04_formats_opcode_map.md R86): the
operation that a load leaves, the registers that await it, and its arrival. -/

namespace Sys2Proof.Proofs

open Sys2Proof.Machine Sys2Proof.Safety

/-! ### The operation of a load -/

/-- The operation that delivers loaded values to registers. -/
def loadOp (me : Me) (scalar : Bool) (d regs : Nat) (vals : Tab Nat) (s : State) : LoadOp :=
  { tid := me.tid, gen := (me.train s).inc, sid := me.sid, scalar := scalar, dest := d, regs := regs,
    lanes := maskOfList (vals.map (·.1)), vals := vals }

/-- The registers that await the values of a load. -/
def loadRegs (scalar : Bool) (d regs : Nat) : List Reg :=
  (List.range regs).map fun k => if scalar then .s (d + k) else .v (d + k)

/-- Values go by an operation to v registers, and to scalar registers below s120. -/
def delivered (scalar : Bool) (d regs : Nat) : Prop :=
  if scalar then d + regs ≤ 120 else d < 0x100

section
variable {me : Me} {s u : State} {scalar : Bool} {d regs : Nat} {vals : Tab Nat}

theorem startLoad_delivered (some_value : vals ≠ []) (goes : delivered scalar d regs) : startLoad me scalar d regs vals s =
    ({ s with nextId := s.nextId + 1, loads := Tab.put s.loads s.nextId (loadOp me scalar d regs vals s) } : State).updTrain me.tid
      fun t => t.addBusy s.nextId 9 (loadRegs scalar d regs) := by
  have to_registers : ((!scalar && !isV d) = false) ∧ ((scalar && decide (d + regs > 120) && decide (d < 127)) = false) := by
    cases scalar
    · exact ⟨by simpa [isV, delivered] using goes, rfl⟩
    · have low : d + regs ≤ 120 := goes
      exact ⟨rfl, by simp [Nat.not_lt_of_le low]⟩
  obtain ⟨no_f, no_mask⟩ := to_registers
  rw [startLoad, if_neg (by simpa using some_value), if_neg (ne_true_of_eq_false no_f), if_neg (ne_true_of_eq_false no_mask)]
  rfl

/-- A register among those that an operation marks is awaited; s0 and v0 never are. -/
theorem busyReason_addBusy {t : Train} {op reason n : Nat} {rs : List Reg} {r : Reg} (real : n ≠ 0) (names : r = .v n ∨ r = .s n)
    (marked : r ∈ rs) : (t.addBusy op reason rs).busyReason r ≠ none := by
  have entry (isV : Bool) (names : r = if isV then .v n else .s n) :
      ({ isV := isV, reg := n, reason := reason, op := op } : Busy) ∈ (t.addBusy op reason rs).busy := by
    refine List.mem_append_right _ (List.mem_filterMap.mpr ⟨r, marked, ?_⟩)
    cases isV <;> simp [names, real]
  have found (p : Busy → Bool) (b : Busy) (mem : b ∈ (t.addBusy op reason rs).busy) (holds : p b = true) :
      ((t.addBusy op reason rs).busy.find? p).map (·.reason) ≠ none := by
    simpa using ⟨b, mem, holds⟩
  obtain rfl | rfl := names
  · exact found _ _ (entry true rfl) (by simp)
  · exact found _ _ (entry false rfl) (by simp)

theorem startLoad_find (some_value : vals ≠ []) (goes : delivered scalar d regs) :
    Tab.find (startLoad me scalar d regs vals s).loads s.nextId = some (loadOp me scalar d regs vals s) := by
  rw [startLoad_delivered some_value goes]
  exact Tab.find_put_same ..

theorem startLoad_train (some_value : vals ≠ []) (goes : delivered scalar d regs) :
    me.train (startLoad me scalar d regs vals s) = (me.train s).addBusy s.nextId 9 (loadRegs scalar d regs) := by
  rw [startLoad_delivered some_value goes]
  exact State.train_updTrain_same ..

theorem startLoad_awaits {k : Nat} (some_value : vals ≠ []) (goes : delivered scalar d regs) (word : k < regs) (real : 0 < d + k) :
    (me.train (startLoad me scalar d regs vals s)).busyReason (if scalar then .s (d + k) else .v (d + k)) ≠ none := by
  rw [startLoad_train some_value goes]
  refine busyReason_addBusy (Nat.ne_of_gt real) ?_ (List.mem_map.mpr ⟨k, List.mem_range.mpr word, rfl⟩)
  cases scalar
  · exact .inl rfl
  · exact .inr rfl

/-- The retirement of a word leaves what its train awaits. -/
theorem busyReason_retire (r : Reg) : (me.train (retire me s)).busyReason r = (me.train s).busyReason r := by
  obtain ⟨g, -, trains⟩ := retire_train me s
  rw [Me.train, trains, if_pos rfl]
  rfl

/-! ### The arrival of a load -/

/-- The words of a number, written to scalar registers one after another. -/
def writeWords (t : Train) (sid d regs x : Nat) : Train :=
  (List.range regs).foldl (fun t k => t.writeS sid (d + k) (BitVec.ofNat 32 (x / 2 ^ (32 * k)))) t

theorem readS_writeWords {t : Train} {sid x k : Nat} (low : d + regs ≤ 120) (real : 0 < d) (word : k < regs) :
    (writeWords t sid d regs x).readS sid (d + k) = BitVec.ofNat 32 (x / 2 ^ (32 * k)) := by
  induction regs with
  | zero => omega
  | succ n ih =>
    rw [writeWords, List.range_succ, List.foldl_append]
    by_cases last : k = n
    · subst last
      exact Train.readS_writeS_same _ _ _ _ (by omega) (by omega)
    · exact (readS_writeS_of_ne _ _ _ sid (by omega)).trans (ih (by omega) (by omega))

/-- The train of a load after the arrival of its values. -/
def loadArrived (id : Nat) (o : LoadOp) (t : Train) : Train :=
  (if o.scalar then writeWords t o.sid o.dest o.regs (Tab.get 0 o.vals 0)
    else t.writeVN o.lanes o.dest (fun l => Tab.get 0 o.vals l) o.regs).doneBusy id

theorem loadValueArrival_present {id : Nat} {o : LoadOp} (found : Tab.find s.loads id = some o)
    (present : s.present { tid := o.tid, gen := o.gen, sid := o.sid } = true) :
    exec (.loadValueArrival id) s = .next (({ s with loads := Tab.del s.loads id } : State).updTrain o.tid (loadArrived id o)) := by
  have present : ({ s with loads := Tab.del s.loads id } : State).present { tid := o.tid, gen := o.gen, sid := o.sid } = true :=
    present
  rw [exec_loadValueArrival, execLoadValueArrival]
  simp only [found, present, if_true]
  rfl

end

end Sys2Proof.Proofs

/-! PROOFS. Completion of SLD, LD and ST (spec/09_core_memory_async.md R196, R202 to R205). -/

namespace Sys2Proof.Proofs

open Sys2Proof.Machine Sys2Proof.Safety

/-! ### SLD (R204) -/

/-- A place that passes a check of its data is the one that its access check gives. -/
theorem checkData_ok {s : State} {c : Except Kind Loc} {l : Loc} (passes : checkData s c = .ok l) : c = .ok l := by
  unfold checkData at passes
  split at passes
  case h_1 => cases passes
  case h_2 =>
    split at passes
    case h_1 => cases passes
    case h_2 =>
      cases passes
      rfl

/-- A load that passes its check passes that of its place. -/
theorem checkLoad_ok {node : Bool} {s : State} {tid : Nat} {c : Except Kind Loc} {l : Loc} (passes : checkLoad node s tid c = .ok l) :
    c = .ok l := by
  cases c with
  | error => cases passes
  | ok loc =>
    unfold checkLoad at passes
    dsimp only at passes
    split at passes
    case h_1 store =>
      split at passes
      case isTrue => cases passes
      case isFalse =>
        cases passes
        exact checkStore_ok store
    case h_2 => exact checkData_ok passes

/-- In local and accumulator space a load takes what its place holds. -/
theorem trainLoad_value_of_space {s : State} {g : Agent} {need : Need} {space a size : Nat} {l : Loc} (tid n : Nat)
    (no_global : space ≠ 0)    (passes : accessCheck s g need space a size = .ok l) : (trainLoad tid l n s).1 = readLoc s l n := by
  unfold accessCheck at passes
  split at passes
  case h_1 => exact absurd rfl no_global
  all_goals
    split at passes
    case isTrue => cases passes
    case isFalse =>
      split at passes
      case isTrue => cases passes
      case isFalse =>
        cases passes
        rfl

/-- The state in which an access has used its translation, which global ones alone do. -/
def translatedFor (me : Me) (f : FmtM) (ea : Nat) (s : State) : State :=
  if f.space = 0 then useTranslation (trainAgent s me.tid) ea s else s

section
variable {me : Me} {s : State} {f : FmtM} {ea : Nat}

theorem translatedFor_eq : translatedFor me f ea s = if f.space == 0 then useTranslation (trainAgent s me.tid) ea s else s := by
  simp only [translatedFor, beq_iff_eq]

theorem trainsKept_translatedFor : TrainsKept s (translatedFor me f ea s) := by
  unfold translatedFor
  split
  · exact trainsKept_useTranslation ..
  · exact .refl s

theorem bytesKept_translatedFor : BytesKept s (translatedFor me f ea s) := by
  rw [translatedFor_eq]
  exact bytesKept_translated ..

/-- SLD of a place that may be read leaves the operation of its value and, where nothing is watched, retires. -/
theorem sld_ready (h : ready me (.sld f) s) (free : accessFree me s f.space.toNat false) {loc : Loc}
    (place : (scalarAddr s me f.base.toNat f.ofs.toNat 20 f.disp.toNat).toNat = ea)
    (passes : checkLoad false s me.tid (accessCheck s (trainAgent s me.tid) .read f.space.toNat ea
      (accessBytes f.size.toNat)) = .ok loc) :
    let x := trainLoad me.tid loc (accessBytes f.size.toNat) (translatedFor me f ea s)
    let v := startLoad me true (f.d.toNat - 0x100) (accessRegs f.size.toNat) [(0, loadExtend f.size.toNat x.1)] x.2
    (f.space = 0 → watchHit v (trainAgent s me.tid).ctx false true false ea (accessBytes f.size.toNat) = none) →
    exec (.sld f) s = .next (retire me v) := by
  intro x v unwatched
  rw [exec_sld, execSld, issueAccess_ready h free]
  simp only [place, passes, ← translatedFor_eq]
  refine congrArg _ (finishAccess_retires rfl ?_)
  by_cases global : f.space = 0
  · exact (if_pos (beq_iff_eq.mpr global)).trans (unwatched global)
  · exact if_neg (mt eq_of_beq global)

end

section
variable {me : Me} {s s₀ : State} {l : Loc} {n d regs y : Nat}

/-- The train that a load has issued from is still there, with its timestamp at most changed. -/
theorem train_trainLoad (kept : TrainsKept s s₀) :
    ∃ pts, me.train (trainLoad me.tid l n s₀).2 = { me.train s with pts := pts } := by
  obtain ⟨pts, loaded⟩ := trainLoad_trains me.tid l n s₀
  refine ⟨pts, ?_⟩
  rw [Me.train, loaded.train, State.train_updTrain_same, kept.train]
  rfl

/-- The operation of a scalar load arrives, at its registers. -/
theorem scalarLoad_arrives (kept : TrainsKept s s₀) (present : s.present (me.who s) = true) (real : 0 < d) (low : d + regs ≤ 120) :
    ∃ v, exec (.loadValueArrival s.nextId) (retire me (startLoad me true d regs [(0, y)] (trainLoad me.tid l n s₀).2)) = .next v ∧
      ∀ k, k < regs → (me.train v).readS me.sid (d + k) = BitVec.ofNat 32 (y / 2 ^ (32 * k)) := by
  have nextId : (trainLoad me.tid l n s₀).2.nextId = s.nextId := by
    obtain ⟨pts, loaded⟩ := trainLoad_trains me.tid l n s₀
    exact loaded.nextId.trans kept.nextId
  obtain ⟨pts, train⟩ := train_trainLoad (me := me) (l := l) (n := n) kept
  generalize (trainLoad me.tid l n s₀).2 = s₁ at *
  have goes : delivered true d regs := low
  have some_value : [(0, y)] ≠ [] := nofun
  have found : Tab.find (retire me (startLoad me true d regs [(0, y)] s₁)).loads s.nextId =
      some (loadOp me true d regs [(0, y)] s₁) := by
    rw [retire_loads, ← nextId]
    exact startLoad_find some_value goes
  have there : (retire me (startLoad me true d regs [(0, y)] s₁)).present
      { tid := me.tid, gen := (me.train s₁).inc, sid := me.sid } = true := by
    obtain ⟨g, -, trains⟩ := retire_train me (startLoad me true d regs [(0, y)] s₁)
    have started := startLoad_train (me := me) (s := s₁) some_value goes
    rw [Me.train] at started
    simp only [State.present, Me.who, Bool.and_eq_true] at present ⊢
    rw [trains, if_pos rfl, started, train]
    exact ⟨beq_self_eq_true _, present.2⟩
  refine ⟨_, loadValueArrival_present found there, fun k word => ?_⟩
  rw [Me.train]
  exact (congrArg (Train.readS · me.sid (d + k)) (State.train_updTrain_same ..)).trans (readS_writeWords low real word)

end

/-- Settles O25: the load leaves its operation, its registers are awaited, and its arrival writes them. -/
theorem scalarLoadCompletes : Obligations.ScalarLoadCompletes := by
  intro me s f h free present
  dsimp only
  intro real low loc passes unwatched
  have kept : TrainsKept s (translatedFor me f (scalarAddr s me f.base.toNat f.ofs.toNat 20 f.disp.toNat).toNat s) :=
    trainsKept_translatedFor
  obtain ⟨v, arrives, written⟩ := scalarLoad_arrives kept present real low
  refine ⟨fun no_global => ?value, _, v, sld_ready h free rfl passes unwatched, fun p => ?bytes, fun k word => ?awaited, arrives,
    written⟩
  case value =>
    rw [if_neg no_global]
    exact trainLoad_value_of_space _ _ (fun zero => no_global (BitVec.eq_of_toNat_eq zero)) (checkLoad_ok passes)
  case bytes =>
    refine BytesKept.readLoc_eq ?_ p 1
    exact bytesKept_translatedFor.trans ((bytesKept_trainLoad ..).trans ((bytesKept_startLoad ..).trans (bytesKept_retire ..)))
  case awaited =>
    rw [busyReason_retire]
    exact startLoad_awaits (scalar := true) nofun low word (Nat.add_pos_left real k)

end Sys2Proof.Proofs

/-! PROOFS. Completion of LD and ST, and the arrival of a vector load (spec/09_core_memory_async.md R202 to R205). -/

namespace Sys2Proof.Proofs

open Sys2Proof.Machine Sys2Proof.Safety

section
variable {me : Me} {s : State} {f : FmtM}

theorem ld_ready (h : ready me (.ld f) s) (free : accessFree me s f.space.toNat false)
    (no_fault : ((lanesOf (me.active s)).foldl (loadLane me f) { s := s }).faults = [])
    (no_hit : ((lanesOf (me.active s)).foldl (loadLane me f) { s := s }).hit = none) :
    let x := (lanesOf (me.active s)).foldl (loadLane me f) { s := s }
    exec (.ld f) s = .next (retire me (startLoad me false f.d.toNat (accessRegs f.size.toNat) x.vals x.s)) := by
  rw [exec_ld, execLd, issueAccess_ready h free]
  exact congrArg _ (finishAccess_retires no_fault no_hit)

theorem st_ready (h : ready me (.st f) s) (free : accessFree me s f.space.toNat true)
    (no_fault : ((lanesOf (me.active s &&& ~~~(me.train s).helpers)).foldl (storeLane me f) { s := s }).faults = [])
    (no_hit : ((lanesOf (me.active s &&& ~~~(me.train s).helpers)).foldl (storeLane me f) { s := s }).hit = none) :
    exec (.st f) s =
      .next (retire me ((lanesOf (me.active s &&& ~~~(me.train s).helpers)).foldl (storeLane me f) { s := s }).s) := by
  rw [exec_st, execSt, issueAccess_ready h free]
  exact congrArg _ (finishAccess_retires no_fault no_hit)

end

/-! ### The arrival at v registers -/

section
variable {s : State} {id : Nat} {o : LoadOp}

theorem busy_writeVN (t : Train) (m : LaneMask) (n : Nat) (g : Nat → Nat) (k : Nat) : (t.writeVN m n g k).busy = t.busy := by
  induction k with
  | zero => rfl
  | succ k ih =>
    rw [Train.writeVN, Train.writeV]
    split
    · exact ih
    · exact ih

theorem loadArrived_vector (vector : o.scalar = false) (t : Train) :
    loadArrived id o t = (t.writeVN o.lanes o.dest (fun l => Tab.get 0 o.vals l) o.regs).doneBusy id := by
  rw [loadArrived, vector]
  rfl

/-- The lanes of the operation take word k of their values, and the others keep theirs. -/
theorem readV_loadArrived (vector : o.scalar = false) (t : Train) {l k : Nat} (lane : l < 96) (word : k < o.regs)
    (real : 0 < o.dest + k) :
    (loadArrived id o t).readV (o.dest + k) l =
      if o.lanes.getLsbD l then BitVec.ofNat 32 (Tab.get 0 o.vals l / 2 ^ (32 * k)) else t.readV (o.dest + k) l := by
  rw [loadArrived_vector vector]
  exact Train.readV_writeVN t o.lanes o.dest l o.regs k _ lane word (Nat.ne_of_gt real)

theorem busy_loadArrived (vector : o.scalar = false) (t : Train) : (loadArrived id o t).busy = t.busy.filter fun b => b.op != id := by
  rw [loadArrived_vector vector, Train.doneBusy, busy_writeVN]

end

/-! ### f-registers -/

section
variable {me : Me} {s : State} {d regs : Nat} {vals : Tab Nat}

theorem isV_of_isF (is_f : isF d = true) : isV d = false := by
  simp only [isF, isV, Bool.and_eq_true, decide_eq_true_eq, decide_eq_false_iff_not] at is_f ⊢
  omega

/-- An f-register takes the values at once. -/
theorem startLoad_f (some_value : vals ≠ []) (is_f : isF d = true) : startLoad me false d regs vals s =
    s.updTrain me.tid fun t => writeDst t (maskOfList (vals.map (·.1))) d false fun l => Tab.get 0 vals l := by
  rw [startLoad, if_neg (by simpa using some_value), isV_of_isF is_f]
  rfl

theorem fix_writeDst_lane {t : Train} {m : LaneMask} {v : Nat → Nat} {l : Nat} (is_f : isF d = true) (lane : l < 96)
    (written : m.getLsbD l = true) : (Tab.get [] (writeDst t m d false v).fix (d - 0x180)).getD l 0 = BitVec.ofNat 32 (v l) := by
  simp only [writeDst, isV_of_isF is_f, is_f, Bool.false_eq_true, if_false, if_true, Tab.get_put_same, updLanes_getD _ _ _ _ lane,
    written]

theorem getLsbD_maskOfList {ls : List Nat} {l : Nat} (lane : l < 96) (mem : l ∈ ls) : (maskOfList ls).getLsbD l = true := by
  rw [maskOfList, getLsbD_maskOf _ lane]
  simpa using mem

theorem fix_retire (me : Me) (s : State) : (me.train (retire me s)).fix = (me.train s).fix := by
  obtain ⟨g, -, trains⟩ := retire_train me s
  rw [Me.train, trains, if_pos rfl]
  rfl

theorem fix_retire_startLoad {l : Nat} (is_f : isF d = true) (lane : l < 96) (mem : l ∈ vals.map (·.1)) :
    (Tab.get [] (me.train (retire me (startLoad me false d regs vals s))).fix (d - 0x180)).getD l 0 =
      BitVec.ofNat 32 (Tab.get 0 vals l) := by
  have some_value : vals ≠ [] := fun none => by simp [none] at mem
  rw [fix_retire, startLoad_f some_value is_f, Me.train, State.train_updTrain_same]
  exact fix_writeDst_lane is_f lane (getLsbD_maskOfList lane mem)

end

/-- Settles O26: the completions, the value of a lane, the operation of a delivery and its arrival, and the f-registers. -/
theorem vectorAccessCompletes : Obligations.VectorAccessCompletes := by
  intro me s f
  dsimp only
  refine ⟨ld_ready, st_ready, fun y l loc passes => ?lane, fun d regs vals some_value is_v => ?operation,
    fun id o found vector present => ⟨_, loadValueArrival_present found present, rfl, fun p => ?bytes, ?busy,
      fun l k lane word real => ?lanes⟩,
    fun h free no_fault no_hit is_f some_value => ⟨_, ld_ready h free no_fault no_hit,
      fun l lane mem => fix_retire_startLoad is_f lane mem⟩⟩
  case lane =>
    simp only [loadLane, passes, beq_iff_eq, Tab.get_put_same]
  case operation =>
    exact ⟨_, startLoad_find (scalar := false) some_value is_v, rfl, rfl, rfl, rfl, rfl, rfl, rfl, fun k word real =>
      startLoad_awaits (scalar := false) some_value is_v word real⟩
  case bytes => exact (bytesKept_updTrain (s := { s with loads := Tab.del s.loads id }) ..).readLoc_eq p 1
  case busy =>
    rw [State.train_updTrain_same]
    exact busy_loadArrived vector _
  case lanes =>
    rw [State.train_updTrain_same]
    exact readV_loadArrived vector _ lane word real

end Sys2Proof.Proofs

/-! PROOFS. Completion of the atomics, and of prefetches, pins and page walks (spec/09_core_memory_async.md R207 to R213;
spec/07_control_split_rung_instructions.md R178; spec/20_package_memory_translation.md R368, R371). -/

namespace Sys2Proof.Proofs

open Sys2Proof.Machine Sys2Proof.Safety

/-! ### Atomics (R178, R207 to R210) -/

section
variable {me : Me} {s : State} {f : FmtMA} {c : FmtC}

/-- The word does not wait for a matrix operation (R237), where no lane reaches the local memory of its own core or none is busy. -/
theorem no_wait_of_free {busy : Bool} {us : List Update} (free : busy = false ∨ ∀ u ∈ us, u.ownLocal me.core = false) :
    (busy && us.any (Update.ownLocal me.core)) = false := by
  obtain rfl | none_own := free
  · rfl
  · simpa using fun _ => none_own

theorem no_hit_of_unwatched {us : List Update} {hit : Update → Option (Nat × Nat)} (unwatched : ∀ u ∈ us, hit u = none) :
    (us.filterMap hit).head? = none := by
  rw [List.filterMap_eq_nil_iff.mpr unwatched]
  rfl

/-- TDEC and TINC of an aligned record that may be read and written, not watched. -/
theorem taskUpdate_ready {i : Instr} {code va : Nat} (h : ready me i s) (free : accessFree me s 0 true)
    (place : (me.train s).readSN me.sid c.sa.toNat true = va) (aligned : va % 64 = 0)
    (unwatched : watchHit s (trainAgent s me.tid).ctx false true true va 4 = none) {loc : Loc}
    (passes : checkData s (accessCheck s (trainAgent s me.tid) .both 0 va 4) = .ok loc) :
    let t := me.train s
    let x : Update :=
      { op := 0, loc := loc, code := code, wide := false, operand := c.offset.toNat, compare := 0, lane := 0,
        tid := me.tid, pts := t.pts, va := va, lam := t.lamport }
    taskUpdate i code c s = .next (retire me (sendUpdates me
      { tid := me.tid, gen := t.inc, sid := me.sid, scalar := true, dest := 0, wide := false, lanes := 0, waiting := 1,
        vals := [], ts := 0, queue := (s.launch t.launch).queue, pc := (me.split s).pc, size := 4, launch := t.launch } [x] []
      (useAll (trainAgent s me.tid) [x] s))) := by
  rw [taskUpdate, issueAccess_ready h free]
  have aligned : (va % 64 != 0) = false := by simpa using aligned
  have place_read := checkData_ok passes
  rw [place_read] at passes
  simp only [place, place_read, aligned, passes, Bool.false_eq_true, if_false]
  exact congrArg _ (finishAccess_retires rfl unwatched)

end

/-- Settles O29: each of the words sends its updates, and retires where nothing is watched. -/
theorem atomicsComplete : Obligations.AtomicsComplete := by
  intro me s f c
  dsimp only
  refine ⟨fun h free local_free no_fault some_lane unwatched => ?atom, fun h free loc passes unwatched => ?satom,
    fun i code word h free aligned unwatched loc passes => ?task⟩
  case atom =>
    have some_lane : (me.active s == 0) = false := by simpa using some_lane
    rw [exec_atom, execAtom, issueAccess_ready h free]
    simp only [no_fault, no_wait_of_free local_free, some_lane, Bool.false_eq_true, if_false]
    exact congrArg _ (finishAccess_retires rfl (no_hit_of_unwatched unwatched))
  case satom =>
    rw [exec_satom, execSatom, issueAccess_ready h free]
    simp only [passes]
    exact congrArg _ (finishAccess_retires rfl unwatched)
  case task =>
    simp only [List.mem_cons, Prod.mk.injEq, List.not_mem_nil, or_false] at word
    obtain ⟨rfl, rfl⟩ | ⟨rfl, rfl⟩ := word
    · exact taskUpdate_ready h free rfl aligned unwatched passes
    · exact taskUpdate_ready h free rfl aligned unwatched passes

/-! ### Prefetches and pins (R211 to R213) -/

/-- Settles O31: the steps of each word pass, and the leaf of a walk is found. -/
theorem pinsComplete : Obligations.PinsComplete := by
  intro me s f
  dsimp only
  refine ⟨fun h => ?pref, fun h aligned => ?lunpin, fun h aligned ls places quota => ?lpin,
    fun id k p found leaf => ?walked⟩
  case pref => rw [exec_pref, execPref, issue_of_ready h]
  case lunpin =>
    rw [exec_lunpin, execLunpin, issue_of_ready h]
    simp [aligned]
  case lpin =>
    rw [exec_lpin, execLpin, issue_of_ready h]
    simp only [aligned, places, Nat.not_lt_of_le quota, if_false, bne_self_eq_false, Bool.false_eq_true]
    refine ⟨fun some_unpinnable => ?refused, fun all_pinnable no_room => ?full, fun all_pinnable s₂ pinned => ?pinned⟩
    case refused =>
      rw [some_unpinnable]
      rfl
    case full =>
      rw [all_pinnable, no_room]
      rfl
    case pinned =>
      rw [all_pinnable, pinned]
      rfl
  case walked =>
    rw [exec_pageWalkComplete, execPageWalkComplete]
    simp only [found, leaf]

end Sys2Proof.Proofs

/-! PROOFS. Completion of the copies (spec/09_core_memory_async.md R214 to R221; spec/17_package_memory_model.md R345): the checks of their
issue in order, the last element of a CPY, and the end of a copy. -/

namespace Sys2Proof.Proofs

open Sys2Proof.Machine Sys2Proof.Safety

/-! ### The checks of a copy (R215) -/

section
variable {me : Me} {s : State} {t : Train} {q : Nat}

theorem issueAsync_ready {i : Instr} {full : Me → State → Bool} {e : Me → State → State} (h : ready me i s)
    (settled : unsettled s me.tid = false) : issueAsync i full s e = .next (e me s) := by
  rw [issueAsync, issue_of_ready h]
  exact congrArg _ (if_neg (ne_true_of_eq_false settled))

theorem descFault_outside (outside : 2 ^ 32 ≤ q ∨ (s.wg t.wg).localSize ≤ q) : descFault s t q = some .aperture :=
  if_pos (by rwa [Bool.or_eq_true, decide_eq_true_eq, decide_eq_true_eq])

/-- A pair inside the allotment is judged by its alignment alone. -/
theorem descFault_inside (low : q < 2 ^ 32) (inside : q < (s.wg t.wg).localSize) :
    descFault s t q = if q % 128 != 0 then some .misaligned else none :=
  if_neg (by rw [Bool.or_eq_true, decide_eq_true_eq, decide_eq_true_eq]; omega)

theorem descFault_misaligned (low : q < 2 ^ 32) (inside : q < (s.wg t.wg).localSize) (misaligned : q % 128 ≠ 0) :
    descFault s t q = some .misaligned := by
  rw [descFault_inside low inside, if_pos (bne_iff_ne.mpr misaligned)]

theorem descFault_none (low : q < 2 ^ 32) (inside : q < (s.wg t.wg).localSize) (aligned : q % 128 = 0) : descFault s t q = none := by
  rw [descFault_inside low inside, aligned]
  rfl

end

/-! ### The elements of a copy (R217) -/

section
variable {s u : State} {o x : CopyOp}

theorem copyWatch_kind (agent : Nat) (rd wr : Bool) (space a n pos : Nat) :
    (copyWatch o agent rd wr space a n pos s).1.kind = o.kind := by
  unfold copyWatch
  split <;> rfl

theorem copyAddrs_kind {is : List Nat} {pos src dst : Nat} (addrs : copyAddrs o is pos s = .ok (src, dst, x, u)) : x.kind = o.kind := by
  unfold copyAddrs at addrs
  dsimp only at addrs
  split at addrs
  case isFalse => cases addrs; rfl
  case isTrue =>
    generalize (if o.desc.ctl.testBit 10 = true then 8 else 4) = n at addrs
    split at addrs
    case h_1 => cases addrs
    case h_2 => split at addrs <;> cases addrs <;> exact copyWatch_kind ..

/-- An element of a copy keeps its kind. -/
theorem copyElement_kind {w pos : Nat} (element : copyElement o w pos s = .ok (x, u)) : x.kind = o.kind := by
  unfold copyElement at element
  dsimp only at element
  split at element
  case h_1 => cases element
  case h_2 addrs =>
    split at element
    case h_1 => cases element
    case h_2 =>
      split at element
      case h_1 => cases element
      case h_2 =>
        cases element
        rw [copyWatch_kind, copyWatch_kind, ← copyAddrs_kind addrs]

end

/-- Settles O32: the checks in order, the issue, the last element and the end. -/
theorem copiesComplete : Obligations.CopiesComplete := by
  intro me s f
  dsimp only
  refine ⟨fun i kind op word h settled => ?issue, fun u id w x y found is_cpy one_dest last element => ?element,
    fun id n x found ended => ?ended⟩
  case ended =>
    show Host.Outcome.next (advanceCopy id n s) = _
    simp only [advanceCopy, found, ended, if_true]
  case element =>
    have one_total : x.desc.total * x.dests.length = x.desc.total := by rw [one_dest]; exact Nat.mul_one _
    have inside : x.pos < x.desc.total := by omega
    have one_more : min (x.pos + 1) x.desc.total - x.pos = 1 := by omega
    have dest : x.dests.getD (x.pos / x.desc.total) x.wg = w := by rw [one_dest, Nat.div_eq_of_lt inside]; rfl
    have keeps_kind : y.kind = 0 := (copyElement_kind element).trans is_cpy
    have performed : copyElements 1 x s = (y, none, u) := by
      simp only [copyElements, dest, Nat.mod_eq_of_lt inside, element, keeps_kind]
      cases y.arr <;> rfl
    show Host.Outcome.next (advanceCopy id (x.pos + 1) s) = _
    simp only [advanceCopy, found, one_total, Nat.not_le_of_lt inside, if_false, one_more, performed]
  case issue =>
    have exec_word : exec i s = issueCopy i kind op f s := by
      simp only [List.mem_cons, Prod.mk.injEq, List.not_mem_nil, or_false] at word
      obtain ⟨rfl, rfl, rfl⟩ | ⟨rfl, rfl, rfl⟩ | ⟨rfl, rfl, rfl⟩ | ⟨rfl, rfl, rfl⟩ | ⟨rfl, rfl, rfl⟩ := word <;> rfl
    rw [exec_word, issueCopy, issueAsync_ready h settled]
    refine ⟨fun no_producer => ?rights, fun producer outside => ?outside, fun producer low inside misaligned => ?misaligned,
      fun producer low inside aligned good bad_desc => ?bad_desc, fun producer place good desc barrier room some_element => ?issued⟩
    case rights =>
      simp only [no_producer]
      rfl
    case outside =>
      simp only [producer, descFault_outside outside]
      rfl
    case misaligned =>
      simp only [producer, descFault_misaligned low inside misaligned]
      rfl
    case bad_desc =>
      simp only [producer, descFault_none low inside aligned, good, bad_desc]
      rfl
    case issued =>
      have not_full : counterFull (copyCounter kind) me s = false := decide_eq_false (Nat.not_le_of_lt room)
      have bar_ok : ((if f.arr == 1 then some f.nb.toNat else none).isSome &&
          kind != 4 && !(s.bar (me.train s).wg f.nb.toNat).valid) = false := by
        by_cases named : f.arr = 1
        · by_cases cpyx : kind = 4
          · simp [cpyx]
          · simp [barrier named cpyx]
        · rw [if_neg (by simpa using named)]
          rfl
      simp only [producer, place, good, desc, bar_ok, not_full, beq_false_of_ne some_element]
      rfl

end Sys2Proof.Proofs

/-! PROOFS. The matrix unit (spec/10_core_matrix.md R234 to R254; spec/17_package_memory_model.md R345): the queue of its operations, the
issue of each major, the completion of an operation, and what MZERO leaves. -/

namespace Sys2Proof.Proofs

open Sys2Proof.Machine Sys2Proof.Safety

/-! ### The queue (R234) -/

section
variable {me : Me} {s : State} {x : MatOp}

/-- The operation is the youngest of the queue, its counter has risen, its token is awaited, and the word has retired. -/
def matQueued (x : MatOp) (me : Me) (s : State) : State :=
  retire me (({ s with nextId := s.nextId + 1, mats := Tab.put s.mats s.nextId x } : State).updTrain me.tid fun t =>
    ({ t with tile := if x.counted then t.tile + 1 else t.tile }).awaitToken x.tok 8)

theorem counterFull_tile (room : (me.train s).tile < 63) : counterFull .tile me s = false :=
  decide_eq_false (Nat.not_le_of_lt room)

theorem submitMat_room (room : x.counted = true → (me.train s).tile < 63) : submitMat x me s = matQueued x me s := by
  have goes : (x.counted && counterFull .tile me s) = false := by
    cases counted : x.counted
    · rfl
    · exact counterFull_tile (room counted)
  rw [submitMat, goes]
  rfl

theorem retire_mats (me : Me) (s : State) : (retire me s).mats = s.mats := by
  obtain ⟨_, _, _, shape⟩ := retire_shape me s
  rw [shape]

theorem retire_killed (me : Me) (s : State) : (retire me s).killed = s.killed := by
  obtain ⟨_, _, _, shape⟩ := retire_shape me s
  rw [shape]

theorem matQueued_mats : (matQueued x me s).mats = Tab.put s.mats s.nextId x := retire_mats ..

theorem matQueued_wgs : (matQueued x me s).wgs = s.wgs := retire_wgs ..

theorem contains_matQueued {c : Nat} : (matQueued x me s).killed.contains c = s.killed.contains c := by
  rw [matQueued, retire_killed]
  rfl

theorem wgGone_matQueued {w : Nat} : wgGone (matQueued x me s) w = wgGone s w := by
  rw [wgGone, matQueued_wgs]
  rfl

/-- An operation that comes to an empty queue has nothing before it. -/
theorem matQueued_first (empty : s.mats = []) :
    Tab.find (matQueued x me s).mats s.nextId = some x ∧ matBlocked (matQueued x me s) s.nextId x = false := by
  rw [matBlocked, matQueued_mats, empty]
  simp [Tab.put, Tab.find]

end

/-! ### Completion (R234, R244, R254) -/

section
variable {s u : State} {id status : Nat} {x y : MatOp}

theorem exec_matrixOpCompletion (id : Nat) (s : State) : exec (.matrixOpCompletion id) s = execMatrixOpCompletion id s := rfl

/-- The operation has left the queue and given its fetch pins back. -/
def matTaken (id : Nat) (x : MatOp) (s : State) : State := unpinLines x { s with mats := Tab.del s.mats id }

/-- What an operation that met no fault leaves at its end: its token, its counter, its train's later arrivals and its own arrival. -/
def matEnded (id : Nat) (y : MatOp) (status : Nat) (u : State) : State :=
  let e := endOperation y.who (if y.counted then some .tile else none) y.tok (BitVec.ofNat 32 status) y.ts u
  let v := if e.present y.who then
      e.updTrain y.tid fun t => ({ t with matTs := max t.matTs y.ts } : Train).settleArrivals id y.ts
    else e
  y.arr.elim v fun k => arrive y.wg k y.ts y.lam v

theorem matrixOpCompletion_found (found : Tab.find s.mats id = some x) :
    exec (.matrixOpCompletion id) s = .next (if matBlocked s id x then s else completeMat id x s) := by
  rw [exec_matrixOpCompletion, execMatrixOpCompletion, found]

theorem matrixOpCompletion_blocked (found : Tab.find s.mats id = some x) (blocked : matBlocked s id x = true) :
    exec (.matrixOpCompletion id) s = .next s := by
  rw [matrixOpCompletion_found found, blocked, if_pos rfl]

theorem matrixOpCompletion_first (found : Tab.find s.mats id = some x) (first : matBlocked s id x = false) :
    exec (.matrixOpCompletion id) s = .next (completeMat id x s) := by
  rw [matrixOpCompletion_found found, first]
  rfl

theorem completeMat_killed (killed : s.killed.contains x.ctx = true) : completeMat id x s = matTaken id x s :=
  if_pos ((Bool.or_eq_true ..).mpr (.inr killed))

theorem completeMat_performed (placed : wgGone s x.wg = false) (lives : s.killed.contains x.ctx = false)
    (performed : runMatOp x (matTaken id x s) = (y, status, none, u)) : completeMat id x s = matEnded id y status u := by
  have goes : (wgGone (matTaken id x s) x.wg || (matTaken id x s).killed.contains x.ctx) = false :=
    (Bool.or_eq_false_iff ..).mpr ⟨placed, lives⟩
  rw [matTaken] at goes performed
  simp only [completeMat, goes, performed, Nat.zero_mul, Nat.zero_add]
  rw [matEnded]
  cases y.arr <;> rfl

end

/-! ### The issue of each major (R238 to R253) -/

section
variable {me : Me} {s : State} {f : FmtA}

/-- An asynchronous word behind unsettled accesses of its train waits (R345), in the row of its counter where that is full (R194). -/
theorem issueAsync_waits {i : Instr} {full : Me → State → Bool} {e : Me → State → State} (h : ready me i s)
    (behind : unsettled s me.tid = true) : issueAsync i full s e = .next (stall (if full me s then 3 else 9) me s) := by
  rw [issueAsync, issue_of_ready h, behind]
  rfl

/-- The wait of a word that raises no counter. -/
theorem issueUncounted_waits {i : Instr} {e : Me → State → State} (h : ready me i s) (behind : unsettled s me.tid = true) :
    issueUncounted i s e = .next (stall 9 me s) :=
  issueAsync_waits h behind

/-- The low six bits of IMM, the number of the tile. -/
theorem bits_low_six (n : Nat) : bits n 0 6 = n % 64 := congrArg (· % 64) (Nat.div_one n)

/-- What an operation takes from its issuer and from the word. -/
def matOf (me : Me) (s : State) (f : FmtA) : MatOp :=
  { matBase me s with tile := f.imm.toNat % 64, minor := f.minor.toNat }

/-- The barrier that a word names. -/
def arrOf (f : FmtA) : Option Nat := if f.arr == 1 then some f.nb.toNat else none

/-- The format block of an MMA (R238). -/
def blockOf (me : Me) (s : State) (f : FmtA) : List Word := (List.range 8).map fun k => (me.train s).readS me.sid (f.desc.toNat + k)

/-- The operation of an MMA; it is counted where an operand comes from L2 (R234, R238). -/
def mmaOf (me : Me) (s : State) (f : FmtA) : MatOp :=
  { matOf me s f with kind := 0, tok := f.tok.toNat, arr := arrOf f, block := blockOf me s f, counted := f.minor.toNat % 4 != 0 }

/-- Without rows no address is checked (log 46). -/
theorem submitted_without_rows {α : Type} {m : LaneMask} {x y : α} (with_rows : m ≠ 0 → y = x) : (if m == 0 then x else y) = x := by
  by_cases no_row : m = 0
  · exact if_pos (beq_iff_eq.mpr no_row)
  · exact (if_neg fun zero => no_row (beq_iff_eq.mp zero)).trans (with_rows no_row)

theorem mma_queued (h : ready me (.mma f) s) (settled : unsettled s me.tid = false)
    (room : f.minor.toNat % 4 ≠ 0 → (me.train s).tile < 63)
    (legal : blockOk (blockOf me s f) (f.imm.toNat % 64) (s.wg (me.train s).wg).tileCount = true)
    (rows : matRows me s = 0 ∨
      ((∀ a ∈ [blockBase (blockOf me s f) 2, blockBase (blockOf me s f) 4, bits ((blockOf me s f).getD 0 0).toNat 12 20,
        bits ((blockOf me s f).getD 1 0).toNat 12 20], a % 8 = 0) ∧
      mmaAperture (mmaOf me s f) (s.wg (me.train s).wg).localSize = none)) :
    exec (.mma f) s = .next (matQueued (mmaOf me s f) me s) := by
  have no_bad_block : ¬ (!blockOk (blockOf me s f) (f.imm.toNat % 64) (s.wg (me.train s).wg).tileCount) = true := by
    rw [legal]
    exact Bool.false_ne_true
  rw [exec_mma, execMma, issueAsync_ready h settled, ← submitMat_room fun counted => room (by simpa [mmaOf] using counted)]
  simp only [bits_low_six]
  refine congrArg _ ((if_neg no_bad_block).trans (submitted_without_rows fun some_row => ?_))
  obtain ⟨aligned, inside⟩ := rows.resolve_left some_row
  split
  case h_1 a found =>
    have off := List.find?_some found
    exact absurd (aligned a (List.mem_of_find?_eq_some found)) (bne_iff_ne.mp off)
  case h_2 =>
    split
    case h_1 outside => exact absurd (inside.symm.trans outside) nofun
    case h_2 => rfl

/-- The operation of an MLDA or an MSTA (R250). -/
def rowsOf (kind : Nat) (me : Me) (s : State) (f : FmtA) : MatOp :=
  { matOf me s f with kind := kind, tok := f.tok.toNat, arr := arrOf f, counted := true,
                      addr := (me.train s).readSN me.sid f.desc.toNat true,
                      stride := ((me.train s).readS me.sid f.desc2.toNat).toInt }

theorem rows_queued {i : Instr} {kind : Nat} (h : ready me i s) (settled : unsettled s me.tid = false)
    (room : (me.train s).tile < 63)
    (rows : matRows me s = 0 ∨ ((rowsOf kind me s f).addr % 16 = 0 ∧ (rowsOf kind me s f).stride % 16 = 0 ∧
      (f.minor = 1 → ∀ r ∈ lanesOf (matRows me s), rowAddr (rowsOf kind me s f) r + 128 ≤ (s.wg (me.train s).wg).localSize))) :
    issueRows i kind f s = .next (matQueued (rowsOf kind me s f) me s) := by
  rw [issueRows, issueAsync_ready h settled, ← submitMat_room fun _ => room]
  simp only [bits_low_six]
  refine congrArg _ (submitted_without_rows fun some_row => ?_)
  obtain ⟨addr, stride, inside⟩ := rows.resolve_left some_row
  have aligned : ¬ ((rowsOf kind me s f).addr % 16 != 0 || (rowsOf kind me s f).stride % 16 != 0) = true := by
    rw [addr, stride]
    exact Bool.false_ne_true
  refine (if_neg aligned).trans ?_
  split
  case h_2 => rfl
  case h_1 r found =>
    split at found
    case isFalse => cases found
    case isTrue is_local =>
      have outside := List.find?_some found
      have fits := inside (beq_iff_eq.mp is_local) r (List.mem_of_find?_eq_some found)
      exact absurd (of_decide_eq_true outside) (Nat.not_lt_of_le fits)

/-- The operation of an MCVT (R251). -/
def mcvtOf (me : Me) (s : State) (f : FmtA) : MatOp :=
  { matOf me s f with kind := 4, source := f.imm.toNat / 64 % 64, rnd := effectiveRnd (me.train s).mode (f.imm.toNat / 4096 % 8),
                      sat := f.imm.toNat.testBit 15 }

theorem mcvt_queued (h : ready me (.mcvt f) s) (settled : unsettled s me.tid = false) :
    exec (.mcvt f) s = .next (matQueued (mcvtOf me s f) me
      (s.updTrain me.tid fun t => t.advance (mcvtOf me s f).rnd (matRows me s) 32)) := by
  rw [exec_mcvt, execMcvt, issueUncounted, issueAsync_ready h settled, ← submitMat_room (x := mcvtOf me s f) nofun]
  simp only [bits_low_six]
  rfl

/-- The operation of an MQNT (R252, R253). -/
def mqntOf (me : Me) (s : State) (f : FmtA) : MatOp :=
  { matOf me s f with kind := 5, tok := f.tok.toNat, arr := arrOf f, counted := true,
                      rnd := effectiveRnd (me.train s).mode (f.imm.toNat / 4096 % 8), sat := f.imm.toNat.testBit 15,
                      addr := (me.train s).readSN me.sid f.desc.toNat true,
                      scale := if f.minor == 6 then 0 else (me.train s).readSN me.sid f.desc2.toNat true }

theorem mqnt_queued (h : ready me (.mqnt f) s) (settled : unsettled s me.tid = false) (room : (me.train s).tile < 63)
    (fixed : (mqntOf me s f).rnd ≠ 6)
    (rows : matRows me s = 0 ∨ (mqntOf me s f).addr % (if f.minor = 6 then 4 else 8) = 0) :
    exec (.mqnt f) s = .next (matQueued (mqntOf me s f) me s) := by
  have no_draw : (effectiveRnd (me.train s).mode (bits f.imm.toNat 12 3) == 6) = false := beq_false_of_ne fixed
  rw [exec_mqnt, execMqnt, issueAsync_ready h settled, ← submitMat_room fun _ => room]
  simp only [bits_low_six]
  refine congrArg _ (submitted_without_rows fun some_row => ?_)
  have aligned : ¬ ((mqntOf me s f).addr % (if f.minor == 6 then 4 else 8) != 0) = true := by
    simpa using rows.resolve_left some_row
  refine (if_neg aligned).trans ?_
  simp only [counterFull_tile room, no_draw, Bool.false_and, Bool.false_eq_true, if_false]

end

/-- Settles O35: the issue of each major, its wait, and the three outcomes of a completion. -/
theorem matrixIssueCompletes : Obligations.MatrixIssueCompletes := by
  intro me s f
  dsimp only
  refine ⟨fun room h settled legal rows => mma_queued h settled room legal rows, fun room i kind word h settled rows => ?rows,
    fun h settled => mcvt_queued h settled, fun room h settled fixed rows => mqnt_queued h settled room fixed rows,
    fun i counted word h behind => ?waits, fun id x found => ⟨matrixOpCompletion_blocked found, fun first killed => ?killed,
      fun first placed lives y status u performed => ?performed⟩⟩
  case rows =>
    have exec_word : exec i s = issueRows i kind f s := by
      simp only [List.mem_cons, Prod.mk.injEq, List.not_mem_nil, or_false] at word
      obtain ⟨rfl, rfl⟩ | ⟨rfl, rfl⟩ := word <;> rfl
    exact exec_word.trans (rows_queued h settled room rows)
  case waits =>
    simp only [List.mem_cons, Prod.mk.injEq, List.not_mem_nil, or_false] at word
    obtain ⟨rfl, rfl⟩ | ⟨rfl, rfl⟩ | ⟨rfl, rfl⟩ | ⟨rfl, rfl⟩ | ⟨rfl, rfl⟩ := word
    · exact (exec_mma f s).trans (issueAsync_waits h behind)
    · exact (exec_mlda f s).trans (issueAsync_waits h behind)
    · exact (exec_msta f s).trans (issueAsync_waits h behind)
    · exact (exec_mcvt f s).trans (issueUncounted_waits h behind)
    · exact (exec_mqnt f s).trans (issueAsync_waits h behind)
  case killed => rw [matrixOpCompletion_first found first, completeMat_killed killed]; rfl
  case performed => rw [matrixOpCompletion_first found first, completeMat_performed placed lives performed]; rfl

/-! ### MZERO (R249) -/

/-- A memory that lists no entry at an address reads there as an unlisted byte. -/
theorem read_unlisted {m : Bytes} {n : Nat} (unlisted : ∀ c ∈ m, c.1 ≠ n) : Bytes.read m n = unlistedByte := by
  induction m with
  | nil => rfl
  | cons c m ih =>
    obtain ⟨here, rest⟩ := List.forall_mem_cons.mp unlisted
    rw [Bytes.read, beq_false_of_ne here, ih rest]
    exact ite_self _

section
variable {s : State} {x : MatOp}

theorem wg_of_wgs {s u : State} (same : u.wgs = s.wgs) (w : Nat) : u.wg w = s.wg w := by
  rw [State.wg, same]
  rfl

/-- Stamping changes the timestamp of the operation, and no workgroup. -/
theorem stampRows_wgs (tile : Nat) (rows : List Nat) (x : MatOp) (s : State) :
    ∃ ts u, stampRows tile rows x s = ({ x with ts := ts }, u) ∧ u.wgs = s.wgs := by
  induction rows generalizing x s with
  | nil => exact ⟨x.ts, s, rfl, rfl⟩
  | cons i rows ih =>
    obtain ⟨ts, u, stamped, same⟩ := ih { x with ts := (stampStore x.ts (lineKey (.acc x.wg (12288 * tile + 128 * i))) s).1 }
      (stampStore x.ts (lineKey (.acc x.wg (12288 * tile + 128 * i))) s).2
    exact ⟨ts, u, stamped, same⟩

/-- Accumulator space without the entries of a tile. -/
def tileDropped (tile : Nat) (m : Bytes) : Bytes :=
  m.filter fun c => !(decide (12288 * tile ≤ c.1) && decide (c.1 < 12288 * (tile + 1)))

theorem readLE_tileDropped {tile b : Nat} (m : Bytes) (inside : b < 12288) :
    Bytes.readLE (tileDropped tile m) (12288 * tile + b) 1 = 0 := by
  have unlisted : ∀ c ∈ tileDropped tile m, c.1 ≠ 12288 * tile + b := fun c listed here => by
    have outside := (List.mem_filter.mp listed).2
    simp only [here, Bool.not_eq_true', Bool.and_eq_false_iff, decide_eq_false_iff_not] at outside
    omega
  rw [Bytes.readLE, Bytes.readList, read_unlisted unlisted]
  rfl

/-- MZERO meets no fault; every byte of its tile is then zero and the tile's ERR bit 0. -/
theorem runMatOp_mzero (s : State) (is_mzero : x.kind = 1) :
    ∃ ts u, runMatOp x s = ({ x with ts := ts }, 0, none, u) ∧
      (∀ b, b < 12288 → readLoc u (.acc x.wg (12288 * x.tile + b)) 1 = 0) ∧ x.tile ∉ (u.wg x.wg).tileErr := by
  obtain ⟨ts, u, stamped, same⟩ := stampRows_wgs x.tile (List.range 96) x
    (s.updWg x.wg fun g => { g with acc := tileDropped x.tile g.acc })
  have dropped : u.wg x.wg = { s.wg x.wg with acc := tileDropped x.tile (s.wg x.wg).acc } :=
    (wg_of_wgs same _).trans (State.wg_updWg_same ..)
  have cleared : (clearErr x.wg x.tile u).wg x.wg = { u.wg x.wg with tileErr := (u.wg x.wg).tileErr.filter (· != x.tile) } :=
    State.wg_updWg_same ..
  refine ⟨ts, clearErr x.wg x.tile u, ?result, fun b inside => ?bytes, ?err⟩
  case result =>
    simp only [tileDropped] at stamped
    simp only [runMatOp, is_mzero, runMzero, stamped]
  case bytes =>
    rw [readLoc, cleared, dropped]
    exact readLE_tileDropped _ inside
  case err =>
    rw [cleared]
    simp

/-- The end of an operation without a barrier changes no workgroup. -/
theorem matEnded_wgs {id status : Nat} {y : MatOp} {u : State} (no_arrival : y.arr = none) :
    (matEnded id y status u).wgs = u.wgs := by
  have ended := (regsKept_endOperation (L := True) (p := fun _ _ => True) (s := u) (w := y.who)
    (c := if y.counted then some .tile else none) (tok := y.tok) (BitVec.ofNat 32 status) y.ts trivial).wgs
  rw [matEnded, no_arrival]
  generalize endOperation y.who (if y.counted then some .tile else none) y.tok (BitVec.ofNat 32 status) y.ts u = e at ended ⊢
  refine .trans ?_ ended
  dsimp only [Option.elim]
  split <;> rfl

end

section
variable {me : Me} {s : State} {f : FmtA}

/-- The operation of an MZERO (R249). -/
def mzeroOf (me : Me) (s : State) (f : FmtA) : MatOp := { matBase me s with kind := 1, tile := f.imm.toNat % 64 }

theorem mzero_queued (h : ready me (.mzero f) s) (settled : unsettled s me.tid = false) :
    exec (.mzero f) s = .next (matQueued (mzeroOf me s f) me s) := by
  rw [exec_mzero, execMzero, issueUncounted, issueAsync_ready h settled, ← submitMat_room (x := mzeroOf me s f) nofun]
  simp only [bits_low_six]
  rfl

end

/-- Settles O36: the issue, the completion of the one operation in the queue, and the tile that it leaves. -/
theorem tileZeroCompletes : Obligations.TileZeroCompletes := by
  intro me s f h settled empty placed lives
  have queued := mzero_queued h settled
  obtain ⟨found, first⟩ := matQueued_first (me := me) (x := mzeroOf me s f) empty
  obtain ⟨ts, v, performed, zero, no_err⟩ := runMatOp_mzero (x := mzeroOf me s f)
    (matTaken s.nextId (mzeroOf me s f) (matQueued (mzeroOf me s f) me s)) rfl
  have same_wg : (matEnded s.nextId { mzeroOf me s f with ts := ts } 0 v).wg (me.train s).wg = v.wg (me.train s).wg :=
    wg_of_wgs (matEnded_wgs rfl) _
  refine ⟨_, _, queued, fun p => ?unread, (matrixOpCompletion_first found first).trans (congrArg _
    (completeMat_performed (wgGone_matQueued.trans placed) (contains_matQueued.trans lives) performed)), fun b inside => ?bytes, ?err⟩
  case unread => exact (placesKept_mzero (p := fun _ _ => True) queued).bytes.readLoc_eq p 1
  case bytes =>
    rw [readLoc, same_wg]
    exact zero b inside
  case err =>
    rw [same_wg]
    exact no_err

end Sys2Proof.Proofs

/-! PROOFS. The meshlet decompressor (spec/11_core_geometry_rays.md R259, R260): the checks of its issue and the end of a decode. -/

namespace Sys2Proof.Proofs

open Sys2Proof.Machine Sys2Proof.Safety

section
variable {me : Me} {s : State} {f : FmtA}

/-- The decode of a word, with its issuer and the addresses of its pairs (R259). -/
def mdecOf (me : Me) (s : State) (f : FmtA) : MdecOp :=
  { who := me.who s, joined := s.joined me.tid me.sid, ctx := (me.train s).ctx, core := me.core,
    priv := (s.launch (me.train s).launch).priv, wg := (me.train s).wg, src := (me.train s).readSN me.sid f.desc.toNat true,
    dst := (me.train s).readSN me.sid f.desc2.toNat true, tok := f.tok.toNat, arr := arrOf f, ts := (me.train s).pts,
    lam := (me.train s).lamport, seen := [] }

/-- The decode is under way, its counter has risen, its token is awaited, and the word has retired. -/
def mdecIssued (me : Me) (s : State) (f : FmtA) : State :=
  retire me (({ s with nextId := s.nextId + 1, mdecs := Tab.put s.mdecs s.nextId (mdecOf me s f) } : State).updTrain me.tid fun t =>
    { t with copies := t.copies + 1 }.awaitToken f.tok.toNat 8)

/-- A word that names a barrier only where that is valid passes the check of its barrier (R223). -/
theorem no_invalid_barrier {w : Nat} (barrier : f.arr = 1 → (s.bar w f.nb.toNat).valid = true) :
    ((arrOf f).isSome && !(s.bar w f.nb.toNat).valid) = false := by
  by_cases named : f.arr = 1
  · rw [barrier named]
    exact Bool.and_false _
  · rw [arrOf, if_neg (mt eq_of_beq named)]
    rfl

/-- MDEC passes the checks of its source, its destination, its barrier and its counter, and issues. -/
theorem mdec_ready (h : ready me (.mdec f) s) (settled : unsettled s me.tid = false) (src : (mdecOf me s f).src % 16 = 0)
    (dst : (mdecOf me s f).dst % 16 = 0) (inside : (mdecOf me s f).dst < (s.wg (me.train s).wg).localSize)
    (barrier : f.arr = 1 → (s.bar (me.train s).wg f.nb.toNat).valid = true) (room : (me.train s).copies < 63) :
    exec (.mdec f) s = .next (mdecIssued me s f) := by
  have not_full : counterFull .copy me s = false := decide_eq_false (Nat.not_le_of_lt room)
  rw [exec_mdec, execMdec, issueAsync_ready h settled]
  refine congrArg _ ((if_neg ?src).trans ((if_neg ?dst).trans ((if_neg (Nat.not_le_of_lt inside)).trans
    ((if_neg ?barrier).trans (if_neg (ne_true_of_eq_false not_full))))))
  case src => exact fun misaligned => bne_iff_ne.mp misaligned src
  case dst => exact fun misaligned => bne_iff_ne.mp misaligned dst
  case barrier => exact ne_true_of_eq_false (no_invalid_barrier barrier)

theorem exec_mdecCompletion (id : Nat) (s : State) : exec (.mdecCompletion id) s = execMdecCompletion id s := rfl

/-- A decode that meets neither a breach nor a fault ends with status 0. -/
theorem mdecCompletion_decoded {id : Nat} {x y : MdecOp} {u : State} (found : Tab.find s.mdecs id = some x)
    (decoded : runMdec x { s with mdecs := Tab.del s.mdecs id } = .ok (y, u)) :
    exec (.mdecCompletion id) s = .next (endMdec y 0 u) := by
  rw [exec_mdecCompletion, execMdecCompletion]
  simp only [found, decoded]

end

/-- Settles O37: the checks of the issue pass one after another, and the end of a decode is that of its run. -/
theorem decompressionCompletes : Obligations.DecompressionCompletes := by
  intro me s f
  dsimp only
  exact ⟨fun h settled src dst inside barrier room => mdec_ready h settled src dst inside barrier room,
    fun id x y u found decoded => mdecCompletion_decoded found decoded⟩

end Sys2Proof.Proofs

/-! PROOFS. Box and triangle tests, traversal stacks, ordered blending and hit records (spec/11_core_geometry_rays.md R268, R270 to R280):
the words whose lanes pass their checks, and the records that RHIT replaces. -/

namespace Sys2Proof.Proofs

open Sys2Proof.Machine Sys2Proof.Safety

/-! ### The meaning of each major -/

section
variable (v : FmtV3) (m : FmtM) (s : State)

theorem exec_boxt : exec (.boxt v) s = execBoxt v s := rfl
theorem exec_trit : exec (.trit v) s = execTrit v s := rfl
theorem exec_rhit : exec (.rhit v) s = execRhit v s := rfl
theorem exec_stkpsh : exec (.stkpsh m) s = execStkpsh m s := rfl
theorem exec_stkpop : exec (.stkpop m) s = execStkpop m s := rfl
theorem exec_blst : exec (.blst m) s = execBlst m s := rfl

end

/-! ### Box and triangle tests (R270 to R274) -/

section
variable {me : Me} {s : State} {f : FmtV3}

theorem boxt_ready (h : ready me (.boxt f) s) (free : accessFree me s 0 false) {x : Acc} {fetched : List (Nat × Nat)}
    (lanes : (lanesOf (me.active s)).foldl (boxLane me f) ({ s := s }, []) = (x, fetched))
    (no_fault : x.faults = []) (no_hit : x.hit = none) :
    exec (.boxt f) s = .next (retire me (startLoad me false f.d.toNat 17 x.vals
      (fetched.foldl (fun s p => prefetchChild me.tid p.1 s p.2) x.s))) := by
  rw [exec_boxt, execBoxt, issueAccess_ready h free]
  simp only [lanes]
  exact congrArg _ (finishAccess_retires no_fault no_hit)

theorem trit_ready (h : ready me (.trit f) s) (free : accessFree me s 0 false)
    (no_fault : ((lanesOf (me.active s)).foldl (triLane me f) { s := s }).faults = [])
    (no_hit : ((lanesOf (me.active s)).foldl (triLane me f) { s := s }).hit = none) :
    let x := (lanesOf (me.active s)).foldl (triLane me f) { s := s }
    exec (.trit f) s = .next (retire me (startLoad me false f.d.toNat 5 x.vals x.s)) := by
  rw [exec_trit, execTrit, issueAccess_ready h free]
  exact congrArg _ (finishAccess_retires no_fault no_hit)

end

/-! ### Traversal stacks (R275) -/

section
variable {me : Me} {s : State} {f : FmtM}

/-- Local memory is not watched: no lane of a push meets a watched range. -/
theorem pushLane_hit (x : Acc) (l : Nat) : (pushLane me f x l).hit = x.hit := by
  unfold pushLane
  dsimp only
  split
  case h_1 => rfl
  case h_2 => split_ifs <;> rfl

/-- Nor does a lane of a pop. -/
theorem popLane_hit (x : Acc) (l : Nat) : (popLane me f x l).hit = x.hit := by
  unfold popLane
  dsimp only
  split
  case h_1 => rfl
  case h_2 => split_ifs <;> rfl

theorem foldl_hit {lane : Acc → Nat → Acc} (keeps : ∀ x l, (lane x l).hit = x.hit) (ls : List Nat) (x : Acc) :
    (ls.foldl lane x).hit = x.hit := by
  induction ls generalizing x with
  | nil => rfl
  | cons l ls ih => exact (ih (lane x l)).trans (keeps x l)

theorem stkpsh_ready (h : ready me (.stkpsh f) s) (free : accessFree me s 1 true)
    (no_fault : ((lanesOf (me.active s)).foldl (pushLane me f) { s := s }).faults = []) :
    exec (.stkpsh f) s = .next (retire me ((lanesOf (me.active s)).foldl (pushLane me f) { s := s }).s) := by
  rw [exec_stkpsh, execStkpsh, issueAccess_ready h free]
  exact congrArg _ (finishAccess_retires no_fault (foldl_hit pushLane_hit ..))

theorem stkpop_ready (h : ready me (.stkpop f) s) (free : accessFree me s 1 true)
    (no_fault : ((lanesOf (me.active s)).foldl (popLane me f) { s := s }).faults = []) :
    let x := (lanesOf (me.active s)).foldl (popLane me f) { s := s }
    exec (.stkpop f) s = .next (retire me (startLoad me false f.d.toNat (accessRegs f.size.toNat) x.vals x.s)) := by
  rw [exec_stkpop, execStkpop, issueAccess_ready h free]
  exact congrArg _ (finishAccess_retires no_fault (foldl_hit popLane_hit ..))

end

/-! ### Ordered blending (R277 to R280) -/

section
variable {me : Me} {s : State} {f : FmtM}

/-- A lane of a BLST is held under the next identifier, once its address is translated. -/
def holdBlend (g : Agent) (instr : Nat) (s : State) (b : Blend) : State :=
  let u := useTranslation g b.va s
  { u with nextId := u.nextId + 1, blends := Tab.put u.blends u.nextId { b with instr := instr } }

theorem blst_ready (h : ready me (.blst f) s) (free : accessFree me s 0 true) {x : BlendAcc}
    (lanes : (lanesOf (me.active s &&& ~~~(me.train s).helpers)).foldl (blendLane me f s) {} = x)
    (room : blendRoom s (me.train s).launch x.held = true) (no_fault : x.faults = []) :
    exec (.blst f) s = .next (retire me (x.held.foldl (holdBlend (trainAgent s me.tid) s.nextId)
      ({ s with nextId := s.nextId + 1 } : State))) := by
  rw [exec_blst, execBlst, issueAccess_ready h free]
  simp only [lanes, room, Bool.not_true, Bool.false_eq_true, if_false]
  exact congrArg _ (finishAccess_retires no_fault rfl)

end

/-! ### Hit records (R268) -/

theorem find_upd {α : Type} (t : Tab α) (n m : Nat) (f : α → α) :
    Tab.find (Tab.upd t n f) m = if m = n then (Tab.find t m).map f else Tab.find t m := by
  unfold Tab.upd
  by_cases same : m = n
  · subst same
    cases found : Tab.find t m <;> simp [found]
  · rw [if_neg same]
    split
    · exact Tab.find_put_ne t n m _ same
    · rfl

section
variable {me : Me} {s : State} {f : FmtV3}

/-- The record that a lane gives to RHIT: the six registers from A. -/
def rhitWords (me : Me) (s : State) (f : FmtV3) (l : Nat) : List Word :=
  (List.range 6).map fun k => readWord s (me.train s) me.sid (f.a.toNat + k) l

/-- A lane of RHIT replaces the record of the ray of its element. -/
def replaceHit (me : Me) (s : State) (f : FmtV3) (rays : Tab Ray) (l : Nat) : Tab Ray :=
  match Tab.find (me.train s).elems l with
  | some e => Tab.upd rays e.parent fun r => { r with hit := rhitWords me s f l }
  | none => rays

theorem rhit_ready (h : ready me (.rhit f) s) : exec (.rhit f) s =
    .next (retire me { s with rays := (lanesOf (me.active s)).foldl (replaceHit me s f) s.rays }) := by
  rw [exec_rhit, execRhit, issue_of_ready h]
  rfl

/-- The lanes of a train stand for different rays. -/
def raysApart (t : Train) : Prop :=
  ∀ l k e d, Tab.find t.elems l = some e → Tab.find t.elems k = some d → e.parent = d.parent → l = k

variable {l : Nat} {e : LaneElem}

theorem find_replaceHit_same (elem : Tab.find (me.train s).elems l = some e) (rays : Tab Ray) :
    Tab.find (replaceHit me s f rays l) e.parent =
      (Tab.find rays e.parent).map fun r => { r with hit := rhitWords me s f l } := by
  simp only [replaceHit, elem, find_upd, if_true]

theorem find_replaceHit_other (apart : raysApart (me.train s)) (elem : Tab.find (me.train s).elems l = some e) {k : Nat}
    (other : k ≠ l) (rays : Tab Ray) : Tab.find (replaceHit me s f rays k) e.parent = Tab.find rays e.parent := by
  unfold replaceHit
  split
  case h_1 d elem' =>
    rw [find_upd, if_neg fun same => other (apart l k e d elem elem' same).symm]
  case h_2 => rfl

/-- A lane among those of RHIT gives its record to its ray, wherever it stands in their order. -/
theorem find_foldl_replaceHit (apart : raysApart (me.train s)) (elem : Tab.find (me.train s).elems l = some e) (ls : List Nat)
    (rays : Tab Ray) : Tab.find (ls.foldl (replaceHit me s f) rays) e.parent =
      (Tab.find rays e.parent).map fun r => if l ∈ ls then { r with hit := rhitWords me s f l } else r := by
  induction ls generalizing rays with
  | nil => simp
  | cons k ls ih =>
    rw [List.foldl_cons, ih]
    by_cases mine : k = l
    · subst mine
      rw [find_replaceHit_same elem, Option.map_map]
      congr 1
      funext r
      simp
    · rw [find_replaceHit_other apart elem mine]
      simp [Ne.symm mine]

end

/-- Settles O39: the lanes of each word pass, and RHIT gives every lane's record to its own ray. -/
theorem rayTestsComplete : Obligations.RayTestsComplete := by
  intro me s v m
  dsimp only
  refine ⟨fun h free no_fault no_hit => boxt_ready h free rfl no_fault no_hit, trit_ready, stkpsh_ready, stkpop_ready,
    fun h free room no_fault => blst_ready h free rfl room no_fault,
    fun h apart => ⟨_, rhit_ready h, fun l active e r elem ray => ?record⟩⟩
  case record =>
    rw [retire_rays, find_foldl_replaceHit apart elem, ray, Option.map_some, if_pos active]
    rfl

end Sys2Proof.Proofs

/-! PROOFS. Spawning rays, and the words of the regrouping queues (spec/11_core_geometry_rays.md R265, R266, R276;
spec/14_cluster_accord_shuffle_ring.md R302). -/

namespace Sys2Proof.Proofs

open Sys2Proof.Machine Sys2Proof.Safety

/-! ### The rays of a TRACE (R265, R266) -/

/-- The rays of lanes, spawned one after another. -/
def spawnRays (me : Me) (trace root x : Nat) (ls : List Nat) (s : State) : State :=
  ls.foldl (fun s l => spawnRay me trace root x l s) s

/-- The ray that a lane of the issuer spawns as RAY element `elem` of its launch. -/
structure SpawnedRay (me : Me) (t : Train) (trace root x elem l : Nat) (r : Ray) : Prop where
  launch : r.launch = t.launch
  core : r.core = me.core
  elem : r.elem = elem
  lane : r.lane = l
  trace : r.trace = trace
  root : r.root = root
  words : r.words = (List.range 9).map fun n => t.readV (x + n) l
  started : r.started = false
  ended : r.ended = false
  depth : t.rung ≠ 6 → r.depth = 1

section
variable {me : Me} {s : State} {t : Train} {trace root x l : Nat}

/-- Outside a RAY train a lane spawns at depth 1. -/
theorem spawnDepth_one (no_ray : t.rung ≠ 6) : spawnDepth s t l = 1 := if_neg (mt eq_of_beq no_ray)

theorem spawnRay_trains : (spawnRay me trace root x l s).trains = s.trains := rfl

theorem spawnRay_traces : (spawnRay me trace root x l s).traces = s.traces := rfl

theorem spawnRay_nextId : (spawnRay me trace root x l s).nextId = s.nextId + 1 := rfl

theorem spawnRay_nextRay : ((spawnRay me trace root x l s).launch (me.train s).launch).nextRay =
    (s.launch (me.train s).launch).nextRay + 1 :=
  congrArg Launch.nextRay (State.launch_updLaunch_same s (me.train s).launch fun la => { la with nextRay := la.nextRay + 1 })

/-- A lane's ray is added under the next identifier, as the next RAY element of the launch. -/
theorem spawnRay_find : ∃ r, Tab.find (spawnRay me trace root x l s).rays s.nextId = some r ∧
    SpawnedRay me (me.train s) trace root x (s.launch (me.train s).launch).nextRay l r :=
  ⟨_, Tab.find_put_same .., rfl, rfl, rfl, rfl, rfl, rfl, rfl, rfl, rfl, spawnDepth_one⟩

theorem spawnRay_find_other {n : Nat} (other : n ≠ s.nextId) : Tab.find (spawnRay me trace root x l s).rays n = Tab.find s.rays n :=
  Tab.find_put_ne _ _ _ _ other

theorem spawnRays_trains (ls : List Nat) (s : State) : (spawnRays me trace root x ls s).trains = s.trains := by
  induction ls generalizing s with
  | nil => rfl
  | cons l ls ih => exact (ih _).trans spawnRay_trains

theorem spawnRays_traces (ls : List Nat) (s : State) : (spawnRays me trace root x ls s).traces = s.traces := by
  induction ls generalizing s with
  | nil => rfl
  | cons l ls ih => exact (ih _).trans spawnRay_traces

/-- Rays that stand before stay as they are. -/
theorem spawnRays_find_before {n : Nat} (ls : List Nat) (s : State) (before : n < s.nextId) :
    Tab.find (spawnRays me trace root x ls s).rays n = Tab.find s.rays n := by
  induction ls generalizing s with
  | nil => rfl
  | cons l ls ih =>
    exact (ih _ (Nat.lt_succ_of_lt before)).trans (spawnRay_find_other (Nat.ne_of_lt before))

/-- The k-th lane adds the k-th ray, with the k-th of the following identifiers and RAY elements. -/
theorem spawnRays_find (ls : List Nat) (s : State) {k : Nat} (lane : ls[k]? = some l) :
    ∃ r, Tab.find (spawnRays me trace root x ls s).rays (s.nextId + k) = some r ∧
      SpawnedRay me (me.train s) trace root x ((s.launch (me.train s).launch).nextRay + k) l r := by
  induction ls generalizing s k with
  | nil => cases lane
  | cons a ls ih =>
    cases k with
    | zero =>
      cases lane
      obtain ⟨r, found, spawned⟩ := spawnRay_find (me := me) (s := s) (trace := trace) (root := root) (x := x) (l := l)
      exact ⟨r, (spawnRays_find_before ls _ (Nat.lt_succ_self _)).trans found, spawned⟩
    | succ k =>
      obtain ⟨r, found, spawned⟩ := ih (spawnRay me trace root x a s) lane
      have same_train : me.train (spawnRay me trace root x a s) = me.train s := rfl
      rw [same_train, spawnRay_nextRay, Nat.succ_add_eq_add_succ] at spawned
      rw [spawnRay_nextId, Nat.succ_add_eq_add_succ] at found
      exact ⟨r, found, spawned⟩

end

/-! ### TRACE (R266) -/

section
variable {me : Me} {s : State} {f : FmtA}

/-- A lane of the issuer spawns a ray: it is no helper, and its ray is within the depth of its launch (R265, R266). -/
def spawns (me : Me) (s : State) (l : Nat) : Bool :=
  !(me.train s).helpers.getLsbD l && decide (spawnDepth s (me.train s) l ≤ (s.launch (me.train s).launch).nres)

/-- The active lanes that spawn, in ascending order. -/
def spawners (me : Me) (s : State) : List Nat := (lanesOf (me.active s)).filter (spawns me s)

/-- The operation of a TRACE: it holds the records of the lanes that spawn nothing, and awaits the others'. -/
def traceOf (me : Me) (s : State) (f : FmtA) : TraceOp :=
  { who := me.who s, hitReg := bits f.imm.toNat 8 8, lanes := me.active s,
    recs := ((lanesOf (me.active s)).filter fun l => !spawns me s l).map fun l =>
      (l, missRecord (if (me.train s).helpers.getLsbD l then 0 else 8) ((me.train s).readV (bits f.imm.toNat 0 8 + 8) l)),
    left := (spawners me s).length, spawned := (spawners me s).length, tok := f.tok.toNat, ts := (me.train s).pts }

/-- The operation is under way, GATHER has risen, and the token is awaited. -/
def traceOpened (me : Me) (s : State) (f : FmtA) : State :=
  ({ s with nextId := s.nextId + 1, traces := Tab.put s.traces s.nextId (traceOf me s f) } : State).updTrain me.tid fun t =>
    (t.setCount .gather (t.gather + 1)).awaitToken f.tok.toNat 8

/-- The lanes of a TRACE have spawned. -/
def traceSpawned (me : Me) (s : State) (f : FmtA) : State :=
  spawnRays me s.nextId ((me.train s).readSN me.sid f.desc.toNat true) (bits f.imm.toNat 0 8) (spawners me s) (traceOpened me s f)

/-- What a train has apart from its pending bits and their reasons stands as a token is awaited. -/
theorem awaitToken_shape (t : Train) (n why : Nat) :
    ∃ pend reasons, t.awaitToken n why = { t with pend := pend, pendWhy := reasons } := by
  unfold Train.awaitToken Train.setPending
  split
  · exact ⟨_, _, rfl⟩
  · exact ⟨_, _, rfl⟩

/-- The issuer's train after the issue of a TRACE, up to what awaits the token. -/
theorem train_traceOpened : ∃ pend reasons, me.train (traceOpened me s f) =
    { me.train s with gather := (me.train s).gather + 1, pend := pend, pendWhy := reasons } := by
  obtain ⟨pend, reasons, shape⟩ := awaitToken_shape ((me.train s).setCount .gather ((me.train s).gather + 1)) f.tok.toNat 8
  exact ⟨pend, reasons, (State.train_updTrain_same ..).trans shape⟩

theorem train_traceSpawned : me.train (traceSpawned me s f) = me.train (traceOpened me s f) :=
  congrArg (fun trains => Tab.get ({} : Train) trains me.tid) (spawnRays_trains ..)

theorem trace_traceSpawned : Tab.find (traceSpawned me s f).traces s.nextId = some (traceOf me s f) :=
  (congrArg (Tab.find · s.nextId) (spawnRays_traces ..)).trans (Tab.find_put_same ..)

/-- The operation awaits a record for each lane that has spawned. -/
theorem completeTrace_awaits {id : Nat} {o : TraceOp} (found : Tab.find s.traces id = some o) (awaits : o.left ≠ 0) :
    completeTrace id s = s := by
  simp [completeTrace, found, awaits]

theorem exec_trace : exec (.trace f) s = execTrace f s := rfl

/-- TRACE with a RAY run map and a lane that spawns. -/
theorem trace_ready (h : ready me (.trace f) s) (settled : unsettled s me.tid = false) (room : (me.train s).gather < 63)
    (runs : Tab.get [] (s.launch (me.train s).launch).runMaps 6 ≠ []) (some_lane : spawners me s ≠ []) :
    exec (.trace f) s = .next (retire me (traceSpawned me s f)) := by
  have not_full : counterFull .gather me s = false := decide_eq_false (Nat.not_le_of_lt room)
  have awaits : (traceOf me s f).left ≠ 0 := mt List.length_eq_zero_iff.mp some_lane
  have has_runs : (Tab.get [] (s.launch (me.train s).launch).runMaps 6 == []) = false := beq_false_of_ne runs
  rw [exec_trace, execTrace, issueCounted, issueAsync_ready h settled, ← completeTrace_awaits trace_traceSpawned awaits]
  simp only [not_full, has_runs, Bool.false_eq_true, if_false]
  rfl

theorem retire_traces (me : Me) (s : State) : (retire me s).traces = s.traces := by
  obtain ⟨_, _, _, shape⟩ := retire_shape me s
  rw [shape]

theorem gather_retire (me : Me) (s : State) : (me.train (retire me s)).gather = (me.train s).gather := by
  obtain ⟨g, -, trains⟩ := retire_train me s
  rw [Me.train, trains, if_pos rfl]
  rfl

/-- The k-th lane that spawns adds the k-th ray after the identifier of the TRACE. -/
theorem traceSpawned_find {k l : Nat} (lane : (spawners me s)[k]? = some l) :
    ∃ r, Tab.find (traceSpawned me s f).rays (s.nextId + 1 + k) = some r ∧
      SpawnedRay me (me.train s) s.nextId ((me.train s).readSN me.sid f.desc.toNat true) (bits f.imm.toNat 0 8)
        ((s.launch (me.train s).launch).nextRay + k) l r := by
  obtain ⟨pend, reasons, train⟩ := train_traceOpened (me := me) (s := s) (f := f)
  obtain ⟨r, found, spawned⟩ := spawnRays_find (me := me) (trace := s.nextId)
    (root := (me.train s).readSN me.sid f.desc.toNat true) (x := bits f.imm.toNat 0 8) (spawners me s) (traceOpened me s f) lane
  rw [train] at spawned
  exact ⟨r, found, { spawned with }⟩

end

/-! ### The regrouping queues (R276, R302) -/

section
variable {me : Me} {s : State} {f : FmtA}

theorem exec_regrp : exec (.regrp f) s = execRegrp f s := rfl
theorem exec_ringoff : exec (.ringoff f) s = ringOp (.ringoff f) 1 f s := rfl
theorem exec_ringtake : exec (.ringtake f) s = ringOp (.ringtake f) 2 f s := rfl

/-- The next state in which a divided train has faulted at a word of the regrouping queues. -/
def dividedFault (me : Me) (s : State) : State := faultWith s me [trainRecord 0x09 0 0 0 me s]

theorem regrp_ready (h : ready me (.regrp f) s) : exec (.regrp f) s = if divided (me.train s) then .next (dividedFault me s) else
    .next (fallHeld (.regroup 0 (bits f.imm.toNat 0 8) 0 none) me
      (s.updTrain me.tid fun t => { t with regrpKey := bits f.imm.toNat 0 8 })) := by
  rw [exec_regrp, execRegrp, issue_of_ready h]
  exact apply_ite ..

theorem ringOp_ready {i : Instr} {kind : Nat} (h : ready me i s) : ringOp i kind f s =
    if divided (me.train s) then .next (dividedFault me s) else
      .next (fallHeld (.regroup kind (f.imm.toNat % 64) f.tok.toNat none) me s) := by
  rw [ringOp, issue_of_ready h]
  exact apply_ite ..

end

/-- Settles O40: the lanes of a TRACE spawn one after another, and the words of the queues hold or fault their split. -/
theorem raySpawnsComplete : Obligations.RaySpawnsComplete := by
  intro me s f
  dsimp only
  refine ⟨fun h settled room runs some_lane => ⟨_, trace_ready h settled room runs some_lane, ?gather,
    ⟨_, (congrArg (Tab.find · s.nextId) (retire_traces ..)).trans trace_traceSpawned, rfl, rfl, rfl, rfl, rfl⟩, fun k l lane => ?ray⟩,
    regrp_ready, fun h => exec_ringoff.trans (ringOp_ready h), fun h => exec_ringtake.trans (ringOp_ready h)⟩
  case gather =>
    obtain ⟨pend, reasons, train⟩ := train_traceOpened (me := me) (s := s) (f := f)
    rw [gather_retire, train_traceSpawned, train]
  case ray =>
    obtain ⟨r, found, spawned⟩ := traceSpawned_find (f := f) lane
    rw [retire_rays]
    exact ⟨r, found, spawned.launch, spawned.core, spawned.elem, spawned.lane, spawned.trace, spawned.root, spawned.words,
      spawned.started, spawned.ended, spawned.depth⟩

end Sys2Proof.Proofs

/-! PROOFS. Completion of the cross-cluster shuffle and the accord words (spec/14_cluster_accord_shuffle_ring.md R290, R291, R294 to R296,
R300): what the sending of an ACALL leaves of its issuer, and the words where their checks pass. -/

namespace Sys2Proof.Proofs

open Sys2Proof.Machine Sys2Proof.Safety

/-! ### What the sending of requests leaves (R291) -/

/-- The same runs are in issue, the same splits stand, and no operation of an ACALL differs. -/
structure SendsKept (s u : State) : Prop where
  cur : u.cur = s.cur
  scheds : ∀ c, (u.core c).scheds = (s.core c).scheds
  splits : ∀ k, (u.train k).splits = (s.train k).splits
  accOps : u.accOps = s.accOps

section
variable {s t u : State}

theorem SendsKept.refl (s : State) : SendsKept s s := ⟨rfl, fun _ => rfl, fun _ => rfl, rfl⟩

theorem SendsKept.trans (first : SendsKept s t) (second : SendsKept t u) : SendsKept s u where
  cur := second.cur.trans first.cur
  scheds c := (second.scheds c).trans (first.scheds c)
  splits k := (second.splits k).trans (first.splits k)
  accOps := second.accOps.trans first.accOps

theorem sendsKept_foldl {α : Type} {f : State → α → State} (each : ∀ s x, SendsKept s (f s x)) (l : List α) (s : State) :
    SendsKept s (l.foldl f s) := by
  induction l generalizing s with
  | nil => exact .refl s
  | cons x l ih => exact (each s x).trans (ih (f s x))

/-- A change of a train that keeps its splits. -/
theorem sendsKept_updTrain {tid : Nat} {k : Train → Train} (splits : (k (s.train tid)).splits = (s.train tid).splits) :
    SendsKept s (s.updTrain tid k) := by
  refine ⟨rfl, fun _ => rfl, fun n => ?_, rfl⟩
  rw [State.train_updTrain]
  split_ifs with same
  · rw [same, splits]
  · rfl

theorem sendsKept_crowd {α : Type} (n : Nat) (l : List α) (s : State) : SendsKept s (s.crowd n l).2 := by
  unfold State.crowd
  split <;> exact ⟨rfl, fun _ => rfl, fun _ => rfl, rfl⟩

/-- A change of a core's translations leaves its schedulers. -/
theorem sendsKept_cacheCore (core : Nat) (e : TlbEntry) (s : State) : SendsKept s (cacheCore core e s) := by
  unfold cacheCore
  refine (sendsKept_crowd ..).trans ⟨rfl, fun c => ?_, fun _ => rfl, rfl⟩
  rw [State.core_updCore]
  split_ifs with same
  · rw [same]
  · rfl

theorem sendsKept_cacheCluster (k : Nat) (e : TlbEntry) (s : State) : SendsKept s (cacheCluster k e s) :=
  (sendsKept_crowd ..).trans ⟨rfl, fun _ => rfl, fun _ => rfl, rfl⟩

/-- Both outcomes of a check. -/
theorem SendsKept.ite {c : Prop} [Decidable c] (yes : SendsKept s t) (no : SendsKept s u) : SendsKept s (if c then t else u) :=
  iteInduction (motive := SendsKept s) (fun _ => yes) fun _ => no

theorem sendsKept_cacheTranslation (core ctx va : Nat) (pg : Page) (s : State) :
    SendsKept s (cacheTranslation core ctx va pg s) := by
  unfold cacheTranslation
  extract_lets e inCore
  have kept : SendsKept s inCore := .ite (.refl s) (sendsKept_cacheCore ..)
  exact .ite kept (kept.trans (sendsKept_cacheCluster ..))

theorem sendsKept_useTranslation (g : Agent) (a : Nat) (s : State) : SendsKept s (useTranslation g a s) := by
  unfold useTranslation
  refine .ite (.refl s) ?_
  split
  case h_1 => exact sendsKept_cacheTranslation ..
  case h_2 => exact .refl s

theorem sendsKept_replyFailed (op lane : Nat) (code : Word) (s : State) : SendsKept s (replyFailed op lane code s) :=
  ⟨rfl, fun _ => rfl, fun _ => rfl, rfl⟩

/-- The runs in issue name the issuer. -/
theorem SendsKept.issuer_eq (kept : SendsKept s u) : issuer u = issuer s := by
  simp only [issuer, kept.cur, Core.sched, kept.scheds]

end

/-! ### ACALL (R290, R291) -/

section
variable {me : Me} {s : State} {f : FmtMA}

/-- An ACALL opens its operation, sends its requests and replies, and leaves its split sending. -/
theorem sendAcall_sends (me : Me) (f : FmtMA) (s : State) : ∃ o t,
    sendAcall me f s = t.updSplit me (fun sp => { sp with sending := some s.nextId }) ∧
    SendsKept { s with nextId := s.nextId + 1, accOps := Tab.put s.accOps s.nextId o } t ∧
    o.dest = f.d.toNat ∧ o.pc = (me.split s).pc ∧ o.waiting = (acallLanes me f s (lanesOf (me.active s))).1.length := by
  have translates (u : State) (r : Nat × Nat × Nat × Nat × Nat) :
      SendsKept u (useTranslation (trainAgent s me.tid) (r.2.1 + r.2.2.2.2) u) := sendsKept_useTranslation ..
  have replies (u : State) (r : Nat × Nat × Nat × Nat × Nat) : SendsKept u (replyFailed s.nextId r.2.2.1 0xFFFFFFFF u) :=
    sendsKept_replyFailed ..
  unfold sendAcall
  dsimp only [State.fresh]
  rcases acallLanes me f s (lanesOf (me.active s)) with ⟨rs, bad⟩
  refine ⟨_, _, rfl, (sendsKept_foldl translates ..).trans
    (.trans (.ite (sendsKept_foldl ?groups ..) (sendsKept_foldl replies ..)) (.ite (.refl _) (sendsKept_updTrain rfl))), rfl, rfl, rfl⟩
  case groups => exact fun _ _ => ⟨rfl, fun _ => rfl, fun _ => rfl, rfl⟩

/-- The operation that the word then sends is the one that it has opened. -/
theorem sendingOp_sendAcall (issues : issuer s = some me) (has_split : me.sid < (me.train s).splits.length) : ∃ o,
    Tab.find (sendAcall me f s).accOps s.nextId = some o ∧ o.dest = f.d.toNat ∧ o.pc = (me.split s).pc ∧
    o.waiting = (acallLanes me f s (lanesOf (me.active s))).1.length ∧
    sendingOp (sendAcall me f s) = some (me, s.nextId, o) := by
  obtain ⟨o, t, sends, kept, dest, pc, waiting⟩ := sendAcall_sends me f s
  have found : Tab.find (sendAcall me f s).accOps s.nextId = some o := by
    rw [sends, State.updSplit_accOps, kept.accOps, Tab.find_put_same]
  have still_issues : issuer (sendAcall me f s) = some me := by
    rw [sends]
    exact kept.issuer_eq.trans issues
  have sending : (me.split (sendAcall me f s)).sending = some s.nextId := by
    have has_split' : me.sid < (t.train me.tid).splits.length := by
      rw [kept.splits]
      exact has_split
    rw [sends, Me.split, Me.train, State.train_updSplit, if_pos rfl, Train.split_updSplit, if_pos ⟨rfl, has_split'⟩]
  refine ⟨o, found, dest, pc, waiting, ?_⟩
  simp only [sendingOp, still_issues, sending, found, Option.map_some]

theorem exec_acall : exec (.acall f) s = execAcall f s := rfl

/-- A split that sends no ACALL. -/
theorem sendingOp_none (issues : issuer s = some me) (idle : (me.split s).sending = none) : sendingOp s = none := by
  simp only [sendingOp, issues, idle]

/-- The word goes on with the ACALL that its split is sending, and ends once every request is accepted. -/
theorem acall_accepted {id : Nat} {o : AccOp} (sending : sendingOp s = some (me, id, o)) (accepted : o.unaccepted = 0) :
    exec (.acall f) s = .next (finishAcall me id o s) := by
  simp only [exec_acall, execAcall, sending, accepted, beq_self_eq_true, if_true]

/-- A ready ACALL whose train may call sends its requests. -/
theorem acall_ready {id : Nat} {o : AccOp} (h : ready me (.acall f) s) (idle : (me.split s).sending = none)
    (no_combiner : (me.train s).combiner = false) (settled : unsettled s me.tid = false) (room : acallsOf s me.tid < 4)
    (sending : sendingOp (sendAcall me f s) = some (me, id, o)) :
    exec (.acall f) s = .next (if o.unaccepted = 0 then finishAcall me id o (sendAcall me f s) else stall 7 me (sendAcall me f s)) := by
  rw [exec_acall, execAcall, sendingOp_none h.1 idle]
  refine (issue_of_ready h).trans ?_
  simp only [no_combiner, settled, Nat.not_le_of_lt room, sending, beq_iff_eq, Bool.false_eq_true, if_false]

end

/-! ### The words of a combiner train (R294 to R296) -/

section
variable {me : Me} {s : State} {f : FmtA}

theorem exec_arecv : exec (.arecv f) s = execArecv f s := rfl
theorem exec_afail : exec (.afail f) s = execAfail f s := rfl
theorem exec_areply : exec (.areply f) s = execAreply f s := rfl

theorem arecv_ready (h : ready me (.arecv f) s) (combiner : (me.train s).combiner = true) (whole : divided (me.train s) = false)
    (no_batch : outBatch s me.tid = none) (none_waits : (me.train s).arecv = none) :
    exec (.arecv f) s = trainDone me s fun t =>
      { (List.range 4).foldl (fun t i => t.awaitToken (f.desc.toNat + i) 8) t with
        arecv := some (f.desc.toNat, bits f.imm.toNat 0 8) } := by
  rw [exec_arecv, execArecv, issue_of_ready h]
  simp only [combiner, whole, no_batch, none_waits]
  rfl

/-- The failures of a batch after AFAIL: the requests that the triple names fail with their lanes' codes. -/
def markedFails (me : Me) (s : State) (f : FmtA) (b : AccBatch) : Tab Word :=
  (List.range b.reqs.length).foldl (fun x i =>
    if ((me.train s).readTriple me.sid f.desc.toNat).getLsbD i then
      Tab.put x i ((me.train s).readV (bits f.imm.toNat 0 8) i) else x) b.fails

theorem afail_ready {b : AccBatch} (h : ready me (.afail f) s) (combiner : (me.train s).combiner = true)
    (batch : outBatch s me.tid = some b) : exec (.afail f) s = .next (retire me
      { s with accOut := Tab.put s.accOut (outKey (me.train s).ctx (me.core / 4)) { b with fails := markedFails me s f b } }) := by
  rw [exec_afail, execAfail, issue_of_ready h]
  simp only [combiner, batch, if_true]
  rfl

/-- The words of a batch header as a combiner train names them. -/
def namedHeader (me : Me) (s : State) (f : FmtA) : List Nat :=
  (List.range 4).map fun i => ((me.train s).readS me.sid (f.desc.toNat + i)).toNat

/-- The value with which AREPLY answers a request. -/
def replyValue (me : Me) (s : State) (f : FmtA) (b : AccBatch) (i : Nat) : Nat :=
  let v := bits f.imm.toNat 0 8
  ((me.train s).readV v i).toNat + (if b.wide then 2 ^ 32 * ((me.train s).readV (v + 1) i).toNat else 0)

theorem areply_ready {b : AccBatch} (h : ready me (.areply f) s) (combiner : (me.train s).combiner = true)
    (batch : outBatch s me.tid = some b) (settled : unsettled s me.tid = false)
    (first : (namedHeader me s f).getD 0 0 % 2 ^ 13 = (headerWords b).getD 0 0)
    (rest : (namedHeader me s f).drop 1 = (headerWords b).drop 1) :
    exec (.areply f) s = .next (retire me (sendReplies b (replyValue me s f b) (fun i => Tab.find b.fails i) (me.train s).pts
      (me.train s).lamport { s with accOut := Tab.del s.accOut (outKey (me.train s).ctx (me.core / 4)) })) := by
  unfold namedHeader at first rest
  rw [exec_areply, execAreply, issue_of_ready h]
  simp only [combiner, batch, settled, first, rest, if_true, bne_self_eq_false, Bool.or_self, Bool.false_eq_true, if_false]
  rfl

end

/-! ### VXSHUF (R300) -/

theorem exec_vxshuf (f : FmtV3) (s : State) : exec (.vxshuf f) s = execVxshuf f s := rfl

/-- Settles O41: each word where its checks pass. -/
theorem exchangesComplete : Obligations.ExchangesComplete := by
  intro me s v f a
  dsimp only
  refine ⟨fun h room => ?vxshuf, fun h has_split idle no_combiner settled room => ?acall, fun _ _ => acall_accepted, arecv_ready,
    fun _ => afail_ready, fun _ => areply_ready⟩
  case vxshuf =>
    rw [exec_vxshuf, execVxshuf, issue_of_ready h]
    exact congrArg _ (if_neg (Nat.not_le_of_lt room))
  case acall =>
    obtain ⟨o, found, dest, pc, waiting, sending⟩ := sendingOp_sendAcall (f := f) h.1 has_split
    exact ⟨o, found, dest, pc, waiting, acall_ready h idle no_combiner settled room sending⟩

end Sys2Proof.Proofs

/-! PROOFS. The events of accords, combiners, shuffles and the Escapement network (spec/14_cluster_accord_shuffle_ring.md R289 to R301;
spec/15_die_escapement_mesh_slices.md R316, R320, R325 to R330; spec/19_program_shortest_path.md R361;
spec/21_package_queues_launch_preemption.md R390). -/

namespace Sys2Proof.Proofs

open Sys2Proof.Machine Sys2Proof.Safety

/-! ### The meaning of each event -/

section
variable (id k : Nat) (s : State)

theorem exec_accordRequestArrival : exec (.accordRequestArrival id) s = execAccordRequestArrival id s := rfl
theorem exec_accordBatchDelivery : exec (.accordBatchDelivery k) s = execAccordBatchDelivery k s := rfl
theorem exec_accordReplyArrival : exec (.accordReplyArrival id) s = execAccordReplyArrival id s := rfl
theorem exec_combinerStart : exec (.combinerStart k) s = execCombinerStart k s := rfl
theorem exec_combinerSlotPass : exec (.combinerSlotPass k) s = execCombinerSlotPass k s := rfl
theorem exec_vxshufPairing : exec (.vxshufPairing id k) s = execVxshufPairing id k s := rfl
theorem exec_vxshufDelivery : exec (.vxshufDelivery id) s = execVxshufDelivery id s := rfl
theorem exec_shuffleTimeout : exec (.shuffleTimeout id) s = execShuffleTimeout id s := rfl
theorem exec_escapementTick : exec .escapementTick s = .next (clocks (4 - s.cycle % 4) s) := rfl
theorem exec_escapementEntry : exec (.escapementEntry id) s = execEscapementEntry id s := rfl
theorem exec_escapementReleaseDelivery : exec (.escapementReleaseDelivery id) s = execEscapementReleaseDelivery id s := rfl
theorem exec_escapementBroadcastDelivery : exec (.escapementBroadcastDelivery id) s = execEscapementBroadcastDelivery id s := rfl
theorem exec_escapementUncorrectableError : exec (.escapementUncorrectableError id) s = execEscapementUncorrectableError id s := rfl
theorem exec_escapementSignalRepeat : exec (.escapementSignalRepeat id) s = execEscapementSignalRepeat id s := rfl

end

/-! ### Accords and combiners (R289 to R298, R361, R390) -/

section
variable {s u : State} {id k : Nat}

theorem accordRequestArrival_accepted {g : AccGroup} (found : Tab.find s.accGroups id = some g) (goes : groupWaits s id g = false)
    (accepted : arriveReqs g g.reqs s = ([], u)) :
    exec (.accordRequestArrival id) s = .next { u with accGroups := Tab.del u.accGroups id } := by
  rw [exec_accordRequestArrival, execAccordRequestArrival]
  simp only [found, goes, accepted]
  rfl

theorem accordBatchDelivery_due {tid : Nat} {b : AccBatch} (due : deliverable s k = some (tid, b)) :
    exec (.accordBatchDelivery k) s = .next (deliverBatch k tid b s) := by
  simp only [exec_accordBatchDelivery, execAccordBatchDelivery, due]

/-- A change of an entry that stands puts the changed entry. -/
theorem upd_of_find {α : Type} {t : Tab α} {n : Nat} {x : α} (found : Tab.find t n = some x) (f : α → α) :
    Tab.upd t n f = Tab.put t n (f x) := by
  simp only [Tab.upd, found]

/-- An ACALL once a reply has arrived for one of its lanes. -/
def answeredCall (r : AccReply) (o : AccOp) : AccOp :=
  { o with waiting := o.waiting - 1, vals := Tab.put o.vals r.lane r.val, ts := max o.ts r.ts, lam := max o.lam r.lam,
           failed := if r.err then o.failed ++ [(r.lane, BitVec.ofNat 32 r.val)] else o.failed }

/-- A reply counts for its lane; the last one settles the call. -/
theorem accordReplyArrival_found {r : AccReply} {o : AccOp} (reply : Tab.find s.accReplies id = some r)
    (call : Tab.find s.accOps r.op = some o) :
    let u : State := { s with accReplies := Tab.del s.accReplies id, accOps := Tab.put s.accOps r.op (answeredCall r o) }
    exec (.accordReplyArrival id) s =
      .next (if (answeredCall r o).waiting = 0 then settleAcall r.op (answeredCall r o) u else u) := by
  simp only [exec_accordReplyArrival, execAccordReplyArrival, reply, upd_of_find call, Tab.find_put_same, beq_iff_eq]
  rfl

theorem combinerStart_fits {c x : Nat} (due : combinerDue s k = some (c, x)) (fits : (combinerNeeds s x k).getD 0 ≤ granulesFree s c) :
    exec (.combinerStart k) s = .next (startCombiner x k c { s with combWait := s.combWait.erase c }) := by
  simp only [exec_combinerStart, execCombinerStart, due, fits, if_true]

theorem combinerSlotPass_due {tid : Nat} (due : passDue s k = some tid) : exec (.combinerSlotPass k) s = .next (passSlot k tid s) := by
  simp only [exec_combinerSlotPass, execCombinerSlotPass, due]

end

/-! ### Shuffles (R300, R301) -/

section
variable {s : State} {id k : Nat} {x y : Shuffle}

theorem vxshufPairing_pair (first : Tab.find s.shuffles id = some x) (second : Tab.find s.shuffles k = some y)
    (pair : pairOf s k y = some id) :
    let due := s.cycle + (if x.core / 56 = y.core / 56 then 48 else 96)
    exec (.vxshufPairing id k) s = .next { s with
      shuffles := Tab.put (Tab.put s.shuffles id { x with pair := some (k, due) }) k { y with pair := some (id, due) } } := by
  simp only [exec_vxshufPairing, execVxshufPairing, first, second, pair, beq_self_eq_true, beq_iff_eq, if_true]

theorem vxshufDelivery_due {due : Nat} (first : Tab.find s.shuffles id = some x) (paired : x.pair = some (k, due))
    (second : Tab.find s.shuffles k = some y) (reached : due ≤ s.cycle) :
    exec (.vxshufDelivery id) s = .next (receiveShuffle k y x (receiveShuffle id x y
      { s with shuffles := Tab.del (Tab.del s.shuffles id) k })) := by
  simp only [exec_vxshufDelivery, execVxshufDelivery, first, paired, second, reached, if_true]

/-- The record of a VXSHUF that has found no partner (R301). -/
def timeoutRec (x : Shuffle) : FaultRec := { engineRec 0x13 0 0 (BitVec.ofNat 32 x.key) with sid := x.who.sid }

/-- A VXSHUF has left the port, and its destination is awaited no more. -/
def leavePort (id : Nat) (x : Shuffle) (s : State) : State :=
  let gone : State := { s with shuffles := Tab.del s.shuffles id }
  if s.present x.who then gone.updTrain x.who.tid fun t => t.doneBusy id else gone

/-- The train of a VXSHUF that leaves the port stands, but for what it awaits. -/
theorem train_leavePort : ∃ busy, (leavePort id x s).train x.who.tid = { s.train x.who.tid with busy := busy } := by
  unfold leavePort
  extract_lets gone
  split
  case isTrue => exact ⟨_, State.train_updTrain_same ..⟩
  case isFalse => exact ⟨_, rfl⟩

/-- Whether the issuing split is still there does not depend on what its train awaits. -/
theorem sameSplit_leavePort {born : Nat} : sameSplit (leavePort id x s) x.who born = sameSplit s x.who born := by
  obtain ⟨busy, train⟩ := train_leavePort (id := id) (x := x) (s := s)
  simp only [sameSplit, State.present, train]
  rfl

/-- A VXSHUF that nothing has met faults in its split, or in the engine log where the split is no more. -/
theorem shuffleTimeout_expired (found : Tab.find s.shuffles id = some x) (unpaired : x.pair = none)
    (expired : x.issued + 4096 ≤ s.timer) :
    exec (.shuffleTimeout id) s = .next (if sameSplit s x.who x.born
      then deferFault x.who.tid x.who.sid [timeoutRec x] (leavePort id x s)
      else (leavePort id x s).raiseEvent x.ctx (engineEvent (leavePort id x s) 1 x.joined 0 (timeoutRec x))) := by
  have times_out : (x.pair.isNone && decide (x.issued + 4096 ≤ s.timer)) = true := by simp [unpaired, expired]
  rw [exec_shuffleTimeout, execShuffleTimeout, ← sameSplit_leavePort]
  simp only [found, times_out, if_true]
  rfl

end

/-! ### The Escapement network (R316, R320, R325 to R330) -/

section
variable {s : State} {id : Nat}

theorem escapementEntry_due {m : EsMsg} (found : Tab.find s.esMsgs id = some m) (due : entryDue s m = true) :
    exec (.escapementEntry id) s = .next (enterMsg id m s) := by
  simp only [exec_escapementEntry, execEscapementEntry, found, due, if_true]

theorem escapementReleaseDelivery_due {n ph due : Nat} {killed : Bool} {v : EsValue}
    (found : Tab.find s.esMsgs id = some (.release n ph killed v due)) (reached : due ≤ s.tick) :
    exec (.escapementReleaseDelivery id) s = .next (deliverRelease n ph killed v { s with esMsgs := Tab.del s.esMsgs id }) := by
  simp only [exec_escapementReleaseDelivery, execEscapementReleaseDelivery, found, reached, if_true]

theorem escapementBroadcastDelivery_due {n due : Nat} {v : EsValue} (found : Tab.find s.esMsgs id = some (.broadcast n v due))
    (reached : due ≤ s.tick) :
    exec (.escapementBroadcastDelivery id) s = .next (deliverValue n v { s with esMsgs := Tab.del s.esMsgs id }) := by
  simp only [exec_escapementBroadcastDelivery, execEscapementBroadcastDelivery, found, reached, if_true]

theorem escapementUncorrectableError_found {m : EsMsg} (found : Tab.find s.esMsgs id = some m) :
    exec (.escapementUncorrectableError id) s = .next (loseMsg m { s with esMsgs := Tab.del s.esMsgs id }) := by
  simp only [exec_escapementUncorrectableError, execEscapementUncorrectableError, found]

/-- Whatever message is lost, REPLACE-REQUESTED is set (R330). -/
theorem loseMsg_replaceReq (m : EsMsg) (s : State) : (loseMsg m s).replaceReq = true := by
  unfold loseMsg
  dsimp only
  split
  case h_1 => split <;> rfl
  case h_2 => rfl
  case h_3 => split <;> rfl
  case h_4 => rfl
  case h_5 => rfl

theorem escapementSignalRepeat_halt (halting : s.halt.phase = 1) :
    exec (.escapementSignalRepeat 0) s = .next { s with halt := { s.halt with due := s.halt.due + 22 } } := by
  simp only [exec_escapementSignalRepeat, execEscapementSignalRepeat, halting, beq_self_eq_true, if_true]

theorem escapementSignalRepeat_wg {g : Workgroup} (named : id ≠ 0) (found : Tab.find s.wgs id = some g) :
    exec (.escapementSignalRepeat id) s =
      .next { s with wgs := Tab.put s.wgs id { g with sigAt := g.sigAt.map (· + 22) } } := by
  simp only [exec_escapementSignalRepeat, execEscapementSignalRepeat, beq_iff_eq, named, if_false, upd_of_find found]

end

/-- Settles O48: one rule for each event, of what it leads to where its condition holds. -/
theorem networkEventsComplete : Obligations.NetworkEventsComplete := by
  intro s id k
  dsimp only
  exact ⟨fun _ _ => accordRequestArrival_accepted, fun _ _ => accordBatchDelivery_due, fun _ _ => accordReplyArrival_found,
    fun _ _ => combinerStart_fits, fun _ => combinerSlotPass_due, fun _ _ => vxshufPairing_pair, fun _ _ _ => vxshufDelivery_due,
    fun _ => shuffleTimeout_expired, exec_escapementTick s, fun _ => escapementEntry_due, fun _ _ _ _ _ => escapementReleaseDelivery_due,
    fun _ _ _ => escapementBroadcastDelivery_due, fun m found => ⟨escapementUncorrectableError_found found, loseMsg_replaceReq ..⟩,
    escapementSignalRepeat_halt, fun _ => escapementSignalRepeat_wg⟩

end Sys2Proof.Proofs

/-! PROOFS. The traps (spec/22_package_faults_traps_dumps.md R410): BRK and TRAP park their split at the next word. -/

namespace Sys2Proof.Proofs

open Sys2Proof.Machine Sys2Proof.Safety

section
variable {me : Me} {s : State} {f : FmtSI} {x : FmtX}

theorem exec_brk (f : FmtSI) (s : State) : exec (.brk f) s = execBrk f s := rfl

theorem exec_trap (x : FmtX) (s : State) : exec (.trap x) s = execTrap x s := rfl

theorem brk_faults (h : ready me (.brk f) s) :
    exec (.brk f) s = .next (faultTrain .breakpoint (BitVec.ofNat 32 (f.imm.toNat % 65536)) me s) :=
  (exec_brk f s).trans (issue_of_ready h)

theorem trap_faults (h : ready me (.trap x) s) :
    exec (.trap x) s = .next (faultTrain .softwareTrap (BitVec.ofNat 32 (x.imm.toNat % 65536)) me s) :=
  (exec_trap x s).trans (issue_of_ready h)

/-! ### A train-level fault whose kind goes on at the next word -/

/-- What a fault that goes on at the next word leaves: its split and train PARKED with one record of the word, no run in issue, and
every register and byte. -/
structure ParksAtNext (me : Me) (s : State) (recs : List FaultRec) (u : State) : Prop where
  parked : Parked me recs u
  pc : (me.split u).pc = (me.split s).pc + 1
  idle : u.cur = none
  run_over : ((u.core me.core).sched me.sched).run = none
  kept : RegsKept True (fun _ _ => False) s u

/-- No run is in issue after a fault, and the scheduler of the faulting split has none. -/
theorem endRun_run (s : State) (me : Me) :
    (s.endRun me).cur = none ∧ (((s.endRun me).core me.core).sched me.sched).run = none := by
  refine ⟨rfl, ?_⟩
  change (((s.updSched me.core me.sched fun k => { k with run := none }).core me.core).sched me.sched).run = none
  rw [State.updSched, State.core_updCore, if_pos rfl, Core.sched, Tab.get_put_same]

theorem faultWith_parksAtNext {r : FaultRec} (goes_on : resumeOf r.kind r.trainLevel = .next)
    (has_split : me.sid < (me.train s).splits.length) (no_event : s.holdsEvent me.tid = false) :
    ParksAtNext me s [r] (faultWith s me [r]) := by
  have all_go_on : ∀ x ∈ [r], resumeOf x.kind x.trainLevel = .next := List.forall_mem_singleton.mpr goes_on
  have none_replays : ∀ x ∈ [r], resumeOf x.kind x.trainLevel ≠ .replay := fun x mem => all_go_on x mem ▸ nofun
  have taken := faultWith_next s me none_replays goes_on
  refine ⟨faultWith_parks has_split no_event (List.cons_ne_nil _ _) all_go_on, ?pc, ?idle, ?run_over, regsKept_faultWith ..⟩
  case idle => exact taken ▸ (endRun_run ..).1
  case run_over => exact taken ▸ (endRun_run ..).2
  case pc =>
    rw [taken, split_takeFault]
    · rw [Me.split, Me.train, State.train_updSplit, if_pos rfl, Train.split_updSplit, if_pos ⟨rfl, has_split⟩]
    · rw [Me.train, State.train_updSplit, if_pos rfl]
      exact lt_of_lt_of_eq has_split (listSet_length ..).symm
    · exact (holdsEvent_updTrain rfl).trans no_event

end

/-! ### The form of BRK -/

theorem brk_wellFormed (f : FmtSI) :
    (Instr.brk f).wellFormed = true ↔ f.d = 0 ∧ f.a = 0 ∧ f.minor = 0 ∧ f.imm.toNat < 65536 := by
  have d := BitVec.toNat_inj (x := f.d) (y := 0)
  have a := BitVec.toNat_inj (x := f.a) (y := 0)
  have minor := BitVec.toNat_inj (x := f.minor) (y := 0)
  simp only [Instr.wellFormed, opcodeListed, fieldsOk, shape, rest, List.all_cons, List.all_nil, Pos.ok, Bool.and_eq_true,
    decide_eq_true_eq, beq_iff_eq, Bool.and_true, Nat.lt_one_iff]
  tauto

/-- BRK issues at RATE 7 alone, in every train (R410). -/
theorem brk_rateOk (f : FmtSI) (graphics : Bool) (rung r : Nat) : rateOk graphics rung r (.brk f) = (r == 7) := by
  rw [rateOk, classOf, rungsOf, Bool.and_true]

/-- Settles O43: both words take their exception through `faultWith_parksAtNext`; the form is that of the tables. -/
theorem trapsPark : Obligations.TrapsPark := by
  refine ⟨?parks, fun f => ⟨rfl, brk_rateOk f, brk_wellFormed f⟩, rfl⟩
  case parks =>
    intro me s f x i kind info word h has_split no_event
    obtain ⟨u, next, at_next⟩ : ∃ u, exec i s = .next u ∧
        ParksAtNext me s [trainRecord kind 0 0 (BitVec.ofNat 32 info) me s] u := by
      simp only [List.mem_cons, Prod.mk.injEq, List.not_mem_nil, or_false] at word
      rcases word with ⟨rfl, rfl, rfl⟩ | ⟨rfl, rfl, rfl⟩
      · exact ⟨_, brk_faults h, faultWith_parksAtNext rfl has_split no_event⟩
      · exact ⟨_, trap_faults h, faultWith_parksAtNext rfl has_split no_event⟩
    obtain ⟨parked, pc, idle, run_over, kept⟩ := at_next
    exact ⟨u, next, parked.split, parked.train, pc, parked.recs, idle, run_over, kept.sameMemory trivial, kept.vector, kept.scalar⟩

end Sys2Proof.Proofs

/-! PROOFS. The system registers, calls and trace records of a train (spec/22_package_faults_traps_dumps.md R411, R412, R414;
spec/25_package_debug_trace.md R437, R439): the record of TREC names the train that issues it. -/

namespace Sys2Proof.Proofs

open Sys2Proof.Machine Sys2Proof.Safety

/-- The issuer of a train of core 0 in slot 1. -/
def tracingMe : Me := { core := 0, sched := 0, slot := 1, sid := 0 }

/-- A trace session of mode 1 is on in the context of the train that issues the one word of its run. -/
def tracingState : State :=
  { State.reset with
    cur := some 0,
    trains := [(1, { state := .resident, launch := 1, live := 1, splits := [{ valid := true, member := 1, active := 1 }] })],
    launches := [(1, {})],
    ctxs := [(0, { begun := true, trCtl := 5 })],
    cores := [(0, { scheds := [(0, { run := some { slot := 1, sid := 0, words := [0] } })] })] }

/-- TREC with code 0 and the value of s0. -/
def tracedWord : FmtSI := { d := 0, a := 0, minor := 0, imm := 0 }

theorem ready_tracingState : ready tracingMe (.trec tracedWord) tracingState := by
  unfold ready
  decide +kernel

/-- The trains whose records a session holds after a word, where it leads to a next state. -/
def tracedTrains : Result → Option (List Nat)
  | .next u => some ((u.ctx 0).trQueue.map (·.tid))
  | _ => none

/-- The record of TREC names train 1, which issues it. -/
theorem tracedTrains_tracingState : tracedTrains (exec (.trec tracedWord) tracingState) = some [1] := by
  decide +kernel

/-- Refutes O44: its clause on TREC with a session on leaves the record's train at 0, also where another train issues the word. -/
theorem not_systemRegistersComplete : ¬ Obligations.SystemRegistersComplete := by
  intro complete
  obtain ⟨-, -, -, trec_adds, -⟩ := complete tracingMe tracingState tracedWord { minor := 0, sa := 0, sb := 0, imm := 0 }
  have traced := tracedTrains_tracingState
  rw [trec_adds ready_tracingState (by decide +kernel)] at traced
  exact absurd traced (by decide +kernel)

end Sys2Proof.Proofs

/-! PROOFS. The instructions of the Escapement network (spec/15_die_escapement_mesh_slices.md R323 to R329;
spec/22_package_faults_traps_dumps.md R419). -/

namespace Sys2Proof.Proofs

open Sys2Proof.Machine Sys2Proof.Safety

section
variable {me : Me} {s : State} {f : FmtSI} {g : FmtX} {i : Instr} {set kind reg src n m : Nat} {op : Option Nat} {x : EsSlot}
  {c : EsChan} {k : Kind} {info : Word}

theorem exec_esarr (f : FmtSI) (s : State) : exec (.esarr f) s = execEsarr f s := rfl
theorem exec_esbar (f : FmtSI) (s : State) : exec (.esbar f) s = execEsbar f s := rfl
theorem exec_esred (f : FmtSI) (s : State) : exec (.esred f) s = execEsred f s := rfl
theorem exec_eswait (f : FmtSI) (s : State) : exec (.eswait f) s = execEswait f s := rfl
theorem exec_esbcst (f : FmtSI) (s : State) : exec (.esbcst f) s = execEsbcst f s := rfl
theorem exec_esrecv (f : FmtSI) (s : State) : exec (.esrecv f) s = execEsrecv f s := rfl
theorem exec_estick (f : FmtSI) (s : State) : exec (.estick f) s = execEstick f s := rfl
theorem exec_espre (g : FmtX) (s : State) : exec (.espre g) s = execEspre g s := rfl

/-- A train with no update without its place and no matrix operation (R326, R345). -/
def sendsFreely (s : State) (tid : Nat) : Prop := placeOps s tid = [] ∧ matsPending s tid = false

theorem sendsFreely_iff (tid : Nat) : sendsFreely s tid ↔ (!(placeOps s tid).isEmpty || matsPending s tid) = false := by
  rw [sendsFreely, Bool.or_eq_false_iff, Bool.not_eq_false', List.isEmpty_iff]

/-- A value as the issuing train sends it (R326, R437). -/
def sentValue (me : Me) (s : State) (val : Nat) : EsValue :=
  { val := val, ts := arrivalTs s me.tid, lam := (me.train s).lamport }

/-! ### Barrier slots -/

/-- What an arrival leaves before its train's registers change: its message and its wait (R319, R324). -/
def arrivalState (me : Me) (s : State) (n m : Nat) (x : EsSlot) (kind reg : Nat) (op : Option Nat) (val : Nat) : State :=
  addWait n { member := m, kind := kind, reg := reg, phase := x.phase, sid := me.sid, seq := 0 }
    (sendMsg (.arrival n m op (sentValue me s val) s.cycle) s)

/-- The tokens that an arrival of a kind names (Table 22.11). -/
def arrivalTokens (kind reg : Nat) (t : Train) : Train :=
  match kind with
  | 0 => t
  | 3 => (t.awaitToken reg 6).awaitToken (reg + 1) 6
  | _ => t.awaitToken reg 6

theorem arriveEs_arrives (h : ready me i s) (slot : slotFor s me.tid set = .ok (n, x, m)) (first : x.arrival m = none)
    (free : sendsFreely s me.tid) : arriveEs i set kind reg op src s =
      .next (retire me ((arrivalState me s n m x kind reg op (if op.isSome then (me.train s).readSN me.sid src true else 0)).updTrain
        me.tid (arrivalTokens kind reg))) := by
  rw [arriveEs, issue_of_ready h]
  simp only [slot, first, Option.isSome_none, (sendsFreely_iff _).mp free, Bool.false_eq_true, if_false]
  rfl

theorem arriveEs_refused (h : ready me i s) (refused : slotFor s me.tid set = .error (k, info)) :
    arriveEs i set kind reg op src s = .next (faultTrain k info me s) := by
  rw [arriveEs, issue_of_ready h]
  simp only [refused]

/-- The wait of a member for the phase of its arrival, else for the current one (R324). -/
def phaseWait (me : Me) (x : EsSlot) (m reg : Nat) : EsWait :=
  { member := m, kind := 2, reg := reg, phase := ((x.arrival m).map (·.phase)).getD x.phase, sid := me.sid, seq := 0 }

theorem eswait_waits (h : ready me (.eswait f) s) (slot : slotFor s me.tid (f.imm.toNat % 256) = .ok (n, x, m))
    (alone : ∀ w ∈ x.waits, w.member = m → w.kind ≠ 2) : exec (.eswait f) s =
      .next (retire me ((addWait n (phaseWait me x m f.d.toNat) s).updTrain me.tid fun t => t.awaitToken f.d.toNat 6)) := by
  have no_wait : (x.waits.any fun w => w.member == m && w.kind == 2) = false := by simpa using alone
  rw [exec_eswait, execEswait, issue_of_ready h]
  simp only [slot, no_wait, Bool.false_eq_true, if_false]
  rfl

theorem eswait_refused (h : ready me (.eswait f) s) (refused : slotFor s me.tid (f.imm.toNat % 256) = .error (k, info)) :
    exec (.eswait f) s = .next (faultTrain k info me s) := by
  rw [exec_eswait, execEswait, issue_of_ready h]
  simp only [refused]

/-! ### Channels -/

theorem esbcst_sends (h : ready me (.esbcst f) s) (chan : chanFor s me.tid (f.imm.toNat % 256) = .ok (n, c, m))
    (free : sendsFreely s me.tid) (room : chanLoad s n < 8) : exec (.esbcst f) s =
      .next (retire me (sendMsg (.entering n m (sentValue me s ((me.train s).readSN me.sid f.a.toNat true)) s.cycle) s)) := by
  rw [exec_esbcst, execEsbcst, issue_of_ready h]
  simp only [chan, if_neg (Nat.not_le.mpr room), (sendsFreely_iff _).mp free, Bool.false_eq_true, if_false]
  rfl

theorem esbcst_refused (h : ready me (.esbcst f) s) (refused : chanFor s me.tid (f.imm.toNat % 256) = .error (k, info)) :
    exec (.esbcst f) s = .next (faultTrain k info me s) := by
  rw [exec_esbcst, execEsbcst, issue_of_ready h]
  simp only [refused]

theorem no_chan_wait {m : Nat} (alone : ∀ w ∈ c.waits, w.member ≠ m) : (c.waits.any fun w => w.member == m) = false := by
  simpa using alone

theorem esrecv_takes {v : EsValue} {vs : List EsValue} (h : ready me (.esrecv f) s)
    (chan : chanFor s me.tid (f.imm.toNat % 256) = .ok (n, c, m)) (alone : ∀ w ∈ c.waits, w.member ≠ m)
    (received : Tab.get [] c.recv m = v :: vs) : exec (.esrecv f) s =
      .next (retire me (((s.updChan n fun c => { c with recv := if vs.isEmpty then Tab.del c.recv m else Tab.put c.recv m vs }).updTrain
        me.tid fun t => (t.tokenPair f.d.toNat v.val).carry [.s f.d.toNat, .s (f.d.toNat + 1)] v.ts).hear me.tid v.lam)) := by
  rw [exec_esrecv, execEsrecv, issue_of_ready h]
  simp only [chan, no_chan_wait alone, received, Bool.false_eq_true, if_false]

theorem esrecv_awaits (h : ready me (.esrecv f) s) (chan : chanFor s me.tid (f.imm.toNat % 256) = .ok (n, c, m))
    (alone : ∀ w ∈ c.waits, w.member ≠ m) (received : Tab.get [] c.recv m = []) : exec (.esrecv f) s =
      .next (retire me ((({ s with nextId := s.nextId + 1 } : State).updChan n fun c => { c with waits := c.waits ++
        [{ member := m, kind := 4, reg := f.d.toNat, phase := 0, sid := me.sid, seq := s.nextId }] }).updTrain me.tid fun t =>
          (t.awaitToken f.d.toNat 6).awaitToken (f.d.toNat + 1) 6)) := by
  rw [exec_esrecv, execEsrecv, issue_of_ready h]
  simp only [chan, no_chan_wait alone, received, Bool.false_eq_true, if_false]
  rfl

theorem esrecv_refused (h : ready me (.esrecv f) s) (refused : chanFor s me.tid (f.imm.toNat % 256) = .error (k, info)) :
    exec (.esrecv f) s = .next (faultTrain k info me s) := by
  rw [exec_esrecv, execEsrecv, issue_of_ready h]
  simp only [refused]

/-! ### ESPRE -/

theorem espre_asks (h : ready me (.espre g) s) (bound : (boundTo (s.launch (me.train s).launch).slotSet
      (s.launch (me.train s).launch).slotMap ((me.train s).readS me.sid g.sa.toNat).toNat).bind (Tab.find s.esSlots) = some x) :
    exec (.espre g) s = .next (retire me (askSignals (memberWgs s (me.train s).launch x.members) s)) := by
  rw [exec_espre, execEspre, issue_of_ready h]
  simp only [bound]

theorem askSignals_outside_halt (ws : List Nat) (no_halt : s.halt.phase = 0) : askSignals ws s = signalWgs ws s :=
  if_neg (by rw [no_halt]; decide)

theorem askSignals_in_halt (ws : List Nat) (halt : s.halt.phase ≠ 0) :
    askSignals ws s = { s with espreHeld := s.espreHeld ++ ws.filter fun w => !s.espreHeld.contains w } :=
  if_pos (bne_iff_ne.mpr halt)

end

/-- Settles O42: each word by the case of its slot or channel. -/
theorem escapementWordsComplete : Obligations.EscapementWordsComplete := by
  intro me s f g
  refine ⟨fun n x m slot => ⟨?esarr, ?esbar_alone, ?esbar, ?esred, ?eswait⟩,
    fun n c m chan => ⟨fun h free => esbcst_sends h chan free, fun v vs h => esrecv_takes h chan, fun h => esrecv_awaits h chan⟩,
    fun h => (exec_estick f s).trans (issueTrain_ready h), ?espre, ?refused_slot, ?refused_chan⟩
  case esarr => exact fun first free h => (exec_esarr f s).trans (arriveEs_arrives h slot first free)
  case esbar_alone =>
    intro first free h alone
    rw [exec_esbar, execEsbar, alone]
    exact arriveEs_arrives h slot first free
  case esbar =>
    intro first free h token
    rw [exec_esbar, execEsbar, if_neg (mt beq_iff_eq.mp token)]
    exact arriveEs_arrives h slot first free
  case esred => exact fun first free h => (exec_esred f s).trans (arriveEs_arrives h slot first free)
  case eswait => exact fun h => eswait_waits h slot
  case espre =>
    intro h l x bound
    refine ⟨fun no_halt => ?_, fun halt => ?_⟩
    · rw [espre_asks h bound, askSignals_outside_halt _ no_halt]
    · rw [espre_asks h bound, askSignals_in_halt _ halt]
  case refused_slot =>
    intro k info refused
    simp only [List.forall_mem_cons, List.not_mem_nil, false_imp_iff, implies_true, and_true]
    exact ⟨fun h => arriveEs_refused h refused, fun h => arriveEs_refused h refused, fun h => arriveEs_refused h refused,
      fun h => eswait_refused h refused⟩
  case refused_chan =>
    intro k info refused
    simp only [List.forall_mem_cons, List.not_mem_nil, false_imp_iff, implies_true, and_true]
    exact ⟨fun h => esbcst_refused h refused, fun h => esrecv_refused h refused⟩

end Sys2Proof.Proofs

/-! PROOFS. The system instructions (spec/22_package_faults_traps_dumps.md R408, R413, R415 to R420). -/

namespace Sys2Proof.Proofs

open Sys2Proof.Machine Sys2Proof.Safety

section
variable {me : Me} {s : State} {x : FmtX} {i : Instr} {reg : Nat} {e : Me → Nat → State → State}

theorem exec_eret (x : FmtX) (s : State) : exec (.eret x) s = execEret x s := rfl
theorem exec_tresume (x : FmtX) (s : State) : exec (.tresume x) s = execTresume x s := rfl
theorem exec_tkill (x : FmtX) (s : State) : exec (.tkill x) s = execTkill x s := rfl
theorem exec_tsnap (x : FmtX) (s : State) : exec (.tsnap x) s = execTsnap x s := rfl
theorem exec_ctxsave (x : FmtX) (s : State) : exec (.ctxsave x) s = execCtxsave x s := rfl
theorem exec_ctxrest (x : FmtX) (s : State) : exec (.ctxrest x) s = execCtxrest x s := rfl
theorem exec_tlbinv (x : FmtX) (s : State) : exec (.tlbinv x) s = execTlbinv x s := rfl
theorem exec_haltall (x : FmtX) (s : State) : exec (.haltall x) s = execHaltall x s := rfl

/-! ### ERET -/

/-- The train of `me` may become the handler of its context: none of s8 to s15 is pending, no fault is deferred, no save or snapshot of its
split is under way, and no other train is the handler (R413). -/
structure MayHandle (me : Me) (s : State) : Prop where
  settled : (me.split s).deferred = []
  snapped : ownSnap s (me.split s) = false
  tokens : ∀ k, 8 ≤ k → k < 16 → (me.train s).pending k = false
  handles : handledBy s (me.train s).ctx ≠ []
  alone : ∀ h, handlerOf s (me.train s).ctx = some h → h.who.names s me.tid = true

theorem no_token_pending {t : Train} (tokens : ∀ k, 8 ≤ k → k < 16 → t.pending k = false) :
    ((List.range 8).any fun k => t.pending (8 + k)) = false := by
  rw [List.any_eq_false]
  intro k low
  rw [tokens (8 + k) (by omega) (by have := List.mem_range.mp low; omega)]
  exact Bool.false_ne_true

/-- What ERET leaves once its train may handle: a dump of its own is closed first (R413, R420). -/
def eretHandles (me : Me) (s : State) : State :=
  if ownsDump s me.tid then
    let base := (s.dump.map (·.base)).getD 0
    match storeGlobal me.tid (base + 4) 4 3 s with
    | .error (k, info) => faultAt k (BitVec.ofNat 64 (base + 4)) 4 info me s
    | .ok s => becomeHandler me { s with dump := none }
  else becomeHandler me s

theorem eret_handles (h : ready me (.eret x) s) (may : MayHandle me s) : exec (.eret x) s = .next (eretHandles me s) := by
  have handled : (handledBy s (me.train s).ctx).isEmpty = false := List.isEmpty_eq_false_iff.mpr may.handles
  rw [exec_eret, execEret, issue_of_ready h]
  cases handler : handlerOf s (me.train s).ctx with
  | none =>
    simp only [may.settled, List.isEmpty_nil, Bool.not_true, Bool.false_eq_true, if_false, no_token_pending may.tokens, may.snapped,
      handled, handler, Bool.or_false]
    rfl
  | some y =>
    simp only [may.settled, List.isEmpty_nil, Bool.not_true, Bool.false_eq_true, if_false, no_token_pending may.tokens, may.snapped,
      handled, handler, may.alone y handler, Bool.or_false]
    rfl

theorem eret_without_dump (h : ready me (.eret x) s) (may : MayHandle me s) (no_dump : ownsDump s me.tid = false) :
    exec (.eret x) s = .next (becomeHandler me s) := by
  rw [eret_handles h may, eretHandles, if_neg (ne_true_of_eq_false no_dump)]

theorem eret_closes_dump {d : Dump} {u : State} (h : ready me (.eret x) s) (may : MayHandle me s) (dump : s.dump = some d)
    (own : d.who.names s me.tid = true) (stored : storeGlobal me.tid (d.base + 4) 4 3 s = .ok u) :
    exec (.eret x) s = .next (becomeHandler me { u with dump := none }) := by
  have owns : ownsDump s me.tid = true := by rw [ownsDump, dump]; exact own
  rw [eret_handles h may, eretHandles, if_pos owns]
  simp only [dump, Option.map_some, Option.getD_some, stored]

/-! ### Trains by handle -/

theorem issueHandle_names {tid : Nat} (h : ready me i s)
    (target : handleTarget s (me.train s).ctx ((me.train s).readS me.sid reg) = some tid) :
    issueHandle i reg s e = .next (e me tid s) := by
  rw [issueHandle, issue_of_ready h]
  simp only [target]

theorem issueHandle_bad (h : ready me i s)
    (target : handleTarget s (me.train s).ctx ((me.train s).readS me.sid reg) = none) :
    issueHandle i reg s e = .next (faultTrain .badHandle 0 me s) := by
  rw [issueHandle, issue_of_ready h]
  simp only [target]

theorem tsnap_names {tid : Nat} (h : ready me (.tsnap x) s)
    (target : handleTarget s (me.train s).ctx ((me.train s).readS me.sid x.sa.toNat) = some tid) (open_ : s.dump ≠ none) :
    exec (.tsnap x) s = .next (retire me
      (addSysOp (.snap (me.who s) { tid := tid, gen := (s.train tid).inc, sid := 0 } (me.split s).pc) me s).2) := by
  rw [exec_tsnap, execTsnap, issueHandle_names h target, if_neg (mt Option.isNone_iff_eq_none.mp open_)]

/-! ### CTXSAVE and CTXREST -/

theorem not_misaligned {n : Nat} (aligned : n % 4096 = 0) : ¬ (n % 4096 != 0) = true := by simp [aligned]

theorem ctxsave_names {tid : Nat} (h : ready me (.ctxsave x) s) (aligned : (me.train s).readSN me.sid x.sa.toNat true % 4096 = 0)
    (target : handleTarget s (me.train s).ctx ((me.train s).readS me.sid x.sb.toNat) = some tid) : exec (.ctxsave x) s =
      .next (retire me ((addSysOp (.save (me.who s) { tid := tid, gen := (s.train tid).inc, sid := 0 }
        ((me.train s).readSN me.sid x.sa.toNat true) (me.split s).pc) me s).2.updTrain tid fun t =>
          { t with saveOp := t.saveOp.orElse fun _ => some s.nextId })) := by
  rw [exec_ctxsave, execCtxsave, issue_of_ready h]
  simp only [if_neg (not_misaligned aligned), target]
  rfl

theorem ctxsave_bad (h : ready me (.ctxsave x) s) (aligned : (me.train s).readSN me.sid x.sa.toNat true % 4096 = 0)
    (target : handleTarget s (me.train s).ctx ((me.train s).readS me.sid x.sb.toNat) = none) :
    exec (.ctxsave x) s = .next (faultTrain .badHandle 0 me s) := by
  rw [exec_ctxsave, execCtxsave, issue_of_ready h]
  simp only [if_neg (not_misaligned aligned), target]

section
variable {hd tl ks : List Nat} {s1 s2 : State} {w k : Nat}

/-- What a CTXREST whose image is allowed leaves (R417, R418): the train of the image in slot `k` of its workgroup's core, and the operation
that answers the issuer's register. -/
def restored (me : Me) (r w k : Nat) (ws : List Nat) (s2 : State) : State :=
  let tid := (s2.wg w).core * 32 + k
  let u := restoreTrain tid w s2.nextId ws { s2 with nextId := s2.nextId + 1 }
  let rest : RestOp := { who := me.who u, tok := r, tid := tid }
  ({ u with rests := Tab.put u.rests s2.nextId rest } : State).updTrain me.tid fun t => t.awaitToken r 8

theorem ctxrest_restores (h : ready me (.ctxrest x) s)
    (head : loadQuads me.tid 1 ((me.train s).readSN me.sid x.sa.toNat true) s = .ok (hd, s1)) (format : hd.getD 0 0 = 1)
    (low : 1 ≤ hd.getD 1 0 % 256) (high : hd.getD 1 0 % 256 ≤ 16)
    (tail : loadQuads me.tid (511 + 384 * (hd.getD 1 0 % 256)) ((me.train s).readSN me.sid x.sa.toNat true + 16) s1 = .ok (tl, s2))
    (image : imageOk (hd ++ tl) = true) (wg : imageWg s2 (hd ++ tl) = some w) (slots : freeSlots s2 (s2.wg w).core = k :: ks)
    (granules : hd.getD 1 0 % 256 ≤ granulesFree s2 (s2.wg w).core) (open_ : coreOpen s2 (s2.wg w).core = true) :
    exec (.ctxrest x) s = .next (retire me (restored me x.sb.toNat w k (hd ++ tl) s2)) := by
  have head_ok : (hd.getD 0 0 != 1 || hd.getD 1 0 % 256 == 0 || decide (16 < hd.getD 1 0 % 256)) = false := by
    rw [format, Bool.or_eq_false_iff, Bool.or_eq_false_iff]
    exact ⟨⟨rfl, beq_eq_false_iff_ne.mpr (by omega)⟩, decide_eq_false (by omega)⟩
  have room : (decide (granulesFree s2 (s2.wg w).core < hd.getD 1 0 % 256) || !coreOpen s2 (s2.wg w).core) = false := by
    rw [Bool.or_eq_false_iff, open_]
    exact ⟨decide_eq_false (by omega), rfl⟩
  rw [exec_ctxrest, execCtxrest, issue_of_ready h]
  simp only [head, head_ok, tail, image, wg, slots, room, Bool.false_eq_true, if_false, if_true]
  rfl

end

/-! ### TLBINV and HALTALL -/

theorem tlbinv_adds (h : ready me (.tlbinv x) s) (settled : unsettled s me.tid = false) : exec (.tlbinv x) s =
    .next (retire me (addSysOp (.inv (me.who s) (x.imm.toNat % 4)
      (if x.imm.toNat % 4 = 2 then (me.train s).readSN me.sid x.sa.toNat true % 65536 else (me.train s).ctx)
      ((me.train s).readSN me.sid x.sa.toNat true)) me s).2) := by
  rw [exec_tlbinv, execTlbinv, issueUncounted, issueAsync_ready h settled]
  simp only [beq_iff_eq]

theorem haltall_again (h : ready me (.haltall x) s) (busy : s.dump ≠ none ∨ s.halt.phase ≠ 0) :
    exec (.haltall x) s = .next (retire me s) := by
  have stands : (s.dump.isSome || s.halt.phase != 0) = true := by
    rw [Bool.or_eq_true, Option.isSome_iff_ne_none, bne_iff_ne]
    exact busy
  rw [exec_haltall, execHaltall, issue_of_ready h, if_pos stands]

/-- The state in which HALTALL has opened its dump and sent the broadcast (R420). -/
def haltSent (me : Me) (c base : Nat) (u : State) : State :=
  let v := setDump { who := me.who u, ctx := c, base := base } u
  { holdTick v with halt := { phase := 1, due := entryTick v.cycle + 22, who := some (me.who v), thermal := false } }

theorem haltall_opens {u : State} (h : ready me (.haltall x) s) (no_dump : s.dump = none) (no_halt : s.halt.phase = 0)
    (stored : storeQuads me.tid (quads (dumpHeader (currentEvent s me.tid))) (s.ctx (me.train s).ctx).dumpBase s = .ok u) :
    exec (.haltall x) s = .next (retire me (addSysOp
      (.halt (me.who (haltSent me (me.train s).ctx (s.ctx (me.train s).ctx).dumpBase u))) me
      (haltSent me (me.train s).ctx (s.ctx (me.train s).ctx).dumpBase u)).2) := by
  have idle : (s.dump.isSome || s.halt.phase != 0) = false := by rw [no_dump, no_halt]; rfl
  rw [exec_haltall, execHaltall, issue_of_ready h, if_neg (ne_true_of_eq_false idle)]
  simp only [stored]
  rfl

end

/-- Settles O45: each word by the case of its train, handle or image. -/
theorem systemOperationsComplete : Obligations.SystemOperationsComplete := by
  intro me s x
  refine ⟨fun h settled snapped tokens handles alone => ?eret, fun tid target => ⟨?tresume, ?tkill, fun h => tsnap_names h target⟩,
    ?bad_handle, fun h aligned tid => ctxsave_names h aligned, ctxsave_bad, ?ctxrest, tlbinv_adds, haltall_again,
    fun h no_dump no_halt u stored => haltall_opens h no_dump no_halt stored⟩
  case eret =>
    have may : MayHandle me s := ⟨settled, snapped, tokens, handles, alone⟩
    exact ⟨eret_without_dump h may, fun d u => eret_closes_dump h may⟩
  case tresume => exact fun h => (exec_tresume x s).trans (issueHandle_names h target)
  case tkill => exact fun h => (exec_tkill x s).trans (issueHandle_names h target)
  case bad_handle =>
    intro target
    simp only [List.forall_mem_cons, List.not_mem_nil, false_imp_iff, implies_true, and_true]
    exact ⟨fun h => (exec_tresume x s).trans (issueHandle_bad h target), fun h => (exec_tkill x s).trans (issueHandle_bad h target),
      fun h => (exec_tsnap x s).trans (issueHandle_bad h target)⟩
  case ctxrest =>
    exact fun h hd s1 tl s2 w k ks head format low high tail image wg slots granules open_ =>
      ctxrest_restores h head format low high tail image wg slots granules open_

end Sys2Proof.Proofs

/-! PROOFS. The stores of agents other than trains (spec/17_package_memory_model.md R340, R345): the parts of the state that they leave as
they were, and the bytes they write. -/

namespace Sys2Proof.Proofs

open Sys2Proof.Machine Sys2Proof.Safety

/-- The parts of the state that an agent's access may change: bytes, timestamps, the slices and what pins their lines. -/
structure AccessParts where
  mem : Bytes
  lines : Tab (Nat × Nat)
  l2 : Tab L2Line
  bad : Tab Nat
  mats : Tab MatOp
  ctxs : Tab Ctx
  wgs : Tab Workgroup
  cores : Tab Core

/-- A state with these parts replaced. -/
def withAccess (s : State) (a : AccessParts) : State :=
  { s with mem := a.mem, lines := a.lines, l2 := a.l2, bad := a.bad, mats := a.mats, ctxs := a.ctxs, wgs := a.wgs, cores := a.cores }

/-- No other part differs. -/
def AccessOnly (s u : State) : Prop := ∃ a, u = withAccess s a

section
variable {s t u : State}

theorem accessOnly_of_parts (s : State) (a : AccessParts) : AccessOnly s (withAccess s a) := ⟨a, rfl⟩

theorem AccessOnly.refl (s : State) : AccessOnly s s := ⟨⟨s.mem, s.lines, s.l2, s.bad, s.mats, s.ctxs, s.wgs, s.cores⟩, rfl⟩

theorem AccessOnly.trans (first : AccessOnly s t) (second : AccessOnly t u) : AccessOnly s u := by
  obtain ⟨a, rfl⟩ := first
  obtain ⟨b, rfl⟩ := second
  exact ⟨b, rfl⟩

/-- Any part that an access leaves alone. -/
theorem AccessOnly.part {α : Type} (only : AccessOnly s u) (part : State → α) (apart : ∀ s a, part (withAccess s a) = part s) :
    part u = part s := by
  obtain ⟨a, rfl⟩ := only
  exact apart s a

theorem AccessOnly.trains (only : AccessOnly s u) : u.trains = s.trains := only.part (·.trains) fun _ _ => rfl

theorem accessOnly_evict (s : State) (line : Nat) : AccessOnly s (s.evict line) := ⟨⟨s.mem, s.lines, _, _, _, s.ctxs, s.wgs, s.cores⟩, rfl⟩

theorem accessOnly_placeLine (g : Agent) (line home : Nat) (x : L2Line) (s : State) : AccessOnly s (placeLine g line home x s) := by
  unfold placeLine
  dsimp only
  split
  case isTrue => exact ⟨⟨s.mem, s.lines, _, _, s.mats, _, s.wgs, s.cores⟩, rfl⟩
  case isFalse => exact ⟨⟨s.mem, s.lines, _, _, s.mats, s.ctxs, s.wgs, s.cores⟩, rfl⟩

theorem accessOnly_freeWay {slice cls line : Nat} (freed : freeWay slice cls line s = some u) : AccessOnly s u := by
  unfold freeWay at freed
  dsimp only at freed
  split at freed
  case isTrue =>
    cases freed
    exact .refl s
  case isFalse =>
    obtain ⟨v, -, rfl⟩ := Option.map_eq_some_iff.mp freed
    exact accessOnly_evict s v

theorem accessOnly_allocLine (g : Agent) (line home : Nat) (x : L2Line) (s : State) : AccessOnly s (allocLine g line home x s) := by
  unfold allocLine
  split
  case isTrue => exact .refl s
  case isFalse =>
    split
    case h_1 => exact .refl s
    case h_2 _ freed => exact (accessOnly_freeWay freed).trans (accessOnly_placeLine ..)

theorem accessOnly_touch (g : Agent) (l : Loc) (s : State) : AccessOnly s (touch g l s) := by
  unfold touch
  split
  case h_2 => exact .refl s
  case h_1 =>
    split
    case isTrue => exact .refl s
    case isFalse =>
      unfold touchLine
      dsimp only
      split
      case h_1 => exact accessOnly_allocLine ..
      case h_2 =>
        split
        case isTrue => exact (accessOnly_evict ..).trans (accessOnly_allocLine ..)
        case isFalse => exact ⟨⟨s.mem, s.lines, _, s.bad, s.mats, s.ctxs, s.wgs, s.cores⟩, rfl⟩

theorem accessOnly_writeLoc (l : Loc) (n x : Nat) (s : State) : AccessOnly s (writeLoc l n x s) := by
  cases l with
  | phys => exact ⟨⟨_, s.lines, s.l2, s.bad, s.mats, s.ctxs, s.wgs, s.cores⟩, rfl⟩
  | loc => exact ⟨⟨s.mem, s.lines, s.l2, s.bad, s.mats, s.ctxs, _, s.cores⟩, rfl⟩
  | acc => exact ⟨⟨s.mem, s.lines, s.l2, s.bad, s.mats, s.ctxs, _, s.cores⟩, rfl⟩
  | window => exact ⟨⟨s.mem, s.lines, s.l2, s.bad, s.mats, s.ctxs, s.wgs, _⟩, rfl⟩

theorem accessOnly_updateL1 (core : Nat) (l : Loc) (ts : Nat) (s : State) : AccessOnly s (updateL1 core l ts s) := by
  unfold updateL1
  split
  case h_1 => exact ⟨⟨s.mem, s.lines, s.l2, s.bad, s.mats, s.ctxs, s.wgs, _⟩, rfl⟩
  case h_2 => exact .refl s

theorem accessOnly_agentStore (g : Agent) (pts : Nat) (l : Loc) (n x : Nat) (s : State) :
    AccessOnly s (agentStore g pts l n x s).2 := by
  have stamped : AccessOnly s (stampStore pts (lineKey l) s).2 := ⟨⟨s.mem, _, s.l2, s.bad, s.mats, s.ctxs, s.wgs, s.cores⟩, rfl⟩
  exact stamped.trans ((accessOnly_writeLoc ..).trans ((accessOnly_touch ..).trans (accessOnly_updateL1 ..)))

/-- An agent's store leaves timestamps and copies of lines behind beside its bytes. -/
theorem regsKept_agentStore {p : Nat → Nat → Prop} (g : Agent) (pts : Nat) (l : Loc) (n x : Nat) (s : State) :
    RegsKept False p (writeLoc l n x s) (agentStore g pts l n x s).2 := by
  have stamped : RegsKept False p (writeLoc l n x s) (writeLoc l n x (stampStore pts (lineKey l) s).2) := by
    cases l <;> exact regsKept_of_parts rfl rfl rfl rfl False.elim
  exact stamped.trans ((regsKept_touch ..).trans (regsKept_updateL1 ..))

theorem storesOnly_agentStore (g : Agent) (pts : Nat) (l : Loc) (n x : Nat) (s : State) :
    StoresOnly (fun p => insideLoc l n p = true) s (agentStore g pts l n x s).2 :=
  (storesOnly_writeLoc l n x s).trans (regsKept_agentStore g pts l n x s).storesOnly

theorem readLoc_agentStore (g : Agent) (pts : Nat) (l : Loc) (n x : Nat) (canonical : memoryCanonical s) :
    readLoc (agentStore g pts l n x s).2 l n = x % 256 ^ n :=
  ((regsKept_agentStore (p := fun _ _ => True) g pts l n x s).readLoc_eq l n).trans (readLoc_writeLoc_same canonical)

end

end Sys2Proof.Proofs

/-! PROOFS. The events of handlers, halts, dumps, saves, calls and traces (spec/22_package_faults_traps_dumps.md R406, R411, R413,
R416 to R421; spec/25_package_debug_trace.md R435; spec/26_fabric_host_bringup.md R447, R448). -/

namespace Sys2Proof.Proofs

open Sys2Proof.Machine Sys2Proof.Safety

section
variable {s u : State} {id core slot : Nat}

/-! ### Handlers, saves and invalidations -/

/-- What the delivery of an event leaves (R413). -/
def eventDelivered (id : Nat) (h : Handler) (n c : Nat) (e : Event) (s : State) : State :=
  let u := popEvent c s
  let held : Handler := { h with current := some (c, e), waiting := false }
  ({ u with handlers := Tab.put u.handlers id held } : State).updTrain h.who.tid fun t =>
    ((List.range 4).foldl (fun t k => t.tokenPair (8 + 2 * k) (e.words.getD k 0).toNat) t).updSplit n fun sp =>
      { sp with hold := .free, pc := (u.ctx id).hentry, replay := none, partialEnd := none }

theorem eventDelivery_due {h : Handler} {n c : Nat} {e : Event} (due : deliverable? s id = some (h, n, c, e)) :
    exec (.eventDelivery id) s = .next (eventDelivered id h n c e s) := by
  change execEventDelivery id s = _
  rw [execEventDelivery, due]
  rfl

theorem truncatedDumpClose_nested {d : Dump} {j : DWord} {r : FaultRec} (dump : s.dump = some d) (nested : d.nested = some (j, r))
    (own : d.ctx = id) : exec (.truncatedDumpClose id) s = .next (closeTruncated d j r s) := by
  change execTruncatedDumpClose id s = _
  simp only [execTruncatedDumpClose, dump, nested, own, beq_self_eq_true, if_true]

theorem contextSaveEffect_ready {op addr pc : Nat} {who target : Who} (standing : (s.train (core * 32 + slot % 32)).saveOp = some op)
    (found : Tab.find s.sysOps op = some (.save who target addr pc))
    (due : saveReady (withdrawOffers (core * 32 + slot % 32) s) (core * 32 + slot % 32) = true) :
    exec (.contextSaveEffect core slot) s =
      .next (saveTrain op who target addr pc (withdrawOffers (core * 32 + slot % 32) s)) := by
  change execContextSaveEffect core slot s = _
  simp only [execContextSaveEffect, standing, found, due, if_true]

theorem ctxrestLoadComplete_found {r : RestOp} (found : Tab.find s.rests id = some r) :
    let u := ({ s with rests := Tab.del s.rests id } : State).updTrain r.tid fun t =>
      { t with state := if t.anyParked then .parked else .resident, restOp := none }
    exec (.ctxrestLoadComplete id) s = .next (u.deliver r.who r.tok (u.handle r.tid) 0) := by
  intro u
  change execCtxrestLoadComplete id s = _
  rw [execCtxrestLoadComplete, found]

theorem tlbInvalidationComplete_due {who : Who} {scope ctx a : Nat} (found : Tab.find s.sysOps id = some (.inv who scope ctx a))
    (no_walk : ∀ w ∈ s.walks, id ≤ w.1) :
    exec (.tlbInvalidationComplete id) s = .next (invalidate scope ctx a { s with sysOps := Tab.del s.sysOps id }) := by
  have none_before : (s.walks.any fun w => decide (w.1 < id)) = false := by simpa using no_walk
  change execTlbInvalidationComplete id s = _
  rw [execTlbInvalidationComplete, found]
  simp only [none_before, Bool.false_eq_true, if_false]

/-! ### The halt -/

theorem haltBroadcastArrival_due (sent : s.halt.phase = 1) (due : s.halt.due ≤ s.tick) :
    exec .haltBroadcastArrival s = .next { s with halt := { s.halt with phase := 2 } } := by
  change execHaltBroadcastArrival s = _
  simp only [execHaltBroadcastArrival, sent, due, beq_self_eq_true, decide_true, Bool.and_self, if_true]

theorem haltRelease_halted (halted : s.halted = true) : exec (.haltRelease 0) s =
    .next { s with halt := {}, ctxs := s.ctxs.map fun x => (x.1, { x.2 with trFull := true }) } := by
  change execHaltRelease 0 s = _
  simp only [execHaltRelease, releaseHalt, halted, beq_self_eq_true, if_true]

/-- The state in which HALTED is 1. -/
def haltedState (s : State) : State := { s with halt := { s.halt with phase := 3 } }

/-- The operations of HALTALL end, and after a thermal halt the module is off (R420, R452). -/
def endHalt (u : State) : State :=
  let v : State := { u with sysOps := u.sysOps.filter fun (_, o) => match o with
    | .halt _ => false
    | _ => true }
  if v.halt.thermal then { v with boot := { v.boot with off := true } } else v

theorem haltComplete_done (done : haltDone s = true) :
    exec .haltComplete s = .next (endHalt (writeHaltTick (haltedState s))) := by
  change execHaltComplete s = _
  rw [execHaltComplete, if_pos done]
  rfl

theorem accessOnly_writeHaltTick (s : State) : AccessOnly s (writeHaltTick s) := by
  unfold writeHaltTick
  split
  case h_1 => exact .refl s
  case h_2 =>
    dsimp only
    split
    case h_1 => exact accessOnly_agentStore ..
    case h_2 => exact .refl s

/-- The end of the halt changes no byte. -/
theorem regsKept_endHalt (u : State) : RegsKept True (fun _ _ => False) u (endHalt u) := by
  unfold endHalt
  dsimp only
  split <;> exact regsKept_of_parts rfl rfl rfl rfl fun _ => rfl

theorem endHalt_parts (u : State) : (endHalt u).halt = u.halt ∧ (endHalt u).trains = u.trains ∧
    (endHalt u).boot.off = (u.boot.off || u.halt.thermal) := by
  unfold endHalt
  dsimp only
  split
  case isTrue thermal => exact ⟨rfl, rfl, by rw [thermal, Bool.or_true]⟩
  case isFalse cool => exact ⟨rfl, rfl, by rw [eq_false_of_ne_true cool, Bool.or_false]⟩

theorem writeHaltTick_without_dump (no_dump : s.dump = none) : writeHaltTick s = s := by
  rw [writeHaltTick, no_dump]

/-- The tick stands in the header of the open dump, and no other byte differs (Table 22.8). -/
theorem writeHaltTick_writes {d : Dump} {l : Loc} (dump : s.dump = some d) (canonical : memoryCanonical s)
    (passes : checkStore s (checkGlobal s d.agent .write false (d.base + 16) 8) = .ok l) :
    readLoc (writeHaltTick (haltedState s)) l 8 = s.tick % 2 ^ 64 ∧
      ∀ p, insideLoc l 8 p = false → readLoc (writeHaltTick (haltedState s)) p 1 = readLoc s p 1 := by
  have halted_passes : checkStore (haltedState s) (checkGlobal (haltedState s) d.agent .write false (d.base + 16) 8) = .ok l := passes
  have dump' : (haltedState s).dump = some d := dump
  have writes : writeHaltTick (haltedState s) =
      (agentStore d.agent 0 l 8 ((haltedState s).tick % 2 ^ 64) (haltedState s)).2 := by
    simp only [writeHaltTick, dump', halted_passes]
  have canonical' : memoryCanonical (haltedState s) := canonical
  rw [writes]
  refine ⟨?_, fun p outside => ?_⟩
  · rw [readLoc_agentStore d.agent 0 l 8 _ canonical', show 256 ^ 8 = 2 ^ 64 by norm_num, Nat.mod_mod]
    rfl
  · exact (storesOnly_agentStore d.agent 0 l 8 _ (haltedState s)).bytes canonical' p (ne_true_of_eq_false outside)

theorem haltComplete_effect (done : haltDone s = true) :
    ∃ u, exec .haltComplete s = .next u ∧ u.halted = true ∧ u.trains = s.trains ∧
      u.boot.off = (s.boot.off || s.halt.thermal) ∧ (s.dump = none → u.mem = s.mem) ∧
      ∀ d l, s.dump = some d → memoryCanonical s → checkStore s (checkGlobal s d.agent .write false (d.base + 16) 8) = .ok l →
        readLoc u l 8 = s.tick % 2 ^ 64 ∧ ∀ p, insideLoc l 8 p = false → readLoc u p 1 = readLoc s p 1 := by
  have only := accessOnly_writeHaltTick (haltedState s)
  obtain ⟨halt, trains, off⟩ := endHalt_parts (writeHaltTick (haltedState s))
  have halt_stands : (writeHaltTick (haltedState s)).halt = (haltedState s).halt := only.part (·.halt) fun _ _ => rfl
  have boot_stands : (writeHaltTick (haltedState s)).boot = s.boot := only.part (·.boot) fun _ _ => rfl
  have kept := regsKept_endHalt (writeHaltTick (haltedState s))
  refine ⟨_, haltComplete_done done, ?halted, trains.trans only.trains, ?off, fun no_dump => ?mem,
    fun d l dump canonical passes => ?bytes⟩
  case halted => rw [State.halted, halt, halt_stands]; rfl
  case off => rw [off, halt_stands, boot_stands]; rfl
  case mem =>
    rw [kept.mem, writeHaltTick_without_dump (s := haltedState s) no_dump]
    rfl
  case bytes =>
    obtain ⟨written, others⟩ := writeHaltTick_writes dump canonical passes
    exact ⟨(kept.readLoc_eq l 8).trans written, fun p outside => (kept.readLoc_eq p 1).trans (others p outside)⟩

/-! ### Calls -/

theorem syscallReply_plain {x : SysCall} {v : BitVec 64} (found : Tab.find s.syscalls id = some x) (plain : x.fabric = false) :
    exec (.syscallReply id v) s = .next (replyCall id x v s) := by
  change execSyscallReply id v s = _
  rw [execSyscallReply, found]
  simp only [plain, Bool.false_eq_true, if_false]

section
variable {x : SysCall} {code : Nat} {body : SysCall → State → SysCall × State} (found : Tab.find s.syscalls id = some x)
  (fresh : x.moved = false) (legal : x.operandsOk = true) (named : x.code = code)
include found fresh legal named

/-- A call whose module has no route fails (R447). -/
theorem fabricCall_without_route (no_route : s.routes.contains x.remote = false) : fabricCall id code s body =
    .next { s with syscalls := Tab.put s.syscalls id { x with failed := some 0x05, moved := true } } := by
  have due : (x.code != code || x.moved) = false := by rw [named, fresh, bne_self_eq_false]; rfl
  simp only [fabricCall, found, due, legal, no_route, Bool.not_true, Bool.not_false, Bool.false_eq_true, if_false, if_true]
  rfl

/-- A call whose module has a route does its own part. -/
theorem fabricCall_with_route (route : s.routes.contains x.remote = true) : fabricCall id code s body =
    .next { (body x s).2 with syscalls := Tab.put (body x s).2.syscalls id { (body x s).1 with moved := true } } := by
  have due : (x.code != code || x.moved) = false := by rw [named, fresh, bne_self_eq_false]; rfl
  simp only [fabricCall, found, due, legal, route, Bool.not_true, Bool.false_eq_true, if_false]

end

theorem exec_fput (id : Nat) (s : State) : exec (.fput id) s = execFput id s := rfl
theorem exec_fget (id : Nat) (bytes : List (BitVec 8)) (s : State) : exec (.fget id bytes) s = execFget id bytes s := rfl
theorem exec_fatom (id : Nat) (s : State) : exec (.fatom id) s = execFatom id s := rfl

/-- The status that a fabric call answers (R448). -/
theorem fabricResult_eq (x : SysCall) (st : Word) : x.fabricResult st = x.failed.elim st fun k =>
    if x.code = 0xF000 ∧ x.bytes ≠ [] ∧ st ≠ 0 then st else BitVec.ofNat 32 (1 + 256 * k) := by
  unfold SysCall.fabricResult
  cases x.failed with
  | none => rfl
  | some k =>
    have early : (x.code == 0xF000 && !x.bytes.isEmpty && st != 0) = true ↔ x.code = 0xF000 ∧ x.bytes ≠ [] ∧ st ≠ 0 := by
      rw [Bool.and_eq_true, Bool.and_eq_true, beq_iff_eq, Bool.not_eq_true', List.isEmpty_eq_false_iff, bne_iff_ne, and_assoc]
    exact if_congr early rfl rfl

theorem fabricReply_untraced {x : SysCall} {v st : BitVec 32} (found : Tab.find s.syscalls id = some x) (fabric : x.fabric = true)
    (moved : x.moved = true) :
    let u := replyCall id x (x.fabricResult st ++ if x.code == 0xF002 && x.failed.isNone then v else 0) s
    (u.ctx x.ctx).tracing = false → exec (.fabricReply id v st) s = .next u := by
  intro u no_session
  change execFabricReply id v st s = _
  rw [execFabricReply, found]
  simp only [fabric, moved, Bool.not_true, Bool.or_self, Bool.false_eq_true, if_false]
  exact if_neg (by rw [no_session]; exact Bool.false_ne_true)

theorem fabricInboundRequest_answers {addr : BitVec 64} {req : FabricReq} {v st : Nat}
    (served : inbound (fabricAgent s id) addr.toNat req.op (hearMessage id req.lam s) = (v, st, u)) :
    exec (.fabricInboundRequest id addr req) s = .next { u with fabricOut := u.fabricOut ++ [(v, st, (u.ctx id).trM)] } := by
  change execFabricInboundRequest id addr req s = _
  rw [execFabricInboundRequest, served]

/-! ### Traces -/

section
variable {r : TraceRec} {rest : List TraceRec} (queue : (s.ctx id).trQueue = r :: rest)
include queue

/-- The state in which the oldest record has left its queue. -/
def recordGone (id : Nat) (rest : List TraceRec) (s : State) : State := s.updCtx id fun c => { c with trQueue := rest }

theorem traceRecordAppend_off (off : (s.ctx id).tracing = false) :
    exec (.traceRecordAppend id) s = .next (recordGone id rest s) := by
  change execTraceRecordAppend id s = _
  simp only [execTraceRecordAppend, traceAppend, queue, off, Bool.not_false, if_true]
  rfl

theorem traceRecordAppend_fits (on : (s.ctx id).tracing = true)
    (fits : (s.ctx id).trPos + (traceBytes (s.ctx id) r s.cycle).length ≤ (s.ctx id).trLen)
    (writable : firstUnwritable (recordGone id rest s) (traceAgent (recordGone id rest s) id)
      (traceBytes (s.ctx id) r s.cycle).length ((s.ctx id).trBase + (s.ctx id).trPos) = none) :
    exec (.traceRecordAppend id) s = .next ((agentBytes (traceAgent (recordGone id rest s) id) (traceBytes (s.ctx id) r s.cycle)
      ((s.ctx id).trBase + (s.ctx id).trPos) (recordGone id rest s)).updCtx id fun c =>
        { c with trPos := c.trPos + (traceBytes (s.ctx id) r s.cycle).length, trPrev := s.cycle, trFull := false }) := by
  change execTraceRecordAppend id s = _
  simp only [execTraceRecordAppend, traceAppend, queue, on, Bool.not_true, Bool.false_eq_true, if_false]
  refine congrArg _ ((if_neg (Nat.not_lt.mpr fits)).trans ?_)
  split
  case h_1 unwritable => exact absurd (writable.symm.trans unwritable) nofun
  case h_2 => rfl

end

end

/-- Settles O49: each event by the case in which it is due. -/
theorem handlerEventsComplete : Obligations.HandlerEventsComplete := by
  intro s id core slot
  refine ⟨fun _ _ _ _ => eventDelivery_due, fun _ _ _ => truncatedDumpClose_nested, haltBroadcastArrival_due, haltComplete_effect,
    haltRelease_halted, fun _ _ _ _ _ => contextSaveEffect_ready, fun _ => ctxrestLoadComplete_found,
    fun _ _ _ _ => tlbInvalidationComplete_due, fun _ _ => syscallReply_plain, fun x found fresh legal => ⟨?no_route, fun route => ?route⟩,
    fun x v st found fabric moved => ?reply, fun _ _ _ _ _ => fabricInboundRequest_answers, fun _ _ => traceRecordAppend_off,
    fun _ _ queue on => traceRecordAppend_fits queue on⟩
  case no_route =>
    intro no_route i code call named
    simp only [List.mem_cons, Prod.mk.injEq, List.not_mem_nil, or_false] at call
    rcases call with ⟨rfl, rfl⟩ | ⟨rfl, rfl⟩ | ⟨rfl, rfl⟩
    · exact (exec_fput id s).trans (fabricCall_without_route (x := x) found fresh legal named no_route)
    · exact (exec_fget id [] s).trans (fabricCall_without_route (x := x) found fresh legal named no_route)
    · exact (exec_fatom id s).trans (fabricCall_without_route (x := x) found fresh legal named no_route)
  case route =>
    refine ⟨fun named bs ts k u read => ?_, fun named bytes ts k u written => ?_, fun named => ?_⟩
    · rw [exec_fput, execFput, fabricCall_with_route found fresh legal named route, read]
    · rw [exec_fget, execFget, fabricCall_with_route found fresh legal named route, written]
    · exact (exec_fatom id s).trans (fabricCall_with_route found fresh legal named route)
  case reply =>
    dsimp only
    rw [← fabricResult_eq x st]
    exact fabricReply_untraced found fabric moved

end Sys2Proof.Proofs

/-! PROOFS. The queue processor and its packets (spec/21_package_queues_launch_preemption.md R379 to R395, R401;
spec/26_fabric_host_bringup.md R444). -/

namespace Sys2Proof.Proofs

open Sys2Proof.Machine Sys2Proof.Safety

section
variable {s u v : State} {q id n op : Nat} {p : Packet}

/-! ### A step of the queue processor -/

theorem queueProcessorStep_idle (idle : servedLanes s = []) : exec .queueProcessorStep s = .next { s with serving := [] } := by
  change execQueueProcessorStep s = _
  rw [execQueueProcessorStep, idle]
  rfl

section
variable {o : Offer} (lane : servedLanes s = [q]) (offer : laneOffer s q = some o)
include lane offer

/-- A step that serves one lane starts its item. -/
theorem queueProcessorStep_one : exec .queueProcessorStep s = .next (startItem q o { s with serving := [] }) := by
  change execQueueProcessorStep s = _
  simp only [execQueueProcessorStep, lane, List.foldl_cons, List.foldl_nil, offer]

theorem queueProcessorStep_event (taken : takeItem q o { s with serving := [] } = (n, none, u)) {e : Instr}
    (event : packetEvent o.op q = some e) :
    exec .queueProcessorStep s = .next (State.later { u with serving := u.serving ++ [(q, n)] } e) := by
  rw [queueProcessorStep_one lane offer, startItem, taken]
  simp only [event]

theorem queueProcessorStep_wait (taken : takeItem q o { s with serving := [] } = (n, none, u)) (wait : o.op = 5)
    (form : (u.packet n).formOk = true) : exec .queueProcessorStep s = .next (startWait n (u.packet n) u) := by
  have no_event : packetEvent 5 q = none := rfl
  rw [queueProcessorStep_one lane offer, startItem, taken]
  simp only [no_event, wait, form, beq_self_eq_true, Bool.and_self, if_true]

theorem queueProcessorStep_refused (taken : takeItem q o { s with serving := [] } = (n, none, u))
    (no_event : packetEvent o.op q = none) (no_wait : o.op ≠ 5 ∨ (u.packet n).formOk = false) :
    exec .queueProcessorStep s = .next (failPacket n (.badPacket, 0) u) := by
  have refused : (o.op == 5 && (u.packet n).formOk) = false := by
    rw [Bool.and_eq_false_iff, beq_eq_false_iff_ne]
    exact no_wait
  rw [queueProcessorStep_one lane offer, startItem, taken]
  simp only [no_event, refused, Bool.false_eq_true, if_false]

theorem queueProcessorStep_unreached {k : Kind} (taken : takeItem q o { s with serving := [] } = (n, some k, u)) :
    exec .queueProcessorStep s = .next (failPacket n (.address, k.code) u) := by
  rw [queueProcessorStep_one lane offer, startItem, taken]

end

/-! ### The started packet of a lane -/

/-- Packet `id` of opcode `op` is the started item of a lane; `u` is the state once the lane serves it. -/
def Starts (s : State) (q op id : Nat) (p : Packet) (u : State) : Prop :=
  s.serving.find? (fun x => x.1 == q) = some (q, id) ∧ Tab.find s.packets id = some p ∧ p.op = op ∧
    u = { s with serving := s.serving.erase (q, id) }

theorem serve_starts {body : Nat → Packet → State → State} (starts : Starts s q op id p u) :
    serve q op s body = .next (if p.formOk then body id p u else failPacket id (.badPacket, 0) u) := by
  obtain ⟨serving, found, opcode, rfl⟩ := starts
  simp only [serve, serving, found, opcode, bne_self_eq_false, Bool.false_eq_true, if_false]

theorem serve_refuses {body : Nat → Packet → State → State} (starts : Starts s q op id p u) (form : p.formOk = false) :
    serve q op s body = .next (failPacket id (.badPacket, 0) u) := by
  rw [serve_starts starts, if_neg (ne_true_of_eq_false form)]

theorem serve_works {body : Nat → Packet → State → State} (starts : Starts s q op id p u) (form : p.formOk = true) :
    serve q op s body = .next (body id p u) := by
  rw [serve_starts starts, if_pos form]

theorem exec_tdecPacket (q : Nat) (s : State) : exec (.tdecPacket q) s = execTdecPacket q s := rfl
theorem exec_signalPacket (q : Nat) (s : State) : exec (.signalPacket q) s = execSignalPacket q s := rfl
theorem exec_copyPacket (q : Nat) (s : State) : exec (.copyPacket q) s = execCopyPacket q s := rfl
theorem exec_taskPacket (q : Nat) (s : State) : exec (.taskPacket q) s = execTaskPacket q s := rfl
theorem exec_handoverPacket (q : Nat) (s : State) : exec (.handoverPacket q) s = execHandoverPacket q s := rfl
theorem exec_preemptPoint (q : Nat) (s : State) : exec (.preemptPoint q) s = execPreemptPoint q s := rfl
theorem exec_launchPacket (q : Nat) (s : State) : exec (.launchPacket q) s = execLaunchPacket q s := rfl
theorem exec_launchIndirect (q : Nat) (s : State) : exec (.launchIndirect q) s = execLaunchIndirect q s := rfl

/-- A packet whose form is not that of Table 21.1 fails with BAD-PACKET, whatever its opcode (R380). -/
theorem packet_badForm {i : Instr} (work : (i, op) ∈ [(Instr.tdecPacket q, 3), (Instr.signalPacket q, 4), (Instr.copyPacket q, 6),
      (Instr.taskPacket q, 7), (Instr.handoverPacket q, 2), (Instr.preemptPoint q, 1), (Instr.launchPacket q, 9),
      (Instr.launchIndirect q, 8)]) (starts : Starts s q op id p u) (form : p.formOk = false) :
    exec i s = .next (failPacket id (.badPacket, 0) u) := by
  simp only [List.mem_cons, Prod.mk.injEq, List.not_mem_nil, or_false] at work
  rcases work with ⟨rfl, rfl⟩ | ⟨rfl, rfl⟩ | ⟨rfl, rfl⟩ | ⟨rfl, rfl⟩ | ⟨rfl, rfl⟩ | ⟨rfl, rfl⟩ | ⟨rfl, rfl⟩ | ⟨rfl, rfl⟩
  · exact (exec_tdecPacket q s).trans (serve_refuses starts form)
  · exact (exec_signalPacket q s).trans (serve_refuses starts form)
  · exact (exec_copyPacket q s).trans (serve_refuses starts form)
  · exact (exec_taskPacket q s).trans (serve_refuses starts form)
  · exact (exec_handoverPacket q s).trans (serve_refuses starts form)
  · exact (exec_preemptPoint q s).trans (serve_refuses starts form)
  · exact (exec_launchPacket q s).trans (serve_refuses starts form)
  · exact (exec_launchIndirect q s).trans (serve_refuses starts form)

/-! ### The packets of Table 21.2 -/

section
variable (form : p.formOk = true)
include form

theorem tdecPacket_decrements (starts : Starts s q 3 n p u) (low : 1 ≤ p.u 16 4) (high : p.u 16 4 ≤ 65535)
    (zero : p.zero 20 56 = true) (dec : queueDec p.ctx (p.u 8 8) (p.u 16 4) q u.qpTs (packetLam u p) u = .ok v) :
    exec (.tdecPacket q) s = .next (completePacket n v) := by
  have within : inLimits 1 (p.u 16 4) 65535 = true := by
    rw [inLimits, Bool.and_eq_true, decide_eq_true_eq, decide_eq_true_eq]
    exact ⟨low, high⟩
  rw [exec_tdecPacket, execTdecPacket, serve_works starts form]
  simp only [within, zero, Bool.not_true, Bool.or_self, Bool.false_eq_true, if_false, dec]

theorem signalPacket_stores (starts : Starts s q 4 n p u) (aligned : p.u 8 8 % 8 = 0) (nobody : p.u 24 1 = 0)
    (zero : p.zero 25 28 = true) (zero' : p.zero 32 56 = true) {l : Loc}
    (passes : checkStore u (checkGlobal u (queueAgent u p.ctx) .write false (p.u 8 8) 8) = .ok l) :
    exec (.signalPacket q) s = .next (completePacket n ((agentStore (queueAgent u p.ctx) u.qpTs l 8 (p.u 16 8) u).2.seen
      (agentStore (queueAgent u p.ctx) u.qpTs l 8 (p.u 16 8) u).1)) := by
  have legal : (p.u 8 8 % 8 != 0 || decide (3 < 0) || !p.zero 25 28 || !p.zero 32 56) = false := by
    rw [aligned, zero, zero']
    rfl
  rw [exec_signalPacket, execSignalPacket, serve_works starts form]
  simp only [legal, Bool.false_eq_true, if_false, passes, nobody, beq_self_eq_true, if_true]

/-- The operation of a COPY packet (R383). -/
def packetCopy (q n : Nat) (p : Packet) (d : CopyDesc) (v : State) : CopyOp :=
  { who := {}, joined := queueName v q, ctx := p.ctx, core := packetCore v, priv := (v.ctx p.ctx).priv, wg := 0, kind := 5, op := 0,
    tok := 0, arr := none, desc := d, dests := [0], skipped := 0, pos := 0, ts := v.qpTs, lam := p.lam, seen := [], packet := n }

theorem copyPacket_starts (starts : Starts s q 6 n p u) (zero : p.zero 16 56 = true) {ws : List Nat}
    (read : readItems (queueAgent u p.ctx) 8 16 (p.u 8 8) u = .ok (ws, v))
    (legal : descOk 5 0 (readDesc (Bytes.writeLE [] 0 128 (packElems 64 ws)) 0) = true)
    (some_bytes : (readDesc (Bytes.writeLE [] 0 128 (packElems 64 ws)) 0).total ≠ 0) :
    exec (.copyPacket q) s = .next { v with
      nextId := v.nextId + 1
      copyOps := Tab.put v.copyOps v.nextId (packetCopy q n p (readDesc (Bytes.writeLE [] 0 128 (packElems 64 ws)) 0) v) } := by
  have not_empty := beq_eq_false_iff_ne.mpr some_bytes
  rw [exec_copyPacket, execCopyPacket, serve_works starts form]
  simp only [zero, Bool.not_true, Bool.false_eq_true, if_false, read, legal, not_empty]
  rfl

theorem taskPacket_writes (starts : Starts s q 7 n p u) (aligned : p.u 8 8 % 64 = 0) (queue : p.u 20 1 ≤ 31)
    (zero : p.zero 21 56 = true) (counted : p.u 16 4 ≠ 0) {l : Loc}
    (passes : checkStore u (checkGlobal u (queueAgent u p.ctx) .write false (p.u 8 8) 64) = .ok l) :
    exec (.taskPacket q) s = .next (completePacket n (carryLam l (packetLam u p)
      (writeTask (queueAgent u p.ctx) l (p.u 16 4) (p.u 20 1) u))) := by
  have legal : (p.u 8 8 % 64 != 0 || decide (31 < p.u 20 1) || !p.zero 21 56) = false := by
    rw [aligned, decide_eq_false (Nat.not_lt.mpr queue), zero]
    rfl
  rw [exec_taskPacket, execTaskPacket, serve_works starts form]
  simp only [legal, Bool.false_eq_true, if_false, passes, beq_eq_false_iff_ne.mpr counted]

theorem handoverPacket_hands (starts : Starts s q 2 n p u) (base : p.u 8 8 % 2 ^ 16 = 0) (len : p.u 16 8 % 2 ^ 16 = 0)
    (short : p.u 16 8 ≤ 2 ^ 40) (cls : p.u 24 1 ≤ 3) (role : p.u 25 1 ≤ 31) (zero : p.zero 26 32 = true) (zero' : p.zero 40 56 = true)
    {fs : List Nat} (frames : rangeFrames u p.ctx (p.u 16 8 / 2 ^ 16) (p.u 8 8) = .ok fs)
    (dec : queueDec p.ctx (p.u 32 8) 1 q (setClass fs (p.u 24 1) u).qpTs (packetLam (setClass fs (p.u 24 1) u) p)
      (setClass fs (p.u 24 1) u) = .ok v) : exec (.handoverPacket q) s = .next (completePacket n v) := by
  have legal : (p.u 8 8 % 2 ^ 16 != 0 || p.u 16 8 % 2 ^ 16 != 0 || decide (2 ^ 40 < p.u 16 8) || decide (3 < p.u 24 1)
      || decide (31 < p.u 25 1) || !p.zero 26 32 || !p.zero 40 56) = false := by
    rw [base, len, decide_eq_false (Nat.not_lt.mpr short), decide_eq_false (Nat.not_lt.mpr cls),
      decide_eq_false (Nat.not_lt.mpr role), zero, zero']
    rfl
  rw [exec_handoverPacket, execHandoverPacket, serve_works starts form]
  simp only [legal, Bool.false_eq_true, if_false, frames, dec]

theorem preemptPoint_alone (starts : Starts s q 1 n p u) (zero : p.zero 8 56 = true) (alone : ∀ x ∈ queuePackets u q, x.1 = n) :
    exec (.preemptPoint q) s = .next (completePacket n u) := by
  have first : ((queuePackets u q).all fun x => x.1 == n) = true := by simpa using alone
  rw [exec_preemptPoint, execPreemptPoint, serve_works starts form]
  simp only [zero, Bool.not_true, Bool.false_eq_true, if_false, first, if_true]

theorem launchPacket_launches (starts : Starts s q 9 n p u) (zero : p.zero 48 56 = true) :
    exec (.launchPacket q) s = .next (startLaunch n p u) := by
  rw [exec_launchPacket, execLaunchPacket, serve_works starts form, if_pos zero]

theorem launchIndirect_runs (starts : Starts s q 8 n p u) (aligned : p.u 48 8 % 8 = 0) {h : Nat}
    (read : readHeader (queueAgent u p.ctx) (p.u 8 8) u = .ok (h, v)) : exec (.launchIndirect q) s =
      .next (prologueRun n { p with header := some h } (v.updPacket n fun p => { p with header := some h })) := by
  rw [exec_launchIndirect, execLaunchIndirect, serve_works starts form]
  simp only [aligned, bne_self_eq_false, Bool.false_eq_true, if_false, read]

end

/-! ### Packets under way -/

section
variable (found : Tab.find s.packets id = some p)
include found

theorem waitMemory_holds {ws : List Nat} (wait : p.op = 5) (read : readItems (queueAgent s p.ctx) 4 1 (p.u 8 8) s = .ok (ws, u))
    (holds : p.condition (ws.headD 0) = true) : exec (.waitMemory id) s = .next (completePacket id u) := by
  change execWaitMemory id s = _
  simp only [execWaitMemory, found, wait, bne_self_eq_false, Bool.false_eq_true, if_false, read, holds, if_true]

theorem waitMemoryTimeout_over (wait : p.op = 5) (limited : p.u 28 4 ≠ 0) (passed : p.since + 1024 * p.u 28 4 ≤ s.timer) :
    exec (.waitMemoryTimeout id) s = .next (failPacket id (.waitTimeout, 0) s) := by
  have is_over : waitOver s p = true := by
    rw [waitOver, Bool.and_eq_true, Bool.and_eq_true, beq_iff_eq, bne_iff_ne, decide_eq_true_eq]
    exact ⟨⟨wait, limited⟩, passed⟩
  change execWaitMemoryTimeout id s = _
  simp only [execWaitMemoryTimeout, found, is_over, if_true]

theorem packetBindingsFit_fits {lid : Nat} (waits : p.started = false) (launch : p.launch = some lid)
    (fit : bindingsFit s (s.launch lid) = true) : exec (.packetBindingsFit id) s =
      .next (bindLaunch lid (s.launch lid) (s.updPacket id fun p => { p with started := true })) := by
  change execPacketBindingsFit id s = _
  simp only [execPacketBindingsFit, found, waits, Bool.false_eq_true, if_false, launch, fit, if_true]

theorem prologueRerun_due (prologue : p.prologue = true) (runs : p.finished = false) :
    exec (.prologueRerun id) s = .next (prologueRun id p s) := by
  change execPrologueRerun id s = _
  simp only [execPrologueRerun, found, prologue, runs, Bool.not_false, Bool.and_self, if_true]

theorem prologueWatchdog_due (prologue : p.prologue = true) (passed : p.finished = true) :
    exec (.prologueWatchdog id) s = .next (failPacket id (.prologueWatchdog, 0) s) := by
  change execPrologueWatchdog id s = _
  simp only [execPrologueWatchdog, found, prologue, passed, Bool.and_self, if_true]

theorem packetCompletion_done (done : packetDone s id p = true) (no_launch : p.launch = none) (runs : p.stopped = none) :
    exec (.packetCompletion id) s = .next (completePacket id s) := by
  change execPacketCompletion id s = _
  simp only [execPacketCompletion, found, done, Bool.not_true, Bool.false_eq_true, if_false, no_launch, runs]

theorem packetCompletion_launch {lid : Nat} (done : packetDone s id p = true) (launch : p.launch = some lid) (last : p.again = false) :
    exec (.packetCompletion id) s = .next (completePacket id
      ((endLaunch lid (if (completion id s).isOk then launchRecord lid 4 s else s)).updPacket id fun p => { p with launch := none })) := by
  change execPacketCompletion id s = _
  simp only [execPacketCompletion, found, done, Bool.not_true, Bool.false_eq_true, if_false, launch, last, Bool.false_or]

end

/-! ### Doorbells -/

theorem doorbell_enabled (queue : q < 32) (enabled : qEnabled s q = true) : exec (.doorbell q) s =
    .next { s with widx := Tab.put s.widx q (qGet s q 16 4), bells := s.bells.filter fun x => x != q } := by
  change execDoorbell q s = _
  rw [execDoorbell, if_pos queue, ringBell, if_pos enabled]
  rfl

theorem doorbell_remembered (queue : q < 32) (disabled : qEnabled s q = false) (first : q ∉ s.bells) :
    exec (.doorbell q) s = .next { s with bells := s.bells ++ [q] } := by
  change execDoorbell q s = _
  rw [execDoorbell, if_pos queue, ringBell, if_neg (ne_true_of_eq_false disabled), if_neg (mt List.contains_iff_mem.mp first)]

theorem queueEnable_enables {ridx : Option (BitVec 32)} (queue : q < 32) :
    exec (.queueEnable q ridx) s = .next (enableQueue q (ridx.map (·.toNat)) s) := by
  change execQueueEnable q ridx s = _
  rw [execQueueEnable, if_pos queue]

end

/-- Settles O50: the step, each packet, and each event of a packet or a doorbell by the case in which it is due. -/
theorem queueEventsComplete : Obligations.QueueEventsComplete := by
  intro s q id
  refine ⟨queueProcessorStep_idle, fun o n u lane offer taken => ⟨fun e => queueProcessorStep_event lane offer taken,
      queueProcessorStep_wait lane offer taken, queueProcessorStep_refused lane offer taken⟩,
    fun o n k u lane offer => queueProcessorStep_unreached lane offer, fun i op work n p u => packet_badForm work,
    fun n p u form => ⟨fun starts low high zero v => tdecPacket_decrements form starts low high zero,
      fun starts aligned nobody zero zero' l => signalPacket_stores form starts aligned nobody zero zero', fun starts zero ws v => ?copy,
      fun starts aligned queue zero counted l => taskPacket_writes form starts aligned queue zero counted,
      fun starts base len short cls role zero zero' fs v => handoverPacket_hands form starts base len short cls role zero zero',
      preemptPoint_alone form, launchPacket_launches form, fun starts aligned h v => launchIndirect_runs form starts aligned⟩,
    fun p found => ⟨fun ws u => waitMemory_holds found, waitMemoryTimeout_over found, fun lid => packetBindingsFit_fits found,
      prologueRerun_due found, prologueWatchdog_due found, packetCompletion_done found, fun lid => packetCompletion_launch found⟩,
    doorbell_enabled, doorbell_remembered, fun ridx queue _ => queueEnable_enables queue⟩
  case copy =>
    intro read d legal some_bytes x
    have put : Tab.find (Tab.put v.copyOps v.nextId (packetCopy q n p d v)) v.nextId = some (packetCopy q n p d v) :=
      Tab.find_put_same ..
    exact ⟨_, copyPacket_starts form starts zero read legal some_bytes, congrArg (Option.map _) put, congrArg (Option.map _) put,
      congrArg (Option.map _) put, rfl, rfl⟩

end Sys2Proof.Proofs

/-! PROOFS. The events of the host link, boot, attestation, service, retirement and cooling (spec/26_fabric_host_bringup.md R441 to R452;
spec/22_package_faults_traps_dumps.md R422; spec/15_die_escapement_mesh_slices.md R309). -/

namespace Sys2Proof.Proofs

open Sys2Proof.Machine Sys2Proof.Safety

section
variable {s u : State} {n count : Nat} {bs : List Byte}

theorem exec_apertureWrite (byHost : Bool) (off : Nat) (v : BitVec 32) (s : State) :
    exec (.apertureWrite byHost off v) s = .next (writeAperture byHost off v.toNat s) := rfl

theorem exec_hostWrite (a : Nat) (bs : List Byte) (count : Nat) (s : State) :
    exec (.hostCxlMemAccess a (some bs) count) s = .next (hostWrite a bs s) := rfl

theorem exec_hostRead (a count : Nat) (s : State) : exec (.hostCxlMemAccess a none count) s = .next (hostRead a count s) := rfl

/-! ### Writes of the aperture -/

theorem writeAperture_bell (byHost : Bool) (queue : n < 32) (v : Nat) : writeAperture byHost (0x10000 + 8 * n) v s = ringBell n s := by
  have word : ((0x10000 + 8 * n) % 4 != 0) = false := by rw [bne_eq_false_iff_eq]; omega
  have bell : (decide (0x10000 ≤ 0x10000 + 8 * n) && decide (0x10000 + 8 * n < 0x10100)) = true := by
    rw [Bool.and_eq_true, decide_eq_true_eq, decide_eq_true_eq]; omega
  have aligned : ((0x10000 + 8 * n) % 8 == 0) = true := by rw [beq_iff_eq]; omega
  have place : (0x10000 + 8 * n - 0x10000) / 8 = n := by omega
  simp only [writeAperture, word, bell, aligned, place, Bool.false_eq_true, if_false, if_true]

/-! ### The host's accesses to memory -/

theorem hostWrite_memory (booted : 5 ≤ s.boot.step) (short : bs.length ≤ 512) (apart : inAperture n bs.length = false) :
    hostWrite n bs s = if (∀ i < bs.length, hostMay s (n + i) = true) then hostStore bs n s
      else { hostStore bs n s with hostOut := (hostStore bs n s).hostOut ++ [none] } := by
  have every : ((List.range bs.length).all fun i => hostMay s (n + i)) = true ↔ ∀ i < bs.length, hostMay s (n + i) = true := by
    simp only [List.all_eq_true, List.mem_range]
  simp only [hostWrite, if_neg (Nat.not_lt.mpr short), apart, Bool.false_eq_true, if_false, if_neg (Nat.not_lt.mpr booted)]
  exact if_congr every rfl rfl

theorem hostRead_memory {r : Option (List Byte)} (booted : 5 ≤ s.boot.step) (short : count ≤ 4096)
    (apart : inAperture n count = false) (load : hostLoad count n s = (r, u)) :
    hostRead n count s = { u with hostOut := u.hostOut ++ [r] } := by
  simp only [hostRead, if_neg (Nat.not_lt.mpr short), apart, Bool.false_eq_true, if_false, if_neg (Nat.not_lt.mpr booted), load]
  rfl

theorem hostWrite_aperture (short : bs.length ≤ 512) (inside : inAperture n bs.length = true) :
    hostWrite n bs s = hostAperture (n - apertureBase) bs s := by
  rw [hostWrite, if_neg (Nat.not_lt.mpr short), if_pos inside]

theorem hostRead_aperture (short : count ≤ 4096) (inside : inAperture n count = true) :
    hostRead n count s = { s with hostOut := s.hostOut ++ [some (apertureBytes s (n - apertureBase) count)] } := by
  rw [hostRead, if_neg (Nat.not_lt.mpr short), if_pos inside]
  rfl

theorem hostWrite_long (long : 512 < bs.length) : hostWrite n bs s = { s with hostOut := s.hostOut ++ [none] } := if_pos long

theorem hostRead_long (long : 4096 < count) : hostRead n count s = { s with hostOut := s.hostOut ++ [none] } := if_pos long

/-! ### The doorbells and the mailbox of the aperture -/

/-- The bytes of a write at an aperture offset that the mailbox takes, with their offsets (R451). -/
def mailBytes (byHost : Bool) (off : Nat) (bs : List Byte) (s : State) : List (Byte × Nat) :=
  (bs.zipIdx off).filter fun x => decide (0x30000 ≤ x.2) && decide (x.2 < 0x31000) && mailOpen byHost s (x.2 - 0x30000)

theorem writeMailbox_eq (byHost : Bool) (off : Nat) (bs : List Byte) (s : State) : writeMailbox byHost off bs s =
    { s with boot := { s.boot with mailbox :=
      (mailBytes byHost off bs s).foldl (fun m x => m.writeList (x.2 - 0x30000) [x.1]) s.boot.mailbox } } := rfl

theorem writeMailbox_none {byHost : Bool} {off : Nat} (none_taken : mailBytes byHost off bs s = []) :
    writeMailbox byHost off bs s = s := by
  rw [writeMailbox_eq, none_taken]
  rfl

/-- Bytes below the mailbox are none of it. -/
theorem mailBytes_below {byHost : Bool} {off : Nat} (below : off + bs.length ≤ 0x30000) : mailBytes byHost off bs s = [] := by
  refine List.filter_eq_nil_iff.mpr fun x mem => ?_
  have high := List.snd_lt_add_of_mem_zipIdx mem
  rw [decide_eq_false (by omega : ¬ 0x30000 ≤ x.2)]
  exact Bool.false_ne_true

theorem bellsIn_bell : ∀ n < 32, bellsIn (0x10000 + 8 * n) 4 = [n] := by decide +kernel

theorem hostAperture_bell (queue : n < 32) (word : bs.length = 4) : hostAperture (0x10000 + 8 * n) bs s = ringBell n s := by
  rw [hostAperture, word, bellsIn_bell n queue, writeMailbox_none (mailBytes_below (by omega))]
  rfl

theorem hostWrite_bell (queue : n < 32) (word : bs.length = 4) : hostWrite (apertureBase + 0x10000 + 8 * n) bs s = ringBell n s := by
  have inside : inAperture (apertureBase + 0x10000 + 8 * n) bs.length = true := by
    rw [inAperture, Bool.and_eq_true, decide_eq_true_eq, decide_eq_true_eq, apertureSize]
    omega
  have place : apertureBase + 0x10000 + 8 * n - apertureBase = 0x10000 + 8 * n := by omega
  rw [hostWrite_aperture (by omega) inside, place, hostAperture_bell queue word]

/-- Bytes stored one after another are the bytes stored together. -/
theorem foldl_writeBytes (base : Nat) (bs : List Byte) {off : Nat} (above : base ≤ off) (m : Bytes) :
    (bs.zipIdx off).foldl (fun m x => m.writeList (x.2 - base) [x.1]) m = m.writeList (off - base) bs := by
  induction bs generalizing off m with
  | nil => rfl
  | cons b bs ih =>
    rw [List.zipIdx_cons, List.foldl_cons, ih (by omega), Nat.sub_add_comm above]
    rfl

/-- The nonce of the mailbox takes a write of the host unless a request stands (R451). -/
theorem mailBytes_nonce (nonce : bs.length = 32) :
    mailBytes true 0x30010 bs s = if mailState s = 1 then [] else bs.zipIdx 0x30010 := by
  have within {x : Byte × Nat} (mem : x ∈ bs.zipIdx 0x30010) : 0x30010 ≤ x.2 ∧ x.2 < 0x30030 := by
    have low := List.le_snd_of_mem_zipIdx mem
    have high := List.snd_lt_add_of_mem_zipIdx mem
    omega
  split
  case isTrue request =>
    refine List.filter_eq_nil_iff.mpr fun x mem => ?_
    obtain ⟨low, high⟩ := within mem
    have closed : mailOpen true s (x.2 - 0x30000) = false := by
      rw [mailOpen, request, decide_eq_true (by omega : 0x10 ≤ x.2 - 0x30000), decide_eq_true (by omega : x.2 - 0x30000 < 0x30)]
      rfl
    rw [closed, Bool.and_false]
    exact Bool.false_ne_true
  case isFalse no_request =>
    refine List.filter_eq_self.mpr fun x mem => ?_
    obtain ⟨low, high⟩ := within mem
    have opened : mailOpen true s (x.2 - 0x30000) = true := by
      rw [mailOpen, beq_eq_false_iff_ne.mpr no_request, Bool.and_false]
      rfl
    rw [opened, decide_eq_true (by omega : 0x30000 ≤ x.2), decide_eq_true (by omega : x.2 < 0x31000)]
    rfl

theorem hostWrite_nonce (nonce : bs.length = 32) (canonical : Bytes.wf s.boot.mailbox = true) :
    (hostWrite (apertureBase + 0x30010) bs s).boot.mailbox.readList 0x10 32 =
      if mailState s = 1 then s.boot.mailbox.readList 0x10 32 else bs := by
  have inside : inAperture (apertureBase + 0x30010) bs.length = true := by
    rw [nonce]
    decide
  have no_bell : bellsIn 0x30010 32 = [] := by decide +kernel
  have stored : hostWrite (apertureBase + 0x30010) bs s = writeMailbox true 0x30010 bs s := by
    rw [hostWrite_aperture (by omega) inside, Nat.add_sub_cancel_left, hostAperture, nonce, no_bell]
    rfl
  rw [stored, writeMailbox_eq, mailBytes_nonce nonce]
  split
  case isTrue => rfl
  case isFalse =>
    rw [foldl_writeBytes 0x30000 bs (by omega), ← nonce]
    exact Bytes.readList_writeList canonical

/-! ### Attestation -/

theorem writeList_append (m : Bytes) (a : Nat) (l r : List Byte) :
    m.writeList a (l ++ r) = (m.writeList a l).writeList (a + l.length) r := by
  induction l generalizing m a with
  | nil => rfl
  | cons b l ih =>
    rw [List.cons_append, Bytes.writeList, ih, Bytes.writeList, List.length_cons, Nat.add_right_comm, Nat.add_assoc]

/-- The first bytes of a written range read as they were written. -/
theorem readList_writeList_prefix {m : Bytes} (canonical : Bytes.wf m = true) (a : Nat) (l r : List Byte) :
    (m.writeList a (l ++ r)).readList a l.length = l := by
  rw [writeList_append, Bytes.readList_congr (m' := m.writeList a l) fun i inside =>
    Bytes.read_writeList_outside (Bytes.wf_writeList canonical) (.inl (by omega))]
  exact Bytes.readList_writeList canonical

/-- An extension of a measurement register leaves the mailbox. -/
theorem kernelExtends_mailbox (s : State) : (kernelExtends s).boot.mailbox = s.boot.mailbox := by
  unfold kernelExtends
  dsimp only
  split <;> rfl

/-- The mailbox with its quote (R451). -/
theorem answerQuote_mailbox (request : mailState s = 1) (booted : 5 ≤ s.boot.step) : (answerQuote s).boot.mailbox =
    (s.boot.mailbox.writeList 0x100 (quoteBytes s ++ signature s.boot.keyN s.boot.keyD (quoteBytes s))).writeLE 0 4 2 := by
  rw [answerQuote, if_pos (by rw [request, decide_eq_true booted]; rfl)]

theorem quoteRequest_answers (request : mailState s = 1) (booted : 5 ≤ s.boot.step) (canonical : Bytes.wf s.boot.mailbox = true) :
    mailState (kernelExtends (answerQuote s)) = 2 ∧
      (kernelExtends (answerQuote s)).boot.mailbox.readList 0x100 (quoteBytes s).length = quoteBytes s := by
  have quoted : (kernelExtends (answerQuote s)).boot.mailbox = _ :=
    (kernelExtends_mailbox _).trans (answerQuote_mailbox request booted)
  rw [mailState, quoted]
  refine ⟨Bytes.readLE_writeLE (Bytes.wf_writeList canonical), ?_⟩
  rw [Bytes.readList_congr fun i _ => Bytes.read_writeLE_outside (Bytes.wf_writeList canonical) (.inr (by omega))]
  exact readList_writeList_prefix canonical ..

/-! ### Boot -/

/-- The module at the start of a boot, one boot count higher (R449). -/
def poweredOn (s : State) : State :=
  { State.reset with free := s.free, boot := { State.reset.boot with boots := (s.boot.boots + 1) % 2 ^ 64 } }

theorem exec_powerOn (b : BootInput) (s : State) : exec (.powerOn b) s = .next (bootSteps b (poweredOn s)) := rfl

/-- What a boot whose steps all pass leaves (Table 26.6). -/
structure Released (b : BootInput) (s u : State) : Prop where
  step : u.boot.step = 5
  boots : u.boot.boots = s.boot.boots
  recovery : u.boot.recovery = s.boot.recovery
  qtable : u.qtable = b.qtable.toNat / 4096 * 4096
  ctxTable : u.ctxTable = b.ctxtable.toNat / 4096 * 4096
  ctxCount : u.ctxCount = b.ctxcount.toNat
  mem : u.mem = s.mem
  trains : u.trains = s.trains

theorem bootSteps_release {b : BootInput} (config : b.configOk = true) (image : b.image0Ok = true ∨ b.image1Ok = true)
    (load : b.loadOk = true) (s : State) : Released b s (bootSteps b s) := by
  have imaged : (!b.image0Ok && !b.image1Ok) = false := by
    rcases image with h | h <;> rw [h]
    · rfl
    · exact Bool.and_false _
  simp only [bootSteps, config, imaged, load, Bool.not_true, Bool.false_eq_true, if_false]
  refine ⟨rfl, rfl, rfl, rfl, rfl, rfl, ?_, ?_⟩ <;> simp only [bootRelease, bootStep, setMr]

theorem bootSteps_config {b : BootInput} (config : b.configOk = false) (s : State) :
    bootSteps b s = toRecovery 2 (bootStep 1 s) := by
  simp only [bootSteps, config, Bool.not_false, if_true]

/-! ### Early service -/

/-- HBM4's readiness, its retired channels and its candidates, and the self-tests passed. -/
structure ServiceKept (s u : State) : Prop where
  ready : u.hbmReady = s.hbmReady
  retired : u.retiredHbm = s.retiredHbm
  candidates : u.hbmCandidates = s.hbmCandidates
  tests : u.boot.tests = s.boot.tests

theorem serviceKept_afterService (was : Bool) (s : State) : ServiceKept s (afterService was s) := by
  unfold afterService
  split <;> exact ⟨rfl, rfl, rfl, rfl⟩

theorem serviceKept_noteAll (rs : List Nat) (s : State) : ServiceKept s (rs.foldl (fun s _ => noteRetirement s) s) := by
  induction rs generalizing s with
  | nil => exact ⟨rfl, rfl, rfl, rfl⟩
  | cons r rs ih =>
    obtain ⟨ready, retired, candidates, tests⟩ := ih (noteRetirement s)
    exact ⟨ready, retired, candidates, tests⟩

theorem hbmTraining_completes (booted : 5 ≤ s.boot.step) (first : s.hbmReady = false) (retire : List Nat) :
    ∃ u, exec (.hbmTrainingComplete retire) s = .next u ∧
      u.hbmReady = true ∧ u.hbmCandidates = [] ∧ ∀ h ∈ retire, h ∈ u.retiredHbm := by
  have due : (decide (s.boot.step < 5) || s.hbmReady) = false := by
    rw [decide_eq_false (Nat.not_lt.mpr booted), first]
    rfl
  let rs := (s.hbmCandidates ++ retire).eraseDups
  let t : State := { s with hbmReady := true, retiredHbm := (s.retiredHbm ++ rs).eraseDups, hbmCandidates := [] }
  have noted := serviceKept_noteAll rs t
  have served := serviceKept_afterService (fullService s) (rs.foldl (fun s _ => noteRetirement s) t)
  have next : exec (.hbmTrainingComplete retire) s =
      .next (afterService (fullService s) (rs.foldl (fun s _ => noteRetirement s) t)) := by
    change execHbmTrainingComplete retire s = _
    simp only [execHbmTrainingComplete, due, Bool.false_eq_true, if_false]
    rfl
  refine ⟨_, next, served.ready.trans noted.ready, served.candidates.trans noted.candidates, fun h mem => ?_⟩
  rw [served.retired, noted.retired]
  exact List.mem_eraseDups.mpr (List.mem_append_right _ (List.mem_eraseDups.mpr (List.mem_append_right _ mem)))

theorem selfTest_completes (booted : 5 ≤ s.boot.step) (test : n < 5) (first : n ∉ s.boot.tests) :
    ∃ u, exec (.selfTestComplete n) s = .next u ∧ u.boot.tests = s.boot.tests ++ [n] := by
  have due : (decide (s.boot.step < 5) || decide (5 ≤ n) || s.boot.tests.contains n) = false := by
    rw [decide_eq_false (Nat.not_lt.mpr booted), decide_eq_false (Nat.not_le.mpr test), Bool.false_or, Bool.false_or]
    exact eq_false_of_ne_true (mt List.contains_iff_mem.mp first)
  refine ⟨afterService (fullService s) { s with boot := { s.boot with tests := s.boot.tests ++ [n] } }, ?_,
    (serviceKept_afterService ..).tests⟩
  change execSelfTestComplete n s = _
  simp only [execSelfTestComplete, due, Bool.false_eq_true, if_false]

/-! ### Ports, units, links and cooling -/

theorem cxlLinkLoss_first (port : n < 4) (first : n ∉ s.lostPorts) : exec (.cxlLinkLoss n) s =
    .next { s with lostPorts := s.lostPorts ++ [n], replaceReq := true } := by
  have due : (decide (4 ≤ n) || s.lostPorts.contains n) = false := by
    rw [decide_eq_false (Nat.not_le.mpr port), Bool.false_or]
    exact eq_false_of_ne_true (mt List.contains_iff_mem.mp first)
  change execCxlLinkLoss n s = _
  simp only [execCxlLinkLoss, due, Bool.false_eq_true, if_false]

theorem thermalShutdown_first (no_halt : s.halt.phase = 0) : exec .thermalShutdown s =
    .next { holdTick { s with interrupts := s.interrupts ++ [Interrupt.thermal] } with
            halt := { phase := 1, due := entryTick s.cycle + 22, who := none, thermal := true } } := by
  change execThermalShutdown s = _
  simp only [execThermalShutdown, no_halt]

theorem haltComplete_thermal (done : haltDone s = true) (thermal : s.halt.thermal = true) :
    ∃ u, exec .haltComplete s = .next u ∧ u.boot.off = true := by
  obtain ⟨u, next, -, -, off, -⟩ := haltComplete_effect done
  exact ⟨u, next, by rw [off, thermal, Bool.or_true]⟩

theorem unitRetirement_due {x : UnitId} (due : retireDue s x = true) :
    exec (.unitRetirement x) s = .next (retireUnit x (dropErrors x s)) := by
  change execUnitRetirement x s = _
  rw [execUnitRetirement, if_pos due]

theorem linkRetirement_due {x : LinkId} (due : linkDue s x = true) (flat : ∀ k, x ≠ .vertical k) (first : x ∉ s.retiredLinks) :
    exec (.linkRetirement x) s = .next { s with
      linkErrors := s.linkErrors.filter fun y => y.1 != x, retiredLinks := s.retiredLinks ++ [x], replaceReq := true } := by
  have fresh : s.retiredLinks.contains x = false := eq_false_of_ne_true (mt List.contains_iff_mem.mp first)
  change execLinkRetirement x s = _
  cases x with
  | vertical k => exact absurd rfl (flat k)
  | _ => simp only [execLinkRetirement, due, fresh, Bool.not_true, Bool.false_eq_true, if_false]

end

/-- Settles O53: each event by the case in which it has its effect. -/
theorem hostEventsComplete : Obligations.HostEventsComplete := by
  intro s n v
  refine ⟨fun byHost queue => congrArg _ (writeAperture_bell byHost queue v.toNat), exec_apertureWrite false 0x20010 v s,
    exec_apertureWrite true 0x20010 v s, fun booted bs count short apart => (exec_hostWrite n bs count s).trans (congrArg _ <| hostWrite_memory booted short apart),
    fun booted count r u short apart load => (exec_hostRead n count s).trans (congrArg _ <| hostRead_memory booted short apart load),
    fun bs count short inside => (exec_hostWrite n bs count s).trans (congrArg _ <| hostWrite_aperture short inside),
    fun bs count word queue => (exec_hostWrite _ bs count s).trans (congrArg _ <| hostWrite_bell queue word),
    fun bs count nonce canonical => ⟨_, exec_hostWrite _ bs count s, hostWrite_nonce nonce canonical⟩,
    fun count short inside => (exec_hostRead n count s).trans (congrArg _ <| hostRead_aperture short inside), fun bs count long => (exec_hostWrite n bs count s).trans (congrArg _ <| hostWrite_long long),
    fun count long => (exec_hostRead n count s).trans (congrArg _ <| hostRead_long long),
    fun request booted canonical => ⟨_, rfl, quoteRequest_answers request booted canonical⟩, fun b config image load => ?power_on,
    fun b config => ⟨_, (exec_powerOn b s).trans (congrArg _ (bootSteps_config config _)), rfl, rfl, rfl⟩, hbmTraining_completes,
    selfTest_completes, cxlLinkLoss_first, rfl, rfl, thermalShutdown_first, haltComplete_thermal, fun _ => rfl, fun _ => rfl,
    fun _ => rfl, fun _ => unitRetirement_due, fun _ => linkRetirement_due⟩
  case power_on =>
    obtain ⟨step, boots, recovery, qtable, ctxTable, ctxCount, mem, trains⟩ := bootSteps_release config image load (poweredOn s)
    exact ⟨_, exec_powerOn b s, step, boots, recovery, qtable, ctxTable, ctxCount, mem, trains⟩

end Sys2Proof.Proofs

/-! PROOFS. The fields of the queue descriptors (spec/21_package_queues_launch_preemption.md R379, R399): what a write of a field leaves,
and the queues that a kill stops. -/

namespace Sys2Proof.Proofs

open Sys2Proof.Machine Sys2Proof.Safety

section
variable {s u : State} {q k off n x : Nat}

/-! ### One field -/

theorem accessOnly_qSet (q off n x : Nat) (s : State) : AccessOnly s (qSet q off n x s) := accessOnly_agentStore ..

theorem qtable_qSet : (qSet q off n x s).qtable = s.qtable := (accessOnly_qSet q off n x s).part (·.qtable) fun _ _ => rfl

theorem packets_qSet : (qSet q off n x s).packets = s.packets := (accessOnly_qSet q off n x s).part (·.packets) fun _ _ => rfl

theorem trains_qSet : (qSet q off n x s).trains = s.trains := (accessOnly_qSet q off n x s).trains

theorem mem_qSet : (qSet q off n x s).mem = s.mem.writeLE (qAddr s q off) n x :=
  (regsKept_agentStore (p := fun _ _ => True) ..).mem

theorem memoryCanonical_qSet (canonical : memoryCanonical s) : memoryCanonical (qSet q off n x s) :=
  (storesOnly_agentStore ..).canonical canonical

theorem qAddr_qSet {off' : Nat} : qAddr (qSet q off n x s) k off' = qAddr s k off' := by
  rw [qAddr, qtable_qSet, qAddr]

/-- A field reads as it was written. -/
theorem qGet_qSet_same (canonical : memoryCanonical s) : qGet (qSet q off n x s) q off n = x % 256 ^ n := by
  rw [qGet, mem_qSet, qAddr_qSet]
  exact Bytes.readLE_writeLE canonical.1

/-- A field that shares no byte with the one written stands. -/
theorem qGet_qSet_apart {off' n' : Nat} (canonical : memoryCanonical s)
    (apart : 128 * k + off' + n' ≤ 128 * q + off ∨ 128 * q + off + n ≤ 128 * k + off') :
    qGet (qSet q off n x s) k off' n' = qGet s k off' n' := by
  rw [qGet, mem_qSet, qAddr_qSet]
  refine congrArg leNat (Bytes.readList_congr fun i inside => Bytes.read_writeLE_outside canonical.1 ?_)
  rw [qAddr, qAddr]
  omega

/-! ### The fields of one queue -/

/-- Writes of one queue's descriptor alone: the descriptors of the others, the packets and the trains stand. -/
structure WritesQueue (q : Nat) (s u : State) : Prop where
  canonical : memoryCanonical s → memoryCanonical u
  others : memoryCanonical s → ∀ k off n, k ≠ q → off + n ≤ 128 → qGet u k off n = qGet s k off n
  packets : u.packets = s.packets
  trains : u.trains = s.trains

theorem WritesQueue.trans {t : State} (first : WritesQueue q s t) (second : WritesQueue q t u) : WritesQueue q s u where
  canonical h := second.canonical (first.canonical h)
  others h k off n other inside :=
    (second.others (first.canonical h) k off n other inside).trans (first.others h k off n other inside)
  packets := second.packets.trans first.packets
  trains := second.trains.trans first.trains

theorem writesQueue_qSet (inside : off + n ≤ 128) : WritesQueue q s (qSet q off n x s) where
  canonical := memoryCanonical_qSet
  others canonical k off' n' other inside' := qGet_qSet_apart canonical (by omega)
  packets := packets_qSet
  trains := trains_qSet

theorem writesQueue_stopQueue (f : Failure) (index record : Nat) : WritesQueue q s (stopQueue q f index record s) :=
  (writesQueue_qSet (by decide)).trans ((writesQueue_qSet (by decide)).trans ((writesQueue_qSet (by decide)).trans
    (writesQueue_qSet (by decide))))

/-- QSTATE is STOPPED, and the fields before it stand. -/
structure MarksStopped (q : Nat) (s u : State) : Prop where
  stopped : qState u q = 2
  before : ∀ off n, off + n ≤ 64 → qGet u q off n = qGet s q off n

theorem marksStopped_qSet (canonical : memoryCanonical s) : MarksStopped q s (qSet q 64 1 2 s) where
  stopped := qGet_qSet_same canonical
  before off n before := qGet_qSet_apart canonical (by omega)

/-- A write of a later field leaves the mark. -/
theorem MarksStopped.qSet (marks : MarksStopped q s u) (canonical : memoryCanonical u) (later : 65 ≤ off) :
    MarksStopped q s (qSet q off n x u) where
  stopped := (qGet_qSet_apart canonical (by omega)).trans marks.stopped
  before off' n' before := (qGet_qSet_apart canonical (by omega)).trans (marks.before off' n' before)

theorem marksStopped_stopQueue (canonical : memoryCanonical s) (f : Failure) (index record : Nat) :
    MarksStopped q s (stopQueue q f index record s) := by
  have first := memoryCanonical_qSet (q := q) (off := 64) (n := 1) (x := 2) canonical
  have second := memoryCanonical_qSet (q := q) (off := 68) (n := 4) (x := f.1.code + 2 ^ 8 * f.2) first
  have third := memoryCanonical_qSet (q := q) (off := 72) (n := 4) (x := index) second
  exact (((marksStopped_qSet canonical).qSet first (by decide)).qSet second (by decide)).qSet third (by decide)

/-! ### The queues of a killed context -/

/-- A queue that a kill has stopped (R399): STOPPED, its ready list empty, without a packet. -/
structure Stopped (k : Nat) (s : State) : Prop where
  state : qState s k = 2
  head : qGet s k 48 8 = 0
  tail : qGet s k 56 8 = 0
  packets : ∀ x ∈ s.packets, x.2.queue ≠ k

/-- The stop reports KILLED of the queue's oldest packet, if it has one (Table 21.9). -/
def reportKilled (q : Nat) (s : State) : State :=
  match queuePackets s q with
  | (_, p) :: _ => stopQueue q (.killed, 0) (if p.record.isSome then 0xFFFFFFFF else p.index) (p.record.getD 0) s
  | [] => qSet q 64 1 2 s

theorem writesQueue_reportKilled : WritesQueue q s (reportKilled q s) := by
  unfold reportKilled
  split
  case h_1 => exact writesQueue_stopQueue ..
  case h_2 => exact writesQueue_qSet (by decide)

theorem marksStopped_reportKilled (canonical : memoryCanonical s) : MarksStopped q s (reportKilled q s) := by
  unfold reportKilled
  split
  case h_1 => exact marksStopped_stopQueue canonical ..
  case h_2 => exact marksStopped_qSet canonical

/-- The lists of the queue processor without a queue. -/
def forgetQueue (q : Nat) (s : State) : State :=
  { s with packets := s.packets.filter fun x => x.2.queue != q, foreign := s.foreign.filter fun x => x.1 != q,
           preempting := s.preempting.filter fun x => x != q, asked := s.asked.filter fun x => x.1 != q,
           barred := s.barred.filter fun x => x != q, resuming := s.resuming.filter fun x => x != q }

/-- The stop of one queue. -/
def killQueue (q : Nat) (s : State) : State := forgetQueue q (reportKilled q (qSet q 56 8 0 (qSet q 48 8 0 s)))

theorem stopQueues_eq (c : Nat) (s : State) :
    stopQueues c s = ((List.range 32).filter fun q => qCtx s q == c).foldl (fun s q => killQueue q s) s := rfl

theorem writesQueue_emptied : WritesQueue q s (qSet q 56 8 0 (qSet q 48 8 0 s)) :=
  (writesQueue_qSet (by decide)).trans (writesQueue_qSet (by decide))

theorem trains_killQueue (q : Nat) (s : State) : (killQueue q s).trains = s.trains :=
  (writesQueue_emptied.trans writesQueue_reportKilled).trains

theorem memoryCanonical_killQueue (canonical : memoryCanonical s) : memoryCanonical (killQueue q s) :=
  (writesQueue_emptied.trans writesQueue_reportKilled).canonical canonical

theorem stopped_killQueue (canonical : memoryCanonical s) : Stopped q (killQueue q s) := by
  have headless : memoryCanonical (qSet q 48 8 0 s) := memoryCanonical_qSet canonical
  have emptied : memoryCanonical (qSet q 56 8 0 (qSet q 48 8 0 s)) := memoryCanonical_qSet headless
  have marks := marksStopped_reportKilled (q := q) emptied
  refine ⟨marks.stopped, (marks.before 48 8 (by decide)).trans ?head, (marks.before 56 8 (by decide)).trans ?tail, fun x mem => ?packets⟩
  case head => rw [qGet_qSet_apart headless (by omega), qGet_qSet_same canonical, Nat.zero_mod]
  case tail => rw [qGet_qSet_same headless, Nat.zero_mod]
  case packets => exact bne_iff_ne.mp (List.mem_filter.mp mem).2

/-- A stopped queue stays so while others are stopped. -/
theorem Stopped.killQueue (stopped : Stopped k s) (canonical : memoryCanonical s) (q : Nat) : Stopped k (killQueue q s) := by
  by_cases same : k = q
  · exact same ▸ stopped_killQueue canonical
  · obtain ⟨-, others, packets, -⟩ := (writesQueue_emptied (q := q) (s := s)).trans writesQueue_reportKilled
    refine ⟨(others canonical k 64 1 same (by decide)).trans stopped.state, (others canonical k 48 8 same (by decide)).trans stopped.head,
      (others canonical k 56 8 same (by decide)).trans stopped.tail, fun x mem => stopped.packets x ?_⟩
    exact packets ▸ (List.mem_filter.mp mem).1

theorem stopped_foldl (qs : List Nat) (canonical : memoryCanonical s) (here : k ∈ qs ∨ Stopped k s) :
    Stopped k (qs.foldl (fun s q => killQueue q s) s) := by
  induction qs generalizing s with
  | nil => exact here.resolve_left (List.not_mem_nil)
  | cons q qs ih =>
    refine ih (memoryCanonical_killQueue canonical) ?_
    rcases here with mem | stopped
    · rcases List.mem_cons.mp mem with rfl | later
      · exact .inr (stopped_killQueue canonical)
      · exact .inl later
    · exact .inr (stopped.killQueue canonical q)

theorem stopped_stopQueues {c : Nat} (canonical : memoryCanonical s) (queue : k < 32) (own : qCtx s k = c) :
    Stopped k (stopQueues c s) :=
  stopped_foldl _ canonical (.inl (List.mem_filter.mpr ⟨List.mem_range.mpr queue, beq_iff_eq.mpr own⟩))

theorem trains_foldl {α : Type} {f : State → α → State} (each : ∀ s x, (f s x).trains = s.trains) (l : List α) (s : State) :
    (l.foldl f s).trains = s.trains := by
  induction l generalizing s with
  | nil => rfl
  | cons x l ih => exact (ih (f s x)).trans (each s x)

theorem trains_stopQueues (c : Nat) (s : State) : (stopQueues c s).trains = s.trains :=
  trains_foldl (fun s q => trains_killQueue q s) _ s

end

end Sys2Proof.Proofs

/-! PROOFS. The completion and the failure of packets leave every train (spec/21_package_queues_launch_preemption.md R380, R394, R400). -/

namespace Sys2Proof.Proofs

open Sys2Proof.Machine

section
variable {s u : State}

theorem trains_writeLoc (l : Loc) (n x : Nat) (s : State) : (writeLoc l n x s).trains = s.trains := (accessOnly_writeLoc l n x s).trains

theorem trains_agentStore (g : Agent) (pts : Nat) (l : Loc) (n x : Nat) (s : State) : (agentStore g pts l n x s).2.trains = s.trains :=
  (accessOnly_agentStore g pts l n x s).trains

/-! ### The decrement of a record -/

theorem trains_appendReady (q va ctx : Nat) (s : State) : (appendReady q va ctx s).trains = s.trains := by
  have listed : (if ctx != qCtx s q then { s with foreign := s.foreign ++ [(q, va, ctx)] } else s).trains = s.trains := by
    split <;> rfl
  unfold appendReady
  dsimp only
  generalize (if ctx != qCtx s q then { s with foreign := s.foreign ++ [(q, va, ctx)] } else s) = t at listed
  split
  case isTrue => exact trains_qSet.trans (trains_qSet.trans listed)
  case isFalse =>
    refine trains_qSet.trans ?_
    split
    case h_1 => exact (trains_agentStore ..).trans listed
    case h_2 => exact listed

theorem trains_makeReady (l : Loc) (va ctx ts : Nat) (s : State) : (makeReady l va ctx ts s).trains = s.trains := by
  rw [makeReady, trains_appendReady, trains_writeLoc, trains_writeLoc, trains_writeLoc]

theorem trains_carryLam (l : Loc) (lam : Nat) (s : State) : (carryLam l lam s).trains = s.trains := by
  unfold carryLam
  split <;> rfl

theorem trains_taskDec (l : Loc) (va n errq ts lam : Nat) (s : State) : (taskDec l va n errq ts lam s).trains = s.trains := by
  have carried := trains_carryLam l lam s
  have errs (s : State) : (taskErr errq s).trains = s.trains := trains_qSet
  unfold taskDec
  dsimp only
  split
  case isTrue => exact errs s
  case isFalse =>
    split
    case isTrue => exact (trains_writeLoc ..).trans carried
    case isFalse =>
      split
      case isTrue => exact (errs _).trans ((trains_writeLoc ..).trans carried)
      case isFalse => exact (trains_makeReady ..).trans ((trains_writeLoc ..).trans carried)

theorem trains_queueDec {ctx va n errq pts lam : Nat} (dec : queueDec ctx va n errq pts lam s = .ok u) : u.trains = s.trains := by
  unfold queueDec at dec
  split at dec
  case h_1 => cases dec
  case h_2 =>
    split at dec
    case isTrue => cases dec
    case isFalse =>
      cases dec
      exact (trains_taskDec ..).trans (accessOnly_touch ..).trains

/-! ### Failure and completion -/

theorem trains_failPacket (id : Nat) (f : Failure) (s : State) : (failPacket id f s).trains = s.trains := by
  unfold failPacket
  refine (writesQueue_stopQueue ..).trains.trans ?_
  split <;> rfl

theorem trains_pointPassed (q : Nat) (s : State) : (pointPassed q s).trains = s.trains := by
  unfold pointPassed
  split
  case isTrue => exact trains_qSet
  case isFalse => rfl

theorem trains_settleQueue (q : Nat) (s : State) : (settleQueue q s).trains = s.trains := by
  unfold settleQueue
  split
  case isTrue => exact trains_qSet
  case isFalse => rfl

theorem trains_setRecord {ctx r x : Nat} (set : setRecord ctx r x s = .ok u) : u.trains = s.trains := by
  unfold setRecord at set
  split at set
  case h_1 =>
    cases set
    exact trains_agentStore ..
  case h_2 => cases set

theorem trains_completion {id : Nat} (done : completion id s = .ok u) : u.trains = s.trains := by
  unfold completion at done
  dsimp only at done
  split at done
  case h_1 => cases done
  case h_2 =>
    split at done
    case isTrue =>
      cases done
      rfl
    case isFalse => exact trains_queueDec done

/-- The end of a packet's task, where its record can be written. -/
theorem trains_taskDone (r : Option Nat) (ctx : Nat) (s : State) : (match r.map fun r => setRecord ctx r 3 s with
    | some (Except.ok s) => s
    | _ => s).trains = s.trains := by
  split
  case h_1 set =>
    obtain ⟨r, -, set⟩ := Option.map_eq_some_iff.mp set
    exact trains_setRecord set
  case h_2 => rfl

theorem trains_completePacket (id : Nat) (s : State) : (completePacket id s).trains = s.trains := by
  unfold completePacket
  dsimp only
  split
  case h_1 => exact trains_failPacket ..
  case h_2 t done =>
    have completed : t.trains = s.trains := trains_completion done
    refine (trains_settleQueue ..).trans ((trains_taskDone ..).trans ?_)
    split
    case isTrue => exact (trains_pointPassed ..).trans completed
    case isFalse => exact completed

/-! ### The end of a launch -/

theorem trains_endLaunch (lid : Nat) (s : State) : (endLaunch lid s).trains = s.trains := by
  unfold endLaunch
  dsimp only
  split <;> rfl

theorem trains_launchRecord (lid kind : Nat) (s : State) : (launchRecord lid kind s).trains = s.trains := by
  unfold launchRecord
  dsimp only
  split <;> rfl

theorem trains_packetCompletion {id : Nat} (next : execPacketCompletion id s = .next u) : u.trains = s.trains := by
  unfold execPacketCompletion at next
  split at next
  case h_1 =>
    cases next
    rfl
  case h_2 p _ =>
    split at next
    case isTrue =>
      cases next
      rfl
    case isFalse =>
      split at next
      case h_1 lid _ =>
        have recorded : (if p.again || (completion id s).isOk then launchRecord lid 4 s else s).trains = s.trains := by
          split
          case isTrue => exact trains_launchRecord ..
          case isFalse => rfl
        dsimp only at next
        cases next
        split
        case isTrue => exact (trains_endLaunch ..).trans recorded
        case isFalse => exact (trains_completePacket ..).trans ((trains_endLaunch ..).trans recorded)
      case h_2 =>
        cases next
        exact trains_failPacket ..
      case h_3 =>
        cases next
        exact trains_completePacket ..

theorem trains_retireFirst (c : Nat) (s : State) : (retireFirst c s).trains = s.trains := by
  refine trains_foldl (fun s x => ?_) _ s
  obtain ⟨id, p⟩ := x
  dsimp only
  split
  case h_1 next => exact trains_packetCompletion next
  case h_2 => rfl

/-- A kill before which no packet of its context is done completes none. -/
theorem retireFirst_none {c : Nat} (none_done : ∀ x ∈ s.packets, x.2.ctx = c → packetDone s x.1 x.2 = false) : retireFirst c s = s := by
  have no_packet : (s.packets.filter fun x => x.2.ctx == c && packetDone s x.1 x.2) = [] := by
    refine List.filter_eq_nil_iff.mpr fun x mem both => ?_
    obtain ⟨own, done⟩ := Bool.and_eq_true_iff.mp both
    exact Bool.false_ne_true ((none_done x mem (beq_iff_eq.mp own)).symm.trans done)
  rw [retireFirst, no_packet]
  rfl

end

end Sys2Proof.Proofs

/-! PROOFS. The kill of trains (spec/22_package_faults_traps_dumps.md R415; spec/21_package_queues_launch_preemption.md R399): each train of
a killed context is ENDING or ends with its runs in issue, and the queues and the other trains stand. -/

namespace Sys2Proof.Proofs

open Sys2Proof.Machine

/-- No byte of physical memory, packet or train differs, and the queue table lies where it lay. -/
structure Undisturbed (s u : State) : Prop where
  mem : u.mem = s.mem
  qtable : u.qtable = s.qtable
  packets : u.packets = s.packets
  trains : u.trains = s.trains

section
variable {s t u : State}

theorem Undisturbed.refl (s : State) : Undisturbed s s := ⟨rfl, rfl, rfl, rfl⟩

theorem Undisturbed.trans (first : Undisturbed s t) (second : Undisturbed t u) : Undisturbed s u :=
  ⟨second.mem.trans first.mem, second.qtable.trans first.qtable, second.packets.trans first.packets,
    second.trains.trans first.trains⟩

/-- A change of other parts of the state comes first. -/
theorem Undisturbed.of_parts (rest : Undisturbed t u) (mem : t.mem = s.mem) (qtable : t.qtable = s.qtable)
    (packets : t.packets = s.packets) (trains : t.trains = s.trains) : Undisturbed s u :=
  Undisturbed.trans ⟨mem, qtable, packets, trains⟩ rest

theorem undisturbed_foldl {α : Type} {f : State → α → State} (each : ∀ s x, Undisturbed s (f s x)) (l : List α) (s : State) :
    Undisturbed s (l.foldl f s) := by
  induction l generalizing s with
  | nil => exact .refl s
  | cons x l ih => exact (each s x).trans (ih (f s x))

/-! ### Departures from the Escapement network -/

theorem undisturbed_completeSlot (n tick : Nat) (s : State) : Undisturbed s (completeSlot n tick s) := by
  unfold completeSlot
  split
  case h_1 => exact .refl s
  case h_2 =>
    dsimp only
    split
    case isTrue => exact .refl s
    case isFalse => exact ⟨rfl, rfl, rfl, rfl⟩

theorem undisturbed_enterMsg (id : Nat) (k : EsMsg) (s : State) : Undisturbed s (enterMsg id k s) := by
  cases k with
  | arrival n m op v c =>
    exact (undisturbed_completeSlot n (entryTick c) _).of_parts rfl rfl rfl rfl
  | entering n m v c =>
    unfold enterMsg
    dsimp only
    split <;> exact ⟨rfl, rfl, rfl, rfl⟩
  | _ => exact ⟨rfl, rfl, rfl, rfl⟩

theorem undisturbed_enterDue (n k : Nat) (s : State) : Undisturbed s (enterDue n k s) := by
  induction k generalizing s with
  | zero => exact .refl s
  | succ k ih =>
    unfold enterDue
    split
    case h_1 id x _ => exact (undisturbed_enterMsg id x s).trans (ih _)
    case h_2 => exact .refl s

theorem undisturbed_departSlot (n m : Nat) (killed : Bool) (s : State) : Undisturbed s (departSlot n m killed s) := by
  have entered := undisturbed_enterDue n s.esMsgs.length s
  unfold departSlot
  dsimp only
  generalize enterDue n s.esMsgs.length s = v at entered
  split
  case h_1 => exact entered
  case h_2 =>
    split
    case isTrue => exact entered
    case isFalse => exact entered.trans ((undisturbed_completeSlot ..).of_parts rfl rfl rfl rfl)

theorem undisturbed_departTrain (killed : Bool) (tid : Nat) (s : State) : Undisturbed s (departTrain killed tid s) := by
  refine (undisturbed_foldl (fun s x => ?slots) _ s).trans (undisturbed_foldl (fun s x => ?chans) _ _)
  case slots =>
    dsimp only
    split
    case h_1 => exact undisturbed_departSlot ..
    case h_2 => exact .refl s
  case chans =>
    dsimp only
    split
    case h_1 => exact ⟨rfl, rfl, rfl, rfl⟩
    case h_2 => exact .refl s

/-! ### What else a killed train gives up -/

theorem undisturbed_sendReplies (b : AccBatch) (val : Nat → Nat) (fail : Nat → Option Word) (ts lam : Nat) (s : State) :
    Undisturbed s (sendReplies b val fail ts lam s) := by
  refine undisturbed_foldl (fun s x => ?_) _ s
  exact ⟨rfl, rfl, rfl, rfl⟩

theorem undisturbed_failOutstanding (ctx k : Nat) (s : State) : Undisturbed s (failOutstanding ctx k s) := by
  unfold failOutstanding
  split
  case h_1 => exact .refl s
  case h_2 => exact (undisturbed_sendReplies ..).of_parts rfl rfl rfl rfl

theorem undisturbed_abortRays (tid : Nat) (s : State) : Undisturbed s (abortRays tid s) := by
  unfold abortRays
  dsimp only
  split
  case isTrue => exact .refl s
  case isFalse => exact ⟨rfl, rfl, rfl, rfl⟩

theorem undisturbed_releaseRecs (lid : Nat) (s : State) : Undisturbed s (releaseRecs lid s) := by
  unfold releaseRecs
  dsimp only
  split
  case isTrue => exact .refl s
  case isFalse => exact ⟨rfl, rfl, rfl, rfl⟩

theorem undisturbed_dropRuns (tid : Nat) (s : State) : Undisturbed s (dropRuns tid s) := by
  refine undisturbed_foldl (fun s x => ?_) _ s
  dsimp only
  split <;> exact ⟨rfl, rfl, rfl, rfl⟩

/-! ### The fate of trains -/

/-- The state of a train and whether it ends with its runs in issue stand. -/
def SameFate (t t' : Train) : Prop := t'.state = t.state ∧ t'.killAtEnd = t.killAtEnd

/-- A kill of a train keeps the memory, the queues and the packets, and the fates of all other trains. -/
structure KillKept (tid : Nat) (s u : State) : Prop where
  mem : u.mem = s.mem
  qtable : u.qtable = s.qtable
  packets : u.packets = s.packets
  fate : ∀ k, k ≠ tid → SameFate (s.train k) (u.train k)

variable {tid : Nat}

theorem KillKept.trans (first : KillKept tid s t) (second : KillKept tid t u) : KillKept tid s u where
  mem := second.mem.trans first.mem
  qtable := second.qtable.trans first.qtable
  packets := second.packets.trans first.packets
  fate k other :=
    ⟨(second.fate k other).1.trans (first.fate k other).1, (second.fate k other).2.trans (first.fate k other).2⟩

theorem Undisturbed.train (stands : Undisturbed s u) (k : Nat) : u.train k = s.train k := by
  rw [State.train, stands.trains]
  rfl

theorem Undisturbed.killKept (stands : Undisturbed s u) (tid : Nat) : KillKept tid s u :=
  ⟨stands.mem, stands.qtable, stands.packets, fun k _ => stands.train k ▸ ⟨rfl, rfl⟩⟩

/-- A change of the killed train, whatever it is. -/
theorem killKept_updTrain_self (f : Train → Train) : KillKept tid s (s.updTrain tid f) := by
  refine ⟨rfl, rfl, rfl, fun k other => ?_⟩
  rw [State.train_updTrain, if_neg other]
  exact ⟨rfl, rfl⟩

/-- A change of any train that keeps its fate. -/
theorem killKept_updTrain {k : Nat} {f : Train → Train} (fate : SameFate (s.train k) (f (s.train k))) :
    KillKept tid s (s.updTrain k f) := by
  refine ⟨rfl, rfl, rfl, fun j _ => ?_⟩
  rw [State.train_updTrain]
  split
  case isTrue same => exact same ▸ fate
  case isFalse => exact ⟨rfl, rfl⟩

theorem KillKept.refl (s : State) : KillKept tid s s := (Undisturbed.refl s).killKept tid

theorem killKept_foldl {α : Type} {f : State → α → State} (each : ∀ s x, KillKept tid s (f s x)) (l : List α) (s : State) :
    KillKept tid s (l.foldl f s) := by
  induction l generalizing s with
  | nil => exact .refl s
  | cons x l ih => exact (each s x).trans (ih (f s x))

theorem sameFate_writeS (t : Train) (sid n : Nat) (v : Word) : SameFate t (t.writeS sid n v) := by
  unfold Train.writeS
  split
  case isTrue => exact ⟨rfl, rfl⟩
  case isFalse =>
    split
    case isTrue => exact ⟨rfl, rfl⟩
    case isFalse => split <;> exact ⟨rfl, rfl⟩

theorem sameFate_setPending (t : Train) (n : Nat) (b : Bool) : SameFate t (t.setPending n b) := by
  unfold Train.setPending
  split <;> exact ⟨rfl, rfl⟩

theorem SameFate.trans {a b c : Train} (first : SameFate a b) (second : SameFate b c) : SameFate a c :=
  ⟨second.1.trans first.1, second.2.trans first.2⟩

theorem sameFate_token (t : Train) (n : Nat) (v : Word) : SameFate t (t.token n v) := by
  obtain ⟨state, killAtEnd⟩ := (sameFate_writeS t 0 n v).trans (sameFate_setPending _ n false)
  unfold Train.token
  split
  case isTrue => exact ⟨rfl, rfl⟩
  case isFalse => exact ⟨state, killAtEnd⟩

theorem killKept_endRing (k sid tok : Nat) (v : Word) (s : State) : KillKept tid s (endRing k sid tok v s) :=
  killKept_updTrain (sameFate_token ..)

theorem killKept_withdrawOffer (core : Nat) (s : State) : KillKept tid s (withdrawOffer core s) := by
  unfold withdrawOffer
  split
  case h_1 => exact .refl s
  case h_2 =>
    have gone : Undisturbed s (s.updCore core fun c => { c with offer := none }) := ⟨rfl, rfl, rfl, rfl⟩
    dsimp only
    split
    case isFalse => exact gone.killKept tid
    case isTrue =>
      split
      case h_1 => exact (gone.killKept tid).trans (killKept_endRing ..)
      case h_2 => exact gone.killKept tid

theorem killKept_dropSysOps (k : Nat) (s : State) : KillKept tid s (dropSysOps k s) := by
  refine killKept_foldl (fun s x => ?_) _ s
  obtain ⟨id, o⟩ := x
  have gone : Undisturbed s { s with sysOps := Tab.del s.sysOps id } := ⟨rfl, rfl, rfl, rfl⟩
  dsimp only
  split
  case h_2 => exact gone.killKept tid
  case h_1 =>
    split
    case isTrue => exact (gone.killKept tid).trans (killKept_updTrain ⟨rfl, rfl⟩)
    case isFalse => exact gone.killKept tid

theorem killKept_endLanes (m : LaneMask) (kill : Bool) (tid : Nat) (s : State) : KillKept tid s (endLanes m kill tid s) := by
  unfold endLanes
  extract_lets t ls s₁ ops rays s₂ s₃
  have launch : Undisturbed s s₁ := ⟨rfl, rfl, rfl, rfl⟩
  have lanes : KillKept tid s₁ s₂ := killKept_updTrain_self _
  have ended : Undisturbed s₂ s₃ := ⟨rfl, rfl, rfl, rfl⟩
  have queued (s : State) (id : Nat) : Undisturbed s (s.later (.rayRecordDelivery id)) := ⟨rfl, rfl, rfl, rfl⟩
  exact (((launch.killKept tid).trans lanes).trans (ended.killKept tid)).trans
    ((undisturbed_foldl queued rays s₃).killKept tid)

end

/-! ### The kill of one train -/

section
variable {s u : State} {tid : Nat}

theorem killTrain_ends (tid : Nat) (s : State) :
    KillKept tid s (killTrain tid s) ∧ ((killTrain tid s).train tid).state = .ending := by
  unfold killTrain
  extract_lets s₁ t s₂ s₃ s₄ s₅ s₆ s₇ s₈
  have departs : KillKept tid s s₁ := (undisturbed_departTrain true tid s).killKept tid
  have withdraws : KillKept tid s₁ s₂ := killKept_foldl (fun _ _ => killKept_withdrawOffer ..) _ s₁
  have leaves : Undisturbed s₂ s₃ := ⟨rfl, rfl, rfl, rfl⟩
  have fails : Undisturbed s₃ s₄ := by
    dsimp only [s₄]
    split
    case isTrue => exact undisturbed_failOutstanding ..
    case isFalse => exact .refl s₃
  have drops : KillKept tid s₄ s₅ := ((undisturbed_abortRays tid s₄).killKept tid).trans (killKept_dropSysOps ..)
  have lanes_end : KillKept tid s₅ s₆ := killKept_endLanes t.live true tid s₅
  have forgets : Undisturbed s₆ s₇ := ⟨rfl, rfl, rfl, rfl⟩
  have ends : KillKept tid s₇ s₈ := killKept_updTrain_self _
  have releases := undisturbed_releaseRecs t.launch s₈
  refine ⟨?kept, ?ending⟩
  case kept =>
    exact departs.trans (withdraws.trans (((leaves.trans fails).killKept tid).trans (drops.trans (lanes_end.trans
      ((forgets.killKept tid).trans (ends.trans (releases.killKept tid)))))))
  case ending =>
    rw [releases.train tid, State.train_updTrain_same]

/-- A train that awaits its kill, in a slot. -/
def AwaitsKill (t : Train) : Prop := t.killAtEnd = true ∧ t.state ≠ .saved

/-- A STARTING train that awaits its kill becomes RESIDENT or PARKED, and awaits it still. -/
theorem openTrain_awaits (marked : (s.train tid).killAtEnd = true) : KillKept tid s (openTrain tid s) ∧
    ((s.train tid).state ≠ .saved → AwaitsKill ((openTrain tid s).train tid)) := by
  have held : ((s.wg (s.train tid).wg).state.held || (s.train tid).killAtEnd) = true := by rw [marked, Bool.or_true]
  unfold openTrain
  simp only [held, if_true]
  split
  case isTrue =>
    refine ⟨killKept_updTrain_self _, fun _ => ?_⟩
    rw [State.train_updTrain_same]
    refine ⟨marked, ?_⟩
    dsimp only
    split <;> exact nofun
  case isFalse =>
    split
    case isTrue =>
      refine ⟨killKept_updTrain_self _, fun _ => ?_⟩
      rw [State.train_updTrain_same]
      exact ⟨marked, nofun⟩
    case isFalse => exact ⟨.refl s, fun in_slot => ⟨marked, in_slot⟩⟩

/-- A killed train is ENDING, or ends with its runs in issue (R190). -/
def Doomed (t : Train) : Prop := t.state = .ending ∨ AwaitsKill t

theorem Doomed.in_slot {t : Train} (doomed : Doomed t) : t.state ≠ .saved := by
  rcases doomed with ending | awaits
  · rw [ending]
    exact nofun
  · exact awaits.2

theorem Doomed.of_sameFate {t t' : Train} (doomed : Doomed t) (fate : SameFate t t') : Doomed t' := by
  obtain ⟨state, killAtEnd⟩ := fate
  unfold Doomed AwaitsKill
  rw [state, killAtEnd]
  exact doomed

/-- The kill of a train keeps the fates of all others, and dooms the train unless it is saved. -/
theorem requestKill_dooms (tid : Nat) (s : State) :
    KillKept tid s (requestKill tid s) ∧ ((s.train tid).state ≠ .saved → Doomed ((requestKill tid s).train tid)) := by
  unfold requestKill
  split
  case isTrue ending => exact ⟨.refl s, fun _ => .inl (beq_iff_eq.mp ending)⟩
  case isFalse =>
    have drops := undisturbed_dropRuns tid s
    have marks : KillKept tid s ((dropRuns tid s).updTrain tid fun t => { t with killAtEnd := true }) :=
      (drops.killKept tid).trans (killKept_updTrain_self _)
    have marked : ((dropRuns tid s).updTrain tid fun t => { t with killAtEnd := true }).train tid =
        { s.train tid with killAtEnd := true } := by
      rw [State.train_updTrain_same, drops.train tid]
    generalize (dropRuns tid s).updTrain tid (fun t => { t with killAtEnd := true }) = v at marks marked
    obtain ⟨opens, awaits⟩ := openTrain_awaits (s := v) (tid := tid) (by rw [marked])
    rw [marked] at awaits
    unfold killDue
    split
    case isTrue =>
      obtain ⟨kills, ending⟩ := killTrain_ends tid (openTrain tid v)
      exact ⟨marks.trans (opens.trans kills), fun _ => .inl ending⟩
    case isFalse => exact ⟨marks.trans opens, fun in_slot => .inr (awaits in_slot)⟩

/-! ### The trains of a context -/

/-- Kills of trains keep the queues, and doom each of the trains that is not saved. -/
theorem requestKills_doom (ks : List Nat) (s : State) :
    let u := ks.foldl (fun s k => requestKill k s) s
    (u.mem = s.mem ∧ u.qtable = s.qtable ∧ u.packets = s.packets) ∧
      ∀ k, (k ∈ ks ∧ (s.train k).state ≠ .saved) ∨ Doomed (s.train k) → Doomed (u.train k) := by
  induction ks generalizing s with
  | nil => exact ⟨⟨rfl, rfl, rfl⟩, fun k here => here.resolve_left fun h => List.not_mem_nil h.1⟩
  | cons k ks ih =>
    obtain ⟨kept, dooms⟩ := requestKill_dooms k s
    obtain ⟨⟨mem, qtable, packets⟩, all_doomed⟩ := ih (requestKill k s)
    refine ⟨⟨mem.trans kept.mem, qtable.trans kept.qtable, packets.trans kept.packets⟩, fun j here => all_doomed j ?_⟩
    by_cases same : j = k
    · subst same
      refine .inr (dooms ?_)
      rcases here with ⟨-, in_slot⟩ | before
      · exact in_slot
      · exact before.in_slot
    · rcases here with ⟨mem, in_slot⟩ | before
      · exact .inl ⟨(List.mem_cons.mp mem).resolve_left same, (kept.fate j same).1 ▸ in_slot⟩
      · exact .inr (before.of_sameFate (kept.fate j same))

end

end Sys2Proof.Proofs

/-! PROOFS. Placement, pre-emption, resumption, kills and the end of a context (spec/21_package_queues_launch_preemption.md R389, R390,
R396 to R400; spec/09 R213). -/

namespace Sys2Proof.Proofs

open Sys2Proof.Machine Sys2Proof.Safety

/-! ### Entries of tables -/

section
variable {α : Type} {t : Tab α} {n : Nat} {v : α}

theorem mem_of_find (found : Tab.find t n = some v) : (n, v) ∈ t := by
  induction t with
  | nil => cases found
  | cons x t ih =>
    rw [Tab.find] at found
    split at found
    case isTrue same =>
      cases found
      exact beq_iff_eq.mp same ▸ List.mem_cons_self
    case isFalse =>
      split at found
      case isTrue => cases found
      case isFalse => exact List.mem_cons_of_mem _ (ih found)

/-- An entry that a filter keeps is found as before. -/
theorem find_filter_of_find {p : Nat × α → Bool} (found : Tab.find t n = some v) (kept : p (n, v) = true) :
    Tab.find (t.filter p) n = some v := by
  induction t with
  | nil => cases found
  | cons x t ih =>
    rw [Tab.find] at found
    split at found
    case isTrue same =>
      cases found
      cases beq_iff_eq.mp same
      rw [List.filter_cons_of_pos kept, Tab.find, if_pos same]
    case isFalse other =>
      split at found
      case isTrue => cases found
      case isFalse before =>
        rw [List.filter_cons]
        split
        case isTrue => rw [Tab.find, if_neg other, if_neg before, ih found]
        case isFalse => exact ih found

/-- A list without a context's entries holds none of them. -/
theorem ctx_ne_of_find_dropCtx {of_ : α → Nat} {c : Nat} (found : Tab.find (dropCtx of_ c t) n = some v) : of_ v ≠ c :=
  bne_iff_ne.mp (List.mem_filter.mp (mem_of_find found)).2

end

/-! ### Placement and pre-emption -/

section
variable {s u : State} {q w v : Nat}

theorem exec_workgroupPlacement (placed : placeNext s = some u) : exec .workgroupPlacement s = .next u := by
  change execWorkgroupPlacement s = _
  rw [execWorkgroupPlacement, placed]
  rfl

theorem exec_automaticPreemption (running : s.halt.phase = 0) (queue : q < 32) (victim : autoVictim s q = some v) :
    exec (.automaticPreemption q) s = .next (signalWgs [v] s) := by
  change execAutomaticPreemption q s = _
  have may : (s.halt.phase == 0 && decide (q < 32)) = true := by simp [running, queue]
  rw [execAutomaticPreemption, if_pos may, victim]

theorem exec_preemptQueue (queue : q < 32) : exec (.preemptQueue q) s = .next (requestPreempt q s) := by
  change execPreemptQueue q s = _
  rw [execPreemptQueue, if_pos queue]

theorem requestPreempt_running (running : s.halt.phase = 0) :
    requestPreempt q s = applyPreempt q { s with resuming := s.resuming.filter fun x => x != q } := by
  rw [requestPreempt, running]
  rfl

theorem requestPreempt_halted (halted : s.halt.phase ≠ 0) (fresh : q ∉ s.preempting) :
    requestPreempt q s = { s with preempting := s.preempting ++ [q] } := by
  rw [requestPreempt, if_pos (bne_iff_ne.mpr halted), if_neg (by simpa using fresh)]

theorem exec_resumeQueue (queue : q < 32) (free : q ∉ s.preempting) (quiet : preemptionRuns s q = false) :
    exec (.resumeQueue q) s = .next (endPreemption q s) := by
  change execResumeQueue q s = _
  have held : (s.preempting.contains q || ((qState s q == 3 || s.barred.contains q) && preemptionRuns s q)) = false := by
    simp [free, quiet]
  rw [execResumeQueue, if_pos queue, resumeQueue, held]
  rfl

theorem endPreemption_eq :
    endPreemption q s = if qState s q = 3 then qSet q 64 1 1 { s with barred := s.barred.filter fun x => x != q }
      else { s with barred := s.barred.filter fun x => x != q } := by
  unfold endPreemption
  exact if_congr beq_iff_eq rfl rfl

/-! ### The states of a workgroup that is pre-empted (Table 21.10) -/

theorem exec_preemptionSignalArrival (due : signalDue s w = true) :
    exec (.preemptionSignalArrival w) s = .next (signalArrives w s) := by
  change execPreemptionSignalArrival w s = _
  rw [execPreemptionSignalArrival, if_pos due]

theorem signalArrives_discards (idemp : (s.launch (s.wg w).launch).idemp = true) (unbound : inBoundSet s (s.wg w) = false) :
    signalArrives w s = skipDest w (s.updWg w fun g => { g with sigAt := none, state := .discarding }) := by
  rw [signalArrives, idemp, unbound]
  rfl

/-- The drain that a signal begins, by the save slot that is free for it. -/
def beginDrain (w : Nat) (slot : Option Nat) (s : State) : State :=
  match slot with
  | some k => s.updWg w fun g => { g with sigAt := none, state := .draining, saveSlot := k,
                                          drainEnd := some (s.timer + qGet s (s.launch (s.wg w).launch).queue 32 4) }
  | none => s.updWg w fun g => { g with sigAt := none, state := .draining, drainEnd := none }

theorem signalArrives_drains (bound : (s.launch (s.wg w).launch).idemp = false ∨ inBoundSet s (s.wg w) = true) :
    signalArrives w s =
      beginDrain w ((List.range 64).find? fun k => !(usedSaves s (s.launch (s.wg w).launch).queue).contains k) s := by
  have drains : ¬ ((s.launch (s.wg w).launch).idemp && !inBoundSet s (s.wg w)) = true := by
    rcases bound with h | h <;> simp [h]
  rw [signalArrives, if_neg drains]
  rfl

theorem exec_drainBudgetExpiry (ended : drainOver s w = true) :
    exec (.drainBudgetExpiry w) s = .next (skipDest w (s.updWg w fun g => { g with state := .holding })) := by
  change execDrainBudgetExpiry w s = _
  rw [execDrainBudgetExpiry, if_pos ended]

theorem exec_workgroupSaved (holds : (s.wg w).state = .holding) (ready : wgReady (withdrawAll w s) w = true) :
    exec (.workgroupSaved w) s = .next (saveWg w (withdrawAll w s)) := by
  change execWorkgroupSaved w s = _
  rw [execWorkgroupSaved, if_neg (by rw [holds]; decide)]
  dsimp only
  rw [if_pos ready]

theorem exec_discardDone (ready : discardReady s w = true) : exec (.discardDone w) s = .next (discardWg w s) := by
  change execDiscardDone w s = _
  rw [execDiscardDone, if_pos ready]

theorem exec_killDone {c : Nat} (kills : s.killing = some c) (ended : killOver s c = true) :
    exec .killDone s = .next { s with killing := none, killDone := true } := by
  change execKillDone s = _
  rw [execKillDone, kills]
  dsimp only
  rw [if_pos ended]

theorem exec_contextEnd (c : Nat) (s : State) :
    ∃ u, exec (.contextEnd c) s = .next u ∧ (u.ctx c).begun = false ∧ (u.ctx c).pinuse = 0 := by
  refine ⟨_, rfl, ?_⟩
  rw [State.ctx_updCtx_same, releasePins, State.ctx_updCtx_same]
  exact ⟨rfl, rfl⟩

end

/-! ### What follows the kill of the trains -/

/-- Nothing of `Undisturbed` differs, and no copy, decompression, matrix operation or held lane. -/
structure EnginesStand (s u : State) : Prop where
  rest : Undisturbed s u
  copyOps : u.copyOps = s.copyOps
  mdecs : u.mdecs = s.mdecs
  mats : u.mats = s.mats
  blends : u.blends = s.blends

section
variable {s t u : State}

theorem EnginesStand.refl (s : State) : EnginesStand s s := ⟨.refl s, rfl, rfl, rfl, rfl⟩

theorem EnginesStand.trans (first : EnginesStand s t) (second : EnginesStand t u) : EnginesStand s u :=
  ⟨first.rest.trans second.rest, second.copyOps.trans first.copyOps, second.mdecs.trans first.mdecs,
    second.mats.trans first.mats, second.blends.trans first.blends⟩

theorem enginesStand_foldl {α : Type} {f : State → α → State} (each : ∀ s x, EnginesStand s (f s x)) (l : List α) (s : State) :
    EnginesStand s (l.foldl f s) := by
  induction l generalizing s with
  | nil => exact .refl s
  | cons x l ih => exact (each s x).trans (ih (f s x))

theorem enginesStand_dropReserve (lid core : Nat) (s : State) : EnginesStand s (dropReserve lid core s) := by
  unfold dropReserve
  split
  case h_1 => exact .refl s
  case h_2 =>
    dsimp only
    split
    case isTrue => exact .refl s
    case isFalse => exact ⟨⟨rfl, rfl, rfl, rfl⟩, rfl, rfl, rfl, rfl⟩

theorem enginesStand_releaseBindings (lid : Nat) (s : State) : EnginesStand s (releaseBindings lid s) :=
  ⟨⟨rfl, rfl, rfl, rfl⟩, rfl, rfl, rfl, rfl⟩

theorem enginesStand_releasePins (c : Nat) (s : State) : EnginesStand s (releasePins c s) :=
  ⟨⟨rfl, rfl, rfl, rfl⟩, rfl, rfl, rfl, rfl⟩

/-- No copy, decompression, matrix operation or held lane of a context stands (R399). -/
def NoEngines (c : Nat) (s : State) : Prop :=
  ∀ n, (∀ x, Tab.find s.copyOps n = some x → x.ctx ≠ c) ∧ (∀ x, Tab.find s.mdecs n = some x → x.ctx ≠ c) ∧
    (∀ x, Tab.find s.mats n = some x → x.ctx ≠ c) ∧ (∀ x, Tab.find s.blends n = some x → x.ctx ≠ c)

theorem NoEngines.stand {c : Nat} (idle : NoEngines c s) (stand : EnginesStand s u) : NoEngines c u := by
  unfold NoEngines
  rw [stand.copyOps, stand.mdecs, stand.mats, stand.blends]
  exact idle

theorem noEngines_stopEngines (c : Nat) (s : State) : NoEngines c (stopEngines c s) := fun _ =>
  ⟨fun _ => ctx_ne_of_find_dropCtx, fun _ => ctx_ne_of_find_dropCtx, fun _ => ctx_ne_of_find_dropCtx,
    fun _ => ctx_ne_of_find_dropCtx⟩

theorem undisturbed_stopEngines (c : Nat) (s : State) : Undisturbed s (stopEngines c s) := by
  have unpinned (s : State) (x : Nat × MatOp) : Undisturbed s (unpinLines x.2 s) := ⟨rfl, rfl, rfl, rfl⟩
  obtain ⟨mem, qtable, packets, trains⟩ := undisturbed_foldl unpinned (s.mats.filter fun x => x.2.ctx == c) s
  exact ⟨mem, qtable, packets, trains⟩

/-- The saved trains and workgroups of a context go. -/
def forgetSaved (c : Nat) (s : State) : State :=
  { s with trains := s.trains.filter fun x => !(x.2.state == .saved && x.2.ctx == c),
           wgs := s.wgs.filter fun (_, g) => !(g.state == .saved && (s.launch g.launch).ctx == c) }

theorem enginesStand_dropSaved (c : Nat) (s : State) : EnginesStand (forgetSaved c s) (dropSaved c s) :=
  enginesStand_foldl (fun _ _ => enginesStand_dropReserve ..) _ _

theorem noEngines_forgetSaved {c : Nat} (idle : NoEngines c s) : NoEngines c (forgetSaved c s) := idle

theorem find_train_of_doomed {k : Nat} (doomed : Doomed (s.train k)) : Tab.find s.trains k = some (s.train k) := by
  unfold State.train Tab.get at doomed ⊢
  cases found : Tab.find s.trains k with
  | some t => rfl
  | none =>
    rw [found] at doomed
    rcases doomed with ending | ⟨marked, -⟩
    · cases ending
    · cases marked

/-- A doomed train is in a slot, and none of the saved that go. -/
theorem doomed_forgetSaved {c k : Nat} (doomed : Doomed (s.train k)) : Doomed ((forgetSaved c s).train k) := by
  have kept : (!((s.train k).state == .saved && (s.train k).ctx == c)) = true := by
    simp [doomed.in_slot]
  have found : Tab.find (forgetSaved c s).trains k = some (s.train k) :=
    find_filter_of_find (find_train_of_doomed doomed) kept
  rw [State.train, Tab.get, found]
  exact doomed

/-! ### The kill of a context (R399) -/

/-- A stopped queue stays so while no byte of its descriptor and no packet changes. -/
theorem Stopped.kept {k : Nat} (stopped : Stopped k s) (mem : u.mem = s.mem) (qtable : u.qtable = s.qtable)
    (packets : u.packets = s.packets) : Stopped k u := by
  have fields (off n : Nat) : qGet u k off n = qGet s k off n := by
    rw [qGet, qAddr, mem, qtable]
    rfl
  exact ⟨(fields 64 1).trans stopped.state, (fields 48 8).trans stopped.head, (fields 56 8).trans stopped.tail,
    packets ▸ stopped.packets⟩

variable {c : Nat}

/-- The launches of a killed context are dead. -/
def killLaunches (ls : List Nat) (s : State) : State :=
  ls.foldl (fun s lid => (abandonLaunch lid s).updLaunch lid fun l => { l with dead := true }) s

theorem undisturbed_killLaunches (ls : List Nat) (s : State) : Undisturbed s (killLaunches ls s) := by
  refine undisturbed_foldl (fun s lid => ?_) ls s
  exact ⟨rfl, rfl, rfl, rfl⟩

/-- The trains of a context that stand in slots. -/
def slotTrains (c : Nat) (s : State) : List Nat :=
  (s.trains.filter fun (_, t) => t.ctx == c && t.state != .free && t.state != .saved).map (·.1)

theorem mem_slotTrains {k : Nat} {t : Train} (found : Tab.find s.trains k = some t) (own : t.ctx = c) (used : t.state ≠ .free)
    (in_slot : t.state ≠ .saved) : k ∈ slotTrains c s :=
  List.mem_map.mpr ⟨(k, t), List.mem_filter.mpr ⟨mem_of_find found, by simp [own, used, in_slot]⟩, rfl⟩

/-- The trains of a context are killed. -/
def killTrains (c : Nat) (s : State) : State := (slotTrains c s).foldl (fun s k => requestKill k s) s

/-- What ends with the trains of a context: its engines' operations, its saved trains, its pins and the bindings of its launches. -/
def killRest (c : Nat) (ls : List Nat) (s : State) : State :=
  ls.foldl (fun s lid => releaseBindings lid s) (releasePins c (dropSaved c (stopEngines c s)))

/-- The kill is the newest one of all. -/
def noteKill (c : Nat) (s : State) : State :=
  { s with killing := some c, killDone := false, killed := if s.killed.contains c then s.killed else s.killed ++ [c] }

theorem killContext_eq (c : Nat) (s : State) :
    killContext c s = noteKill c (killRest c (launchesOf (stopQueues c (retireFirst c s)) c)
      (killTrains c (killLaunches (launchesOf (stopQueues c (retireFirst c s)) c) (stopQueues c (retireFirst c s))))) := by
  unfold killTrains slotTrains
  rw [List.foldl_map]
  rfl

theorem killed_noteKill : (noteKill c s).killed.contains c = true := by
  dsimp only [noteKill]
  split
  case isTrue already => exact already
  case isFalse => simp

theorem enginesStand_killRest (c : Nat) (ls : List Nat) (s : State) :
    EnginesStand (forgetSaved c (stopEngines c s)) (noteKill c (killRest c ls s)) := by
  have notes : EnginesStand (killRest c ls s) (noteKill c (killRest c ls s)) := ⟨⟨rfl, rfl, rfl, rfl⟩, rfl, rfl, rfl, rfl⟩
  exact (enginesStand_dropSaved ..).trans ((enginesStand_releasePins ..).trans
    ((enginesStand_foldl (fun _ _ => enginesStand_releaseBindings ..) ls _).trans notes))

theorem ctxs_foldl_releaseBindings (ls : List Nat) (s : State) :
    (ls.foldl (fun s lid => releaseBindings lid s) s).ctxs = s.ctxs := by
  induction ls generalizing s with
  | nil => rfl
  | cons lid ls ih => exact ih (releaseBindings lid s)

theorem pinuse_killRest (c : Nat) (ls : List Nat) (s : State) : ((noteKill c (killRest c ls s)).ctx c).pinuse = 0 := by
  have released : ((releasePins c (dropSaved c (stopEngines c s))).ctx c).pinuse = 0 := by
    rw [releasePins, State.ctx_updCtx_same]
  have ctxs : (noteKill c (killRest c ls s)).ctxs = (releasePins c (dropSaved c (stopEngines c s))).ctxs :=
    ctxs_foldl_releaseBindings ..
  rw [State.ctx, ctxs]
  exact released

theorem noEngines_killContext (c : Nat) (s : State) : NoEngines c (killContext c s) := by
  rw [killContext_eq]
  exact (noEngines_forgetSaved (noEngines_stopEngines c _)).stand (enginesStand_killRest ..)

theorem pinuse_killContext (c : Nat) (s : State) : ((killContext c s).ctx c).pinuse = 0 := by
  rw [killContext_eq]
  exact pinuse_killRest ..

/-- From the stop of the queues on, a kill keeps the queues and dooms the context's trains. -/
theorem killRest_killTrains (c : Nat) (ls : List Nat) (s : State) :
    let u := noteKill c (killRest c ls (killTrains c s))
    (u.mem = s.mem ∧ u.qtable = s.qtable ∧ u.packets = s.packets) ∧
      ∀ k ∈ slotTrains c s, (s.train k).state ≠ .saved → Doomed (u.train k) := by
  obtain ⟨⟨mem, qtable, packets⟩, dooms⟩ := requestKills_doom (slotTrains c s) s
  have engines := undisturbed_stopEngines c (killTrains c s)
  have rest := (enginesStand_killRest c ls (killTrains c s)).rest
  refine ⟨⟨rest.mem.trans (engines.mem.trans mem), rest.qtable.trans (engines.qtable.trans qtable),
    rest.packets.trans (engines.packets.trans packets)⟩, fun k listed in_slot => ?_⟩
  rw [rest.train k]
  refine doomed_forgetSaved ?_
  rw [engines.train k]
  exact dooms k (.inl ⟨listed, in_slot⟩)

theorem doomed_killContext {k : Nat} {t : Train} (found : Tab.find s.trains k = some t) (own : t.ctx = c)
    (used : t.state ≠ .free) (in_slot : t.state ≠ .saved) : Doomed ((killContext c s).train k) := by
  rw [killContext_eq]
  generalize launchesOf (stopQueues c (retireFirst c s)) c = ls
  have trains : (killLaunches ls (stopQueues c (retireFirst c s))).trains = s.trains :=
    (undisturbed_killLaunches ..).trains.trans ((trains_stopQueues ..).trans (trains_retireFirst ..))
  generalize killLaunches ls (stopQueues c (retireFirst c s)) = v at trains
  rw [← trains] at found
  refine (killRest_killTrains c ls v).2 k (mem_slotTrains found own used in_slot) ?_
  rw [State.train, Tab.get, found]
  exact in_slot

/-- The queues of a killed context stop, where none of its packets completes first. -/
theorem stopped_killContext {k : Nat} (canonical : memoryCanonical s)
    (none_done : ∀ x ∈ s.packets, x.2.ctx = c → packetDone s x.1 x.2 = false) (queue : k < 32) (own : qCtx s k = c) :
    Stopped k (killContext c s) := by
  have stops : Stopped k (stopQueues c s) := stopped_stopQueues canonical queue own
  rw [killContext_eq, retireFirst_none none_done]
  generalize launchesOf (stopQueues c s) c = ls
  have dead := undisturbed_killLaunches ls (stopQueues c s)
  obtain ⟨mem, qtable, packets⟩ := (killRest_killTrains c ls (killLaunches ls (stopQueues c s))).1
  exact (stops.kept dead.mem dead.qtable dead.packets).kept mem qtable packets

theorem exec_killContext (c : Nat) (s : State) :
    ∃ u, exec (.killContext c) s = .next u ∧ u.killing = some c ∧ u.killDone = false ∧ u.killed.contains c = true ∧
      (u.ctx c).pinuse = 0 ∧ NoEngines c u ∧
      (∀ tid t, Tab.find s.trains tid = some t → t.ctx = c → t.state ≠ .free → t.state ≠ .saved →
        (u.train tid).state = .ending ∨ (u.train tid).killAtEnd = true) ∧
      (memoryCanonical s → (∀ x ∈ s.packets, x.2.ctx = c → packetDone s x.1 x.2 = false) → ∀ k, k < 32 → qCtx s k = c →
        qState u k = 2 ∧ qGet u k 48 8 = 0 ∧ qGet u k 56 8 = 0 ∧ ∀ n p, Tab.find u.packets n = some p → p.queue ≠ k) := by
  refine ⟨killContext c s, rfl, rfl, rfl, killed_noteKill, pinuse_killContext c s, noEngines_killContext c s, ?trains, ?queues⟩
  case trains =>
    intro tid t found own used in_slot
    exact (doomed_killContext found own used in_slot).imp id And.left
  case queues =>
    intro canonical none_done k queue own
    obtain ⟨state, head, tail, packets⟩ := stopped_killContext canonical none_done queue own
    exact ⟨state, head, tail, fun n p found => packets (n, p) (mem_of_find found)⟩

end

/-- Settles O51: each event by the equation of its effect; for a kill, the queues stop before all else, the trains are doomed by
their kills and kept by what follows, and the engines of the context hold nothing from their stop on. -/
theorem preemptionEventsComplete : Obligations.PreemptionEventsComplete := by
  intro s q w
  dsimp only
  refine ⟨fun u => exec_workgroupPlacement, fun v => exec_automaticPreemption, ?applies, ?held, ?resumes, ?discards, ?drains,
    exec_drainBudgetExpiry, exec_workgroupSaved, exec_discardDone, exec_killContext q s, fun c => exec_killDone,
    exec_contextEnd q s⟩
  case applies =>
    intro queue running
    rw [exec_preemptQueue queue, requestPreempt_running running]
  case held =>
    intro queue halted fresh
    rw [exec_preemptQueue queue, requestPreempt_halted halted fresh]
  case resumes =>
    intro queue free quiet
    rw [exec_resumeQueue queue free quiet, endPreemption_eq]
  case discards =>
    intro due idemp unbound
    rw [exec_preemptionSignalArrival due, signalArrives_discards idemp unbound]
  case drains =>
    intro due bound
    rw [exec_preemptionSignalArrival due, signalArrives_drains bound]
    refine ⟨fun k free => by rw [free]; rfl, fun all_used => ?_⟩
    have no_slot : ((List.range 64).find? fun k => !(usedSaves s (s.launch (s.wg w).launch).queue).contains k) = none := by
      refine List.find?_eq_none.mpr fun k mem => ?_
      simp [all_used k (List.mem_range.mp mem)]
    rw [no_slot]
    rfl

end Sys2Proof.Proofs
